-- ==== Sys2Proof/Word.lean ====
section
/-! DEFINITION. The words of the W48: a byte of scratchpad, a register of the control core (R40), a 64-bit
counter or system address (R34, R275). -/

namespace Sys2Proof

/-- A byte. -/
abbrev Byte := BitVec 8

/-- A 32-bit word: a register of the control core, a CSR. -/
abbrev Word := BitVec 32

/-- A 64-bit word: TB, STEP_CNT, a system address, a schedule entry. -/
abbrev DWord := BitVec 64

end Sys2Proof
end

