-- ==== Sys2Proof/Syntax.lean ====
section
/-! DEFINITION. The commands of the W48: one constructor per row of spec/opcode_table.json, with the operands
that say which tile, region, port, slot or object the step concerns and what comes from outside (log 1). -/

namespace Sys2Proof

/-- The two networks of the packet mesh (R220). -/
inductive MeshNet
  | data
  | control
  deriving DecidableEq, Repr

/-- What the check of a protected line or flit finds (R67, R234): no error, a corrected one, or one past
correction. -/
inductive EccOutcome
  | clean
  | corrected
  | uncorrectable
  deriving DecidableEq, Repr

/-- What the checks of the scratchpad lines a requester reads find (R67): the lines with a corrected error, and a line past
correction, if one is. -/
structure LineErrors where
  corrected : List Nat := []
  bad : Option Nat := none
  deriving DecidableEq, Repr

/-- Who puts a packet into the mesh or merges in a combine buffer: a tile or a port bridge (R222, R240, R362). -/
inductive InjectSource
  | tile (t : Nat)
  | port (p : Nat)
  deriving DecidableEq, Repr

/-- The reduction part of a KIND 0x7 packet (R237, R238). A lane is absent while only NaN values entered it. -/
structure Reduction where
  rop : Nat
  cid : Nat
  contrib : Nat
  n : Nat
  win : Nat
  dest : Nat
  flags : Nat
  lanes : List (Option (BitVec 128))
  deriving DecidableEq, Repr

/-- What a broadcast of the binding table and the fault map carries (R222): its number, the region bound to each slot, and the regions whose
fault-map bit is 0. -/
structure MeshTables where
  no : Nat
  bound : List (Nat × Nat)
  clear : List Nat
  deriving DecidableEq, Repr

/-- A packet of the mesh: the routing header of R223 and its payload (R255; a reduction's apart). `bridge`: a port bridge
injected it (R236). -/
structure Packet where
  net : MeshNet
  vc : Nat
  kind : Nat
  pri : Nat
  flits : Nat
  dstDev : Nat
  dstU : Nat
  dstV : Nat
  exit : Bool
  dstLtile : Nat
  srcLtile : Nat
  srcDev : Nat
  bseq : Nat
  payload : List Byte
  red : Option Reduction
  bridge : Bool := false
  /-- tells apart packets of one content that are in the mesh together; the model's own, given at injection -/
  uid : Nat := 0
  /-- the blocks of a port's receive buffer that it still holds: port, VC, blocks; 12 R347 -/
  held : Option (Nat × Nat × Nat) := none
  /-- the tables that a broadcast carries; R222 -/
  tables : Option MeshTables := none
  deriving DecidableEq, Repr

/-- The stream header of a Chadon Stream frame and its data (R365). -/
structure CsFrame where
  op : Nat
  status : Nat
  tag : Nat
  len : Nat
  boxOff : Nat
  ctx : Nat
  last : Bool
  data : List Byte
  deriving DecidableEq, Repr

/-- What the packet field of a link frame holds (R344, R365). -/
inductive FrameBody
  | packet (k : Packet)
  | stream (c : CsFrame)
  deriving DecidableEq, Repr

/-- A link frame of R344. -/
structure LinkFrame where
  seq : Nat
  vc : Nat
  nblk : Nat
  tseq : Nat
  ttl : Nat
  broadcast : Bool
  dl : Bool
  bseq : Nat
  body : FrameBody
  deriving DecidableEq, Repr

/-- What the TRAIN exchange reports of a port's partner (R343, R351). -/
structure Partner where
  dev : Nat
  port : Nat
  personality : Nat
  gen : Nat
  trunk : Nat
  base : Nat
  deriving DecidableEq, Repr

/-- How a dictionary request came, beside its content (R408, R412, R414, R429). CAN: FUNC, the node addressed (none: this one), an error in
the frame. Ethernet: MAGIC, the UDP port and the address it was sent to (none: those in force). Both: a reserved command code, how many
requests of its client are ahead of it unanswered. `flashFails`: module flash can be neither written nor read back now. -/
structure Envelope where
  func : Nat := 6
  dst : Option Nat := none
  damaged : Bool := false
  magic : Nat := 0x4F44
  udpPort : Option Nat := none
  address : Option Nat := none
  reserved : Option Nat := none
  ahead : Nat := 0
  flashFails : Bool := false
  deriving DecidableEq, Repr

/-- A write of module flash that a loss of power cuts short (R428, R429, R447): none, a record of the configuration store without its
COMMIT, a compaction after some of its records, a training record. -/
inductive Torn
  | none
  | record (index sub : Nat) (value : List (BitVec 8))
  | compaction (recs : Nat)
  | training
  deriving DecidableEq, Repr

/-- A dictionary request's envelope: source number of R282 (0 to 4), the client at that source, the
transaction ID (R413, R414). -/
structure Req where
  src : Nat
  client : Nat
  tid : Nat
  env : Envelope := {}
  deriving DecidableEq, Repr

/-- The sender of a GRP frame (R385): address, UDP port, and the port and interface it came in by. -/
structure Client where
  ip : Nat
  udpPort : Nat
  port : Nat
  iface : Nat
  deriving DecidableEq, Repr

/-- The straps sampled at an entry to AUX, and whether the source that CLKSEL names is there (R190, R191, R435). -/
structure Straps where
  clksel : Bool
  nodeId : Nat
  sourcePresent : Bool
  deriving DecidableEq, Repr

/-- An IEEE 1588 message at a management Ethernet port (R279): its transport is UDP or not, its domain, its messageType (0 Sync,
8 Follow_Up, 9 Delay_Resp), the two-step flag, its sequence, its timestamp in ticks since the PTP epoch and its correction. -/
structure PtpMsg where
  udp : Bool
  domain : Nat
  kind : Nat
  twoStep : Bool
  seq : Nat
  time : Nat
  correction : Int
  deriving DecidableEq, Repr

/-- A frame as the MAC of an Ethernet interface sees it (R371, R372): its bytes, the check of its FCS, its VLAN ID, 0 untagged. -/
structure EthHead where
  size : Nat
  fcsGood : Bool
  vlan : Nat
  deriving DecidableEq, Repr

/-- A UDP datagram at an Ethernet interface (R372, R373). -/
structure Datagram where
  v6 : Bool
  srcIp : Nat
  srcPort : Nat
  dstIp : Nat
  dstPort : Nat
  checksumZero : Bool
  checksumGood : Bool
  optionsOrFragment : Bool
  payload : List Byte
  deriving DecidableEq, Repr

/-- What one logits tile hands to the steward for a token (R397): its candidates (token ID, binary32 logit),
its maximum, its sum z, and the token its SCAN returns. -/
structure TileSample where
  cands : List (Nat × Nat)
  maxLogit : Nat
  z : Nat
  scan : Nat
  deriving DecidableEq, Repr

/-- Where a token comes from (R397, R399, R400): the logits tiles of this device, or a message of the last stage, with whether every stage has
resumed. -/
inductive TokenSource
  | tiles (l : List TileSample)
  | lastStage (token : Nat) (resumed : Bool)
  deriving DecidableEq, Repr

/-- What stage 0 reads of a peer over control space before it accepts serve (R400). -/
structure PeerReport where
  slotState : Nat
  bundleId : Nat
  tbLocked : Bool
  snapInterval : Nat
  snapDest : Nat
  deriving DecidableEq, Repr

/-- A window of a tile: task slot, base and length in bytes (R307, R322). -/
structure Window where
  slot : Nat
  base : Nat
  len : Nat
  deriving DecidableEq, Repr

/-- A tile program of the PROGRAMS segment (R381). -/
structure TileProg where
  ltile : Nat
  tasks : List Window
  startPcs : List (Nat × Nat)
  rings : List Window
  kv : Option Window
  stash : Option Window
  staging : Option Window
  context : Option Window
  images : List (Nat × List Byte)
  deriving DecidableEq, Repr

/-- A plane image of the PLANES segment (R381, R165). -/
structure PlaneSeg where
  ltile : Nat
  section_ : Nat
  image : List Byte
  /-- where in the tile's scratchpad the image stands, if it stands there (R189) -/
  dest : Option Nat := none
  deriving DecidableEq, Repr

/-- A weight extent of the EXTENTS segment (R381, R307). -/
structure Extent where
  ltile : Nat
  slot : Nat
  imgOff : Nat
  len : Nat
  dest : Nat
  crc : Nat
  deriving DecidableEq, Repr

/-- A lattice link out of a logical tile: network (0 scalar, 1 vector, 2 control) and output port code (R159, R183). -/
structure LinkUse where
  srcTile : Nat
  net : Nat
  outPort : Nat
  deriving DecidableEq, Repr

/-- An edge of the dependence graph (R183): in a section, an entry of a tile's plane waits on one of another; the steps apart
from the links named, which lead from region to region and whose latency depends on the binding. -/
structure GraphEdge where
  sect : Nat
  srcTile : Nat
  srcEntry : Nat
  dstTile : Nat
  dstEntry : Nat
  steps : Nat
  via : List LinkUse
  deriving DecidableEq, Repr

/-- One instance of the RUNTIME segment (R381). -/
structure InstSeg where
  entry : Nat
  logits : List Nat
  /-- stages by logical tile (R381) -/
  stageMap : List (Nat × Nat) := []
  /-- device IDs of the other stages, in stage order (R381; the order is the model's, log 42) -/
  peers : List Nat
  deriving DecidableEq, Repr

/-- The kind-9 segment (R456): bytes 0x00 to 0x3F, the keys at 0x40 to 0x1FF, the signatures. -/
structure BundleSig where
  header : List Byte
  keys : List Byte
  rsaSig : List Byte
  slhSig : List Byte
  deriving DecidableEq, Repr

/-- A bundle image as read from its source: header and directory as bytes (R380), the segments whose layout
the manual does not give as structured data, beside the bytes of the segments of kinds 1 to 8 (log 14). -/
structure Bundle where
  header : List Byte
  directory : List Byte
  slots : List Nat
  graph : List GraphEdge
  planes : List PlaneSeg
  programs : List TileProg
  extents : List Extent
  weights : List Byte
  report : List Byte
  runtime : List InstSeg
  signature : Option BundleSig
  /-- the bytes of its segments of kinds 1 to 8, in kind order (R381, R456) -/
  segments : List (List Byte)
  deriving DecidableEq, Repr

/-- One crossing's calibration result (R207): the region it leads into, the producing region (0xFFFF for the rim
or a bridge), side, position and network of R422, the largest delay d, and whether its writes arrived in
order and whole. -/
structure CrossingCal where
  region : Nat
  src : Nat
  side : Nat
  pos : Nat
  net : Nat
  delay : Nat
  clean : Bool
  deriving DecidableEq, Repr

/-- The commands: one constructor per row of spec/opcode_table.json, in its order. A tile is named by its physical
tile number (R16), a region by its physical region number (R15). -/
inductive Instr
  /-- AUX_SUPPLY_IN_RANGE, R468. -/
  | auxSupplyInRange (straps : Straps) (vin : Nat)
  /-- AUX_SUPPLY_LOST, R468. -/
  | auxSupplyLost (vin : Nat) (torn : Torn)
  /-- VIN_54_OUT_OF_RANGE, R468. -/
  | vin54OutOfRange (vin : Nat) (straps : Straps)
  /-- VIN_54_BACK_IN_RANGE, R468. -/
  | vin54BackInRange (vin : Nat)
  /-- RST_N_FALL, R436. -/
  | rstNFall
  /-- RST_N_RELEASE, R436. -/
  | rstNRelease
  /-- RESET_STAGES_OFF_EXPIRY, R436. -/
  | resetStagesOffExpiry
  /-- EYEPIECE_PAIR_LOST, R312. -/
  | eyepiecePairLost (pair : Nat)
  /-- DECISION_CYCLE, R6. -/
  | decisionCycle
  /-- CRYSTAL_QUAL_WINDOW_END, R191. -/
  | crystalQualWindowEnd (count : Nat)
  /-- CRYSTAL_NOT_STABLE, R191. -/
  | crystalNotStable
  /-- REFCLK_QUALIFIED, R191. -/
  | refclkQualified
  /-- PLL_LOCKED, R192. -/
  | pllLocked
  /-- REFERENCE_LOST, R212. -/
  | referenceLost (monitor : Nat)
  /-- SAFE_HOLD_ENTRY, R212. -/
  | safeHoldEntry
  /-- REFERENCE_RETURNED, R212. -/
  | referenceReturned
  /-- SAFE_HOLD_UNGATE, R212. -/
  | safeHoldUngate (result : List CrossingCal)
  /-- SAFE_HOLD_RETURN, R212. -/
  | safeHoldReturn
  /-- SAFE_HOLD_TIMEOUT, R215. -/
  | safeHoldTimeout
  /-- GENERATOR_SWITCHOVER, R198. -/
  | generatorSwitchover (p : Nat)
  /-- CLOCK_GENERATOR_FAIL, R198. -/
  | clockGeneratorFail (p : Nat)
  /-- DROOP_STRETCH, R199. -/
  | droopStretch (p e : Nat)
  /-- CROSSING_TOKEN_RELEASE, R203. -/
  | crossingTokenRelease (t inp : Nat)
  /-- TEMPERATURE_SAMPLE, R200. -/
  | temperatureSample (p : Nat) (temp : Int)
  /-- FETCH_INSTRUCTION, R43. -/
  | fetchInstruction (t : Nat) (err : EccOutcome)
  /-- CORE_LOAD, R48. -/
  | coreLoad (t : Nat) (err : EccOutcome)
  /-- CORE_STORE, R48. -/
  | coreStore (t : Nat) (err : EccOutcome)
  /-- CORE_COMPUTE, R40. -/
  | coreCompute (t : Nat)
  /-- FENCE, R43. -/
  | fence (t : Nat)
  /-- FENCE_I, R43. -/
  | fenceI (t : Nat)
  /-- WFI, R41. -/
  | wfi (t : Nat)
  /-- ECALL, R51. -/
  | ecall (t : Nat)
  /-- EBREAK, R76. -/
  | ebreak (t : Nat)
  /-- MRET, R50. -/
  | mret (t : Nat)
  /-- CSR_INSTRUCTION, R57. -/
  | csrInstruction (t : Nat)
  /-- CSR_READ_LOW_LATCH, R58. -/
  | csrReadLowLatch (t : Nat)
  /-- TASK_WINDOW_WRITE, R49. -/
  | taskWindowWrite (t : Nat)
  /-- TASK_CTL_RST, R52. -/
  | taskCtlRst (t : Nat)
  /-- RING_OPEN, R59. -/
  | ringOpen (t : Nat)
  /-- RING_CLOSE, R263. -/
  | ringClose (t : Nat)
  /-- RING_HEAD_WRITE, R261. -/
  | ringHeadWrite (t : Nat)
  /-- RING_EPOCH_WRITE, R263. -/
  | ringEpochWrite (t : Nat)
  /-- BEAM_MASK_WRITE, R269. -/
  | beamMaskWrite (t : Nat)
  /-- DIRTY_VAL_CLEAR, R69. -/
  | dirtyValClear (t : Nat)
  /-- FFLAGS_X_CLEAR, R103. -/
  | fflagsXClear (t : Nat)
  /-- FAULT_CAUSE_CLEAR, R50. -/
  | faultCauseClear (t : Nat)
  /-- MSG_SEND, R54. -/
  | msgSend (t : Nat) (errs : LineErrors)
  /-- MSG_SENDI, R55. -/
  | msgSendi (t : Nat) (errs : LineErrors)
  /-- MSG_AVAIL, R54. -/
  | msgAvail (t : Nat)
  /-- MSG_FENCE, R54. -/
  | msgFence (t : Nat)
  /-- BM_ARRIVE, R266. -/
  | bmArrive (t : Nat)
  /-- BM_TEST, R54. -/
  | bmTest (t : Nat)
  /-- BM_WAIT, R54. -/
  | bmWait (t : Nat)
  /-- SL_WAIT, R72. -/
  | slWait (t : Nat)
  /-- MX_RUN, R54. -/
  | mxRun (t : Nat) (errs : LineErrors)
  /-- MX_RUNI, R55. -/
  | mxRuni (t : Nat) (errs : LineErrors)
  /-- MX_FENCE, R54. -/
  | mxFence (t : Nat)
  /-- MX_COUNT, R54. -/
  | mxCount (t : Nat)
  /-- PZ_RUN, R54. -/
  | pzRun (t : Nat) (errs : LineErrors)
  /-- PZ_RUNI, R55. -/
  | pzRuni (t : Nat) (errs : LineErrors)
  /-- PZ_FENCE, R54. -/
  | pzFence (t : Nat)
  /-- PZ_COUNT, R54. -/
  | pzCount (t : Nat)
  /-- TK_START, R54. -/
  | tkStart (t : Nat)
  /-- TK_EXIT, R54. -/
  | tkExit (t : Nat)
  /-- TK_YIELD, R54. -/
  | tkYield (t : Nat)
  /-- TK_RESET, R52. -/
  | tkReset (t : Nat)
  /-- TK_WDOG, R75. -/
  | tkWdog (t : Nat)
  /-- TB_SNAP, R54. -/
  | tbSnap (t : Nat) (errs : LineErrors)
  /-- TB_WAKE, R54. -/
  | tbWake (t : Nat)
  /-- TB_CANCEL, R54. -/
  | tbCancel (t : Nat)
  /-- TB_NOTIFY, R294. -/
  | tbNotify (t : Nat)
  /-- TB_NOTIFYI, R55. -/
  | tbNotifyi (t : Nat)
  /-- LT_SWITCH, R180. -/
  | ltSwitch (t : Nat)
  /-- LT_LDCFG, R167. -/
  | ltLdcfg (t : Nat) (planeUe : Bool) (errs : LineErrors)
  /-- WAKE_TIMER_FIRE, R72. -/
  | wakeTimerFire (t : Nat)
  /-- WATCHDOG_EXPIRY, R75. -/
  | watchdogExpiry (t : Nat)
  /-- PATROL_READ, R67. -/
  | patrolRead (t bank : Nat) (err : EccOutcome)
  /-- MXD_CHECK, R115. -/
  | mxdCheck (t : Nat) (errs : LineErrors)
  /-- MATRIX_COMPLETION, R116. -/
  | matrixCompletion (t extra : Nat) (errs : LineErrors)
  /-- RESIDUE_MX, R128. -/
  | residueMx (t : Nat) (behind : Bool)
  /-- PZD_CHECK, R139. -/
  | pzdCheck (t : Nat) (errs : LineErrors)
  /-- PRISM_COMPLETION, R140. -/
  | prismCompletion (t extra : Nat) (errs : LineErrors)
  /-- RESIDUE_PZ, R157. -/
  | residuePz (t : Nat) (inReduction behind : Bool)
  /-- STEP, R174. -/
  | step (t denied : Nat) (planeUe : Bool) (displaced : Option Bool) (errs : LineErrors)
  /-- STALL_EVENT, R176. -/
  | stallEvent (t : Nat)
  /-- LATTICE_TOKEN_ARRIVAL, R177. -/
  | latticeTokenArrival (t inp : Nat)
  /-- ROUTED_FORWARD, R163. -/
  | routedForward (t inp : Nat)
  /-- PAIRING_QUEUE_MOVE, R179. -/
  | pairingQueueMove (t : Nat) (control : Bool)
  /-- PLANE_SWAP, R181. -/
  | planeSwap (t : Nat)
  /-- PACKET_INJECT, R222. -/
  | packetInject (source : InjectSource) (errs : LineErrors)
  /-- FLIT_GRANT, R230. -/
  | flitGrant (t : Nat) (net : MeshNet) (out : Nat)
  /-- FLIT_RECEIVE, R234. -/
  | flitReceive (t : Nat) (net : MeshNet) (inp : Nat) (err : EccOutcome)
  /-- REPLAY_REQUEST, R234. -/
  | replayRequest (t : Nat) (net : MeshNet) (out : Nat)
  /-- LINK_RETRAIN, R235. -/
  | linkRetrain (t : Nat) (net : MeshNet) (inp : Nat) (ok : Bool)
  /-- BROADCAST_FLOOD, R229. -/
  | broadcastFlood (t inp : Nat)
  /-- PACKET_EJECT, R220. -/
  | packetEject (t : Nat) (net : MeshNet)
  /-- VC2_MERGE, R240. -/
  | vc2Merge (place : InjectSource)
  /-- REDUCTION_PACKET_ARRIVAL, R242. -/
  | reductionPacketArrival (t : Nat) (errs : LineErrors)
  /-- REDUCTION_COMPLETE, R243. -/
  | reductionComplete (t : Nat) (errs : LineErrors)
  /-- SEND_QUEUE_VALIDATE, R249. -/
  | sendQueueValidate (t : Nat) (errs : LineErrors)
  /-- MSG_INJECTION, R250. -/
  | msgInjection (t : Nat) (errs : LineErrors)
  /-- MSG_ARRIVAL, R256. -/
  | msgArrival (t : Nat)
  /-- HOLD_REGISTER_RETRY, R259. -/
  | holdRegisterRetry (t : Nat)
  /-- HOLD_TIMEOUT, R259. -/
  | holdTimeout (t : Nat)
  /-- RING_TAIL_UPDATE, R261. -/
  | ringTailUpdate (t : Nat) (errs : LineErrors)
  /-- ACK_ARRIVAL, R251. -/
  | ackArrival (t : Nat) (errs : LineErrors)
  /-- READ_REPLY_ARRIVAL, R251. -/
  | readReplyArrival (t : Nat) (errs : LineErrors)
  /-- NAK_ARRIVAL, R262. -/
  | nakArrival (t : Nat) (errs : LineErrors)
  /-- SENDER_TIMEOUT, R252. -/
  | senderTimeout (t entry : Nat) (errs : LineErrors)
  /-- REMOTE_WRITE, R254. -/
  | remoteWrite (t : Nat) (errs : LineErrors)
  /-- REMOTE_READ, R254. -/
  | remoteRead (t : Nat) (errs : LineErrors)
  /-- CONTROL_SPACE_ACCESS, R38. -/
  | controlSpaceAccess
  /-- BEAM_RELEASE, R267. -/
  | beamRelease (ch : Nat)
  /-- BEAM_COPY_FAIL, R272. -/
  | beamCopyFail (segment copy : Nat)
  /-- BEAM_UP_FRAME_RX, R273. -/
  | beamUpFrameRx (p : Nat) (block : List Byte)
  /-- BEAM_RELEASE_FRAME_RX, R273. -/
  | beamReleaseFrameRx (p : Nat) (block : List Byte)
  /-- BEAM_BLOCK_REPEAT, R350. -/
  | beamBlockRepeat (p : Nat)
  /-- TB_RESYNC, R275. -/
  | tbResync (p : Nat) (skew : Int)
  /-- TB_REFERENCE_MEASURE, R276. -/
  | tbReferenceMeasure (offset : Int)
  /-- TB_HOLDOVER, R280. -/
  | tbHoldover
  /-- PPS_EDGE, R278. -/
  | ppsEdge
  /-- PTP_MESSAGE, R279. -/
  | ptpMessage (port : Nat) (msg : PtpMsg)
  /-- PPS_OUT_PULSE, R281. -/
  | ppsOutPulse
  /-- TIME_BLOCK_TX, R349. -/
  | timeBlockTx (p : Nat)
  /-- TIME_BLOCK_RX, R349. -/
  | timeBlockRx (p : Nat) (block : List Byte)
  /-- TIMED_ACTION_ARM, R286. -/
  | timedActionArm (q : Req) (slot : Nat)
  /-- TIMED_ACTION_CANCEL, R286. -/
  | timedActionCancel (q : Req) (slot : Nat)
  /-- TIMED_ACTION_DISTRIBUTE, R287. -/
  | timedActionDistribute (slot : Nat)
  /-- TIMED_RESUME, R328. -/
  | timedResume (slot : Nat)
  /-- TIMED_SNAPSHOT, R321. -/
  | timedSnapshot (slot : Nat)
  /-- TIMED_SECTION_SWITCH, R180. -/
  | timedSectionSwitch (slot : Nat)
  /-- TIMED_BEAM_RELEASE, R284. -/
  | timedBeamRelease (slot : Nat)
  /-- TIMED_PORT_ENABLE, R284. -/
  | timedPortEnable (slot : Nat)
  /-- TIMED_RESET, R436. -/
  | timedReset (slot : Nat)
  /-- SNAPSHOT_INTERVAL_TICK, R320. -/
  | snapshotIntervalTick
  /-- EVENT_FIRE, R292. -/
  | eventFire (q : Req) (n payload : Nat)
  /-- NOTIFY_RECORD_ARRIVAL, R294. -/
  | notifyRecordArrival
  /-- NOTIFY_EMIT, R294. -/
  | notifyEmit
  /-- QUIESCE_POINT, R321. -/
  | quiescePoint (t : Nat)
  /-- SNAPSHOT_ABORT, R321. -/
  | snapshotAbort
  /-- SNAPSHOT_BLOCK_COPY, R323. -/
  | snapshotBlockCopy (t block : Nat) (errs : LineErrors)
  /-- SNAPSHOT_TILE_DONE, R324. -/
  | snapshotTileDone (t : Nat)
  /-- SNAPSHOT_COMMIT, R324. -/
  | snapshotCommit (m : Nat)
  /-- STASH_APPLY, R324. -/
  | stashApply (t : Nat)
  /-- FENCE_COMPLETE, R314. -/
  | fenceComplete (p : Nat)
  /-- FIELD_FENCE, R315. -/
  | fieldFence (f : Nat)
  /-- VOLTAGE_FAULT, R313. -/
  | voltageFault (p : Nat)
  /-- THERMAL_COMPARATOR, R476. -/
  | thermalComparator (p : Nat)
  /-- STEWARD_FAILOVER, R301. -/
  | stewardFailover
  /-- STANDBY_PLACEMENT, R301. -/
  | standbyPlacement
  /-- RECOVERY_START, R328. -/
  | recoveryStart (peers : List Nat)
  /-- RECOVERY_ROLLBACK, R328. -/
  | recoveryRollback (bad : List (Nat × Nat)) (cuts : List (Nat × Nat))
  /-- RECOVERY_REBIND, R328. -/
  | recoveryRebind
  /-- RECOVERY_WEIGHT_REBUILD, R328. -/
  | recoveryWeightRebuild (sourceOk : Bool) (errs : List (Nat × LineErrors))
  /-- RECOVERY_RESTORE, R328. -/
  | recoveryRestore (errs : List (Nat × LineErrors)) (bad : List (Nat × Nat))
  /-- RECOVERY_ARM_RESUME, R328. -/
  | recoveryArmResume
  /-- MIGRATION_QUIESCE, R331. -/
  | migrationQuiesce (p : Nat)
  /-- MIGRATION_COPY, R331. -/
  | migrationCopy (p : Nat) (errs : List (Nat × LineErrors))
  /-- MIGRATION_SWITCH_OFF, R331. -/
  | migrationSwitchOff (p : Nat)
  /-- MIGRATION_REPLACE, R331. -/
  | migrationReplace (p : Nat)
  /-- MIGRATION_TIMEOUT, R331. -/
  | migrationTimeout (p : Nat)
  /-- RETRAIN_REGION, R318. -/
  | retrainRegion (q : Req) (p : Nat)
  /-- CLEAR_DEAD_MARK, R319. -/
  | clearDeadMark (q : Req) (p : Nat)
  /-- SCRATCHPAD_SCRUB, R71. -/
  | scratchpadScrub (q : Req) (p : Nat)
  /-- RIM_SEGMENT_FAIL, R26. -/
  | rimSegmentFail (ring segment : Nat)
  /-- PORT_ENABLE, R340. -/
  | portEnable (q : Req) (p : Nat)
  /-- PORT_DISABLE, R340. -/
  | portDisable (q : Req) (p : Nat)
  /-- PORT_TRAINING_DONE, R337. -/
  | portTrainingDone (p txPass rxPass : Nat)
  /-- PORT_TRAINING_RETRY, R339. -/
  | portTrainingRetry (p : Nat)
  /-- PORT_RETRAIN, R339. -/
  | portRetrain (p lane : Nat)
  /-- FRAME_TX, R345. -/
  | frameTx (p : Nat)
  /-- FRAME_RX, R346. -/
  | frameRx (p : Nat) (f : LinkFrame) (crc fixed lost : Nat)
  /-- IDLE_BLOCK_RX, R343. -/
  | idleBlockRx (p : Nat) (block : List Byte)
  /-- ALIGN_BLOCK_RX, R342. -/
  | alignBlockRx (p : Nat) (block : List Byte)
  /-- ACK_BLOCK_RX, R346. -/
  | ackBlockRx (p : Nat) (block : List Byte)
  /-- NAK_BLOCK_RX, R346. -/
  | nakBlockRx (p : Nat) (block : List Byte)
  /-- CREDIT_BLOCK_RX, R347. -/
  | creditBlockRx (p : Nat) (block : List Byte)
  /-- TRAIN_BLOCK_RX, R343. -/
  | trainBlockRx (p : Nat) (block : List Byte)
  /-- LINK_ACK_TIMER, R346. -/
  | linkAckTimer (p : Nat)
  /-- LINK_CREDIT_TIMER, R347. -/
  | linkCreditTimer (p : Nat)
  /-- TRUNK_MEMBER_DOWN, R352. -/
  | trunkMemberDown (p : Nat)
  /-- ROUTE_ENTRY_WRITE, R355. -/
  | routeEntryWrite (q : Req) (value : Nat)
  /-- ROUTE_TABLE_APPLY, R355. -/
  | routeTableApply (q : Req)
  /-- CS_RDATA, R366. -/
  | csRdata (p : Nat)
  /-- CS_WACK, R366. -/
  | csWack (p : Nat)
  /-- CS_CACK, R367. -/
  | csCack (p : Nat)
  /-- CS_INFOR, R365. -/
  | csInfor (p : Nat)
  /-- ARP_REQUEST, R372. -/
  | arpRequest (p i : Nat) (eth : EthHead) (askMac askIp targetIp : Nat)
  /-- NEIGHBOUR_SOLICITATION, R372. -/
  | neighbourSolicitation (p i : Nat) (eth : EthHead) (askMac askIp targetIp : Nat)
  /-- ICMP_ECHO_REQUEST, R372. -/
  | icmpEchoRequest (p i : Nat) (eth : EthHead) (v6 : Bool) (askMac askIp targetIp : Nat) (data : List Byte)
  /-- UDP_DATAGRAM_RX, R373. -/
  | udpDatagramRx (p i : Nat) (eth : EthHead) (g : Datagram)
  /-- ETH_FRAME_DISCARD, R372. -/
  | ethFrameDiscard (p i : Nat)
  /-- GATEWAY_RESOLVE, R372. -/
  | gatewayResolve (p i : Nat)
  /-- EGRESS_SEGMENT, R374. -/
  | egressSegment (p : Nat)
  /-- EGRESS_REASSEMBLY_TIMEOUT, R374. -/
  | egressReassemblyTimeout (p n : Nat)
  /-- GRP_REQUEST, R387. -/
  | grpRequest (c : Client) (frame : List Byte)
  /-- GRP_PROMPT_MORE, R386. -/
  | grpPromptMore (c : Client) (frame : List Byte)
  /-- GRP_CANCEL, R394. -/
  | grpCancel (c : Client) (frame : List Byte)
  /-- GRP_RESEND, R390. -/
  | grpResend (c : Client) (frame : List Byte)
  /-- GRP_PING, R390. -/
  | grpPing (c : Client) (frame : List Byte)
  /-- PROMPT_TIMEOUT, R389. -/
  | promptTimeout (stream : Nat)
  /-- STREAM_ADMIT, R392. -/
  | streamAdmit (m : Nat)
  /-- PREFILL_CHUNK_INJECT, R393. -/
  | prefillChunkInject (m inst : Nat)
  /-- DECODE_TOKEN_INJECT, R393. -/
  | decodeTokenInject (m inst : Nat)
  /-- TOKEN_SAMPLED, R397. -/
  | tokenSampled (m stream : Nat) (source : TokenSource)
  /-- SLOT_LOAD, R383. -/
  | slotLoad (q : Req) (m : Nat) (image : Option Bundle)
  /-- SLOT_LOAD_DONE, R383. -/
  | slotLoadDone (m : Nat) (readOk : Bool) (peers : List PeerReport)
  /-- SLOT_SERVE, R384. -/
  | slotServe (q : Req) (m : Nat) (peers : List PeerReport)
  /-- SLOT_STOP, R384. -/
  | slotStop (q : Req) (m : Nat)
  /-- SLOT_UNLOAD, R384. -/
  | slotUnload (q : Req) (m : Nat)
  /-- READ, R408. -/
  | read (q : Req) (index sub : Nat)
  /-- WRITE, R408. -/
  | write (q : Req) (index sub typ : Nat) (value : List Byte)
  /-- DREAD, R415. -/
  | dread (q : Req) (index sub offset len : Nat)
  /-- DOPEN, R416. -/
  | dopen (q : Req) (index sub total : Nat)
  /-- DWRITE, R416. -/
  | dwrite (q : Req) (index sub offset : Nat) (data : List Byte)
  /-- DCOMMIT, R416. -/
  | dcommit (q : Req) (index sub crc : Nat)
  /-- DABORT, R416. -/
  | dabort (q : Req) (index sub : Nat)
  /-- SESSION_TIMEOUT, R416. -/
  | sessionTimeout (index sub : Nat)
  /-- READ_COPY_EXPIRY, R415. -/
  | readCopyExpiry (src client index sub : Nat)
  /-- HEARTBEAT, R434. -/
  | heartbeat
  /-- HEARTBEAT_PERIOD_WRITE, R434. -/
  | heartbeatPeriodWrite (q : Req) (value : Nat)
  /-- DICT_WARM_RESTART, R436. -/
  | dictWarmRestart (q : Req)
  /-- DICT_FULL_TRAINING_RESET, R436. -/
  | dictFullTrainingReset (q : Req)
  /-- ALERT_SUMMARY_CLEAR, R420. -/
  | alertSummaryClear (q : Req) (mask : Nat)
  /-- RESTORE_DEFAULTS, R430. -/
  | restoreDefaults (q : Req)
  /-- STORE_COMPACTION, R429. -/
  | storeCompaction
  /-- LOG_FLUSH, R431. -/
  | logFlush
  /-- LOG_ERASE, R431. -/
  | logErase (q : Req)
  /-- LOUPE_CLEAR_ALL, R298. -/
  | loupeClearAll (q : Req)
  /-- LOUPE_CLEAR_REGION, R298. -/
  | loupeClearRegion (q : Req)
  /-- PPS_VALUE_WRITE, R278. -/
  | ppsValueWrite (q : Req) (value : Nat)
  /-- BREAKER_PERMIT, R470. -/
  | breakerPermit (q : Req)
  /-- BRINGUP_START, R438. -/
  | bringupStart (bootsel : Nat) (readFails : List (Nat × Nat))
  /-- FIELD_GROUP_POWER, R474. -/
  | fieldGroupPower (f : Nat)
  /-- GROUP_CALIBRATE, R438. -/
  | groupCalibrate (f : Nat) (result : List CrossingCal)
  /-- MONITOR_BROADCAST, R445. -/
  | monitorBroadcast (march : List (Nat × Nat × Nat × Nat)) (lost : List (Nat × Nat × Nat))
  /-- REGION_TRAINING, R448. -/
  | regionTraining (p : Nat) (full : Bool) (defective : List Nat) (spares : List (Nat × Nat × Nat)) (passed : Bool)
  /-- KNOWN_ANSWER_RUN, R449. -/
  | knownAnswerRun (results : List (Nat × Nat)) (again : List (Nat × Nat))
  /-- STEWARD_START, R300. -/
  | stewardStart
  /-- READY_CRITERIA, R451. -/
  | readyCriteria (images : List (Nat × Bundle))
  /-- UPDATE_BEGIN, R459. -/
  | updateBegin (q : Req)
  /-- UPDATE_ERASE_DONE, R459. -/
  | updateEraseDone
  /-- IMAGE_CHUNK_WRITE, R459. -/
  | imageChunkWrite (q : Req) (chunk : List Byte)
  /-- UPDATE_FETCH, R459. -/
  | updateFetch (q : Req)
  /-- UPDATE_VERIFY, R459. -/
  | updateVerify (q : Req)
  /-- UPDATE_ACTIVATE, R459. -/
  | updateActivate (q : Req)
  /-- UPDATE_COMMIT, R453. -/
  | updateCommit (q : Req)
  /-- UPDATE_CANCEL, R459. -/
  | updateCancel (q : Req)
  /-- REVOKE_IMAGE_KEY, R453. -/
  | revokeImageKey (q : Req) (k : Nat)
  /-- ATTESTATION_NONCE, R454. -/
  | attestationNonce (q : Req) (nonce : List Byte)
  /-- ATTESTATION_READY, R454. -/
  | attestationReady
  /-- DEBUG_TOKEN, R455. -/
  | debugToken (q : Req) (token : List Byte)
  /-- DEBUG_UNLOCK_END, R455. -/
  | debugUnlockEnd (q : Req)
  /-- PROGRAM_BUNDLE_KEY, R457. -/
  | programBundleKey (q : Req) (k : Nat) (hash : List Byte)
  /-- REVOKE_BUNDLE_KEY, R457. -/
  | revokeBundleKey (q : Req) (k : Nat)
  /-- BUNDLE_FLASH_COPY, R458. -/
  | bundleFlashCopy (q : Req) (f offset : Nat)
  /-- BUNDLE_FLASH_COPY_DONE, R458. -/
  | bundleFlashCopyDone (f : Nat) (window : List (Nat × Bundle))
  /-- BREAKER_TRIP, R470. -/
  | breakerTrip (byVoltage : Bool) (current : Nat) (straps : Straps)
  /-- CONVERTER_LOST, R469. -/
  | converterLost (n : Nat)
  /-- PHASE_LOST, R472. -/
  | phaseLost (p phase : Nat)
  /-- POWER_FUSE_TRIP, R473. -/
  | powerFuseTrip (p : Nat)
  /-- POWER_AVERAGE_REFRESH, R466. -/
  | powerAverageRefresh (vin iin power rimPower : Nat)
  /-- COOLANT_SAMPLE, R477. -/
  | coolantSample (inlet outA outB : Int) (flowA flowB : Nat)
  /-- CAN_BUS_OFF, R433. -/
  | canBusOff (iface : Nat)
  /-- PARTNER_SIGNAL_DETECTED, R339. -/
  | partnerSignalDetected (p : Nat)
  /-- UPDATE_VERIFY_DONE, R459. -/
  | updateVerifyDone (readFails : List Nat)
  /-- REGION_RETRAIN_DONE, R318. -/
  | regionRetrainDone (p : Nat) (passed : Bool) (result : List CrossingCal)
  /-- GATEWAY_RESOLUTION_REPLY, R372. -/
  | gatewayResolutionReply (p i : Nat) (eth : EthHead) (v6 : Bool) (ip mac : Nat)
  deriving DecidableEq, Repr

end Sys2Proof
end

