-- ==== Sys2Proof/Machine/Bytes.lean ====
section
/-! DEFINITION. Little-endian byte strings (R10), bit fields (R9) and the checksums of the manual's frames. -/

namespace Sys2Proof.Machine

/-- Bits [hi:lo] of a number (R9). -/
def bits (n hi lo : Nat) : Nat := n / 2 ^ lo % 2 ^ (hi + 1 - lo)

/-- Bit k of a number. -/
def bit (n k : Nat) : Bool := n.testBit k

/-- 1 for true, 0 for false. -/
def b2n (b : Bool) : Nat := if b then 1 else 0

/-- The number a little-endian byte string holds (R10). -/
def leNat : List Byte → Nat
  | [] => 0
  | b :: bs => b.toNat + 256 * leNat bs

/-- The low `len` bytes of a number, little-endian (R10). -/
def natLe : (len v : Nat) → List Byte
  | 0, _ => []
  | len + 1, v => BitVec.ofNat 8 v :: natLe len (v / 256)

/-- The number a big-endian byte string holds (published protocols, R10). -/
def beNat (bs : List Byte) : Nat := leNat bs.reverse

/-- The low `len` bytes of a number, big-endian. -/
def natBe (len v : Nat) : List Byte := (natLe len v).reverse

/-- `len` bytes at `off`. -/
def slice (bs : List Byte) (off len : Nat) : List Byte := (bs.drop off).take len

/-- The little-endian field of `len` bytes at `off` (R10). -/
def fld (bs : List Byte) (off len : Nat) : Nat := leNat (slice bs off len)

/-- A byte string with the field at `off` replaced. -/
def setFld (bs : List Byte) (off len v : Nat) : List Byte :=
  bs.take off ++ natLe len v ++ bs.drop (off + len)

/-- A byte string cut or padded with zero bytes to a length. -/
def padTo (len : Nat) (bs : List Byte) : List Byte := bs.take len ++ List.replicate (len - bs.length) 0

/-- A signed number of `w` bits from its two's complement encoding. -/
def toSigned (w n : Nat) : Int := if n % 2 ^ w < 2 ^ (w - 1) then (n % 2 ^ w : Nat) else (n % 2 ^ w : Nat) - (2 ^ w : Nat)

/-- The `w`-bit two's complement encoding of an integer. -/
def ofSigned (w : Nat) (z : Int) : Nat := (z % (2 ^ w : Nat)).toNat

/-- One bit step of a reflected CRC with polynomial `poly`. -/
def crcStep (poly crc : Nat) : Nat := if crc % 2 = 1 then (crc / 2) ^^^ poly else crc / 2

/-- Eight bit steps after a byte is taken in. -/
def crcByte (poly crc : Nat) (b : Byte) : Nat :=
  (List.range 8).foldl (fun c _ => crcStep poly c) (crc ^^^ b.toNat)

/-- CRC-32 of IEEE 802.3 (R325, R427). -/
def crc32 (bs : List Byte) : Nat := bs.foldl (crcByte 0xEDB88320) 0xFFFFFFFF ^^^ 0xFFFFFFFF

/-- One bit step of a forward 16-bit CRC. -/
def crc16Step (poly crc : Nat) : Nat :=
  if crc < 0x8000 then (crc * 2) % 0x10000 else ((crc * 2) % 0x10000) ^^^ poly

/-- A forward 16-bit CRC over a byte string, most significant bit first. -/
def crc16 (poly init : Nat) (bs : List Byte) : Nat :=
  bs.foldl (fun c b => (List.range 8).foldl (fun c _ => crc16Step poly c) (c ^^^ (b.toNat * 256))) init

end Sys2Proof.Machine
end

