-- ==== Sys2Proof/Machine/Flags.lean ====
section
/-! DEFINITION. The flags of IEEE 754 and SAT, as the numbers that FFLAGS_X and completion records hold (R62, R102). -/

namespace Sys2Proof.Machine

/-- NX, inexact, bit 0 (R62). -/
def fNX : Nat := 1
/-- UF, underflow, bit 1. -/
def fUF : Nat := 2
/-- OF, overflow, bit 2. -/
def fOF : Nat := 4
/-- DZ, division by zero, bit 3. -/
def fDZ : Nat := 8
/-- NV, invalid operation, bit 4. -/
def fNV : Nat := 16
/-- SAT, a conversion to a short format saturated, bit 8. -/
def fSAT : Nat := 256

/-- Two sets of flags together. -/
def orF (a b : Nat) : Nat := a ||| b

/-- A flag when a condition holds. -/
def flagIf (c : Bool) (f : Nat) : Nat := if c then f else 0

end Sys2Proof.Machine
end

