-- ==== Sys2Proof/Machine/Float.lean ====
section
/-! DEFINITION. IEEE 754-2019 arithmetic on encodings (R98 to R107): every operation answers the encoding of its result
and the flags it raises, ordered as in FFLAGS_X (R62). A finite number is taken apart into an integer significand and an
exponent, the exact result is formed, and one rounding packs it. -/

namespace Sys2Proof.Machine

/-- A binary format: exponent bits and fraction bits. -/
structure Fmt where
  eb : Nat
  mb : Nat
  deriving DecidableEq, Repr

def f32 : Fmt := { eb := 8, mb := 23 }
def f64 : Fmt := { eb := 11, mb := 52 }
def f16 : Fmt := { eb := 5, mb := 10 }
/-- bfloat16 under the rules of a format with precision 8 and emax 127 (R99). -/
def bf16 : Fmt := { eb := 8, mb := 7 }

/-- An encoding and the flags raised. -/
abbrev FR := Nat × Nat

def Fmt.bias (f : Fmt) : Int := 2 ^ (f.eb - 1) - 1
def Fmt.emin (f : Fmt) : Int := 1 - f.bias
/-- The sign bit's weight. -/
def Fmt.sbit (f : Fmt) : Nat := 2 ^ (f.eb + f.mb)
/-- Encoding of +infinity. -/
def Fmt.inf (f : Fmt) : Nat := (2 ^ f.eb - 1) * 2 ^ f.mb
/-- The default NaN (R105). -/
def Fmt.dnan (f : Fmt) : Nat := f.inf + 2 ^ (f.mb - 1)
/-- Encoding of +1. -/
def Fmt.one (f : Fmt) : Nat := f.bias.toNat * 2 ^ f.mb
/-- Sign, and the encoding without it. -/
def Fmt.sign (f : Fmt) (x : Nat) : Bool := x.testBit (f.eb + f.mb)
def Fmt.mag (f : Fmt) (x : Nat) : Nat := x % f.sbit
def Fmt.withSign (f : Fmt) (s : Bool) (m : Nat) : Nat := m + b2n s * f.sbit
def Fmt.isNaN (f : Fmt) (x : Nat) : Bool := f.mag x > f.inf
def Fmt.isSig (f : Fmt) (x : Nat) : Bool := f.isNaN x && !x.testBit (f.mb - 1)
def Fmt.isInf (f : Fmt) (x : Nat) : Bool := f.mag x = f.inf
def Fmt.isZero (f : Fmt) (x : Nat) : Bool := f.mag x = 0
def Fmt.isSub (f : Fmt) (x : Nat) : Bool := 0 < f.mag x && f.mag x < 2 ^ f.mb
def Fmt.isNormal (f : Fmt) (x : Nat) : Bool := 2 ^ f.mb ≤ f.mag x && f.mag x < f.inf
def Fmt.isFinite (f : Fmt) (x : Nat) : Bool := f.mag x < f.inf
/-- A NaN quieted: the most significant fraction bit set (R105). -/
def Fmt.quiet (f : Fmt) (x : Nat) : Nat := if x.testBit (f.mb - 1) then x else x + 2 ^ (f.mb - 1)
/-- Significand of a finite number. -/
def Fmt.man (f : Fmt) (x : Nat) : Nat :=
  let m := f.mag x
  if m < 2 ^ f.mb then m else m % 2 ^ f.mb + 2 ^ f.mb
/-- Exponent of the significand's last bit. -/
def Fmt.exp (f : Fmt) (x : Nat) : Int :=
  let m := f.mag x
  if m < 2 ^ f.mb then f.emin - f.mb else (m / 2 ^ f.mb : Nat) - f.bias - f.mb

/-- Rounding directions: 0 to 3 as in R101, 4 ties away. An integer part rounds up for a remainder `lo` of `2 ^ d`. -/
def roundsUp (rnd : Nat) (s : Bool) (odd : Bool) (lo half : Nat) : Bool :=
  match rnd with
  | 0 => lo > half || (lo = half && odd)
  | 1 => false
  | 2 => s && lo > 0
  | 3 => !s && lo > 0
  | _ => lo ≥ half

/-- m x 2^e as an integer multiple of 2^q, and whether that is inexact. -/
def roundTo (rnd : Nat) (s : Bool) (m : Nat) (e q : Int) : Nat × Bool :=
  if q ≤ e then (m * 2 ^ (e - q).toNat, false)
  else
    let d := (q - e).toNat
    let lo := m % 2 ^ d
    let hi := m / 2 ^ d
    (hi + b2n (roundsUp rnd s (hi % 2 = 1) lo (2 ^ (d - 1)) && lo > 0), lo > 0)

/-- One IEEE rounding of the exact number (-1)^s x m x 2^e (R101, R103, R104): overflow gives an infinity or the
largest number by direction; tininess is detected after rounding. -/
def roundPack (f : Fmt) (rnd : Nat) (s : Bool) (m : Nat) (e : Int) : FR :=
  if m = 0 then (f.withSign s 0, 0)
  else
    let E : Int := m.log2 + e
    let q := max E f.emin - f.mb
    let (n, inexact) := roundTo rnd s m e q
    let enc := (max E f.emin - f.emin).toNat * 2 ^ f.mb + n
    if enc ≥ f.inf then
      let toInf := match rnd with | 0 => true | 1 => false | 2 => s | 3 => !s | _ => true
      (f.withSign s (if toInf then f.inf else f.inf - 1), fOF + fNX)
    else
      let (n', _) := roundTo rnd s m e (E - f.mb)
      let tiny := E < f.emin && !(E + 1 = f.emin && n' = 2 ^ (f.mb + 1))
      (f.withSign s enc, flagIf inexact fNX + flagIf (tiny && inexact) fUF)

/-- NV for a signalling operand. -/
def sigFlag (f : Fmt) (xs : List Nat) : Nat := flagIf (xs.any f.isSig) fNV

/-- The NaN rule of R105: the first NaN in operand order, quieted. -/
def nanOf (f : Fmt) (xs : List Nat) : Option FR :=
  (xs.find? f.isNaN).map fun x => (f.quiet x, sigFlag f xs)

/-- An exact integer multiple of 2^e rounded; an exact zero takes the sign `z`. -/
def roundInt (f : Fmt) (rnd : Nat) (z : Bool) (v : Int) (e : Int) : FR :=
  if v = 0 then (f.withSign z 0, 0) else roundPack f rnd (v < 0) v.natAbs e

/-- The sign of an exact zero sum of two numbers. -/
def zeroSign (rnd : Nat) (sa sb : Bool) : Bool := if sa = sb then sa else rnd = 2

/-- A finite number's value at exponent e, e no greater than its own. -/
def scaledInt (s : Bool) (m : Nat) (em e : Int) : Int :=
  let v : Int := (m * 2 ^ (em - e).toNat : Nat)
  if s then -v else v

/-- Addition (R102). -/
def fAdd (f : Fmt) (rnd a b : Nat) : FR :=
  match nanOf f [a, b] with
  | some r => r
  | none =>
    if f.isInf a then
      if f.isInf b && f.sign a ≠ f.sign b then (f.dnan, fNV) else (a, 0)
    else if f.isInf b then (b, 0)
    else
      let e := min (f.exp a) (f.exp b)
      roundInt f rnd (zeroSign rnd (f.sign a) (f.sign b))
        (scaledInt (f.sign a) (f.man a) (f.exp a) e + scaledInt (f.sign b) (f.man b) (f.exp b) e) e

/-- A number's sign changed (negate, R102). -/
def fNeg (f : Fmt) (a : Nat) : Nat := f.withSign (!f.sign a) (f.mag a)

/-- Subtraction (R102): a NaN operand b keeps its sign. -/
def fSub (f : Fmt) (rnd a b : Nat) : FR :=
  match nanOf f [a, b] with
  | some r => r
  | none => fAdd f rnd a (fNeg f b)

/-- Multiplication (R102). -/
def fMul (f : Fmt) (rnd a b : Nat) : FR :=
  match nanOf f [a, b] with
  | some r => r
  | none =>
    let s := f.sign a != f.sign b
    if f.isInf a || f.isInf b then
      if f.isZero a || f.isZero b then (f.dnan, fNV) else (f.withSign s f.inf, 0)
    else roundPack f rnd s (f.man a * f.man b) (f.exp a + f.exp b)

/-- fusedMultiplyAdd a x b + c (R102, R103: NV for 0 x infinity whatever c is). -/
def fFma (f : Fmt) (rnd a b c : Nat) : FR :=
  let bad := (f.isZero a && f.isInf b) || (f.isInf a && f.isZero b)
  match nanOf f [a, b, c] with
  | some (r, fl) => (r, if bad then fNV else fl)
  | none =>
    let s := f.sign a != f.sign b
    if bad then (f.dnan, fNV)
    else if f.isInf a || f.isInf b then
      if f.isInf c && f.sign c ≠ s then (f.dnan, fNV) else (f.withSign s f.inf, 0)
    else if f.isInf c then (c, 0)
    else
      let ep := f.exp a + f.exp b
      let e := min ep (f.exp c)
      roundInt f rnd (zeroSign rnd s (f.sign c))
        (scaledInt s (f.man a * f.man b) ep e + scaledInt (f.sign c) (f.man c) (f.exp c) e) e

/-- Division (R102, R103). -/
def fDiv (f : Fmt) (rnd a b : Nat) : FR :=
  match nanOf f [a, b] with
  | some r => r
  | none =>
    let s := f.sign a != f.sign b
    if f.isInf a then (if f.isInf b then (f.dnan, fNV) else (f.withSign s f.inf, 0))
    else if f.isInf b then (f.withSign s 0, 0)
    else if f.isZero b then (if f.isZero a then (f.dnan, fNV) else (f.withSign s f.inf, fDZ))
    else if f.isZero a then (f.withSign s 0, 0)
    else
      let k := f.mb + 4 + (f.man b).log2
      let n := f.man a * 2 ^ k
      roundPack f rnd s (2 * (n / f.man b) + b2n (n % f.man b ≠ 0)) (f.exp a - f.exp b - k - 1)

/-- The integer square root, by bits from the highest. -/
def isqrt (n : Nat) : Nat → Nat → Nat
  | 0, r => r
  | b + 1, r => isqrt n b (if (r + 2 ^ b) * (r + 2 ^ b) ≤ n then r + 2 ^ b else r)

/-- Square root (R102). -/
def fSqrt (f : Fmt) (rnd a : Nat) : FR :=
  match nanOf f [a] with
  | some r => r
  | none =>
    if f.isZero a then (a, 0)
    else if f.sign a then (f.dnan, fNV)
    else if f.isInf a then (a, 0)
    else
      let odd := f.exp a % 2 ≠ 0
      let e := if odd then f.exp a - 1 else f.exp a
      let k := f.mb + 3
      let n := f.man a * 2 ^ (2 * k + b2n odd)
      let r := isqrt n (n.log2 / 2 + 1) 0
      roundPack f rnd false (2 * r + b2n (r * r ≠ n)) (e / 2 - k - 1)

/-- remainder (R102): exact; a zero result takes the sign of a. -/
def fRem (f : Fmt) (a b : Nat) : FR :=
  match nanOf f [a, b] with
  | some r => r
  | none =>
    if f.isInf a || f.isZero b then (f.dnan, fNV)
    else if f.isInf b || f.isZero a then (a, 0)
    else
      let e := min (f.exp a) (f.exp b)
      let x := f.man a * 2 ^ (f.exp a - e).toNat
      let y := f.man b * 2 ^ (f.exp b - e).toNat
      let r := x % y
      let past := 2 * r > y || (2 * r = y && x / y % 2 = 1)
      let v : Int := if past then (r : Int) - y else r
      roundInt f 0 (f.sign a) (if f.sign a then -v else v) e

/-- roundToIntegral in a direction (R102); `exact` raises NX. -/
def fRoundInt (f : Fmt) (rnd : Nat) (exact : Bool) (a : Nat) : FR :=
  match nanOf f [a] with
  | some r => r
  | none =>
    if f.isInf a || f.isZero a then (a, 0)
    else
      let (n, inexact) := roundTo rnd (f.sign a) (f.man a) (f.exp a) 0
      ((roundPack f 0 (f.sign a) n 0).1, flagIf (exact && inexact) fNX)

/-- nextUp of a number or an infinity (R102). -/
def nextUpNum (f : Fmt) (a : Nat) : Nat :=
  if f.isZero a then 1
  else if f.sign a then a - 1
  else if f.isInf a then a
  else a + 1

/-- nextUp (R102). -/
def fNextUp (f : Fmt) (a : Nat) : FR :=
  match nanOf f [a] with
  | some r => r
  | none => (nextUpNum f a, 0)

/-- nextDown (R102). -/
def fNextDown (f : Fmt) (a : Nat) : FR :=
  match nanOf f [a] with
  | some r => r
  | none => (fNeg f (nextUpNum f (fNeg f a)), 0)

/-- scaleB (R102); |n| past 5,000 scales as 5,000 does, past every format's range. -/
def fScaleB (f : Fmt) (rnd a : Nat) (n : Int) : FR :=
  match nanOf f [a] with
  | some r => r
  | none =>
    if f.isInf a || f.isZero a then (a, 0)
    else roundPack f rnd (f.sign a) (f.man a) (f.exp a + max (-5000) (min 5000 n))

/-- logB (R102): -infinity and DZ for zero, +infinity for an infinity. -/
def fLogB (f : Fmt) (a : Nat) : FR :=
  match nanOf f [a] with
  | some r => r
  | none =>
    if f.isInf a then (f.inf, 0)
    else if f.isZero a then (f.withSign true f.inf, fDZ)
    else
      let E : Int := (f.man a).log2 + f.exp a
      roundInt f 0 false E 0

/-- copySign (R102). -/
def fCopySign (f : Fmt) (a b : Nat) : Nat := f.withSign (f.sign b) (f.mag a)

/-- convertFormat (R99, R102, R105): a NaN's payload keeps its high-order bits. -/
def fConvert (f g : Fmt) (rnd a : Nat) : FR :=
  if f.isNaN a then
    let p := f.quiet a % 2 ^ f.mb
    let p' := if f.mb ≤ g.mb then p * 2 ^ (g.mb - f.mb) else p / 2 ^ (f.mb - g.mb)
    (g.withSign (f.sign a) (g.inf + p'), sigFlag f [a])
  else if f.isInf a then (g.withSign (f.sign a) g.inf, 0)
  else roundPack g rnd (f.sign a) (f.man a) (f.exp a)

/-- convertFromInt (R102). -/
def fFromInt (f : Fmt) (rnd : Nat) (z : Int) : FR := roundInt f rnd false z 0

/-- convertToInteger and convertToIntegerExact into [lo, hi] (R107). -/
def fToInt (f : Fmt) (rnd : Nat) (exact : Bool) (lo hi : Int) (a : Nat) : Int × Nat :=
  if f.isNaN a then (0, fNV)
  else if f.isInf a then (if f.sign a then lo else hi, fNV)
  else
    let (n, inexact) := roundTo rnd (f.sign a) (f.man a) (f.exp a) 0
    let v : Int := if f.sign a then -(n : Int) else n
    if v < lo then (lo, fNV) else if hi < v then (hi, fNV)
    else (v, flagIf (exact && inexact) fNX)

/-- A number's place in the numeric order; the two zeros share one. -/
def numKey (f : Fmt) (a : Nat) : Int := if f.sign a then -(f.mag a : Int) else f.mag a

/-- An encoding's place in totalOrder (R102). -/
def totalKey (f : Fmt) (a : Nat) : Int := if f.sign a then -(f.mag a : Int) - 1 else f.mag a

/-- totalOrder and totalOrderMag (R102). -/
def totalOrder (f : Fmt) (a b : Nat) : Bool := totalKey f a ≤ totalKey f b
def totalOrderMag (f : Fmt) (a b : Nat) : Bool := f.mag a ≤ f.mag b

/-- How two operands compare. -/
inductive Rel
  | lt | eq | gt | un
  deriving DecidableEq, Repr

/-- The relation of a to b. -/
def relOf (f : Fmt) (a b : Nat) : Rel :=
  if f.isNaN a || f.isNaN b then .un
  else if numKey f a < numKey f b then .lt
  else if numKey f a = numKey f b then .eq else .gt

/-- The quiet predicates in the order of R147: Equal, NotEqual, Greater, GreaterEqual, Less, LessEqual, Unordered,
NotGreater, LessUnordered, NotLess, GreaterUnordered, Ordered. -/
def quietPred (op : Nat) (r : Rel) : Bool :=
  match op with
  | 0 => r = .eq
  | 1 => r ≠ .eq
  | 2 => r = .gt
  | 3 => r = .gt || r = .eq
  | 4 => r = .lt
  | 5 => r = .lt || r = .eq
  | 6 => r = .un
  | 7 => r ≠ .gt
  | 8 => r = .lt || r = .un
  | 9 => r ≠ .lt
  | 10 => r = .gt || r = .un
  | _ => r ≠ .un

/-- The signalling predicates in the order of R147, by the quiet predicate each decides. -/
def signalPred (op : Nat) : Nat := if op < 6 then op else op + 1

/-- The eight minimum and maximum operations in the order of R147 (R106): bit 0 maximum, bit 1 the Number form, bit 2
the Magnitude form. -/
def fMinMax (f : Fmt) (op a b : Nat) : FR :=
  let isMax := bit op 0
  let number := bit op 1
  let magn := bit op 2
  let pick : Nat :=
    let byValue := if (if isMax then totalKey f a ≥ totalKey f b else totalKey f a ≤ totalKey f b) then a else b
    if magn && f.mag a ≠ f.mag b then
      (if (if isMax then f.mag a > f.mag b else f.mag a < f.mag b) then a else b)
    else byValue
  match nanOf f [a, b] with
  | none => (pick, 0)
  | some (r, fl) =>
    if number && !f.isNaN a then (a, fl)
    else if number && !f.isNaN b then (b, fl)
    else (r, fl)

/-- class (R147). -/
def fClass (f : Fmt) (a : Nat) : Nat :=
  if f.isSig a then 0
  else if f.isNaN a then 1
  else if f.sign a then
    (if f.isInf a then 2 else if f.isNormal a then 3 else if f.isSub a then 4 else 5)
  else
    (if f.isZero a then 6 else if f.isSub a then 7 else if f.isNormal a then 8 else 9)

end Sys2Proof.Machine
end

