-- ==== Sys2Proof/Machine/Formats.lean ====
section
/-! DEFINITION. The format codes of descriptors (R79), the short formats and their block scales (R80 to R88), the array
kinds (R91, R92), loads (R93, R98, R149) and the conversion to short formats (R94 to R97). -/

namespace Sys2Proof.Machine

/-- The long format of a code of R79. -/
def longFmt (code : Nat) : Option Fmt :=
  match code with
  | 0 => some f32 | 1 => some f64 | 2 => some f16 | 3 => some bf16
  | _ => none

/-- A short format (R79). -/
def isShort (code : Nat) : Bool := 4 ≤ code && code ≤ 10

/-- A short integer format (R83). -/
def isShortInt (code : Nat) : Bool := code = 6 || code = 10

/-- Width of an element in bits (R79). -/
def widthOf (code : Nat) : Nat :=
  match code with
  | 0 => 32 | 1 => 64 | 2 => 16 | 3 => 16 | 4 => 8 | 5 => 8 | 6 => 8 | 7 => 6 | 8 => 6 | 9 => 4 | 10 => 4
  | _ => 32

/-- Alignment of an element in bytes: 1 for the short formats (R115, R139). -/
def elemAlign (code : Nat) : Nat := if isShort code then 1 else widthOf code / 8

/-- Number of blocks of 32 along K (R88). -/
def blocksAlong (n : Nat) : Nat := (n + 31) / 32

/-- Bytes of a row of n elements: whole blocks in a short format (R84, R88). -/
def rowBytes (code n : Nat) : Nat :=
  if isShort code then blocksAlong n * 4 * widthOf code else n * (widthOf code / 8)

/-- Element i of a row of bytes, its bits lying at i x width of the little-endian string (R84). -/
def codeAt (row : List Byte) (code i : Nat) : Nat :=
  let w := widthOf code
  if w < 16 then fld row (i * w / 8) 2 / 2 ^ (i * w % 8) % 2 ^ w else fld row (i * (w / 8)) (w / 8)

/-- Exponent bits, fraction bits and bias of a short floating format (R81). -/
def shortParams (code : Nat) : Nat × Nat × Int :=
  match code with
  | 4 => (4, 3, 7)
  | 5 => (5, 2, 15)
  | 7 => (3, 2, 3)
  | 8 => (2, 3, 1)
  | _ => (2, 1, 1)

/-- A short element as sign, significand and exponent (R80, R83). -/
def shortValue (code n : Nat) : Bool × Nat × Int :=
  if isShortInt code then
    let z := toSigned (widthOf code) n
    (z < 0, z.natAbs, 0)
  else
    let (eb, mb, bias) := shortParams code
    let e := n / 2 ^ mb % 2 ^ eb
    let f := n % 2 ^ mb
    (n.testBit (eb + mb), if e = 0 then f else f + 2 ^ mb, (if e = 0 then 1 else (e : Int)) - bias - mb)

/-- A short element as an integer multiple of 2^-16, the finest bit of any short format (R81). -/
def shortScaled (code n : Nat) : Int :=
  let (s, m, e) := shortValue code n
  let v : Int := (m * 2 ^ (e + 16).toNat : Nat)
  if s then -v else v

/-- Array kinds: 0 F4, 1 F5, 2 I8 (R91). -/
def arrayKind (code : Nat) : Nat := if code = 5 then 1 else if isShortInt code then 2 else 0

/-- The pairs of R92, unordered (log 29). -/
def pairOk (a b : Nat) : Bool := !(arrayKind a = 1 && arrayKind b = 1)

/-- A short element times its block scale in a float format (R86, R93). -/
def loadShort (g : Fmt) (rnd code n scale : Nat) : FR :=
  if scale = 0xFF then (g.dnan, 0)
  else
    let (s, m, e) := shortValue code n
    roundPack g rnd s m (e + scale - 127)

/-- A stored long element in a float format (R98, R149): the same format leaves every bit as stored. -/
def loadLong (f g : Fmt) (n : Nat) : FR := if f = g then (n, 0) else fConvert f g 0 n

/-- The largest exponent of R94, by format. -/
def emaxOf (code : Nat) : Int :=
  match code with
  | 4 => 8 | 5 => 16 | 7 => 4 | 8 => 2 | 9 => 2 | 6 => 6 | _ => 2

/-- floor(log2 |x|) of a finite non-zero number. -/
def floorLog2 (f : Fmt) (x : Nat) : Int := (f.man x).log2 + f.exp x

/-- The computed scale byte of a block (R94). A block whose elements are all infinite has no finite magnitude to scale by, for which the
spec states no byte: it takes that of a block of zeros, 127 (DESIGN CHOICE, log 108). -/
def computedScale (f : Fmt) (code : Nat) (xs : List Nat) : Nat :=
  let ys := (xs.filter fun x => f.isFinite x && !f.isZero x).map (floorLog2 f)
  match ys with
  | [] => 127
  | y :: rest => (max 0 (min 254 (rest.foldl max y - emaxOf code + 127))).toNat

/-- Largest code of a short floating format without its sign (R81). -/
def largestCode (code : Nat) : Nat :=
  let (eb, mb, _) := shortParams code
  2 ^ (eb + mb) - 1

/-- An element of a block converted under R95 and R96: its code, whether it overflowed, whether its value changed. `x` is a
number or an infinity. -/
def toShort (f : Fmt) (code scale x : Nat) : Nat × Bool × Bool :=
  let s := f.sign x
  if isShortInt code then
    let w := widthOf code
    let hi := 2 ^ (w - 1) - 1
    let lo := 2 ^ (w - 1)
    if f.isInf x then (if s then lo else hi, true, true)
    else
      let (n, inexact) := roundTo 0 s (f.man x) (f.exp x + 127 - scale) 0
      if s then (if n > lo then (lo, true, true) else (ofSigned w (-(n : Int)), false, inexact))
      else if n > hi then (hi, true, true) else (n, false, inexact)
  else
    let (eb, mb, bias) := shortParams code
    let sbit := 2 ^ (eb + mb)
    let top := largestCode code
    if f.isInf x then (top + b2n s * sbit, true, true)
    else if f.isZero x then (b2n s * sbit, false, false)
    else
      let e := f.exp x + 127 - scale
      let E : Int := (f.man x).log2 + e
      let lowest := 1 - bias
      let q := max E lowest - mb
      let (n, inexact) := roundTo 0 s (f.man x) e q
      let enc := (max E lowest - lowest).toNat * 2 ^ mb + n
      if enc > top then (top + b2n s * sbit, true, true) else (enc + b2n s * sbit, false, inexact)

/-- A converted block: scale byte, the 32 codes, flags (R94 to R97). -/
structure ShortBlock where
  scale : Nat
  codes : List Nat
  flags : Nat
  deriving DecidableEq, Repr

/-- One block of at most 32 elements converted to a short format (R94 to R97); padding elements are code 0 (R88). `given`:
the scale byte of given-scale mode; `nanMode`: OVF = NAN. -/
def convertBlock (f : Fmt) (code : Nat) (given : Option Nat) (nanMode : Bool) (xs : List Nat) : ShortBlock :=
  let scale := given.getD (computedScale f code xs)
  let nv := flagIf (xs.any f.isSig) fNV
  let rs := xs.map fun x => if f.isNaN x || (scale = 0xFF && !f.isInf x) then (0, false, false) else toShort f code scale x
  let sat := rs.any (·.2.1)
  if scale = 0xFF || xs.any f.isNaN || (nanMode && sat) then
    { scale := 0xFF, codes := List.replicate 32 0,
      flags := nv + flagIf sat fSAT + flagIf (xs.any fun x => !f.isNaN x) fNX }
  else
    { scale := scale, codes := rs.map (·.1) ++ List.replicate (32 - rs.length) 0,
      flags := nv + flagIf sat fSAT + flagIf (rs.any (·.2.2)) fNX }

/-- Codes of a width packed into bytes (R84). -/
def packCodes (w : Nat) (codes : List Nat) : List Byte :=
  natLe (codes.length * w / 8) (codes.foldr (fun c acc => c + acc * 2 ^ w) 0)

end Sys2Proof.Machine
end

