-- ==== Sys2Proof/Config.lean ====
section
/-! DEFINITION. What an implementation of the W48 fixes and the manual does not, and the free values: constants without
a body, so that no proof can see a value of one. -/

namespace Sys2Proof

/-- The source of every free value: applied to the step's counter (log 9). -/
opaque Config.freeNat : Nat → Nat

/-- Results of the TRANS stage of Prism where R150 gives an accuracy and no value (log 10): function code, whether the
format is binary64, operand encoding. -/
opaque Config.trans : Nat → Bool → Nat → Nat

/-- The identity seed fused at manufacture, which no path reads (R452; log 12). -/
opaque Config.identitySeed : BitVec 256

/-- The identity key pairs that the boot ROM derives from the seed: the public keys as 0x2310.01 gives them (R452, R462; log 12). -/
opaque Config.identityKeys : BitVec 256 → List Byte

/-- Both attestation signatures, made with the identity keys of a seed over a report: the signing draws values that the spec does not
give (R454; log 11). -/
opaque Config.identitySign : BitVec 256 → List Byte → List Byte

/-- The DER certificates of the identity keys: 0 RSA, 1 SLH-DSA (R452, R462; log 12). -/
opaque Config.identityCert : Nat → List Byte

/-- The firmware version string of an image version (0x100A.01, R418; log 12). -/
opaque Config.versionString : Nat → List Byte

/-- The module serial number of 0x1018 (R418; log 12). -/
opaque Config.serial : Nat

/-- The first address of the module's block of 258 MAC addresses (R490; log 12). -/
opaque Config.macBase : Nat

/-- What the image partition of a boot flash holds from manufacture until it is first erased: flash 0 A or 1 B, offset (R439; log 12). -/
opaque Config.factoryImage : Nat → Nat → Byte

/-- A byte that a companion behind a Chadon Stream port holds when the Eyepiece reads it: the model's counter, companion-window offset
(R459; log 9). -/
opaque Config.companionByte : Nat → Nat → Byte

/-- The hash fused at manufacture in image key slot 0 to 3 (R452; log 12). -/
opaque Config.imageKeyHash : Nat → List Byte

end Sys2Proof
end

