-- ==== Sys2Proof/Machine/Address.lean ====
section
/-! DEFINITION. Where things lie on the wafer: fields, regions, tiles, repair pointers, injection points, the rim
(R14 to R30) and the parts of a system address (R34). -/

namespace Sys2Proof.Machine

/-- Number of physical regions (R15). -/
def regionCount : Nat := 4608

/-- Number of physical tiles (R16). -/
def tileCount : Nat := 405504

/-- Number of logical tiles of the full grid (R22). -/
def ltileCount : Nat := 368640

/-- Bytes of a scratchpad (R63). -/
def spadBytes : Nat := 262144

/-- The top-left corner of a field, in mm (R14). -/
def fieldCorner (f : Nat) : Nat × Nat := (26 * (f % 8), 33 * (f / 8))

/-- The physical region of a field and a region-in-field (R15). -/
def regionOf (f q : Nat) : Nat := f * 96 + q

/-- The field of a physical region (R15). -/
def fieldOf (p : Nat) : Nat := p / 96

/-- Grid column of a physical region (R15). -/
def gx (p : Nat) : Nat := (p / 96 % 8) * 8 + p % 96 % 8

/-- Grid row of a physical region (R15). -/
def gy (p : Nat) : Nat := (p / 96 / 8) * 12 + p % 96 / 8

/-- The physical region at a grid position (R15). -/
def regionAt (x y : Nat) : Nat := ((y / 12) * 8 + x / 8) * 96 + (y % 12) * 8 + x % 8

/-- The physical tile number at (x, y) (R16). -/
def ptile (x y : Nat) : Nat := y * 704 + x

/-- Column of a physical tile (R16). -/
def tx (t : Nat) : Nat := t % 704

/-- Row of a physical tile (R16). -/
def ty (t : Nat) : Nat := t / 704

/-- The physical region of a physical tile (R16). -/
def regionOfTile (t : Nat) : Nat :=
  regionOf ((ty t / 96) * 8 + tx t / 88) ((ty t % 96 / 8) * 8 + tx t % 88 / 11)

/-- The region-local index of a physical tile (R16). -/
def localIndex (t : Nat) : Nat := (ty t % 8) * 11 + tx t % 11

/-- The physical tile at a region-local index (R16). -/
def tileInRegion (p i : Nat) : Nat := ptile (11 * gx p + i % 11) (8 * gy p + i / 11)

/-- All 88 physical tiles of a region, in ascending local index (R15). -/
def regionTiles (p : Nat) : List Nat := (List.range 88).map (tileInRegion p)

/-- All 96 physical regions of a field (R15). -/
def fieldRegions (f : Nat) : List Nat := (List.range 96).map (regionOf f)

/-- Dictionary index of a region's record (R17). -/
def regionIndex (p : Nat) : Nat := 0x4000 + p

/-- Dictionary index of a field's record (R17). -/
def fieldIndex (f : Nat) : Nat := 0x5800 + f

/-- Physical position of logical position j under repair pointer d (R19). -/
def physPos (d j : Nat) : Nat := if j < d then j else j + 1

/-- Logical position at physical position x under repair pointer d, none where it is bypassed (R19). -/
def logPos (d x : Nat) : Option Nat := if x < d then some x else if x = d then none else some (x - 1)

/-- The logical tile number of (column, row) (R22). -/
def ltileNo (col row : Nat) : Nat := row * 640 + col

/-- Column of a logical tile (R22). -/
def lcol (l : Nat) : Nat := l % 640

/-- Row of a logical tile (R22). -/
def lrow (l : Nat) : Nat := l / 640

/-- The logical region slot of a logical tile (R22). -/
def slotOf (l : Nat) : Nat := (lrow l / 8) * 64 + lcol l / 10

/-- Column of a logical region slot (R22). -/
def slotX (n : Nat) : Nat := n % 64

/-- Row of a logical region slot (R22). -/
def slotY (n : Nat) : Nat := n / 64

/-- Logical tile of position j in row r of a slot (R22). -/
def ltileAt (n j r : Nat) : Nat := ltileNo (slotX n * 10 + j) (slotY n * 8 + r)

/-- The 80 logical tiles of a slot (R22). -/
def slotTiles (n : Nat) : List Nat := (List.range 80).map fun k => ltileAt n (k % 10) (k / 10)

/-- A slot lies in the standard footprint (R22). -/
def inFootprint (n : Nat) : Bool := n < 4480

/-- The physical tile that carries a logical tile bound to region p with repair pointers `rep` (R23). -/
def tileFor (p : Nat) (rep : List Nat) (l : Nat) : Nat :=
  ptile (11 * gx p + physPos (rep.getD (lrow l % 8) 10) (lcol l % 10)) (8 * gy p + lrow l % 8)

/-- A region of the edge skirt (R28). -/
def inSkirt (p : Nat) : Bool := gx p = 0 || gx p = 63 || gy p = 0 || gy p = 71

/-- Width of a router's data links in bits (R28, R236). -/
def dataWidth (p : Nat) : Nat := if inSkirt p then 1024 else 512

/-- Virtual channels of a router's data network (R28, R236). -/
def dataVcs (p : Nat) : Nat := if inSkirt p then 8 else 4

/-- Injection tile for point k of port n, before R30 (R29). -/
def injectionPoint (n k : Nat) : Nat × Nat :=
  if n < 8 then (88 * n + 2 + 11 * k / 2, 0)
  else if n < 16 then (703, 72 * (n - 8) + 2 + 9 * k / 2)
  else if n < 24 then (616 - 88 * (n - 16) + 2 + 11 * k / 2, 575)
  else (0, 504 - 72 * (n - 24) + 2 + 9 * k / 2)

/-- A position moved one place toward position 5 when it is the bypassed one (R30). -/
def stepOffBypass (d pos : Nat) : Nat := if pos = d then (if pos < 5 then pos + 1 else pos - 1) else pos

/-- The input of an injection tile's router that faces the edge of port n: 0 N, 1 E, 2 S, 3 W (R32). -/
def edgeSide (n : Nat) : Nat := n / 8

/-- Rim segments from bridge a to bridge b, clockwise on rim A (R26). -/
def cwSegments (a b : Nat) : Nat := (b + 32 - a) % 32

/-- The ring R26 chooses with both rings usable: 0 rim A, 1 rim B. -/
def ringChoice (a b : Nat) : Nat := if cwSegments a b ≤ 16 then 0 else 1

/-- Segments passed on the ring chosen (R26). -/
def rimSegments (ring a b : Nat) : Nat := if ring = 0 then cwSegments a b else cwSegments b a

/-- Worst-case rim latency in ns (R26). -/
def rimLatency (segments : Nat) : Nat := segments * 18 + 12

/-- The fields of a system address (R34). -/
def saDevice (a : Nat) : Nat := bits a 63 48
def saSpace (a : Nat) : Nat := bits a 47 46
def saTile (a : Nat) : Nat := bits a 45 27
def saTileZero (a : Nat) : Nat := bits a 26 18
def saOffset (a : Nat) : Nat := bits a 17 0
def saComp (a : Nat) : Nat := bits a 45 0
def saCtlZero (a : Nat) : Nat := bits a 45 28
def saIndex (a : Nat) : Nat := bits a 27 12
def saSub (a : Nat) : Nat := bits a 11 4
def saByte (a : Nat) : Nat := bits a 3 0

/-- The cases of R36 and R37 in which an access of `len` bytes fails the carrying descriptor; the end of a dictionary
object is tested where the object is known (R38). -/
def addressBad (a len : Nat) (isWrite : Bool) : Bool :=
  saSpace a = 3
  || (saSpace a = 0 && (saTileZero a ≠ 0 || saTile a ≥ ltileCount || saOffset a + len > spadBytes))
  || (saSpace a = 2 && (saCtlZero a ≠ 0 || saByte a + len > 16))
  || (saSpace a = 1 && saComp a + len > 2 ^ 46)
  || (saDevice a = 0xFFFF && (!isWrite || saSpace a = 1))

end Sys2Proof.Machine
end

