-- ==== Sys2Proof/Machine/State.lean ====
section
/-! DEFINITION. Everything the spec gives the W48 to hold, as plain data. Every field's comment gives its width, the
chapter file and rule that name it; its default is its value at reset (a module as manufactured, without power,
every register at its Reset column: log 5; where no reset value is given, zero or empty: log 7). -/

namespace Sys2Proof.Machine

/-- A sparse map by number: keys strictly rising; what an unlisted key means its reader says. -/
abbrev SMap (α : Type) := List (Nat × α)

/-- The scratchpads: (physical tile x 262,144 + offset, byte), keys strictly rising, no zero byte listed (R63, R71). -/
abbrev Memory := List Host.Cell

/-- Device states (R4). -/
inductive DevState
  | off | aux | bringup | ready | serving | recovering | safeHold | keepAlive | fault
  deriving DecidableEq, Repr

/-- Region states (R317). -/
inductive RegionState
  | unpowered | training | healthy | bound | reserve | dimmed | fenced | offThermal | dead
  deriving DecidableEq, Repr

/-- Task-slot states (R45). -/
inductive SlotState
  | idle | ready | running | waiting | faulted
  deriving DecidableEq, Repr

/-- What a WAITING slot waits for (R72, R54). -/
inductive WaitFor
  | nothing
  | wake (rd : Nat)
  | release (ch : Nat)
  deriving DecidableEq, Repr

/-- One of the four task slots of a tile (R45, R48). -/
structure TaskSlot where
  /-- 3-bit code; 02 R45 -/
  st : SlotState := .idle
  /-- 32; 02 R50 (task-relative PC) -/
  pc : Word := 0
  /-- x1 to x31, 32 each; 02 R40 (x0 reads 0) -/
  regs : List Word := List.replicate 31 0
  /-- sl.wait or bm.wait; 02 R72 -/
  wait : WaitFor := .nothing
  /-- TASK_BASE in bytes, 64-byte aligned; 02 R48 -/
  base : Nat := 0
  /-- TASK_BOUND in bytes; 02 R48 -/
  bound : Nat := 0
  /-- high word of STEP_CNT last latched; 02 R58 -/
  stepLatch : Word := 0
  /-- high word of TB last latched; 02 R58 -/
  tbLatch : Word := 0
  deriving DecidableEq, Repr

/-- A program fault held pending, one a slot (R50). -/
structure PendingFault where
  slot : Nat
  code : Nat
  addr : Word
  /-- it was raised by a store, which tells mcause 6 from 4 of MISALIGN; 02 R76 -/
  store : Bool
  deriving DecidableEq, Repr

/-- T0's PC and state as saved on its entry (R50). -/
structure SavedT0 where
  /-- 3; 02 R50 -/
  st : SlotState := .idle
  /-- 02 R50 -/
  wait : WaitFor := .nothing
  /-- 32; 02 R50 -/
  pc : Word := 0
  deriving DecidableEq, Repr

/-- A receive ring's registers (R57 to R59). -/
structure Ring where
  /-- RING_BASEn in bytes, 18; 02 R58 map -/
  base : Nat := 0
  /-- RING_SIZEn in bytes, 19; 02 R58 map -/
  size : Nat := 0
  /-- RING_HEADn in bytes, 18; 02 R58 map -/
  head : Nat := 0
  /-- RING_TAILn in bytes, 18; 02 R58 map -/
  tail : Nat := 0
  /-- RING_CTL.OPEN bit; 02 R59 map -/
  isOpen : Bool := false
  /-- RING_CTL.NAKED bit; 02 R59 map -/
  naked : Bool := false
  /-- RING_EPOCH byte, 8; 02 R59 map -/
  epoch : Nat := 1
  deriving DecidableEq, Repr

/-- The control core's registers and the CSRs of a tile that are not part of another unit (R42, R57 to R62). -/
structure Core where
  /-- T0 to T3; 02 R45. T0 has base 0 and bound 65,536 words, CONST (R48) -/
  slots : List TaskSlot := [{ bound := 262144 }, {}, {}, {}]
  /-- 2, TASK_STAT.CUR; 02 R57 map -/
  cur : Nat := 0
  /-- T0's PC and state saved in hardware; 02 R50 -/
  saved : SavedT0 := {}
  /-- T0 was entered by R50 and has not returned by mret (the model's own, log 22) -/
  inEntry : Bool := false
  /-- two lines of 16 bytes with their absolute line numbers; 02 R43 -/
  fetchBuf : List (Nat × List Byte) := []
  /-- one a slot; 02 R50 -/
  pendingFaults : List PendingFault := []
  /-- slot whose tk.reset waits for issued operations; 02 R52 -/
  resetting : Option Nat := none
  /-- 32; 02 R42 -/
  mepc : Word := 0
  /-- 32; 02 R42 -/
  mcause : Word := 0
  /-- 32; 02 R42 -/
  mtval : Word := 0
  /-- 32; 02 R42 -/
  mscratch : Word := 0
  /-- 64; 02 R42 -/
  mcycle : DWord := 0
  /-- 64; 02 R42 -/
  minstret : DWord := 0
  /-- 2, TASK_SEL; 02 R57 map -/
  taskSel : Nat := 0
  /-- 3, TAGM_SEL; 02 R60 map -/
  tagmSel : Nat := 0
  /-- 3, DIRTY_SEL; 02 R62 map -/
  dirtySel : Nat := 0
  /-- 24, WDOG.PERIOD; 02 R57 map -/
  wdogPeriod : Nat := 0
  /-- cycles counted by the watchdog; 02 R75 -/
  wdogCount : Nat := 0
  /-- 16, HOLD_WINDOW.CYCLES; 02 R59 map -/
  holdWindow : Nat := 0x0800
  /-- 8 entries of 32, TAGM_VAL; 02 R60 map -/
  tagm : List Word := List.replicate 8 0
  /-- 32, BEAM_MASK.PART; 02 R60 map -/
  beamMask : Word := 0
  /-- 32, the tile's votes; 10 R266 -/
  votes : Word := 0
  /-- 32, released flags; 10 R267 -/
  released : Word := 0
  /-- 11, WAKE_CTL; 02 R60 map -/
  wakeCtl : Word := 0x700
  /-- 4, the pending wake-cause set; 02 R72 -/
  wakePend : Word := 0
  /-- 64, the wake timer's TB value when armed; 02 R54 -/
  wakeTimer : Option Nat := none
  /-- 64, STEP_CNT; 02 R60 map -/
  stepCnt : DWord := 0
  /-- 32, HOLD_CNT; 02 R60 map -/
  holdCnt : Word := 0
  /-- 32, STRETCH_CNT; 02 R60 map -/
  stretchCnt : Word := 0
  /-- 32, GEN_DISCARD; 02 R60 map -/
  genDiscard : Nat := 0
  /-- 256 write-tracking bits; 02 R69 -/
  dirty : BitVec 256 := BitVec.allOnes 256
  /-- 9, FFLAGS_X; 02 R62 -/
  fflagsX : Word := 0
  /-- 16, ECC_STAT.CORR; 02 R62 map -/
  eccCorr : Nat := 0
  /-- spare rows in use, by bank and failing row, at most 8 a bank; their number is ECC_STAT.SPARES, 8; 02 R62 map, R68 -/
  spareRows : List (Nat × Nat) := []
  /-- 32, FAULT_CAUSE; 02 R62 map -/
  faultCause : Word := 0
  /-- 32, FAULT_ADDR; 02 R62 map -/
  faultAddr : Word := 0
  /-- 19, TILE_ID.LTILE, and BOUND when present; 02 R58 map -/
  ltile : Option Nat := none
  deriving DecidableEq, Repr

/-- An operation in the matrix or Prism queue (R54, R117). -/
structure EngOp where
  /-- the 64-byte descriptor as copied at issue; 02 R56 -/
  desc : List Byte
  /-- captured base and bound in bytes; 02 R48 -/
  base : Nat
  bound : Nat
  /-- issuing slot; 02 R77 -/
  slot : Nat
  /-- task-relative offset of the descriptor; 02 R76 -/
  off : Nat
  /-- captured scalars; 05 R133 -/
  s0 : Word
  s1 : Word
  /-- its check is over and it has started; 04 R115, R117 -/
  started : Bool
  /-- its check has passed while it still waits for the operation ahead; 04 R115, R117 -/
  checked : Bool := false
  /-- STEP_CNT after the step that issued it; none where an instruction did; 06 R172 -/
  issuedAt : Option DWord := none
  /-- steps from here to its completion, once it has started in a section; 04 R126, 05 R143, 06 R172 -/
  left : Option Nat := none
  /-- cycles or steps that it takes by itself, once it has started; 04 R126, 05 R143 -/
  total : Nat := 0
  /-- holds of the tile since its first fill cycle, for CYCLES; 04 R116 -/
  holds : Nat := 0
  /-- bytes, by absolute offset, that it read before an operation beside it wrote them; 04 R117, 05 R142 -/
  stale : SMap Byte := []
  deriving DecidableEq, Repr

/-- A message in the send queue (R54, R249). -/
structure SendMsg where
  hdr : List Byte
  body : List Byte
  base : Nat
  bound : Nat
  slot : Nat
  off : Nat
  validated : Bool
  deriving DecidableEq, Repr

/-- A tracking entry in use (R250 to R252). -/
structure Track where
  /-- entry number and reuse count; 09 R251 -/
  txid : Nat
  op : Nat
  cls : Nat
  tag : Nat
  seq : Nat
  /-- absolute offset of the completion record when CPL_EN; 09 R247 -/
  cpl : Option Nat
  beam : Option Nat
  /-- timeout in cycles; 09 R247 -/
  timeout : Nat
  /-- the region's cycle count at the first injection cycle; 09 R251 -/
  start : Nat
  /-- responses still expected; 09 R251 -/
  waiting : Nat
  /-- issuing slot -/
  slot : Nat
  /-- control-space reads: system address, absolute local offset; 09 R253 -/
  ctl : List (Nat × Nat)
  deriving DecidableEq, Repr

/-- An accepted ring entry on its way to TAIL's update (R261). -/
structure RingPend where
  ring : Nat
  /-- ring-relative position of the entry; 09 R258 -/
  place : Nat
  len : Nat
  /-- position and length of the skip marker; 09 R258 -/
  skip : Option (Nat × Nat)
  /-- header and body with STAMP still open; 09 R257 -/
  entry : List Byte
  /-- the message, or the NAK; 09 R261, R262 -/
  pkt : Packet
  isNak : Bool
  /-- its ring has closed since; 09 R263 -/
  closed : Bool := false
  deriving DecidableEq, Repr

/-- A notify record (R294, R295). -/
structure NotifyRec where
  stamp : Nat
  source : Nat
  ltile : Nat
  payload : Nat
  late : Bool
  /-- ticks by which TB has been stepped since its stamp; 14 R434 -/
  moved : Int := 0
  deriving DecidableEq, Repr

/-- A packet formed by a message engine, and the untracked message that completes when it has been injected (R251). -/
structure OutPacket where
  pkt : Packet
  cpl : Option SendMsg := none
  /-- the region's cycle count at the message's first injection cycle; 09 R251 -/
  start : Nat := 0
  deriving DecidableEq, Repr

/-- The message engine of a tile. -/
structure MsgEngine where
  /-- at most 8; 02 R54 -/
  sendQ : List SendMsg := []
  /-- 16 tracking entries; 09 R250 -/
  track : List (Option Track) := List.replicate 16 none
  /-- 4-bit reuse counts; 09 R251 -/
  reuse : List Nat := List.replicate 16 0
  /-- packets ejected and not yet handled; 08 R220, 09 R260 -/
  arrived : List Packet := []
  /-- the hold register, its cycles so far, and HOLD_WINDOW as sampled when the hold started; 09 R259, 02 R57 -/
  hold : Option (Packet × Nat × Nat) := none
  /-- entry accepted, TAIL not yet updated; 09 R261 -/
  ringPend : Option RingPend := none
  /-- packets formed and not yet injected; 08 R222 -/
  outPk : List OutPacket := []
  /-- at most 2 unsent notify records; 10 R294 -/
  notify : List NotifyRec := []
  deriving DecidableEq, Repr

/-- A lattice token: generation 4, payload up to 256 (R159). -/
structure Token where
  gen : Nat
  val : BitVec 256
  deriving DecidableEq, Repr

/-- A configuration plane as lt.ldcfg loaded it (R164, R165, R166). -/
structure Plane where
  ctl : Word
  stallLimit : Word
  steerCtl : Word
  steerAct : List Byte
  steerOut : List Word
  routes : List Word
  entries : List DWord
  /-- slot TASK's base and bound in bytes, captured; 06 R166 -/
  base : Nat
  bound : Nat
  deriving DecidableEq, Repr

/-- The lattice switch, schedule and steering unit of a tile (chapter 06). Inputs are numbered 0 to 7 scalar,
8 to 15 vector, 16 to 19 control, by port code within the network (R159). -/
structure Lattice where
  /-- the active plane; none while it is empty; 06 R168 -/
  active : Option Plane := none
  /-- the shadow plane; 06 R164 -/
  shadow : Option Plane := none
  /-- LAT_GEN.SHADOW_VALID; 02 R60 map -/
  shadowValid : Bool := false
  /-- LAT_GEN.PEND with its mode, true for cut; 06 R181 -/
  pend : Option Bool := none
  /-- 4, LAT_GEN.ACTIVE_GEN; 02 R60 map -/
  activeGen : Nat := 0
  /-- 4, LAT_GEN.SHADOW_GEN; 02 R60 map -/
  shadowGen : Nat := 0
  /-- a section is active, END not reached; 06 R170, R181 -/
  running : Bool := false
  /-- the section's step number; 06 R170 -/
  stepNo : Nat := 0
  /-- length of the present run of holds in cycles; 06 R176 -/
  holdRun : Nat := 0
  /-- scratchpad lines granted toward the present step, by their place in it, with what the reads returned; 06 R171 -/
  lines : SMap Nat := []
  /-- every other condition of the present step has held in a cycle: what it found stays reserved; 06 R171 -/
  reserved : Bool := false
  /-- cause code of the present hold; 06 R176 -/
  holdCause : Nat := 0
  /-- the stall event of this run is recorded; 06 R176 -/
  stallDone : Bool := false
  /-- token queues, 4 entries each; 06 R177 -/
  inq : SMap (List Token) := []
  /-- tokens on a link toward an input; 06 R160 -/
  flight : SMap (List Token) := []
  /-- crossing queues, 8 entries each; 07 R202 -/
  xq : SMap (List Token) := []
  /-- pairing queues, 4 entries each; 06 R179 -/
  pairData : List Token := []
  pairCtl : List Token := []
  /-- running pointers of the 4 scratchpad outputs, in words; 06 R179 -/
  steerPtr : List Nat := [0, 0, 0, 0]
  /-- steered tokens dropped; 06 R179 -/
  steerDrops : Nat := 0
  /-- STEP_CNT and HOLD_CNT at the swap into the section; 06 R187 -/
  startStep : DWord := 0
  startHold : Word := 0
  deriving DecidableEq, Repr

/-- A flit: its packet, its place in it, the region's cycle count when its packet's head reached this router (R230), and in detour mode
the distance at its entry with the last direction taken (R227). -/
structure Flit where
  pkt : Packet
  idx : Nat
  age : Nat
  det : Option (Nat × Nat) := none
  /-- 4-bit link sequence number on the link it is on; 08 R234 -/
  seq : Nat := 0
  /-- of a packet that is lost: its receiver discards it; 08 R228 -/
  dead : Bool := false
  deriving DecidableEq, Repr

/-- A broadcast in progress at an input (R229): the packet there, the outputs still fed with the numbers of their copies, and whether
the local output is. -/
structure FloodPlan where
  uid : Nat
  outs : List (Nat × Nat)
  here : Bool
  deriving DecidableEq, Repr

/-- A tile's two mesh routers. A buffer is keyed net x 64 + input x 8 + VC with inputs 0 N, 1 E, 2 S, 3 W, 4 local, and 5 for what the
bridge beside an injection tile has of it; a link net x 8 + port, the bridge's side of that tile's edge link net x 8 + 4 + port (R32,
R220, R230, R234, R236). -/
structure Router where
  /-- input buffers, 10 flits each; 08 R220 -/
  buf : SMap (List Flit) := []
  /-- flits on the link into an input; 08 R220 -/
  link : SMap (List Flit) := []
  /-- the last 8 flits sent on an output, unacknowledged; 08 R234 -/
  replay : SMap (List Flit) := []
  /-- outputs asked to resend, and from which sequence number; 08 R234 -/
  resend : SMap Nat := []
  /-- 4 bits by link: the sequence number sent next on an output, expected next at an input; 08 R234 -/
  txSeq : SMap Nat := []
  rxSeq : SMap Nat := []
  /-- failures of the present flit at an input; 08 R235 -/
  fails : SMap Nat := []
  /-- packets in progress with the output chosen and the head's age; 08 R225, R230 -/
  route : List (Packet × Nat × Nat) := []
  /-- inputs whose link is down; 08 R235 -/
  down : List Nat := []
  /-- inputs whose link retrains; 08 R235 -/
  retraining : List Nat := []
  /-- the 8-entry table of broadcasts seen; 08 R229 -/
  seen : List (Nat × Nat) := []
  /-- broadcasts in progress by input; 08 R229 -/
  flood : SMap FloodPlan := []
  /-- combine buffer, 16 entries, with the input it came by; 08 R240 -/
  combine : List (Nat × Packet) := []
  /-- flits at the local output, by net; 08 R220 -/
  eject : SMap (List Flit) := []
  deriving DecidableEq, Repr

/-- A tile's part in a snapshot, recovery or migration (R321 to R324, R329, R331). -/
structure SnapTile where
  /-- no new operation starts and nothing is injected; 11 R321 -/
  stopping : Bool := false
  /-- at its quiesce point; 11 R321 -/
  quiesced : Bool := false
  /-- blocks latched and not yet copied; 11 R323 -/
  pending : List Nat := []
  /-- blocks are being copied; 11 R323 -/
  copying : Bool := false
  /-- the tile has reported its last block; 11 R324 -/
  reported : Bool := false
  /-- frozen by a recovery; 11 R329 -/
  frozen : Bool := false
  /-- remote writes of the engine's own that are not yet acknowledged; 11 R323, R324 -/
  unacked : Nat := 0
  deriving DecidableEq, Repr

/-- One physical tile (R16). -/
structure Tile where
  core : Core := {}
  /-- four rings; 09 R256 -/
  rings : List Ring := [{}, {}, {}, {}]
  /-- at most 4; 04 R110 -/
  mxQ : List EngOp := []
  /-- at most 4; 02 R54 -/
  pzQ : List EngOp := []
  msg : MsgEngine := {}
  lat : Lattice := {}
  router : Router := {}
  /-- next line of each of the 16 banks for the patrol reader, 10; 02 R67 -/
  patrol : List Nat := List.replicate 16 0
  /-- reduction lanes in scratchpad that no value has entered yet, by absolute offset; 08 R238 -/
  redEmpty : List Nat := []
  /-- records whose COUNT has reached TOTAL, by absolute offset; 08 R243 -/
  redDone : List Nat := []
  snap : SnapTile := {}
  deriving DecidableEq, Repr

/-- A crossing of a region (R202 to R207, R422). -/
structure Crossing where
  src : Nat
  side : Nat
  pos : Nat
  net : Nat
  /-- 4, L; 07 R203 -/
  lat : Nat
  failed : Bool
  realign : Nat
  /-- carried lag in ns; 07 R203 -/
  lag : Rat
  deriving DecidableEq, Repr

/-- A Loupe record (R297). -/
structure LoupeRec where
  tb : Nat
  tile : Nat
  kind : Nat
  arg : Nat
  data : Nat
  deriving DecidableEq, Repr

/-- The measurements of a section in a region (R187). -/
structure SectMeas where
  gen : Nat
  cut : Bool
  steps : Nat
  holds : Nat
  stretches : Nat
  /-- tiles still in the section, those done with it not counted -/
  openTiles : List Nat
  /-- region stretch total at the first swap into it, less what it had gathered in a region it came from; 06 R187, log 105 -/
  startStretch : Int
  deriving DecidableEq, Repr

/-- A region's timed-action slot (R285, R287). -/
structure RegionAction where
  code : Nat
  at_ : Nat
  arg : Nat
  owner : Nat
  deriving DecidableEq, Repr

/-- The record of the most recent fence (R422 .0C to .0F). -/
structure FenceRec where
  cause : Nat := 0
  addr : Nat := 0
  ptile : Nat := 0xFFFFFFFF
  tb : Nat := 0
  deriving DecidableEq, Repr

/-- The counters of a region record (R422, R129, R158, R246, R264). -/
structure Counters where
  /-- 64, 32, 64, 64, 32; 04 R129 -/
  mxOk : Nat := 0
  mxErr : Nat := 0
  mxBody : Nat := 0
  mxDisp : Nat := 0
  mxResidue : Nat := 0
  /-- 64, 32, 64, 64, 32; 05 R158 -/
  pzOk : Nat := 0
  pzErr : Nat := 0
  pzBusy : Nat := 0
  pzDisp : Nat := 0
  pzResidue : Nat := 0
  /-- 64; 09 R264 -/
  delivered : Nat := 0
  /-- 7 of 32, by reason; 09 R264 -/
  naks : List Nat := List.replicate 7 0
  /-- 32 each, the last 64; 09 R264 -/
  holds : Nat := 0
  holdCycles : Nat := 0
  lostNaks : Nat := 0
  late : Nat := 0
  timeouts : Nat := 0
  sendErr : Nat := 0
  served : Nat := 0
  /-- per link, keyed ptile x 16 + net x 8 + port: corrected, replays, retrains; 08 R246 -/
  links : SMap (Nat × Nat × Nat) := []
  /-- 32 each; 08 R246 -/
  linksDown : Nat := 0
  detours : Nat := 0
  tileDown : Nat := 0
  discarded : Nat := 0
  merges : Nat := 0
  combineFull : Nat := 0
  redMiss : Nat := 0
  /-- 32; 10 R296 -/
  forced : Nat := 0
  /-- 32 of 32; 10 R296 -/
  releases : List Nat := List.replicate 32 0
  /-- 32; 14 R422 .4A -/
  refused : Nat := 0
  /-- 8; 14 R422 .4B -/
  refusedCase : Nat := 0
  /-- 32; 14 R422 .4C -/
  noPlane : Nat := 0
  /-- 32; 14 R422 .4D -/
  drift : Nat := 0
  /-- 32; 14 R422 .1A -/
  ecc : Nat := 0
  deriving DecidableEq, Repr

/-- One physical region (R15, R422). -/
structure Region where
  /-- 8; 11 R317 -/
  st : RegionState := .unpowered
  /-- role while DIMMED; 11 R317 -/
  role : RegionState := .reserve
  /-- 16, the binding; 14 R422 .02 -/
  binding : Nat := 0xFFFF
  /-- 8, the model slot; 14 R422 .03 -/
  mslot : Nat := 0xFF
  /-- 16, 0.1 degrees; 14 R422 .04 -/
  temp : Int := 0
  /-- 16 each, mV; 14 R422 .05, .06 -/
  coreMv : Nat := 0
  sramMv : Nat := 0
  /-- 6, the dimming level k; 07 R200 -/
  dim : Nat := 32
  /-- 64; 14 R422 .09 -/
  stretch : Nat := 0
  /-- 64; 14 R422 .0A -/
  hold : Nat := 0
  /-- running on the standby generator, standby lost; 14 R422 .0B -/
  onStandby : Bool := false
  standbyLost : Bool := false
  /-- cause, address, tile, TB; 14 R422 .0C to .0F -/
  fence : FenceRec := {}
  /-- TB of the detection of the earlier fault, for the repeat-fault window; 11 R318 -/
  lastFault : Option Nat := none
  /-- the present fence is the second within the repeat-fault window; 11 R318 -/
  repeatFault : Bool := false
  /-- calibration of the droop monitor, once done; 07 R199 -/
  droop : Option Nat := none
  /-- inbound crossings; 14 R422 .11 -/
  crossings : List Crossing := []
  /-- 32; 14 R422 .13 -/
  realign : Nat := 0
  /-- last complete section; 06 R187 -/
  lastSect : Option SectMeas := none
  /-- sections in progress, newest first; 06 R187 -/
  sects : List SectMeas := []
  /-- 8 repair pointers of 4; 01 R19 -/
  repair : List Nat := List.replicate 8 10
  ctr : Counters := {}
  /-- 2,048 Loupe records; 10 R297 -/
  loupe : List LoupeRec := []
  /-- 32, records not kept; 10 R298 -/
  loupeLost : Nat := 0
  /-- 4 region slots; 10 R285 -/
  actions : List RegionAction := []
  /-- region copy of TB minus the master, within 2 ticks; 10 R275 -/
  skew : Int := 0
  /-- 64, the value below which the copy does not go back; 10 R276 -/
  tbFloor : Nat := 0
  /-- core cycles elapsed, in 64ths, up to the master value that stands beside them (the model's own, log 103); 07 R195, R199, R214 -/
  cyc : Nat := 0
  cycTb : Nat := 0
  /-- phases lost, 0 to 2; 16 R472 -/
  phases : List Nat := []
  /-- the stage is on; 16 R471 -/
  stageOn : Bool := false
  /-- the stage fuse has tripped and latched; 16 R473 -/
  fuse : Bool := false
  /-- the clock is gated; 07 R212 -/
  gated : Bool := false
  /-- held UNPOWERED until the next BRINGUP; 11 R313 -/
  held : Bool := false
  /-- its fence is complete; 11 R314 -/
  fenceDone : Bool := false
  /-- the field node's latched participation summary while forced; 10 R271 -/
  forcedMask : Option Word := none
  /-- releases that wait at the crossing into the region while its clocks stand, in order: channel, tiles, event or not; the first eight
  stand in the crossing's queue and each later one waits on the link before it, its hop holding; 07 R202, R212, 10 R267 -/
  relPending : List (Nat × List Nat × Bool) := []
  /-- its copy of the binding table and of the fault map; 08 R222 -/
  copy : Option MeshTables := none
  /-- a fault notice not yet at the steward; 11 R314 -/
  noticeDue : Bool := false
  /-- in a retraining after service; 11 R318 -/
  retraining : Bool := false
  /-- trained in full in this BRINGUP; passed its short test; 15 R448, R451 -/
  trainedFull : Bool := false
  shortPassed : Bool := false
  lostInKat : Bool := false
  /-- tiles found defective by the monitor broadcast, physical numbers; 15 R446 -/
  defect : List Nat := []
  /-- step of a thermal migration: 1 noticed, 2 quiescing, 3 quiesced, 4 copied, 5 switched off, 6 resume armed; 11 R331 -/
  migrating : Nat := 0
  /-- TB of its step 1; 11 R331 -/
  migTb : Nat := 0
  deriving DecidableEq, Repr

/-- The kinds of BRINGUP start (R436), by their code in 0x2300.09. -/
inductive ResetKind
  | cold | rstN | warm | full
  deriving DecidableEq, Repr

/-- A condition reported to the Eyepiece for its next decision cycle (R6). -/
inductive Condition
  | toFault
  | toSafeHold
  | toKeepAlive
  | toRecovering
  deriving DecidableEq, Repr

/-- Device state, resets and power-on sequence (R4 to R6, R435 to R438). -/
structure Device where
  /-- 8; 00 R4 -/
  st : DevState := .off
  /-- 8; 14 R419 -/
  prior : DevState := .off
  /-- 64; 14 R419 -/
  transTb : Nat := 0
  /-- the state before RECOVERING, to return to; 00 R5 -/
  beforeRecovery : DevState := .ready
  /-- the state left for SAFE-HOLD; 00 R5 -/
  beforeHold : DevState := .ready
  /-- conditions reported and not yet taken, those that lost among them; 00 R6 -/
  conditions : List Condition := []
  /-- RST_N high; 15 R436 -/
  rstHigh : Bool := true
  /-- stages off after a reset, 10 ms not over; 15 R436 -/
  stagesOffWait : Bool := false
  /-- a reset held in SAFE-HOLD, KEEP-ALIVE or FAULT, or RST_N taken in AUX; 15 R436, R437 -/
  heldReset : Option ResetKind := none
  /-- step of R438 in progress, 0 none; 15 R438 -/
  bringupStep : Nat := 0
  /-- kind of the last BRINGUP, 0x2300.09; 15 R461 -/
  startKind : Nat := 0
  /-- TB at the start of the BRINGUP; duration of the last; 15 R461 -/
  bringupTb : Nat := 0
  bringupDur : Nat := 0
  /-- full training asked for; 15 R448 -/
  fullTraining : Bool := false
  /-- test 3 of R451 has applied; 15 R451 -/
  retrainUsed : Bool := false
  /-- 2 lockstep pairs working; 11 R312 -/
  pairs : List Bool := [true, true]
  /-- BOOTSEL as sampled; 15 R435 -/
  bootsel : Nat := 0
  /-- CLKSEL as sampled; 07 R190 -/
  clksel : Bool := false
  /-- NODE_ID as sampled, 7; 15 R435 -/
  nodeId : Nat := 0
  /-- READY, KEEPALIVE, FAULT_N forced to the safe states; 07 R212 -/
  forcedSafe : Bool := false
  /-- the field group powered next; 15 R438 -/
  nextGroup : Nat := 0
  /-- the field group calibrated next; 15 R438 -/
  nextCal : Nat := 0
  /-- 32, 0x2000.06; 14 R420 -/
  alert : Word := 0
  deriving DecidableEq, Repr

/-- Power and cooling (chapter 16). -/
structure Power where
  /-- mV; 16 R478 -/
  vin : Nat := 0
  /-- mA; 16 R478 -/
  iin : Nat := 0
  /-- W, 10 ms average; 16 R478 -/
  avg : Nat := 0
  /-- W, highest average; 16 R478 -/
  peak : Nat := 0
  /-- the last 100 averages, for the 1 s average; 16 R466 -/
  lastSecond : List Nat := []
  /-- mJ of input energy; 16 R478 -/
  energy : Nat := 0
  /-- W; 16 R478 -/
  rim : Nat := 0
  /-- VIN_54 within its range; 16 R468 -/
  vinOk : Bool := false
  /-- the breaker is closed; 16 R470 -/
  breaker : Bool := false
  /-- a trip awaits permission to close; 16 R470 -/
  tripped : Bool := false
  /-- mV of the 12 V bus; 16 R478 -/
  bus : Nat := 0
  /-- 26 bits, converters working; 16 R478 -/
  converters : BitVec 26 := BitVec.allOnes 26
  /-- 32; 16 R478 -/
  fuseTrips : Nat := 0
  /-- coolant, 0.1 degrees and 0.1 L/min; 16 R479 -/
  inlet : Int := 0
  outA : Int := 0
  outB : Int := 0
  flowA : Nat := 0
  flowB : Nat := 0
  /-- TB since which some junction is above 105 degrees; 16 R479 -/
  hotSince : Option Nat := none
  /-- samples in a row past a threshold: inlet, flow A, flow B; 16 R477 -/
  inletRun : Nat := 0
  flowARun : Nat := 0
  flowBRun : Nat := 0
  deriving DecidableEq, Repr

/-- The reference clock (chapter 07). -/
structure Clock where
  /-- 8, 0x2010.02; 07 R217 -/
  source : Nat := 0
  /-- 0x2010.03 bits 0 and 1; 07 R217 -/
  present : Bool := false
  locked : Bool := false
  /-- down-spread in force; 07 R217 -/
  spread : Bool := true
  /-- count of the last crystal window, agreeing windows; 07 R191 -/
  lastWindow : Nat := 0
  agree : Nat := 0
  /-- the source is qualified and the PLL moves to it; 07 R191 -/
  qualified : Bool := false
  /-- the reference was lost and the PLL has not relocked since; 07 R191 -/
  lost : Bool := false
  /-- 32, 0x2010.05; 07 R217 -/
  losses : Nat := 0
  /-- 64, 0x2010.06; 07 R217 -/
  lastHold : Nat := 0
  /-- 32, 0x2010.08; 07 R217 -/
  switchovers : Nat := 0
  /-- step of R212 in progress, 0 none; 07 R212 -/
  holdStep : Nat := 0
  /-- stamp of step 1; 07 R212 -/
  lossTb : Nat := 0
  /-- the monitor that reported it: 0 the rim, 0x1000 + region; 07 R211, 14 R433 -/
  lossMonitor : Nat := 0
  /-- seconds, taken at entry; 07 R215 -/
  holdTimeout : Nat := 60
  deriving DecidableEq, Repr

/-- The timebase master (R275 to R281). -/
structure Timebase where
  /-- 64; 10 R275 -/
  tb : Nat := 0
  /-- 0x2020.04; 10 R280 -/
  locked : Bool := false
  holdover : Bool := false
  stepped : Bool := false
  /-- 64 signed, 0x2020.09; 10 R281 -/
  offset : Int := 0
  /-- 32, 0x2020.0A; 10 R281 -/
  steps : Nat := 0
  /-- measurements in a row within 20 ns; 10 R280 -/
  good : Nat := 0
  /-- error still to be slewed, ticks; 10 R276 -/
  slew : Int := 0
  /-- ticks since the last slew; 10 R276 -/
  slewAge : Nat := 0
  /-- 0x2020.03 value and the TB of its write; 10 R278 -/
  ppsNext : Option (Nat × Nat) := none
  /-- TB of the last accepted PPS edge; 10 R278 -/
  ppsLast : Nat := 0
  /-- a two-step Sync that awaits its Follow_Up: sequence, TB of its arrival; 10 R279 -/
  ptpWait : Option (Nat × Nat) := none
  /-- the last Sync: the source's time, TB of its arrival; 10 R279 -/
  ptpSync : Option (Nat × Nat) := none
  /-- the Delay_Req that awaits its answer: sequence, TB of its departure; 10 R279 -/
  ptpReq : Option (Nat × Nat) := none
  /-- 16, sequence of the next Delay_Req; 10 R279 -/
  ptpSeq : Nat := 0
  /-- TB_PPS_OUT level; 10 R281 -/
  ppsOut : Bool := false
  deriving DecidableEq, Repr

/-- Beam channels at the wafer root (R265 to R274). -/
structure Beam where
  /-- 32 of 32, 0x2501; 10 R296 -/
  releases : List Nat := List.replicate 32 0
  /-- 32, 0x2500.04; 10 R296 -/
  copiesFailed : Nat := 0
  /-- copies failed, by segment: fields 0 to 47 then 48 + region; 10 R272 -/
  failed : SMap (List Nat) := []
  /-- system-scope: up state sent, 8-bit release count, by channel; 10 R273 -/
  upSent : SMap Nat := []
  count : List Nat := List.replicate 32 0
  /-- COUNT of the last release block, by channel; 12 R350 -/
  lastRelease : SMap Nat := []
  /-- latest up frame of a child: key port x 32 + channel; 10 R273 -/
  childUp : SMap Nat := []
  /-- beam links down, by port; 10 R274 -/
  linkDown : List Nat := []
  deriving DecidableEq, Repr

/-- A timed-action slot of the Eyepiece (R285). -/
structure TimedSlot where
  /-- 64, .01; 10 R285 -/
  t : Nat := 0
  /-- 64, .02; 10 R285 -/
  op : Nat := 0
  /-- captured at arming; 10 R286 -/
  armT : Nat := 0
  armOp : Nat := 0
  /-- 8, .04; 10 R285 -/
  status : Nat := 0
  /-- 8, .05; 10 R285 -/
  reason : Nat := 0
  /-- 64, .06; 10 R285 -/
  done : Nat := 0
  /-- distributed after T, or due in a SAFE-HOLD; 10 R287, 07 R214 -/
  late : Bool := false
  /-- source that armed it, and the order of arming; 10 R283 -/
  armSrc : Nat := 0
  armSeq : Nat := 0
  /-- a snapshot whose shares have begun: the first of its regions has reached T; 10 R287 -/
  begun : Bool := false
  deriving DecidableEq, Repr

/-- An event object's counters (R291). -/
structure EventObj where
  /-- 32, .03; 10 R291 -/
  fired : Nat := 0
  /-- 64, .04; 10 R291 -/
  lastTb : Nat := 0
  /-- 32, .05; 10 R291 -/
  refused : Nat := 0
  deriving DecidableEq, Repr

/-- An event-log record (R432). -/
structure LogRec where
  tb : Nat
  seq : Nat
  source : Nat
  code : Nat
  severity : Nat
  flags : Nat
  arg0 : Nat
  arg1 : Nat
  /-- ticks by which TB has been stepped since its stamp, while an EVENT frame waits; 14 R434 -/
  moved : Int := 0
  deriving DecidableEq, Repr

/-- Timed actions, events, notify output (chapter 10). -/
structure Signals where
  /-- 64 slots by number, and internal ones from 256 up; 10 R285, 11 R320, R328 -/
  timed : SMap TimedSlot := []
  /-- slots armed so far; 10 R283 -/
  armCount : Nat := 0
  /-- 32, 0x2508.02; 10 R289 -/
  lateCount : Nat := 0
  /-- 32 event objects; 10 R291 -/
  events : SMap EventObj := []
  /-- notify records on their way to the Eyepiece; 10 R294 -/
  notifyIn : List NotifyRec := []
  /-- the Eyepiece's queue of 512; 10 R294 -/
  notifyQ : List NotifyRec := []
  /-- log records held for an EVENT frame; 14 R434 -/
  eventQ : List LogRec := []
  /-- 16, LOST of the next record; 10 R295 -/
  lost : Nat := 0
  /-- 32, records emitted; 10 R295 -/
  seq : Nat := 0
  /-- 32, 0x2580.05; 10 R295 -/
  discarded : Nat := 0
  deriving DecidableEq, Repr

/-- A dictionary value: a number of the object's width, or the bytes of a STRING or DOMAIN (R405). -/
inductive Val
  | num (n : Nat)
  | bytes (b : List Byte)
  deriving DecidableEq, Repr

/-- A record of the configuration store's journal (R427). -/
structure StoreRec where
  typ : Nat
  index : Nat
  sub : Nat
  seq : Nat
  val : Val
  magic : Nat
  crc : Nat
  commit : Nat
  deriving DecidableEq, Repr

/-- A bank of the configuration store (R427): its header's generation and commit word, its records; what follows them is blank. -/
structure Bank where
  generation : Nat := 0xFFFFFFFF
  commit : Nat := 0xFFFFFFFFFFFFFFFF
  recs : List StoreRec := []
  deriving DecidableEq, Repr

/-- A write session (R416). -/
structure Session where
  src : Nat
  client : Nat
  total : Nat
  /-- bytes written so far, by offset -/
  data : SMap Byte
  /-- next expected offset of a streamed object -/
  next : Nat
  deriving DecidableEq, Repr

/-- A dictionary response (R408, R409). -/
structure Response where
  src : Nat
  client : Nat
  tid : Nat
  cmd : Nat
  status : Nat
  index : Nat
  sub : Nat
  typ : Nat
  fin : Bool
  offset : Nat
  data : List Byte
  deriving DecidableEq, Repr

/-- What leaves the module: responses and frames, oldest first. -/
inductive Out
  | response (r : Response)
  | canFrame (iface func src dst : Nat) (data : List Byte)
  | udpFrame (iface : Nat) (addr : List Byte) (udpPort : Nat) (data : List Byte)
  | uart (r : LogRec)
  | block (p : Nat) (data : List Byte)
  | frame (p : Nat) (octets : List Byte)
  | stream (p : Nat) (c : CsFrame)
  | ethernet (p iface : Nat) (vlan dstMac : Nat) (kind : Nat) (data : List Byte)
  | datagram (p iface vlan dstMac : Nat) (dstIp dstPort srcPort : Nat) (data : List Byte)
  | grp (c : Client) (data : List Byte)
  | ptp (port seq : Nat)
  deriving DecidableEq, Repr

/-- The dictionary: values in force, sessions, copies, responses kept (chapter 14). -/
structure Dict where
  /-- RW and RWS values that differ from their default, key index x 256 + subindex; 14 R405 -/
  vals : SMap Val := []
  /-- values in force of objects whose writes take effect later: 0x1010.02; 0x1011.02 and .03 for each management port, under a key
  of their own; 14 R418, R428 -/
  inForce : SMap Val := []
  /-- open write sessions by object; 14 R416 -/
  sessions : SMap Session := []
  /-- latched read copies: source, client, object, bytes; 14 R415 -/
  copies : List (Nat × Nat × Nat × List Byte) := []
  /-- each client's last 64 responses; 14 R414 -/
  kept : List Response := []
  /-- selections kept per source: key object x 8 + source; 14 R407 -/
  sel : SMap Nat := []
  /-- 32, 0x1012.02, .03; 14 R418 -/
  malformed : Nat := 0
  retries : Nat := 0
  /-- 32 each, 0x1010.05, .06; 14 R418 -/
  canErr : List Nat := [0, 0]
  /-- CAN interfaces bus-off; 14 R433 -/
  busOff : List Bool := [false, false]
  /-- the dictionary serves; 14 R404 -/
  serving : Bool := false
  /-- heartbeats run; TB of the next; 14 R434 -/
  nextBeat : Option Nat := none
  /-- control-space accesses at the Eyepiece; 01 R38, 09 R253 -/
  accesses : List Packet := []
  deriving DecidableEq, Repr

/-- The event log (R431 to R433). -/
structure EventLog where
  /-- records in flash; 14 R431 -/
  flash : List LogRec := []
  /-- records not yet in flash; 14 R431 -/
  mem : List LogRec := []
  /-- 32, next SEQ; 14 R432 -/
  seq : Nat := 0
  /-- 32, 0x6000.05; 14 R431 -/
  suppressed : Nat := 0
  /-- stall records logged, by the second of TB of their stamps; 14 R433 -/
  stalls : SMap Nat := []
  deriving DecidableEq, Repr

/-- The configuration store, in module flash (R427 to R430). -/
structure Store where
  /-- bank 0 in flash A, bank 1 in flash B; 14 R427, 15 R439 -/
  bank0 : Bank := { generation := 1, commit := 0x434D495400000001 }
  bank1 : Bank := {}
  /-- the flash can be neither written nor read back, as the last request found it; 14 R429 -/
  broken : Bool := false
  /-- 32, next journal sequence; 14 R427 -/
  seq : Nat := 1
  /-- 32 each, 0x1020.04, .05; 14 R418 -/
  compactions : Nat := 0
  failures : Nat := 0
  /-- DEAD marks; 11 R319 -/
  deadMarks : List Nat := []
  /-- ticks with a junction above 105 degrees since manufacture, for 0x2200.0A; 16 R479 -/
  hotTicks : Nat := 0
  deriving DecidableEq, Repr

/-- A stored training record (R447). -/
structure TrainRec where
  seq : Nat
  serial : Nat
  format : Nat
  valid : Bool
  repair : SMap (List Nat)
  /-- spare rows by tile: bank and failing row -/
  spares : SMap (List (Nat × Nat))
  /-- droop-monitor calibrations by region -/
  droop : SMap Nat
  /-- calibrations of the crossings; 15 R447 -/
  cal : List CrossingCal
  /-- regions that failed training; 15 R447 -/
  failed : List Nat
  /-- lane equalisation by port; 15 R447 -/
  lanes : SMap (List Byte) := []
  deriving DecidableEq, Repr

/-- The image partition of a boot flash (R439): what it holds from manufacture stands until it is erased; then what was written, the
rest erased. -/
structure ImagePart where
  erased : Bool := false
  bytes : SMap Byte := []
  deriving DecidableEq, Repr

/-- Boot flashes, fuses and security (chapter 15). -/
structure Boot where
  /-- 0x2300.02 preferred flash; 15 R461 -/
  preferred : Nat := 0
  /-- 0x2300.03; 15 R461 -/
  booted : Nat := 0
  /-- 0x2300.04, .05; 15 R461 -/
  reasonA : Nat := 9
  reasonB : Nat := 9
  /-- 0x2300.06, .07; 15 R461 -/
  imageVersion : Nat := 0
  secVersion : Nat := 0
  /-- anti-rollback counter: how many of its 128 fuses, in ascending order, are set; 15 R452 -/
  counter : Nat := 0
  /-- key slot, TRAIN_FORMAT and signed message of the running image; 15 R440 -/
  keySlot : Nat := 0
  trainFormat : Nat := 0
  message : List Byte := []
  /-- its tile monitor, held in Eyepiece memory; 15 R444, R445 -/
  monitor : List Byte := []
  /-- its known-answer vectors; 15 R440, R449 -/
  vectors : List Byte := []
  /-- 0x2300.0B, .0C; 15 R461 -/
  trainingUsed : Nat := 0
  trainedFull : Nat := 0
  /-- 0x2300.0E; 15 R461 -/
  trial : Nat := 0
  /-- training record copies A and B; 15 R447 -/
  trainA : Option TrainRec := none
  trainB : Option TrainRec := none
  /-- 4, image key revocation; 15 R452 -/
  imgRevoked : BitVec 4 := 0
  /-- 8 bundle key slots of 384; 15 R452 -/
  bundleKeys : List (Option (List Byte)) := List.replicate 8 none
  /-- 8, bundle key revocation; 15 R452 -/
  bdlRevoked : BitVec 8 := 0
  /-- 0x2320.06; 15 R461 -/
  update : Nat := 0
  /-- owner of the update, and the flash it targets; 15 R459 -/
  owner : Option Nat := none
  target : Nat := 1
  /-- 32, 0x2320.02 write offset; 15 R461 -/
  writeOff : Nat := 0
  /-- 0x2320.07; 15 R461 -/
  verifyReason : Nat := 0
  /-- the image partitions of flash A and B; 15 R439 -/
  imageA : ImagePart := {}
  imageB : ImagePart := {}
  /-- public keys of the identity key pairs that the boot ROM derived at AUX; 15 R452 -/
  identity : List Byte := []
  /-- preferred flash before ACTIVATE; 15 R459 -/
  oldPreferred : Nat := 0
  /-- 0x2330.03, the nonce, the report; 15 R454 -/
  attest : Nat := 0
  nonce : List Byte := []
  attestReport : List Byte := []
  /-- 0x2340.01 challenge; 15 R455 -/
  challenge : List Byte := List.replicate 32 0
  /-- 32, 0x2340.03; 15 R455 -/
  perms : Word := 0
  /-- bundle held in flash A, B and 0x2360+f.03; 15 R458 -/
  flashBundle : List (Option Bundle) := [none, none]
  copyState : List Nat := [0, 0]
  copyOff : List Nat := [0, 0]
  deriving DecidableEq, Repr

/-- A segment-wise egress datagram being reassembled (R374). -/
structure Partial where
  srcDev : Nat
  srcLtile : Nat
  seq : Nat
  iface : Nat
  ip : Nat
  udpPort : Nat
  udpLen : Nat
  nseg : Nat
  segs : SMap (List Byte)
  deriving DecidableEq, Repr

/-- The counters of a port (R376), 0x3100 + p.01 to .13. -/
structure PortCounters where
  framesTx : Nat := 0
  framesRx : Nat := 0
  bytesTx : Nat := 0
  bytesRx : Nat := 0
  fec : Nat := 0
  badCodewords : Nat := 0
  naks : Nat := 0
  retrains : Nat := 0
  laneChanges : Nat := 0
  badBlocks : Nat := 0
  ttl : Nat := 0
  noRoute : Nat := 0
  repeats : Nat := 0
  merges : Nat := 0
  borrows : Nat := 0
  csErrors : Nat := 0
  ethDiscards : Nat := 0
  ingressDrops : Nat := 0
  egressDrops : Nat := 0
  deriving DecidableEq, Repr

/-- What a companion request serves (R366 to R368): a packet, a CMT round or a log write of a model slot, INFO, or a STRM with the
destinations of its bytes as (window offset, bytes, logical tile, scratchpad offset). -/
inductive CsReq
  | packet (k : Packet)
  | commit (m : Nat)
  | info
  | stream (dests : List (Nat × Nat × Nat × Nat))
  deriving DecidableEq, Repr

/-- A port and its bridge (chapter 12). -/
structure Port where
  /-- 0x3000 + p.05; 12 R339 -/
  st : Nat := 0
  cause : Nat := 0
  /-- 18 bits each; 12 R341 -/
  txLanes : Nat := 0
  rxLanes : Nat := 0
  partner : Option Partner := none
  /-- what a TRAIN block said of the partner; 12 R343, R351 -/
  heard : Option Partner := none
  /-- its TRAIN block said that it is ready to carry traffic; 12 R343, R352 -/
  partnerReady : Bool := false
  /-- saved lane settings exist; 12 R339 -/
  saved : Bool := false
  /-- equalisation of its 18 lanes, empty while it has none; 15 R447 -/
  equal : List Byte := []
  /-- 12-bit link sequence: next to send, next expected; 12 R346 -/
  txSeq : Nat := 0
  rxSeq : Nat := 0
  /-- unacknowledged frames, at most 2,048; 12 R346 -/
  replay : List LinkFrame := []
  /-- frames to resend first; 12 R346 -/
  resend : List LinkFrame := []
  /-- the frame last refused and its refusals in a row; 12 R339 -/
  refused : Option Nat := none
  refusals : Nat := 0
  /-- a discarded frame's NAK is out; 12 R346 -/
  nakOut : Bool := false
  /-- frames received since the last ACK; 12 R346 -/
  sinceAck : Nat := 0
  /-- blocks sent and not freed by the partner with their DL, by VC; the counts it last sent; 12 R347, R361 -/
  unfreed : SMap (List (Nat × Bool)) := []
  freedByPartner : List Nat := List.replicate 6 0
  /-- blocks freed here, and as last reported; 12 R347 -/
  freed : List Nat := List.replicate 6 0
  freedTold : List Nat := List.replicate 6 0
  /-- 16-bit trunk sequence: next to send, next to deliver, frames waiting; 12 R352 -/
  tseqTx : Nat := 0
  tseqRx : Nat := 0
  reorder : List (Nat × LinkFrame) := []
  /-- first TSEQ from which a returned member carries traffic; 12 R352 -/
  joinAt : Option Nat := none
  /-- frames of a member out of service to be sent anew; 12 R352 -/
  again : List LinkFrame := []
  /-- packets from the mesh, and frames from the rim, waiting for the port, with the TB of their arrival; 12 R345 -/
  fromMesh : List (Nat × Packet) := []
  fromRim : List (Nat × LinkFrame) := []
  /-- packets for the mesh; 01 R31 -/
  toMesh : List Packet := []
  /-- flits of the packet that enters the mesh now, with their injection tile; 01 R29, 08 R234 -/
  inj : List (Nat × Flit) := []
  /-- rotation of the bridge over injection points; 01 R31 -/
  rotor : Nat := 0
  /-- rotation of the packets that leave by the port; 08 R222 -/
  exitRotor : Nat := 0
  /-- lender while borrowing; 01 R31 -/
  lender : Option Nat := none
  /-- companion requests by tag; 12 R365 -/
  tags : SMap CsReq := []
  /-- requests of the stream engine and Periscope; stream frames received; 12 R366 to R368 -/
  csOut : List (CsReq × CsFrame) := []
  csIn : List LinkFrame := []
  /-- box capacity and protocol version of INFOR; 12 R365 -/
  boxInfo : Option (Nat × Nat) := none
  /-- TX, arrival TB of the last TIME block received; 12 R349 -/
  timeRx : Option (Nat × Nat) := none
  /-- gateway MAC addresses by interface x 2 + v6; 12 R372 -/
  gateways : SMap Nat := []
  /-- datagram counts by interface; 12 R373 -/
  datagrams : SMap Nat := []
  /-- ingress datagrams forwarded: interface, SEQ, whether dropped for a NAK, the last one of each pair; 12 R373 -/
  forwarded : List (Nat × Nat × Bool) := []
  /-- egress messages; datagrams in parts; 12 R374 -/
  egress : List Packet := []
  partials : List Partial := []
  /-- serving UDP port in force; 13 R379 -/
  udpPort : Nat := 20057
  /-- 0x3000 + p.10, .11 in force; 12 R341 -/
  ingress : Nat := 0x7FFFF
  ingressTag : Nat := 0
  /-- combine buffer of 64; 12 R362 -/
  combine : List Packet := []
  ctr : PortCounters := {}
  deriving DecidableEq, Repr

/-- What a rim ring carries (R26, R27, R31, R359): a frame or an egress packet for the destination's port, or mesh-bound traffic that
it lends its injection points to. -/
inductive RimLoad
  | frame (f : LinkFrame)
  | egress (k : Packet)
  | mesh (k : Packet)
  deriving DecidableEq, Repr

/-- An item on a rim ring (R26, R27). -/
structure RimItem where
  /-- 5, its destination bridge; 01 R26 -/
  dst : Nat
  /-- what it carries; 01 R33 -/
  load : RimLoad
  deriving DecidableEq, Repr

/-- A port's part of the companion map in force (R355, R364): window base and size, set size, generation. -/
structure CompEntry where
  port : Nat
  base : Nat
  size : Nat
  members : Nat
  gen : Nat
  deriving DecidableEq, Repr

/-- The fabric: ports, rings, routes (R26, R354 to R360). -/
structure Fabric where
  ports : SMap Port := []
  /-- unusable segments of rim A and rim B; 01 R26 -/
  rimDown : List (Nat × Nat) := []
  /-- what waits at a bridge for insertion on a ring, keyed ring x 32 + bridge; 01 R27 -/
  rimIn : SMap (List RimItem) := []
  /-- what is on a segment, keyed ring x 32 + segment; segment n joins bridges n and n + 1; 01 R26 -/
  rimOn : SMap (List RimItem) := []
  /-- frames that have passed a bridge since its last insertion while one waits, keyed ring x 32 + bridge; 01 R27 -/
  rimPass : SMap Nat := []
  /-- 8-bit broadcast sequence number of the steward and the Eyepiece; 08 R229 -/
  meshSeq : Nat := 0
  /-- number of the last broadcast of the tables; 08 R222 -/
  tableNo : Nat := 0
  /-- packets that have entered the mesh; the model's own, log 49 -/
  packetNo : Nat := 0
  /-- route table, 32,768 entries of 64; 12 R354 -/
  routes : SMap Nat := []
  /-- the forwarding map in force; 32, its version; 12 R355 -/
  map : SMap Nat := []
  version : Nat := 0
  /-- the companion map in force, by port; 12 R355, R364 -/
  compMap : List CompEntry := []
  /-- 16-bit broadcast counter; the last 256 pairs seen; 12 R360 -/
  bseq : Nat := 0
  seen : List (Nat × Nat) := []
  /-- device ID in force; 12 R353 -/
  devId : Nat := 0xFFFF
  deriving DecidableEq, Repr

/-- A stream's state (R391). -/
inductive StreamState
  | partPrompt | queued | prefill | decode
  deriving DecidableEq, Repr

/-- How far a stream stands: its state, tokens generated, prompt tokens injected, chunks and a token in flight (R332). -/
structure StreamCut where
  st : StreamState := .prefill
  generated : Nat := 0
  injected : Nat := 0
  flying : List Nat := []
  inFlight : Bool := false
  deriving DecidableEq, Repr

/-- A stream of the stream table (R308, R391). -/
structure Stream where
  id : Nat
  slot : Nat
  client : Client
  reqId : Nat
  st : StreamState
  priority : Nat
  mode : Nat
  topK : Nat
  temp : Nat
  topP : Nat
  maxNew : Nat
  seed : Nat
  promptLen : Nat
  stops : List Nat
  /-- prompt tokens received, by offset -/
  prompt : SMap Nat
  /-- TB of the frame that completed the prompt, arrival number, TB of the REQUEST -/
  rxTb : Nat
  arrival : Nat
  startTb : Nat
  inst : Nat
  lane : Nat
  /-- prompt tokens injected, numbers of the chunks in flight, oldest first -/
  injected : Nat
  flying : List Nat
  /-- a decode token is in flight -/
  inFlight : Bool
  /-- tokens generated; highest index sent plus one; the last 256 as (index, token, reason, stamp) -/
  generated : Nat
  sent : Nat
  kept : List (Nat × Nat × Nat × Nat)
  /-- token output stopped by a recovery or migration; 11 R328, R331 -/
  paused : Bool
  /-- TB since which the next decode token waits; 13 R393 -/
  waitTb : Nat := 0
  /-- where it stood at the last cut, and at the last committed one; 11 R332 -/
  atCut : StreamCut := {}
  atCommit : StreamCut := {}
  /-- and at the committed cuts of a pipeline over several devices, by their TB; 13 R400 -/
  cuts : SMap StreamCut := []
  deriving DecidableEq, Repr

/-- A crossing that a lattice path passes (R304, R186). -/
structure PathXing where
  src : Nat
  dst : Nat
  outPort : Nat
  /-- position on the consumer's side -/
  pos : Nat
  lat : Nat
  deriving DecidableEq, Repr

/-- A route word that a lattice path adds: tile, network, input, output, the sections in which the link is live (R304). -/
structure PathHop where
  ltile : Nat
  net : Nat
  inp : Nat
  out : Nat
  sects : List Nat
  deriving DecidableEq, Repr

/-- A lattice path between two regions (R304). -/
structure LatPath where
  use : LinkUse
  /-- latency in steps -/
  lat : Nat
  xings : List PathXing
  hops : List PathHop
  deriving DecidableEq, Repr

/-- A model slot (R382). -/
structure ModelSlot where
  /-- 8, .01; 13 R382 -/
  st : Nat := 0
  /-- state before RECOVERING; 13 R384 -/
  former : Nat := 0
  /-- 8 each, .06; 13 R382 -/
  code : Nat := 0
  detail : Nat := 0
  bundle : Option Bundle := none
  /-- (logical slot, physical region); 11 R302 -/
  binding : List (Nat × Nat) := []
  /-- lattice paths placed between regions, planes recomputed for them; 11 R304, 06 R184 -/
  paths : List LatPath := []
  planes : List PlaneSeg := []
  /-- companion offset that it was loaded from; 11 R307 -/
  loadSrc : Option Nat := none
  /-- its weights stand in the bound regions; 13 R383 -/
  placed : Bool := false
  /-- a management write has delivered the whole image; 13 R383 -/
  arrived : Bool := false
  /-- loaded by 0x2300.0D, to be served when the load ends with OK; 15 R451 -/
  autoServe : Bool := false
  /-- .09, .0A; 13 R382 -/
  report : List Byte := []
  oldReport : List Byte := []
  /-- 32; 06 R186 -/
  bindEpoch : Nat := 0
  /-- snapshot number committed, TB of its cut; 11 R326 -/
  committed : Nat := 0
  cutTb : Nat := 0
  /-- share in progress: snapshot number, TB of its start, then of its cut; 11 R320 -/
  share : Option (Nat × Nat) := none
  /-- binding epoch in force at its cut; 11 R325 -/
  cutEpoch : Nat := 0
  /-- the share goes to companion memory; 11 R324, R325 -/
  shareComp : Bool := false
  /-- members whose CACK is awaited; 12 R367 -/
  cmtWait : List Nat := []
  /-- a copy, a log write or a commit failed; 11 R324, 12 R366, R367 -/
  logFail : Bool := false
  /-- what a share to companion memory has begun: 1 the records, 2 their COMMIT words, 3 the first CMT, 4 the commit record, 5 the
  second CMT; 12 R367 -/
  cmtRound : Nat := 0
  deriving DecidableEq, Repr

/-- A datagram whose segments the runtime's ring holds in part (R373): its sender, SEQ, length, segments by index. -/
structure GrpPart where
  client : Client
  seq : Nat
  len : Nat
  nseg : Nat
  segs : SMap (List Byte)
  deriving DecidableEq, Repr

/-- The resident runtime and Periscope (chapters 11, 13). -/
structure Steward where
  /-- 16 each, 0x2400.04, .05; 11 R336 -/
  primary : Nat := 0xFFFF
  standby : Nat := 0xFFFF
  /-- 32 each, 0x2400.06, .07; 11 R336 -/
  failovers : Nat := 0
  bindings : Nat := 0
  /-- Periscope runs; 11 R300 -/
  running : Bool := false
  /-- the 8 model slots, by number; 13 R382 -/
  slots : SMap ModelSlot := []
  /-- the stream table; 13 R391 -/
  streams : List Stream := []
  /-- next stream number, arrival number; 13 R386, R392 -/
  nextStream : Nat := 0
  arrivals : Nat := 0
  /-- records of started streams in the Eyepiece; 13 R395 -/
  recorded : List (Nat × Client × Nat × Nat) := []
  /-- ERROR frames due when the reference returns: stream, client, REQ_ID, code, SENT; 13 R395 -/
  owed : List (Nat × Client × Nat × Nat × Nat) := []
  /-- 64, 64, 32, 32, 0x2600.06 to .09; 13 R403 -/
  accepted : Nat := 0
  tokens : Nat := 0
  errors : Nat := 0
  discarded : Nat := 0
  /-- 16-bit number of the datagrams that the runtime sends; 12 R374 -/
  grpSeq : Nat := 0
  /-- datagrams in the runtime's ring that it has not handled: whole ones with their sender, and parts; 01 R39, 12 R373 -/
  inbox : List (Client × List Byte) := []
  parts : List GrpPart := []
  /-- commit records, snapshot number and TB of the cut by model slot, as the primary and the standby hold them; 11 R324 -/
  commits : SMap (Nat × Nat) := []
  standbyCommits : SMap (Nat × Nat) := []
  /-- number of the next prompt chunk injected; 13 R393 -/
  chunkNo : Nat := 0
  deriving DecidableEq, Repr

/-- A snapshot record of a companion store (R325). -/
structure CompRec where
  snap : Nat
  ltile : Nat
  epoch : Nat
  kind : Nat
  cutTb : Nat
  blocks : SMap (List Byte)
  /-- the context that its context blocks hold (log 14) -/
  ctx : Option Tile
  /-- window offset of its first byte -/
  at_ : Nat := 0
  deriving DecidableEq, Repr

/-- Snapshots and recovery (chapter 11). -/
structure Recovery where
  /-- 32, number of the last snapshot action; 11 R320 -/
  snapNo : Nat := 0
  /-- model slots of the snapshot in its first phase; 11 R321 -/
  snapScope : List Nat := []
  /-- 0x2410.07 to .0B; 11 R336 -/
  lastAll : Nat := 0
  lastCut : Nat := 0
  aborted : Nat := 0
  skipped : Nat := 0
  copied : Nat := 0
  /-- snapshots above the last complete one that some slot of their scope missed; 11 R336 -/
  missedNos : List Nat := []
  /-- contexts written at the quiesce point, by logical tile; 11 R322 -/
  contexts : SMap Tile := []
  /-- staging blocks, key logical tile x 256 + block; 11 R324 -/
  staging : SMap (List Byte) := []
  /-- stash blocks by the same key, and contexts by logical tile, each with its snapshot number; 11 R324 -/
  stash : SMap (Nat × List Byte) := []
  stashCtx : SMap (Nat × Tile) := []
  /-- logical tiles whose mirror has staging to apply, with the snapshot committed; 11 R324, R326 -/
  unapplied : SMap Nat := []
  /-- snapshot records held by companions; 11 R325 -/
  compLog : List CompRec := []
  /-- 0x2420.01 to .05; 11 R336 -/
  count : Nat := 0
  number : Nat := 0
  step : Nat := 0
  detectTb : Nat := 0
  resumeTb : Nat := 0
  /-- model slots and fenced regions of the recovery; 11 R327 -/
  scope : List Nat := []
  lost : List Nat := []
  /-- step 4 done, step 5 done, step 6 done; 11 R328 -/
  rolledBack : Bool := false
  rebound : Bool := false
  rebuilt : Bool := false
  /-- the replacement tiles are set up and their weights on the way; 11 R307 -/
  prepared : Bool := false
  /-- step 7 done; the resume is armed, step 8; 11 R328 -/
  restored : Bool := false
  armed : Bool := false
  /-- regions moved by a column shift: from, to, nearest the reserve first; logical slots whose regions were lost; 11 R311 -/
  moved : List (Nat × Nat) := []
  replaced : List Nat := []
  /-- regions that change binding in a migration, by hot region; 11 R331 -/
  migMoves : SMap (List (Nat × Nat)) := []
  /-- TB values of fences in a field within 1 ms, by field; 11 R315 -/
  fieldFences : SMap (List Nat) := []
  /-- fields fenced, TB; 14 R423 -/
  fieldFenced : SMap Nat := []
  /-- TB of the last field fence, by field; 14 R423 -/
  lastFieldFence : SMap Nat := []
  deriving DecidableEq, Repr

/-- The whole block. -/
structure State where
  dev : Device := {}
  power : Power := {}
  clock : Clock := {}
  time : Timebase := {}
  beam : Beam := {}
  sig : Signals := {}
  dict : Dict := {}
  log : EventLog := {}
  store : Store := {}
  boot : Boot := {}
  fabric : Fabric := {}
  steward : Steward := {}
  recov : Recovery := {}
  /-- 4,608 regions; an unlisted one is as at reset; 01 R15 -/
  regions : SMap Region := []
  /-- 405,504 physical tiles; an unlisted one is as at reset; 01 R16 -/
  tiles : SMap Tile := []
  /-- the scratchpads; 02 R63 -/
  mem : Memory := []
  /-- what has left the module, oldest first (the model's own, log 2) -/
  out : List Out := []
  /-- counter that makes each free value fresh (the model's own, log 9) -/
  free : Nat := 0
  /-- commands waiting, first in, first out (the model's own) -/
  pending : List Instr := []
  deriving DecidableEq, Repr

/-- What stops the model with a fault: nothing of the W48 does, so there is no fault. Safe: every command has a next
state. -/
inductive Fault
  deriving DecidableEq, Repr

/-- Why the model refuses a command. -/
inductive Refusal
  /-- Raised by exec for a command that has no meaning yet. Safe: the run stops. -/
  | notModelled (mnemonic : String)
  deriving DecidableEq, Repr

/-- The W48 as manufactured, before its first power: every field at the default its comment explains (log 5). -/
def State.reset : State := {}

end Sys2Proof.Machine
end

