-- ==== Sys2Proof/Machine/Ops.lean ====
section
/-! DEFINITION. The named operations of the model: sparse maps, scratchpad memory, tiles and regions, the event log and
Loupe, task switching and program faults (R46, R50), wakes and beam votes (R72, R266), region faults (R313, R314) and
device transitions (R5). -/

namespace Sys2Proof.Machine

/-- A step's answer. -/
abbrev Res := Host.Outcome State Fault Refusal

/-! Sparse maps. -/

/-- The entry of a key. -/
def smGet {α : Type} : SMap α → Nat → Option α
  | [], _ => none
  | (k, v) :: m, a => if a = k then some v else smGet m a

/-- The entry of a key, or what an unlisted key means. -/
def smGetD {α : Type} (m : SMap α) (a : Nat) (d : α) : α := (smGet m a).getD d

/-- A map with one entry set, keys kept rising. -/
def smSet {α : Type} : SMap α → Nat → α → SMap α
  | [], a, v => [(a, v)]
  | (k, w) :: m, a, v => if a < k then (a, v) :: (k, w) :: m else if a = k then (a, v) :: m else (k, w) :: smSet m a v

/-- A map without a key. -/
def smDel {α : Type} (m : SMap α) (a : Nat) : SMap α := m.filter fun e => e.1 ≠ a

/-- A map with one entry changed. -/
def smUpd {α : Type} (m : SMap α) (a : Nat) (d : α) (f : α → α) : SMap α := smSet m a (f (smGetD m a d))

/-! Scratchpad memory (R63): one canonical form. -/

/-- What an unlisted byte reads as: 0, as after cold power-up (R71). -/
def memDefault : Byte := 0

/-- The byte at an address. -/
def memRead (m : Memory) (a : Nat) : Byte := smGetD m a memDefault

/-- Memory with one byte written, in canonical form. -/
def memWrite (m : Memory) (a : Nat) (b : Byte) : Memory := if b = memDefault then smDel m a else smSet m a b

/-- `n` bytes from an address. -/
def memReads (m : Memory) (a : Nat) : Nat → List Byte
  | 0 => []
  | n + 1 => memRead m a :: memReads m (a + 1) n

/-- Memory with a byte string written from an address. -/
def memWrites (m : Memory) (a : Nat) : List Byte → Memory
  | [] => m
  | b :: bs => memWrites (memWrite m a b) (a + 1) bs

/-- Memory with every byte of a range zero. -/
def memZero (m : Memory) (a n : Nat) : Memory := m.filter fun e => e.1 < a || a + n ≤ e.1

/-- The canonical form: addresses strictly rising, and no zero byte listed. -/
def Memory.wf (m : Memory) : Bool :=
  decide (m.Pairwise fun x y => x.1 < y.1) && m.all fun e => decide (e.2 ≠ memDefault)

/-! Free values (log 9). -/

/-- A free value and the state after it is taken. -/
def fresh (s : State) : Nat × State := (Config.freeNat s.free, { s with free := s.free + 1 })

/-- `n` free bytes. -/
def freshBytes (k : Nat) : Nat → List Byte
  | 0 => []
  | n + 1 => BitVec.ofNat 8 (Config.freeNat k) :: freshBytes (k + 1) n

/-! Tiles, regions, ports, model slots. -/

/-- A physical tile. -/
def tileOf (s : State) (t : Nat) : Tile := smGetD s.tiles t {}

/-- A physical tile changed. -/
def updTile (s : State) (t : Nat) (f : Tile → Tile) : State := { s with tiles := smUpd s.tiles t {} f }

/-- A tile's core registers changed. -/
def updCore (s : State) (t : Nat) (f : Core → Core) : State := updTile s t fun k => { k with core := f k.core }

/-- A physical region. -/
def regionOfNo (s : State) (p : Nat) : Region := smGetD s.regions p {}

/-- A physical region changed. -/
def updRegion (s : State) (p : Nat) (f : Region → Region) : State :=
  { s with regions := smUpd s.regions p {} f }

/-- A region's counters changed. -/
def updCtr (s : State) (p : Nat) (f : Counters → Counters) : State := updRegion s p fun r => { r with ctr := f r.ctr }

/-- A port. -/
def portOf (s : State) (p : Nat) : Port := smGetD s.fabric.ports p {}

/-- A port changed. -/
def updPort (s : State) (p : Nat) (f : Port → Port) : State :=
  { s with fabric := { s.fabric with ports := smUpd s.fabric.ports p {} f } }

/-- A port's counters changed. -/
def updPortCtr (s : State) (p : Nat) (f : PortCounters → PortCounters) : State :=
  updPort s p fun x => { x with ctr := f x.ctr }

/-- A model slot. -/
def modelSlot (s : State) (m : Nat) : ModelSlot := smGetD s.steward.slots m {}

/-- A model slot changed. -/
def updModel (s : State) (m : Nat) (f : ModelSlot → ModelSlot) : State :=
  { s with steward := { s.steward with slots := smUpd s.steward.slots m {} f } }

/-- A lattice changed. -/
def updLat (s : State) (t : Nat) (f : Lattice → Lattice) : State := updTile s t fun k => { k with lat := f k.lat }

/-- A message engine changed. -/
def updMsg (s : State) (t : Nat) (f : MsgEngine → MsgEngine) : State := updTile s t fun k => { k with msg := f k.msg }

/-- A router changed. -/
def updRouter (s : State) (t : Nat) (f : Router → Router) : State :=
  updTile s t fun k => { k with router := f k.router }

/-- A list with one entry changed. -/
def listUpd {α : Type} (l : List α) (n : Nat) (f : α → α) : List α := l.modify n f

/-! Dictionary values in force (R405): each reader gives the object's default. -/

/-- Key of an object in the dictionary's maps. -/
def objKey (index sub : Nat) : Nat := index * 256 + sub

/-- The number an object holds, or its default. -/
def dnum (s : State) (index sub d : Nat) : Nat :=
  match smGet s.dict.vals (objKey index sub) with
  | some (.num n) => n
  | _ => d

/-- The bytes an object holds, or its default. -/
def dbytes (s : State) (index sub : Nat) (d : List Byte) : List Byte :=
  match smGet s.dict.vals (objKey index sub) with
  | some (.bytes b) => b
  | _ => d

/-- An object given a number. -/
def setNum (s : State) (index sub n : Nat) : State :=
  { s with dict := { s.dict with vals := smSet s.dict.vals (objKey index sub) (.num n) } }

/-! Codes of the states (R4, R45, R317, R384). -/

def devCode : DevState → Nat
  | .off => 0 | .aux => 1 | .bringup => 2 | .ready => 3 | .serving => 4 | .recovering => 5 | .safeHold => 6
  | .keepAlive => 7 | .fault => 8

def slotCode : SlotState → Nat
  | .idle => 0 | .ready => 1 | .running => 2 | .waiting => 3 | .faulted => 4

def regionCode : RegionState → Nat
  | .unpowered => 0 | .training => 1 | .healthy => 2 | .bound => 3 | .reserve => 4 | .dimmed => 5 | .fenced => 6
  | .offThermal => 7 | .dead => 8

/-- READY, KEEPALIVE and FAULT_N as R4 drives them, high true; while a loss of reference forces the safe states of R212, READY and
KEEPALIVE are low and FAULT_N is high, in KEEP-ALIVE and FAULT too (R483, log 96). -/
def readyPin (s : State) : Bool :=
  !s.dev.forcedSafe && (s.dev.st = .ready || s.dev.st = .serving || s.dev.st = .recovering)
def keepAlivePin (s : State) : Bool := !s.dev.forcedSafe && s.dev.st = .keepAlive
def faultNPin (s : State) : Bool := s.dev.forcedSafe || s.dev.st ≠ .fault

/-- ALERT_N is asserted, low (R420). -/
def alertAsserted (s : State) : Bool := s.dev.alert ≠ 0

/-- The region's fault-map bit (R317). -/
def faultMapBit (r : Region) : Bool :=
  match r.st with
  | .healthy | .bound | .reserve | .dimmed => false
  | _ => true

/-- The role a region holds: its own state, or what a DIMMED region keeps (R317). -/
def roleOf (r : Region) : RegionState := if r.st = .dimmed then r.role else r.st

/-- A region's clocks run. -/
def clocksRun (r : Region) : Bool :=
  !r.gated && (match r.st with | .training | .healthy | .bound | .reserve | .dimmed => true | _ => false)

/-- The rim domain runs (R25). -/
def rimRuns (s : State) : Bool := s.dev.st ≠ .off

/-- A lockstep pair of the Eyepiece works (R312, R404). -/
def eyepieceRuns (s : State) : Bool := rimRuns s && s.dev.pairs.any id

/-- The physical position of a tile is the bypassed one (R21). -/
def bypassed (s : State) (t : Nat) : Bool :=
  (regionOfNo s (regionOfTile t)).repair.getD (ty t % 8) 10 = tx t % 11

/-- A tile's units run: its region's clocks run and it is not bypassed (R21, R212). -/
def tileRuns (s : State) (t : Nat) : Bool := t < tileCount && clocksRun (regionOfNo s (regionOfTile t)) && !bypassed s t

/-- A tile's engines, schedule and core may act: it runs and stands in no cut and no freeze (R321, R329). -/
def tileActs (s : State) (t : Nat) : Bool := tileRuns s t && !(tileOf s t).snap.quiesced && !(tileOf s t).snap.frozen

/-- The region's copy of TB (R275); it never goes back below its floor (R276). -/
def regionTb (s : State) (p : Nat) : Nat :=
  max (regionOfNo s p).tbFloor (Int.ofNat s.time.tb + (regionOfNo s p).skew).toNat

/-- A region's copy set to the master plus a skew; while a model slot serves it does not go back (R276). -/
def syncCopy (serving : Bool) (tb : Nat) (skew : Int) (r : Region) : Region :=
  { r with
    skew := skew
    tbFloor := if serving then max r.tbFloor (Int.ofNat tb + r.skew).toNat else 0 }

/-- The tile's copy of TB (R275). -/
def tileTb (s : State) (t : Nat) : Nat := regionTb s (regionOfTile t)

/-- Core cycles of a region in 64ths, at a master value: a tick is 0.4 ns and a cycle 0.8 ns x 32 / k; none elapses while the clock is
gated (R195, R200, R214). -/
def cyclesAt (tb : Nat) (r : Region) : Nat := if r.gated then r.cyc else r.cyc + (tb - r.cycTb) * r.dim

/-- The cycle count brought up to a master value, before what it runs by changes. -/
def markCycles (tb : Nat) (r : Region) : Region := { r with cyc := cyclesAt tb r, cycTb := tb }

/-- The cycle count of a tile's region now. -/
def cyclesNow (s : State) (t : Nat) : Nat := cyclesAt s.time.tb (regionOfNo s (regionOfTile t)) / 64

/-- Core cycles since a cycle count. -/
def cyclesSince (s : State) (t start : Nat) : Nat := cyclesNow s t - start

/-- The logical slot of a binding value: 4,607 and 4,606 stand for the steward pair (R299, R377). -/
def bindingSlot (b : Nat) : Nat := if b = 0xFFFE then 4607 else if b = 0xFFFD then 4606 else b

/-- The region a logical slot is bound to (R23, R377). -/
def boundRegion (s : State) (n : Nat) : Option Nat :=
  (s.regions.find? fun e => bindingSlot e.2.binding = n).map (·.1)

/-- The physical tile that carries a logical tile (R23). -/
def carrier (s : State) (l : Nat) : Option Nat :=
  (boundRegion s (slotOf l)).map fun p => tileFor p (regionOfNo s p).repair l

/-- The logical tile at a physical tile of a bound region (R23). -/
def ltileAtPhys (s : State) (t : Nat) : Option Nat :=
  let r := regionOfNo s (regionOfTile t)
  if r.binding = 0xFFFF then none
  else (logPos (r.repair.getD (ty t % 8) 10) (tx t % 11)).map fun j => ltileAt (bindingSlot r.binding) j (ty t % 8)

/-! Scratchpad access of a tile. -/

/-- Memory address of a scratchpad byte. -/
def spad (t off : Nat) : Nat := t * spadBytes + off

/-- Bytes of a tile's scratchpad. -/
def readSpad (s : State) (t off n : Nat) : List Byte := memReads s.mem (spad t off) n

/-- The little-endian number in a tile's scratchpad. -/
def readNum (s : State) (t off n : Nat) : Nat := leNat (readSpad s t off n)

/-- The 1 KiB blocks that a range touches (R69). -/
def blocksOf (off n : Nat) : List Nat :=
  if n = 0 then [] else (List.range ((off + n - 1) / 1024 - off / 1024 + 1)).map (· + off / 1024)

/-- Write-tracking bits with blocks set (R69). -/
def markDirty (d : BitVec 256) (bs : List Nat) : BitVec 256 :=
  bs.foldl (fun d b => d ||| (BitVec.twoPow 256 b)) d

/-! Packets of a tile's own (R224, R255), and what a snapshot copies (R309, R323, R324). -/

/-- Flits of a packet with `n` payload bytes (R220). -/
def flitsOf (net : MeshNet) (n : Nat) : Nat :=
  match net with
  | .data => (16 + n + 63) / 64
  | .control => 2 + (n + 7) / 8

/-- A packet from a tile or bridge; its mesh destination is set at injection. -/
def mkPacket (net : MeshNet) (vc kind pri dstDev dstLtile srcDev srcLtile : Nat) (payload : List Byte) : Packet :=
  { net := net, vc := vc, kind := kind, pri := pri, flits := flitsOf net payload.length, dstDev := dstDev, dstU := 0
    dstV := 0, exit := false, dstLtile := dstLtile, srcLtile := srcLtile, srcDev := srcDev, bseq := 0
    payload := payload, red := none }

/-- A packet queued for injection by a tile's message engine. -/
def queueOut (s : State) (t : Nat) (k : Packet) : State :=
  updMsg s t fun m => { m with outPk := m.outPk ++ [{ pkt := k }] }

/-- The system address of a byte of a tile's scratchpad (R34). -/
def tileAddress (dev l off : Nat) : Nat := dev * 2 ^ 48 + l * 2 ^ 27 + off

/-- A remote write of a message engine's own, on VC3 and not tracked: its acknowledgement is counted in (R224, R255, R323). The spec gives
it no priority: 0 (DESIGN CHOICE, log 66). -/
def bulkWrite (s : State) (t addr : Nat) (bs : List Byte) : State :=
  let own := (tileOf s t).core.ltile.getD 0
  queueOut (updTile s t fun k => { k with snap := { k.snap with unacked := k.snap.unacked + 1 } }) t
    (mkPacket .data 3 2 0 (saDevice addr) (saTile addr) s.fabric.devId own
      (natLe 8 addr ++ natLe 2 bs.length ++ List.replicate 6 0 ++ bs))

/-- The mirror of a logical slot (R309). -/
def mirrorSlot (n : Nat) : Option Nat := if n < 2240 then some (n + 2240) else if n < 4480 then some (n - 2240) else none

/-- The logical tile that holds the stash and staging of a logical tile (R309). -/
def mirrorTile (l : Nat) : Option Nat := (mirrorSlot (slotOf l)).map fun n => ltileAt n (lcol l % 10) (lrow l % 8)

/-- The snapshot destination, 0x2410.02, and whether it includes mirrors. -/
def snapDest (s : State) : Nat := dnum s 0x2410 2 0
def mirrorsOn (s : State) : Bool := snapDest s ≠ 1

/-- The program of a logical tile in a bundle. -/
def progOf (g : Bundle) (l : Nat) : Option TileProg := g.programs.find? fun x => x.ltile = l

/-- The bundle that declares a logical slot: a slot's mirror may lie in another model slot (R309). -/
def bundleOf (s : State) (n : Nat) : Option Bundle :=
  s.steward.slots.findSome? fun e => e.2.bundle.bind fun g => if g.slots.contains n then some g else none

/-- The staging window for a logical tile's blocks: that of its mirror tile (R309). -/
def stagingOf (s : State) (l : Nat) : Option (Nat × Window) :=
  (mirrorTile l).bind fun v => (bundleOf s (slotOf v)).bind fun g => (progOf g v).bind fun x => x.staging.map fun w => (v, w)

/-- A block on its way to the staging window of the mirror tile, in 4 remote writes; blocks stand there in the order of copying (R323, R324;
DESIGN CHOICE, log 66). One that has no place there overflows the window and is not sent. -/
def stageBlock (s : State) (t l n : Nat) (data : List Byte) : State :=
  match stagingOf s l with
  | some (v, w) =>
    if 1024 * (n + 1) ≤ w.len then (List.range 4).foldl (fun s i =>
        bulkWrite s t (tileAddress s.fabric.devId v (w.base + 1024 * n + 256 * i)) (slice data (256 * i) 256)) s
    else s
  | none => s

/-- The pending blocks of a snapshot that a write reaches are copied first, as they stood at the cut (R323). -/
def copyBlock (s : State) (t b : Nat) : State :=
  let k := tileOf s t
  if k.snap.copying && k.snap.pending.contains b then
    let l := k.core.ltile.getD 0
    let data := readSpad s t (b * 1024) 1024
    let n := (s.recov.staging.filter fun e => e.1 / 256 = l).length
    let s := { updTile s t fun k => { k with
        snap := { k.snap with pending := k.snap.pending.filter (· ≠ b) }
        core := { k.core with dirty := k.core.dirty &&& ~~~(BitVec.twoPow 256 b) } } with
      recov := { s.recov with
        staging := smSet s.recov.staging (l * 256 + b) data
        copied := s.recov.copied + 1024 } }
    if (modelSlot s (regionOfNo s (regionOfTile t)).mslot).shareComp then s else stageBlock s t l n data
  else s

/-- An operation is under way: it has started, and where its steps are counted its first fill cycle has come (R116, R117). -/
def begun (o : EngOp) : Bool := o.started && (match o.left with | some n => decide (n ≤ o.total) | none => true)

/-- Holds of the tile hold its engines too: they count for every operation past its first fill cycle (R116, R172). -/
def heldOp (n : Nat) (o : EngOp) : EngOp := if begun o then { o with holds := o.holds + n } else o

/-- Holds of a tile: HOLD_CNT, the region's total and the operations under way count them (R116, R174, R176). -/
def addHolds (s : State) (t n : Nat) : State :=
  updTile (updRegion s (regionOfTile t) fun r => { r with hold := r.hold + n }) t fun k => { k with
    mxQ := k.mxQ.map (heldOp n)
    pzQ := k.pzQ.map (heldOp n)
    core := { k.core with holdCnt := k.core.holdCnt + BitVec.ofNat 32 n } }

/-- A write that reaches a pending block waits until it is copied: in a section the wait is a hold, whose cycles the spec does not
number (R182, R323; a free value, log 66). -/
def copyFirst (s : State) (t b : Nat) : State :=
  let k := tileOf s t
  if k.snap.copying && k.snap.pending.contains b && k.lat.running then
    let (n, s) := fresh s
    copyBlock (addHolds s t n) t b
  else copyBlock s t b

/-- Cycles that an engine's own writes to pending blocks wait outside a section: displaced cycles, whose number the spec does not give
(R323; a free value, log 66). -/
def copyWaits (s : State) (t : Nat) (writes : List (Nat × List Byte)) : Nat × State :=
  let k := tileOf s t
  let waits := k.snap.copying && writes.any fun w => (blocksOf w.1 w.2.length).any k.snap.pending.contains
  if waits && !k.lat.running then fresh s else (0, s)

/-- A write of any requester into a tile's scratchpad: pending snapshot blocks are copied first (R323), the bytes land
(R66), the blocks' tracking bits are set (R69). -/
def writeSpad (s : State) (t off : Nat) (bs : List Byte) : State :=
  let blocks := blocksOf off bs.length
  let s := blocks.foldl (fun s b => copyFirst s t b) s
  let s := updCore s t fun c => { c with dirty := markDirty c.dirty blocks }
  { s with mem := memWrites s.mem (spad t off) bs }

/-- A little-endian number written into a tile's scratchpad. -/
def writeNum (s : State) (t off n v : Nat) : State := writeSpad s t off (natLe n v)

/-- A whole scratchpad zeroed from an offset on, every tracking bit set (R71). -/
def zeroSpad (s : State) (t from_ : Nat) : State :=
  { updCore s t fun c => { c with dirty := BitVec.allOnes 256 } with
    mem := memZero s.mem (spad t from_) (spadBytes - from_) }

/-! The event log (R431 to R433), alerts (R420), Loupe (R297). -/

/-- What goes out. -/
def emit (s : State) (o : Out) : State := { s with out := s.out ++ [o] }

/-- The logical tile of R283 of a record: what its tile raised names it in ARG0 or ARG1 (R433). -/
def logTile (r : LogRec) : Nat :=
  if r.code = 0x0302 || r.code = 0x0310 then r.arg0 else if r.code = 0x0300 then r.arg1 / 2 ^ 32 else 0

/-- A record stands after another by the keys of R283 that a stamp gives. -/
def logAfter (x y : LogRec) : Bool :=
  if x.tb ≠ y.tb then y.tb < x.tb
  else if x.source ≠ y.source then y.source < x.source
  else logTile y < logTile x

/-- A record put into the event log in the order of R283: SEQ counts the records in that order (R432), so those after it move on by
one; `hi` holds the records already passed over. -/
def insertLog (r : LogRec) : List LogRec → List LogRec → List LogRec × LogRec
  | [], hi => (r :: hi, r)
  | x :: lo, hi =>
    if logAfter x r then insertLog { r with seq := x.seq } lo ({ x with seq := x.seq + 1 } :: hi)
    else ((x :: lo).reverse ++ r :: hi, r)

/-- An event-log record put in its place, with its UART line and, by severity, its EVENT frame held for the window (R283, R432 to
R434, R487, log 97). -/
def logAt (s : State) (tb source code sev arg0 arg1 : Nat) (late : Bool) : State :=
  if !eyepieceRuns s then s else
  let sec := tb / 2500000000
  let n := smGetD s.log.stalls sec 0
  if code = 0x0302 && n ≥ 64 then { s with log := { s.log with suppressed := s.log.suppressed + 1 } }
  else
    let r : LogRec := {
      tb := tb, seq := s.log.seq, source := s.fabric.devId * 65536 + source, code := code
      severity := sev, flags := b2n late + 2 * b2n (!s.time.locked), arg0 := arg0, arg1 := arg1 }
    let (mem, r) := insertLog r s.log.mem.reverse []
    let lg := { s.log with mem := mem, seq := s.log.seq + 1 }
    let lg := if code = 0x0302 then { lg with stalls := smSet lg.stalls sec (n + 1) } else lg
    let q := s.sig.eventQ.map fun x => if r.seq ≤ x.seq then { x with seq := x.seq + 1 } else x
    let s := { s with log := lg, out := s.out ++ [Out.uart r] }
    { s with sig := { s.sig with eventQ := if sev ≥ dnum s 0x6000 6 2 then q ++ [r] else q } }

/-- A record of the Eyepiece, source 0, stamped with the master. -/
def logEvent (s : State) (code sev arg0 arg1 : Nat) : State := logAt s s.time.tb 0 code sev arg0 arg1 false

/-- A record of a region, stamped with its copy (R282). -/
def logRegion (s : State) (p code sev arg0 arg1 : Nat) : State :=
  logAt s (regionTb s p) (0x1000 + p) code sev arg0 arg1 false

/-- A record of a port or of a client interface, by its source of R282. -/
def logSource (s : State) (source code sev arg0 arg1 : Nat) : State := logAt s s.time.tb source code sev arg0 arg1 false

/-- A bit of the alert summary set (R420). -/
def setAlert (s : State) (k : Nat) : State :=
  { s with dev := { s.dev with alert := s.dev.alert ||| BitVec.ofNat 32 (2 ^ k) } }

/-- A Loupe record, if its kind is enabled, by the mode of 0x6100.02 (R297); recording freezes in SAFE-HOLD (R298). -/
def loupe (s : State) (p tile kind arg data : Nat) : State :=
  if s.dev.st ≠ .safeHold && bit (dnum s 0x6100 1 0x118) kind then
    updRegion s p fun r =>
      let e : LoupeRec := { tb := regionTb s p, tile := tile, kind := kind, arg := arg, data := data }
      if r.loupe.length < 2048 then { r with loupe := r.loupe ++ [e] }
      else if dnum s 0x6100 2 0 = 0 then { r with loupe := r.loupe.drop 1 ++ [e] }
      else { r with loupeLost := (r.loupeLost + 1) % 2 ^ 32 }
  else s

/-- A Loupe record raised in a tile. -/
def loupeTile (s : State) (t kind arg data : Nat) : State := loupe s (regionOfTile t) (localIndex t) kind arg data

/-! The training record (R447). -/

/-- What makes a copy invalid, in the codes of 0x0802; 0 for a valid one. -/
def recordFault (s : State) (r : Option TrainRec) : Nat :=
  match r with
  | none => 1
  | some r => if !r.valid then 1 else if r.serial ≠ Config.serial then 2 else if r.format ≠ s.boot.trainFormat then 3 else 0

/-- The valid copy with the higher SEQ, and which one it is. -/
def newerRecord (s : State) : Option (Nat × TrainRec) :=
  let ok := fun r => recordFault s r = 0
  match s.boot.trainA, s.boot.trainB with
  | some a, some b =>
    if ok (some a) && (!ok (some b) || a.seq ≥ b.seq) then some (0, a)
    else if ok (some b) then some (1, b) else none
  | some a, none => if ok (some a) then some (0, a) else none
  | none, some b => if ok (some b) then some (1, b) else none
  | none, none => none

/-- The record written at an entry to READY, into the copy that does not hold the newer one. -/
def writeRecord (s : State) : State :=
  let old := newerRecord s
  let r : TrainRec := {
    seq := match old with | some o => o.2.seq + 1 | none => 1
    serial := Config.serial, format := s.boot.trainFormat, valid := true
    repair := s.regions.map fun e => (e.1, e.2.repair)
    spares := (s.tiles.filter fun e => e.2.core.spareRows ≠ []).map fun e => (e.1, e.2.core.spareRows)
    droop := s.regions.filterMap fun e => e.2.droop.map fun v => (e.1, v)
    cal := s.regions.flatMap fun e => e.2.crossings.map fun x =>
      { region := e.1, src := x.src, side := x.side, pos := x.pos, net := x.net, delay := x.lat - 1, clean := !x.failed }
    failed := (s.regions.filter fun e => e.2.st = .unpowered && e.2.trainedFull).map (·.1)
    lanes := (s.fabric.ports.filter fun e => e.2.equal ≠ []).map fun e => (e.1, e.2.equal) }
  { s with boot := match old with
    | some (0, _) => { s.boot with trainB := some r }
    | _ => { s.boot with trainA := some r } }

/-! Device transitions (R4 to R6). -/

/-- A BRINGUP ends with the entry to a state: a loss of reference only interrupts it (R437, R461). -/
def endsBringup (s : State) (n : DevState) : Bool :=
  n ≠ .bringup && ((s.dev.st = .bringup && n ≠ .safeHold) || (s.dev.st = .safeHold && s.dev.beforeHold = .bringup))

/-- Entry to a device state: prior state and TB kept (R419), the duration of a BRINGUP that ends (R461), the training record of an
entry to READY (R447), the record of 0x0001 (R433), the alert of R420. -/
def enterState (s : State) (n : DevState) : State :=
  let s := if n = .ready then writeRecord s else s
  let s1 := { s with dev := { s.dev with
    st := n, prior := s.dev.st, transTb := s.time.tb
    bringupDur := if endsBringup s n then s.time.tb - s.dev.bringupTb else s.dev.bringupDur } }
  let s1 := logEvent s1 0x0001 (if n = .fault then 3 else 0) (devCode n) (devCode s.dev.st)
  if n = .keepAlive || n = .fault then setAlert s1 8 else s1

/-- A condition reported for the next decision cycle (R6). -/
def report (s : State) (c : Condition) : State :=
  if s.dev.conditions.contains c then s else { s with dev := { s.dev with conditions := s.dev.conditions ++ [c] } }

/-! Task slots: switching (R46), program faults (R50), wakes (R72). -/

/-- A task slot. -/
def slotAt (c : Core) (n : Nat) : TaskSlot := c.slots.getD n {}

/-- A task slot changed. -/
def updSlot (c : Core) (n : Nat) (f : TaskSlot → TaskSlot) : Core := { c with slots := c.slots.modify n f }

/-- The lowest-numbered READY slot (R46). -/
def lowestReady (c : Core) : Option Nat := (List.range 4).find? fun n => (slotAt c n).st = .ready

/-- The core is awake: its current slot is RUNNING (R45). -/
def awake (c : Core) : Bool := (slotAt c c.cur).st = .running

/-- Runs a slot. -/
def runSlot (c : Core) (n : Nat) : Core := { updSlot c n fun k => { k with st := .running } with cur := n }

/-- The switch of R46: the lowest-numbered READY slot runs; with none the core sleeps. -/
def switchSlot (c : Core) : Core :=
  match lowestReady c with
  | some n => runSlot c n
  | none => c

/-- The switch of tk.yield, which passes over its own slot unless no other is READY (R46). -/
def switchPast (c : Core) (own : Nat) : Core :=
  match (List.range 4).find? fun n => (slotAt c n).st = .ready && n ≠ own with
  | some n => runSlot c n
  | none => switchSlot c

/-- Register x[r] of a slot (x0 reads 0, R40). -/
def xreg (k : TaskSlot) (r : Nat) : Word := if r = 0 then 0 else k.regs.getD (r - 1) 0

/-- A slot with x[r] written (x0 discards, R40). -/
def setX (k : TaskSlot) (r : Nat) (v : Word) : TaskSlot :=
  if r = 0 then k else { k with regs := k.regs.set (r - 1) v }

/-- A slot made READY wakes a sleeping core at once (R46). -/
def wakeCore (c : Core) : Core := if awake c then c else switchSlot c

/-- Every slot waiting in sl.wait becomes READY with the whole cause set in rd (R72). -/
def wakeWaiters (c : Core) : Core :=
  { c with
    slots := c.slots.map fun k =>
      match k.st, k.wait with
      | .waiting, .wake rd => setX { k with st := .ready, wait := .nothing } rd c.wakePend
      | _, _ => k }

/-- A slot waits in sl.wait. -/
def waitsWake (k : TaskSlot) : Bool :=
  match k.st, k.wait with
  | .waiting, .wake _ => true
  | _, _ => false

/-- A wake condition with its cause bit (R72, R73). -/
def wakeCondition (c : Core) (cause : Nat) : Core :=
  let c := { c with wakePend := c.wakePend ||| BitVec.ofNat 32 (2 ^ cause) }
  if c.slots.any waitsWake then wakeCore { wakeWaiters c with wakePend := 0 } else c

/-- mcause of a program fault code (R76); a store's misalignment is told apart by its caller. -/
def mcauseOf (code : Nat) (store : Bool) : Word :=
  if code = 0x01 then 2 else if code = 0x02 then 5 else if code = 0x03 then 7 else if code = 0x04 then 1
  else if code = 0x05 then (if store then 6 else 4) else if code = 0x06 then 24 else if code = 0x07 then 24
  else if code = 0x08 then 2 else if code = 0x09 then 11 else 3

/-- FAULT_CAUSE.VALID (R58). -/
def faultValid (c : Core) : Bool := c.faultCause.getLsbD 31

/-- FAULT_CAUSE with VALID, SLOT and CODE (R58). -/
def causeWord (slot code : Nat) : Word := BitVec.ofNat 32 (2 ^ 31 + slot % 4 * 256 + code % 256)

/-- The entry to T0 of R50 steps 2 to 5, for a fault or an ecall of `slot`: the cause CSRs, then T0 from address 0,
whatever its state was. A slot that was RUNNING apart from T0 becomes READY (log 21). -/
def enterT0 (c : Core) (slot code : Nat) (addr epc tval : Word) (store : Bool) : Core :=
  let z := slotAt c 0
  let c := if c.cur ≠ 0 && awake c then updSlot c c.cur fun k => { k with st := .ready } else c
  { updSlot c 0 fun k => { k with st := .running, wait := .nothing, pc := 0 } with
    cur := 0
    inEntry := true
    saved := { st := z.st, wait := z.wait, pc := z.pc }
    faultCause := causeWord slot code
    faultAddr := addr
    mepc := epc
    mcause := mcauseOf code store
    mtval := tval }

/-- R50 for a fault of slot n = 1 to 3: held pending, one a slot, while FAULT_CAUSE.VALID is 1; else the slot is FAULTED and T0 is
entered, whatever its state. The slot stops at once in either case (log 22). -/
def programFault (c : Core) (slot code : Nat) (addr : Word) (store : Bool) : Core :=
  let c1 := updSlot c slot fun k => { k with st := .faulted, wait := .nothing }
  if faultValid c then
    let c2 := if c.pendingFaults.any (·.slot = slot) then c1
      else { c1 with pendingFaults := c.pendingFaults ++ [{ slot := slot, code := code, addr := addr, store := store }] }
    if c.cur = slot then switchSlot c2 else c2
  else enterT0 c1 slot code addr (slotAt c slot).pc addr store

/-- Delivery of a held fault once VALID is cleared and T0 has returned (R50, log 22): the lowest slot's. -/
def deliverPending (c : Core) : Core :=
  if faultValid c || c.inEntry then c else
  match (List.range 4).findSome? fun n => c.pendingFaults.find? (·.slot = n) with
  | none => c
  | some f =>
    enterT0 { c with pendingFaults := c.pendingFaults.filter (·.slot ≠ f.slot) } f.slot f.code f.addr
      (slotAt c f.slot).pc f.addr f.store

/-! Beam votes (R266 to R271). -/

/-- An arrival of a tile on a channel: a participant's vote is 1 until the next release (R266), and the released flag
counts from here (R54, R173). -/
def arrive (c : Core) (ch : Nat) : Core :=
  { c with
    released := c.released &&& ~~~(BitVec.ofNat 32 (2 ^ ch))
    votes := if c.beamMask.getLsbD ch then c.votes ||| BitVec.ofNat 32 (2 ^ ch) else c.votes }

/-- A tile's vote on a channel (R266). -/
def tileVote (c : Core) (ch : Nat) : Bool := !c.beamMask.getLsbD ch || c.votes.getLsbD ch

/-- An arrival seen by Loupe (R297). -/
def arriveTile (s : State) (t ch : Nat) : State := loupeTile (updCore s t fun c => arrive c ch) t 0x01 ch 0

/-- A region's participation summary: the OR of its tiles' PART masks (R270). -/
def summaryOf (s : State) (p : Nat) : Word :=
  (regionTiles p).foldl (fun w t => w ||| (tileOf s t).core.beamMask) 0

/-! Region faults (R313 to R315). -/

/-! Mesh coordinates (R221). -/

/-- Mesh column of a tile that is not bypassed. -/
def meshU (s : State) (t : Nat) : Nat :=
  10 * gx (regionOfTile t) + (logPos ((regionOfNo s (regionOfTile t)).repair.getD (ty t % 8) 10) (tx t % 11)).getD 0

/-- Mesh row of a tile. -/
def meshV (t : Nat) : Nat := ty t

/-- The tile at mesh coordinates. -/
def tileAtMesh (s : State) (u v : Nat) : Nat :=
  let p := regionAt (u / 10) (v / 8)
  ptile (11 * gx p + physPos ((regionOfNo s p).repair.getD (v % 8) 10) (u % 10)) v

/-- Mesh coordinates next to (u, v): 0 N, 1 E, 2 S, 3 W. -/
def meshStep (u v out : Nat) : Option (Nat × Nat) :=
  match out with
  | 0 => if v = 0 then none else some (u, v - 1)
  | 1 => if u + 1 < 640 then some (u + 1, v) else none
  | 2 => if v + 1 < 576 then some (u, v + 1) else none
  | _ => if u = 0 then none else some (u - 1, v)

/-- The tile that an output of a tile's router leads to. -/
def meshNext (s : State) (t out : Nat) : Option Nat :=
  (meshStep (meshU s t) (meshV t) out).map fun x => tileAtMesh s x.1 x.2

/-! Lost packets and cut links (R228). -/

/-- The numbers of the packets with a flit inside one of a list of tiles' routers, or on their way into one from a bridge (R228). -/
def packetsIn (s : State) (ts : List Nat) : List Nat :=
  (ts.flatMap fun t =>
    let r := (tileOf s t).router
    ((r.buf ++ r.link ++ r.eject).flatMap fun e => (e.2.filter fun x => !x.dead).map (·.pkt.uid)) ++ r.combine.map (·.2.uid))
  ++ s.fabric.ports.flatMap fun e => (e.2.inj.filter fun x => ts.contains x.1).map (·.2.pkt.uid)

/-- With the copies that a broadcast's lost ones were feeding, which no longer come whole (R228, R229). -/
def withCopies (s : State) : Nat → List Nat → List Nat
  | 0, us => us
  | n + 1, us =>
    let fed := s.tiles.flatMap fun e => (e.2.router.flood.filter fun x => us.contains x.2.uid).flatMap fun x => x.2.outs.map (·.2)
    let new := fed.filter fun u => !us.contains u
    if new = [] then us else withCopies s n (us ++ new)

/-- A router without any flit of some packets. On a link and in a replay buffer a flit keeps its sequence number, and its receiver
discards it (R228, R234). -/
def dropPackets (us : List Nat) (r : Router) : Router :=
  let gone := fun (x : Flit) => us.contains x.pkt.uid
  let f := fun (m : SMap (List Flit)) => m.map fun e => (e.1, e.2.filter fun x => !gone x)
  let g := fun (m : SMap (List Flit)) => m.map fun e => (e.1, e.2.map fun x => if gone x then { x with dead := true } else x)
  { r with
    buf := f r.buf, link := g r.link, replay := g r.replay, eject := f r.eject
    route := r.route.filter fun x => !us.contains x.1.uid
    flood := r.flood.filter fun x => !us.contains x.2.uid
    combine := r.combine.filter fun x => !us.contains x.2.uid }

/-- A router whose links on some sides are cut: both ends start anew when the other side is back (R228, R234). -/
def cutLinks (outs : List Nat) (r : Router) : Router :=
  let cut := fun (k : Nat) => outs.contains (k % 8)
  { r with
    link := r.link.filter fun e => !cut e.1, replay := r.replay.filter fun e => !cut e.1
    resend := r.resend.filter fun e => !cut e.1, fails := r.fails.filter fun e => !cut e.1
    txSeq := r.txSeq.filter fun e => !cut e.1, rxSeq := r.rxSeq.filter fun e => !cut e.1 }

/-- The clamps of a fence cut every link at the region's boundary; every packet with a flit inside the region is lost (R228). -/
def clampRegion (s : State) (p : Nat) : State :=
  let ts := regionTiles p
  let us := withCopies s s.tiles.length (packetsIn s ts)
  let toward := fun (t : Nat) => (List.range 4).filter fun o =>
    match meshNext s t o with | some t' => regionOfTile t' = p | none => false
  { s with
    tiles := s.tiles.map fun e =>
      if ts.contains e.1 then (e.1, { e.2 with router := {}, lat := { e.2.lat with flight := [] } })
      else (e.1, { e.2 with router := cutLinks (toward e.1) (dropPackets us e.2.router) })
    fabric := { s.fabric with
      ports := s.fabric.ports.map fun e => (e.1, { e.2 with inj := e.2.inj.filter fun x => !us.contains x.2.pkt.uid }) } }

/-- The detecting tile's FAULT_CAUSE and FAULT_ADDR, unless a record is there (R76, R314). -/
def latchFault (c : Core) (slot code : Nat) (addr : Word) : Core :=
  if faultValid c then c else { c with faultCause := causeWord slot code, faultAddr := addr }

/-- A fault that no tile detects latches in every tile whose clocks still run, with the address 0 of a fault that has none (R314, 0x4000+p.0D
of R423); not one that stops the clocks or the stage (0x30, 0x33, 0x36), nor 0x34 and 0x35, whose rules except it (R235, R272). -/
def latchRegion (s : State) (p code : Nat) : State :=
  if (code = 0x31 || code = 0x32 || code = 0x37) && clocksRun (regionOfNo s p) then
    ((regionTiles p).filter fun t => !bypassed s t).foldl (fun s t => updCore s t fun c => latchFault c 0 code 0) s
  else s

/-- A tile whose contents are lost: as at reset, but for its spare rows, which only a BRINGUP assigns (R68, R71). -/
def lostTile (k : Tile) : Tile := { core := { spareRows := k.core.spareRows } }

/-- A region's stage turned off, or its contents lost in a fence: its tiles are as at reset but for their spare rows, its scratchpads
list nothing (R68, R71), no measurement or latched summary is left; the counters stay (R422). -/
def dropRegion (s : State) (p : Nat) : State :=
  let ts := regionTiles p
  let s := updRegion s p fun r => { r with
    stageOn := false, gated := false, forcedMask := none, fenceDone := false, noticeDue := false, binding := 0xFFFF
    mslot := 0xFF, temp := 0, coreMv := 0, sramMv := 0, migrating := 0, crossings := [], loupe := [], actions := []
    retraining := false, dim := 32, sects := [], lastSect := none, relPending := [], copy := none }
  { s with
    tiles := (s.tiles.filter fun e => !ts.contains e.1 || e.2.core.spareRows ≠ []).map fun e =>
      (e.1, if ts.contains e.1 then lostTile e.2 else e.2)
    mem := s.mem.filter fun e => !ts.contains (e.1 / spadBytes) }

/-- A region marked DEAD: the mark is kept in the configuration store (R319). -/
def markDead (s : State) (p : Nat) : State :=
  { updRegion s p fun r => { r with st := .dead } with
    store := { s.store with deadMarks := if s.store.deadMarks.contains p then s.store.deadMarks else s.store.deadMarks ++ [p] } }

/-- A region fault while the region trains (R318, R437): it is not fenced; its stage turns off, and causes 0x30 and 0x31 mark it
DEAD. The Loupe record goes with the stage (R298). -/
def trainingFault (s : State) (p code addr : Nat) : State :=
  let tb := regionTb s p
  let s := logRegion s p 0x0200 2 p (code % 256 + addr % 2 ^ 32 * 2 ^ 32)
  let s := setAlert s 3
  let s := updRegion (dropRegion s p) p fun r => { r with
    st := .unpowered, held := r.held || (0x33 ≤ code && code ≤ 0x37)
    fence := { cause := code, addr := addr, ptile := 0xFFFFFFFF, tb := tb } }
  if code = 0x30 || code = 0x31 then markDead s p else s

/-- A fault of the region affects a BOUND region (R5): it is BOUND, a steward region too (R299), or DIMMED and carries a slot (R317,
R327). -/
def countsBound (r : Region) : Bool := r.st = .bound || (r.st = .dimmed && r.role = .bound && r.mslot < 8)

/-- The fence of a region fault (R314): the clamps, the forced votes and their episode (R271, R296), FENCED, the record, the
event, Loupe, the notice, and the condition of R5. `tile` is the detecting tile, if one is. A region that carries no clocks is
not fenced; a FENCED one reports no second fault (R76); one that retrains in service is fenced like any powered one (R318). -/
def regionFault (s : State) (p code addr : Nat) (tile : Option Nat) (slot : Nat) : State :=
  let r := regionOfNo s p
  let powered := match r.st with | .healthy | .bound | .reserve | .dimmed => true | .training => r.retraining | _ => false
  if p < regionCount && r.st = .training && !r.retraining then trainingFault s p code addr
  else if p < regionCount && powered then
    let tb := regionTb s p
    let mask := summaryOf s p
    let again := r.st ≠ .training && match r.lastFault with
      | some t0 => decide (tb ≤ t0 + dnum s 0x2420 7 24 * 3600 * 2500000000)
      | none => false
    let s := match tile with
      | some t => updCore s t fun c => latchFault c slot code (BitVec.ofNat 32 addr)
      | none => latchRegion s p code
    let s := clampRegion s p
    let s := updRegion s p fun r => { r with
      role := if countsBound r then .bound else if roleOf r = .healthy then .healthy else .reserve
      st := .fenced, retraining := false, fenceDone := false
      forcedMask := some mask, noticeDue := true, migrating := 0
      ctr := if mask = 0 then r.ctr else { r.ctr with forced := (r.ctr.forced + 1) % 2 ^ 32 }
      repeatFault := again, lastFault := some tb
      fence := { cause := code, addr := addr, ptile := tile.getD 0xFFFFFFFF, tb := tb } }
    let s := { s with recov := { s.recov with
      fieldFences := smUpd s.recov.fieldFences (fieldOf p) [] fun l =>
        (l.filter fun x => tb ≤ x + 2500000) ++ [tb] } }
    let s := logRegion s p 0x0200 2 p (code % 256 + addr % 2 ^ 32 * 2 ^ 32)
    let s := loupe s p (match tile with | some t => localIndex t | none => 0xFF) 0x08 code (addr % 2 ^ 32)
    let s := setAlert s 3
    if countsBound r then report s .toRecovering else s
  else
    match tile with
    | some t => if r.st = .fenced then updCore s t fun c => latchFault c slot code (BitVec.ofNat 32 addr) else s
    | none => s

/-- A program fault of a slot of a tile: T1 to T3 under R50; of T0 the region fault MONITOR (R76). -/
def tileFault (s : State) (t slot code : Nat) (addr : Word) (store : Bool) : State :=
  if slot = 0 then regionFault s (regionOfTile t) 0x24 addr.toNat (some t) 0
  else updCore s t fun c => programFault c slot code addr store

/-! The check of a scratchpad line (R67). -/

/-- A corrected error counted in ECC_STAT.CORR, which saturates (R67). -/
def countCorrected (s : State) (t : Nat) : State :=
  updCtr (updCore s t fun c => { c with eccCorr := min 0xFFFF (c.eccCorr + 1) }) (regionOfTile t)
    fun r => { r with ecc := (r.ecc + 1) % 2 ^ 32 }

/-- A line read with what its check finds: a double-bit error is the region fault SPAD_UE (R67, R76). -/
def onLine (s : State) (t line : Nat) (err : EccOutcome) (ok : State → State) : State :=
  match err with
  | .clean => ok s
  | .corrected => ok (countCorrected s t)
  | .uncorrectable => regionFault s (regionOfTile t) 0x20 (line * 16) (some t) 0

/-- A line lies in one of the byte ranges (offset, length). -/
def lineIn (ranges : List (Nat × Nat)) (line : Nat) : Bool :=
  ranges.any fun r => r.2 ≠ 0 && r.1 / 16 ≤ line && line ≤ (r.1 + r.2 - 1) / 16

/-- Reads of a requester over byte ranges, with what the checks of their lines find: only lines it reads count, and a double-bit
error is the region fault SPAD_UE, after which nothing follows (R67, R76). -/
def onLines (s : State) (t : Nat) (ranges : List (Nat × Nat)) (errs : LineErrors) (ok : State → State) : State :=
  let s := (errs.corrected.filter (lineIn ranges)).foldl (fun s _ => countCorrected s t) s
  match errs.bad.filter (lineIn ranges) with
  | some line => regionFault s (regionOfTile t) 0x20 (line * 16) (some t) 0
  | none => ok s

/-- The lines of which a write covers only a part: their banks read them first (R66). -/
def partLines (off n : Nat) : List (Nat × Nat) :=
  if n = 0 then [] else
  (if off % 16 ≠ 0 || n < 16 - off % 16 then [(off / 16 * 16, 16)] else [])
    ++ (if (off + n) % 16 ≠ 0 then [((off + n) / 16 * 16, 16)] else [])

/-! Flags of the engines (R62) . -/

/-- FFLAGS_X with flags added. -/
def addFlags (s : State) (t : Nat) (f : Nat) : State :=
  updCore s t fun c => { c with fflagsX := c.fflagsX ||| BitVec.ofNat 32 f }

/-! Resetting a tile (R71). -/

/-- The Xnt CSRs and rings at their Reset values; epochs as given; the logical tile is kept apart. -/
def resetCsrs (k : Tile) (epochs : List Nat) : Tile :=
  { core := { dirty := BitVec.allOnes 256, spareRows := k.core.spareRows }
    rings := epochs.map fun e => { epoch := e } }

/-- The next epoch of a ring: 255 steps to 1 (R52). -/
def nextEpoch (e : Nat) : Nat := if e ≥ 255 then 1 else e + 1

/-- All four rings closed and their epochs incremented (R52). -/
def closeRings (k : Tile) : Tile :=
  { k with
    rings := k.rings.map fun r => { r with isOpen := false, epoch := nextEpoch r.epoch }
    msg := { k.msg with ringPend := k.msg.ringPend.map fun p => { p with closed := true } } }

/-- A FENCED region that its cause, its second fence within the window, or the trip of its fuse makes DEAD (R313, R318, R473). -/
def deadDue (r : Region) : Bool := r.st = .fenced && (r.repeatFault || r.fuse || r.fence.cause = 0x30 || r.fence.cause = 0x31)

/-- Every region stage turned off: every region UNPOWERED, its contents gone, no latched summary (R271, R318). A stage
that is off keeps its counters and its dictionary values (R422). A FENCED region that is DEAD by its cause keeps the mark. -/
def stagesOff (s : State) : State :=
  { s with
    regions := s.regions.map fun e => (e.1, { e.2 with
      st := .unpowered, role := .reserve, stageOn := false, gated := false
      forcedMask := none, fenceDone := false, noticeDue := false, binding := 0xFFFF, mslot := 0xFF
      temp := 0, coreMv := 0, sramMv := 0, migrating := 0, crossings := [], loupe := [], actions := []
      retraining := false, dim := 32, sects := [], lastSect := none, relPending := [], copy := none })
    store := { s.store with
      deadMarks := s.store.deadMarks ++ (s.regions.filter fun e => deadDue e.2 && !s.store.deadMarks.contains e.1).map (·.1) }
    tiles := []
    mem := [] }

end Sys2Proof.Machine
end

