-- ==== Sys2Proof/Machine/Routes.lean ====
section
/-! DEFINITION. Where a packet goes: mesh coordinates (R221, R222), injection tiles and lenders (R29 to R31), the route
table (R354 to R358), the companion map (R364), and the packets themselves (R223, R224, R255). -/

namespace Sys2Proof.Machine

/-- Hops between mesh coordinates. -/
def hops (u v u' v' : Nat) : Nat := (u - u') + (u' - u) + ((v - v') + (v' - v))

/-- A region carries no traffic: its fault-map bit is set (R227). -/
def inHole (s : State) (p : Nat) : Bool := faultMapBit (regionOfNo s p)

/-- A router's view of the fault map (R222, R227): the copy that its region holds, and the links that a clamp has cut (R228). -/
def seesHole (s : State) (t p : Nat) : Bool :=
  inHole s p || (match (regionOfNo s (regionOfTile t)).copy with | some c => !c.clear.contains p | none => false)

/-! Injection points (R29 to R31). -/

/-- Injection tile k of a port, off a bypassed position (R29, R30). -/
def injTile (s : State) (n k : Nat) : Nat :=
  let (x, y) := injectionPoint n k
  let r := regionOfNo s (regionOfTile (ptile x y))
  ptile (x - x % 11 + stepOffBypass (r.repair.getD (y % 8) 10) (x % 11)) y

/-- The injection tiles of a port that are in service (R30). -/
def injTiles (s : State) (n : Nat) : List Nat :=
  ((List.range 16).map (injTile s n)).filter fun t =>
    match (regionOfNo s (regionOfTile t)).st with
    | .bound | .reserve | .healthy => true
    | _ => false

/-- The port whose injection tile a tile is. -/
def portOfTile (s : State) (t : Nat) : Option Nat :=
  (List.range 32).find? fun n => (List.range 16).any fun k => injTile s n k = t

/-- A port borrows: fewer than 4 of its points are in service (R31). -/
def mustBorrow (s : State) (n : Nat) : Bool := (injTiles s n).length < 4

/-- The bridges that may lend: those with at least 4 points in service, which do not borrow themselves (R31). -/
def lenders (s : State) : List Nat := (List.range 32).filter fun n => !mustBorrow s n

/-- The bridge that a borrowing port uses: the nearest of those that may lend, clockwise on a tie (R31). -/
def lenderOf (up : List Nat) (n : Nat) : Option Nat :=
  (List.range 17).findSome? fun d =>
    if d = 0 then none
    else if up.contains ((n + d) % 32) then some ((n + d) % 32)
    else if up.contains ((n + 32 - d) % 32) then some ((n + 32 - d) % 32)
    else none

/-- The bridge nearest to a tile in hops, the lower port number on a tie (R253). -/
def nearestBridge (s : State) (t : Nat) : Option Nat :=
  let d := fun (x : Nat) => hops (meshU s t) (meshV t) (meshU s x) (meshV x)
  let best := (List.range 32).filterMap fun n =>
    match (injTiles s n).map d with
    | [] => none
    | x :: xs => some (n, xs.foldl min x)
  match best with
  | [] => none
  | b :: bs => some ((bs.foldl (fun a c => if c.2 < a.2 then c else a) b).1)

/-! Ports and routes (R339 to R341, R354 to R358). -/

/-- Fields of a port's configuration object (R341). -/
def cfg (s : State) (p sub d : Nat) : Nat := dnum s (0x3000 + p) sub d
def personality (s : State) (p : Nat) : Nat := cfg s p 1 0
def generation (s : State) (p : Nat) : Nat := cfg s p 2 3
def trunkSize (s : State) (p : Nat) : Nat := cfg s p 3 1
def portEnabled (s : State) (p : Nat) : Bool := cfg s p 4 0 = 1
def dateline (s : State) (p : Nat) : Bool := cfg s p 9 0 = 1
def ringGroup (s : State) (p : Nat) : Nat := cfg s p 0xA 0
def compBase (s : State) (p : Nat) : Nat := cfg s p 0xB 0
def compSize (s : State) (p : Nat) : Nat := cfg s p 0xC 0
def setSize (s : State) (p : Nat) : Nat := cfg s p 0xD 1
def ethMode (s : State) (p : Nat) : Nat := cfg s p 0xE 0
def egressId (s : State) (p : Nat) : Nat := cfg s p 0xF 0xFFFF

/-- A port is in service: UP or DEGRADED (R339). -/
def inService (s : State) (p : Nat) : Bool := (portOf s p).st = 3 || (portOf s p).st = 4

/-- The members of the trunk with base port b, in ascending order (R351). -/
def trunkMembers (s : State) (b : Nat) : List Nat := (List.range (trunkSize s b)).map (b + ·)

/-- The base port of a port's trunk (R351). -/
def trunkBase (s : State) (p : Nat) : Nat := p - p % max 1 (trunkSize s p)

/-- An alternative is usable (R356). -/
def altUsable (s : State) (b : Nat) : Bool := (trunkMembers s b).any fun p => inService s p && personality s p = 1

/-- Fields of a route entry (R354). -/
def rtValid (e : Nat) : Bool := bit e 63
def rtPlen (e : Nat) : Nat := bits e 62 58
def rtPrefix (e : Nat) : Nat := bits e 57 42
def rtNalt (e : Nat) : Nat := bits e 41 40
def rtAlt (e k : Nat) : Nat := e / 2 ^ (34 - 6 * k) % 64
def rtHops (e : Nat) : Nat := bits e 15 8
def rtPolicy (e : Nat) : Nat := bits e 1 0

/-- An entry matches a device ID (R356). -/
def rtMatches (e dev : Nat) : Bool :=
  rtValid e && dev / 2 ^ (16 - rtPlen e) = rtPrefix e / 2 ^ (16 - rtPlen e)

/-- The entry for a device: the longest match of the map in force, the lower index on a tie (R356). -/
def routeEntry (s : State) (dev : Nat) : Option Nat :=
  match s.fabric.map.filter fun e => rtMatches e.2 dev with
  | [] => none
  | e :: es => some (es.foldl (fun a c => if rtPlen c.2 > rtPlen a.2 then c else a) e).2

/-- The usable alternatives of an entry in ALT order (R356). -/
def usableAlts (s : State) (e : Nat) : List Nat :=
  ((List.range (rtNalt e + 1)).map (rtAlt e)).filter (altUsable s)

/-- The port toward another device, with the frame's TTL (R356 to R358). An Ethernet port's egress ID comes first. -/
def routePort (s : State) (dev srcDev srcLtile : Nat) (vc2 : Bool) : Option (Nat × Nat) :=
  match (List.range 32).find? fun p => personality s p = 3 && egressId s p = dev && dev ≠ 0xFFFF with
  | some p => some (p, 0)
  | none =>
    match routeEntry s dev with
    | none => none
    | some e =>
      let alts := usableAlts s e
      let n := if vc2 || rtPolicy e = 0 then 0 else ((srcDev ^^^ dev) ^^^ (srcLtile % 65536)) % alts.length
      alts[n]?.map fun p => (p, rtHops e + 2)

/-- The ports that are ALT0 of a valid entry in force (R360). -/
def floodPorts (s : State) : List Nat :=
  (List.range 32).filter fun p => s.fabric.map.any fun e => rtValid e.2 && rtAlt e.2 0 = p

/-! The companion map (R364). -/

/-- The members of the interleave set of a port, ascending (R364). -/
def setMembers (s : State) (p : Nat) : List Nat :=
  (List.range 32).filter fun q =>
    personality s q = 2 && compBase s q = compBase s p && compSize s q = compSize s p
    && setSize s q = setSize s p && generation s q = generation s p

/-- The companion map compiled from the port configuration (R355, R364): the Chadon Stream ports that map something. -/
def compileComp (s : State) : List CompEntry :=
  ((List.range 32).filter fun p => personality s p = 2 && compSize s p ≠ 0).map fun p =>
    { port := p, base := compBase s p, size := compSize s p, members := setSize s p, gen := generation s p }

/-- The members of an entry's interleave set in the map in force, ascending (R364). -/
def compMembers (s : State) (e : CompEntry) : List Nat :=
  (s.fabric.compMap.filter fun x => x.base = e.base && x.size = e.size && x.members = e.members && x.gen = e.gen).map (·.port)

/-- The set that maps a window offset, if its members are as many as it says, with the member's port and box offset (R364). -/
def compPlace (s : State) (o : Nat) : Option (List Nat × Nat × Nat) :=
  match s.fabric.compMap.find? fun e => e.base ≤ o && o < e.base + e.size with
  | none => none
  | some e =>
    let ms := compMembers s e
    let g := (o - e.base) / 4096
    if ms.length = e.members && e.members ≠ 0 then
      ms[g % e.members]?.map fun q => (ms, q, g / e.members * 4096 + o % 4096)
    else none

/-- The port and box offset that map a window offset, if a set in service does (R364). -/
def compPort (s : State) (o : Nat) : Option (Nat × Nat) :=
  match compPlace s o with
  | some (ms, q, box) => if ms.all (inService s) then some (q, box) else none
  | none => none

/-- Blocks that leave a port's receive buffer (R347). -/
def leaveBuffer (s : State) (p vc n : Nat) : State :=
  updPort s p fun x => { x with freed := x.freed.modify vc fun a => (a + n) % 65536 }

/-- A packet leaves the receive buffer that it came through (R347). -/
def freeHeld (s : State) (k : Packet) : State :=
  match k.held with | some (p, vc, n) => leaveBuffer s p vc n | none => s

/-! Packets (R220, R223, R224, R255). -/

/-- A kind that is answered with NAK when it cannot be delivered (R224). -/
def nakKind (k : Nat) : Bool := k ≤ 3 || k = 0xA

/-- The packet is a broadcast remote write (R254, R255). -/
def isBroadcastWrite (k : Packet) : Bool := k.kind = 2 && bit (fld k.payload 0xB 1) 0

/-- A packet that cannot be delivered is answered with NAK: its kind asks for it, and it is no broadcast remote write (R224, R254). -/
def nakDue (k : Packet) : Bool := nakKind k.kind && !isBroadcastWrite k

/-- The routing header (R223): the first 16 bytes of a data packet, the first 2 flits of a control packet. -/
def routingHeader (k : Packet) : Nat :=
  k.dstDev % 2 ^ 16 * 2 ^ 112 + k.dstU % 2 ^ 10 * 2 ^ 102 + k.dstV % 2 ^ 10 * 2 ^ 92 + b2n k.exit * 2 ^ 91
    + k.dstLtile % 2 ^ 19 * 2 ^ 72 + k.srcLtile % 2 ^ 19 * 2 ^ 53 + k.srcDev % 2 ^ 16 * 2 ^ 37 + k.flits % 2 ^ 4 * 2 ^ 25
    + k.pri % 4 * 2 ^ 23 + k.vc % 8 * 2 ^ 20 + k.kind % 16 * 2 ^ 16

/-- The bytes of a packet: its header, then its payload; a reduction's first flit holds the fields of R237 and the flags after the
routing header, its lanes follow (R223, R237, R255). The places in that flit, and 0 for a lane that no value has entered, are the
model's (DESIGN CHOICE, log 100). -/
def packetBytes (k : Packet) : List Byte :=
  natLe 16 (routingHeader k) ++ (match k.red with
    | some r => natLe 1 (2 + 4 * k.pri) ++ natLe 1 r.rop ++ natLe 2 r.cid ++ natLe 2 r.contrib ++ natLe 1 r.n ++ natLe 1 r.win
        ++ natLe 8 r.dest ++ natLe 16 0 ++ natLe 1 r.flags ++ natLe 15 0 ++ r.lanes.flatMap fun v => natLe 16 (v.getD 0).toNat
    | none => k.payload)

/-- A packet with the fields of a routing header (R223), none where its VC or KIND is reserved (R224). -/
def packetOf (net : MeshNet) (h : Nat) (payload : List Byte) : Option Packet :=
  let vc := bits h 22 20
  let kind := bits h 19 16
  if kind > 0xB || vc > (match net with | .data => 3 | .control => 1) then none
  else some {
    net := net, vc := vc, kind := kind, pri := bits h 24 23, flits := bits h 28 25, dstDev := bits h 127 112
    dstU := bits h 111 102, dstV := bits h 101 92, exit := bit h 91, dstLtile := bits h 90 72, srcLtile := bits h 71 53
    srcDev := bits h 52 37, bseq := 0, payload := payload, red := none }

/-- TXID and OP of a packet (R255). -/
def pkTxid (k : Packet) : Nat :=
  match k.kind with
  | 0 | 1 => fld k.payload 0x10 1
  | 2 | 3 => fld k.payload 0xA 1
  | 4 => fld k.payload 6 1
  | 6 => fld k.payload 1 1
  | 0xA => fld k.payload 0x12 1
  | _ => fld k.payload 0 1
def pkOp (k : Packet) : Nat :=
  match k.kind with
  | 2 => 1
  | 3 => 2
  | 0xA => if fld k.payload 0x10 1 = 1 then 1 else 2
  | _ => 0

/-- The system address of a remote write, read or access (R255). -/
def pkAddr (k : Packet) : Nat := fld k.payload 0 8

/-- The stream header of R365 and its data. -/
def streamBytes (c : CsFrame) : List Byte :=
  natLe 1 c.op ++ natLe 1 c.status ++ natLe 2 c.tag ++ natLe 4 c.len ++ natLe 8 c.boxOff ++ natLe 8 c.ctx ++ natLe 1 (b2n c.last)
    ++ natLe 7 0 ++ c.data

/-- The packet field of a frame (R344, R365). -/
def bodyBytes : FrameBody → List Byte
  | .packet k => packetBytes k
  | .stream c => streamBytes c

/-- The bytes of a frame that its CRC-32 covers: the header, the packet, zeros up to the last 4 bytes of its last block (R344). -/
def frameCovered (f : LinkFrame) : List Byte :=
  let body := bodyBytes f.body
  padTo (32 * f.nblk - 4) (natLe 2 f.seq ++ natLe 1 f.vc ++ natLe 1 f.nblk ++ natLe 2 f.tseq ++ natLe 1 f.ttl
    ++ natLe 1 (b2n f.broadcast + 2 * b2n f.dl) ++ natLe 2 f.bseq ++ natLe 2 body.length ++ natLe 4 0 ++ body)

/-- The CRC-32 of a frame, and all its bytes (R344). -/
def frameCrc (f : LinkFrame) : Nat := crc32 (frameCovered f)
def frameOctets (f : LinkFrame) : List Byte := frameCovered f ++ natLe 4 (frameCrc f)

/-- A NAK for a refused packet, to its source, in the name of the tile it addressed (R224, R255, R262). -/
def mkNak (k : Packet) (reason : Nat) : Packet :=
  let msg := k.kind ≤ 1
  let f := fun off len => if msg then fld k.payload off len else 0
  let body := natLe 1 reason ++ natLe 1 (pkTxid k) ++ natLe 1 (pkOp k) ++ natLe 1 (f 0 1) ++ natLe 2 (f 4 2)
    ++ natLe 2 (f 6 2) ++ natLe 1 (f 2 1) ++ List.replicate 7 0
  mkPacket k.net 1 6 3 k.srcDev k.srcLtile k.dstDev k.dstLtile body

/-- A NAK made at a tile's engine or router, seen by Loupe; DATA is the logical tile the refused packet was for (R297, log 100). -/
def loupeNak (s : State) (t : Nat) (k : Packet) (reason : Nat) : State := loupeTile s t 0x07 reason k.dstLtile

/-- A packet handed to a tile's message engine. -/
def arriveAt (s : State) (t : Nat) (k : Packet) : State := updMsg s t fun m => { m with arrived := m.arrived ++ [k] }

/-- Where a packet leaves for (R35, R222, R253, R356, R364). -/
inductive Target
  | mesh (t : Nat)
  | exit (port : Nat)
  | refused
  deriving DecidableEq, Repr

/-- The tile that carries a logical tile of this device by the copies of the tables that region q holds, unless its slot is unbound or its
region is in the fault map (R36, R222, R228). -/
def localTarget (s : State) (q l : Nat) : Target :=
  match (regionOfNo s q).copy with
  | none => .refused
  | some c =>
    match c.bound.find? fun e => e.1 = slotOf l with
    | some e => if c.clear.contains e.2 then .mesh (tileFor e.2 (regionOfNo s e.2).repair l) else .refused
    | none => .refused

/-- The target of a packet that starts at tile t. -/
def targetOf (s : State) (t : Nat) (k : Packet) : Target :=
  let exitTo := fun (p : Option Nat) => match p with | some p => Target.exit p | none => .refused
  if k.dstDev = 0xFFFF then exitTo (nearestBridge s t)
  else if k.dstDev ≠ s.fabric.devId then
    exitTo ((routePort s k.dstDev k.srcDev k.srcLtile (k.kind = 7)).map (·.1))
  else if (k.kind = 0xA && fld k.payload 0x10 1 ≠ 2) || k.kind = 0xB || (k.kind = 6 && k.dstLtile = 0x7FFFF) then
    exitTo (nearestBridge s t)
  else if (k.kind = 2 || k.kind = 3) && saSpace (pkAddr k) = 1 then
    exitTo ((compPort s (saComp (pkAddr k))).map (·.1))
  else localTarget s (regionOfTile t) k.dstLtile

end Sys2Proof.Machine
end

