-- ==== Sys2Proof/Machine/Rim.lean ====
section
/-! DEFINITION. The rim rings (R26, R27): the choice of a ring, insertion at a bridge, and one move of every segment. -/

namespace Sys2Proof.Machine

/-- Keys of a bridge and of a segment on a ring. -/
def rimKey (ring n : Nat) : Nat := ring * 32 + n

/-- The segment by which a ring leaves a bridge, and by which it reaches it (R26): ring A runs clockwise, ring B the other way. -/
def segOut (ring b : Nat) : Nat := if ring = 0 then b else (b + 31) % 32
def segIn (ring b : Nat) : Nat := if ring = 0 then (b + 31) % 32 else b

/-- Every segment of a ring is usable. -/
def ringUp (s : State) (ring : Nat) : Bool := !s.fabric.rimDown.any (·.1 = ring)

/-- Every segment of a ring from bridge a to bridge b is usable. -/
def pathUp (s : State) (ring a b : Nat) : Bool :=
  (List.range (rimSegments ring a b)).all fun i =>
    !s.fabric.rimDown.contains (ring, segOut ring (if ring = 0 then (a + i) % 32 else (a + 32 - i) % 32))

/-- The ring that a bridge uses toward another (R26): the shorter way, rim A on a tie; with a segment of one ring unusable the other
ring. With unusable segments on both, the ring whose way is usable (DESIGN CHOICE, log 102). -/
def ringFor (s : State) (a b : Nat) : Nat :=
  match ringUp s 0, ringUp s 1 with
  | true, true => ringChoice a b
  | true, false => 0
  | false, true => 1
  | false, false => if pathUp s 0 a b then 0 else if pathUp s 1 a b then 1 else ringChoice a b

/-- What a ring delivers to a bridge (R31, R359, R374). -/
def rimDeliver (s : State) (x : RimItem) : State :=
  updPort s x.dst fun p => match x.load with
    | .frame f => { p with fromRim := p.fromRim ++ [(s.time.tb, f)] }
    | .egress k => { p with egress := p.egress ++ [k] }
    | .mesh k => { p with toMesh := p.toMesh ++ [k] }

/-- A list of a map with its first item gone, or one added; an empty list is not kept. -/
def rimDrop (m : SMap (List RimItem)) (k : Nat) : SMap (List RimItem) :=
  match (smGetD m k []).drop 1 with
  | [] => smDel m k
  | l => smSet m k l
def rimPush (m : SMap (List RimItem)) (k : Nat) (x : RimItem) : SMap (List RimItem) := smSet m k (smGetD m k [] ++ [x])

/-- The packet of an item, and the item without its hold on a receive buffer. -/
def rimPacket (x : RimItem) : Option Packet :=
  match x.load with
  | .egress k | .mesh k => some k
  | .frame f => match f.body with | .packet k => some k | .stream _ => none
def rimUnheld (x : RimItem) : RimItem :=
  let un := fun (k : Packet) => { k with held := none }
  { x with load := match x.load with
      | .egress k => .egress (un k)
      | .mesh k => .mesh (un k)
      | .frame f => .frame (match f.body with | .packet k => { f with body := .packet (un k) } | .stream _ => f) }

/-- What an item's leaving of its bridge frees (R347). -/
def rimFree (s : State) (x : RimItem) : State := match rimPacket x with | some k => freeHeld s k | none => s

/-- An item handed to the rim at bridge `src`: it waits for insertion; one for the bridge itself needs no segment. -/
def rimSend (s : State) (src : Nat) (x : RimItem) : State :=
  if x.dst = src then rimDeliver (rimFree s x) (rimUnheld x)
  else { s with fabric := { s.fabric with rimIn := rimPush s.fabric.rimIn (rimKey (ringFor s src x.dst) src) x } }

/-- An item put on the segment by which a ring leaves a bridge. -/
def rimAdvance (s : State) (ring b : Nat) (x : RimItem) : State :=
  { s with fabric := { s.fabric with rimOn := rimPush s.fabric.rimOn (rimKey ring (segOut ring b)) x } }

/-- One bridge of a ring in one move, `old` being the rim before it (R27): what has arrived is delivered; what goes on has priority over
insertion, but of 32 items that leave by the segment one may be inserted. -/
def rimBridge (old : Fabric) (s : State) (ring b : Nat) : State :=
  let here := rimKey ring b
  let came := (smGetD old.rimOn (rimKey ring (segIn ring b)) []).head?
  let waits := (smGetD old.rimIn here []).head?
  let passed := smGetD old.rimPass here 0
  let up := !old.rimDown.contains (ring, segOut ring b)
  let taken := fun (s : State) => { s with fabric := { s.fabric with rimOn := rimDrop s.fabric.rimOn (rimKey ring (segIn ring b)) } }
  let insert := fun (s : State) (w : RimItem) =>
    rimAdvance { rimFree s w with fabric := { (rimFree s w).fabric with
      rimIn := rimDrop s.fabric.rimIn here, rimPass := smDel s.fabric.rimPass here } } ring b (rimUnheld w)
  let enter := fun (s : State) => match waits with
    | some w => if up then insert s w else s
    | none => s
  match came with
  | none => enter s
  | some x =>
    if x.dst = b then enter (rimDeliver (taken s) x)
    else if !up then s
    else match waits with
      | some w =>
        if passed ≥ 31 then insert s w
        else rimAdvance { taken s with fabric := { (taken s).fabric with
          rimPass := smSet s.fabric.rimPass here (passed + 1) } } ring b x
      | none => rimAdvance (taken s) ring b x

/-- One move of both rings. -/
def rimMove (s : State) : State :=
  if s.fabric.rimIn = [] && s.fabric.rimOn = [] then s
  else (List.range 64).foldl (fun s' i => rimBridge s.fabric s' (i / 32) (i % 32)) s

/-- What waits for a ring or is on it takes the other ring, from the bridge where it is (R26). The spec does not say what becomes of the
items on the ring whose segment fails: they are kept (DESIGN CHOICE, log 102). -/
def rimReroute (s : State) (ring : Nat) : State :=
  let start := fun (seg : Nat) => if ring = 0 then seg else (seg + 1) % 32
  let mine := (List.range 32).flatMap fun n =>
    (smGetD s.fabric.rimOn (rimKey ring n) []).map (fun x => (start n, x)) ++ (smGetD s.fabric.rimIn (rimKey ring n) []).map (fun x => (n, x))
  let other := fun (m : SMap (List RimItem)) => m.filter fun e => e.1 / 32 ≠ ring
  let s := { s with fabric := { s.fabric with rimOn := other s.fabric.rimOn, rimIn := other s.fabric.rimIn } }
  mine.foldl (fun s x => rimSend s x.1 x.2) s

end Sys2Proof.Machine
end

