-- ==== Sys2Proof/Machine/Mesh.lean ====
section
/-! DEFINITION. The commands of the packet mesh (chapter 08): injection, flit grants and receptions, replays, retrains,
broadcasts, ejection, merges, and the reduction unit's part in network reductions. -/

namespace Sys2Proof.Machine

/-! Buffers, links and keys. -/

/-- Number of a network: 0 data, 1 control. -/
def netNo (net : MeshNet) : Nat := match net with | .data => 0 | .control => 1

/-- The virtual channel of a packet in a tile's router: VC n + 4 for port traffic on the data network in the skirt
(R236). -/
def vcAt (t : Nat) (k : Packet) : Nat :=
  if k.net = .data && inSkirt (regionOfTile t) && (k.exit || k.bridge) then k.vc + 4 else k.vc

/-- Key of an input buffer and of a link. -/
def bufKey (net inp vc : Nat) : Nat := net * 64 + inp * 8 + vc
def linkKey (net port : Nat) : Nat := net * 8 + port

/-- The input that an output leads to at the next router. -/
def facingInput (out : Nat) : Nat := (out + 2) % 4

/-- A map of lists read and extended. -/
def qGet {α : Type} (m : SMap (List α)) (k : Nat) : List α := smGetD m k []
def qPush {α : Type} (m : SMap (List α)) (k : Nat) (x : α) : SMap (List α) := smSet m k (qGet m k ++ [x])

/-- Flits of a packet. -/
def flitsFor (k : Packet) (age : Nat) : List Flit := (List.range k.flits).map fun i => { pkt := k, idx := i, age := age }

/-- The keys of the two directions of the link that an output uses: here the input from that side, there the facing one. -/
def linkEnds (s : State) (t net out : Nat) : Option (Nat × Nat × Nat) :=
  (meshNext s t out).map fun t' => (t', linkKey net out, linkKey net (facingInput out))

/-- One of some keys of a router's links is in a list of the router's, or of its neighbour's. -/
def linkIn (s : State) (t net out : Nat) (f : Router → List Nat) : Bool :=
  match linkEnds s t net out with
  | some (t', here, there) => (f (tileOf s t).router).contains here || (f (tileOf s t').router).contains there
  | none => false

/-- An output has a link to a router that is not behind a fault-map bit (R225). -/
def linkThere (s : State) (t out : Nat) : Bool :=
  match meshNext s t out with | some t' => !seesHole s t (regionOfTile t') | none => false

/-- A link carries flits: it is neither down nor retraining, in either direction (R235). -/
def linkOpen (s : State) (t net out : Nat) : Bool :=
  linkThere s t out && !linkIn s t net out (·.down) && !linkIn s t net out (·.retraining)

/-- The link only retrains: a packet waits for it (R235). -/
def linkWaits (s : State) (t net out : Nat) : Bool :=
  linkThere s t out && !linkIn s t net out (·.down) && linkIn s t net out (·.retraining)

/-- Free flits of the buffer a packet would use downstream (R220, R230): 10, less what it holds and what is unacknowledged. -/
def credits (s : State) (t out : Nat) (k : Packet) : Nat :=
  match meshNext s t out with
  | none => 0
  | some t' =>
    let n := netNo k.net
    let vc := vcAt t' k
    let held := (qGet (tileOf s t').router.buf (bufKey n (facingInput out) vc)).length
    let unacked := ((qGet (tileOf s t).router.replay (linkKey n out)).filter fun f => vcAt t' f.pkt = vc).length
    10 - (held + unacked)

/-! Routing (R225 to R228). -/

/-- What a router does with a packet's head. -/
inductive Route
  | out (o : Nat) (det : Option (Nat × Nat)) (entered : Bool)
  | discard
  | wait
  deriving DecidableEq, Repr

/-- The outputs that reduce the distance: E or W first, then N or S (R225). -/
def productive (u v du dv : Nat) : List Nat :=
  (if u < du then [1] else if du < u then [3] else []) ++ (if dv < v then [0] else if v < dv then [2] else [])

/-- Boundary following with the hole on the right (R227): right of the last direction, ahead, left, back. -/
def alongHole (s : State) (t h : Nat) : Option Nat :=
  ([1, 0, 3, 2].map fun d => (h + d) % 4).find? fun o =>
    match meshNext s t o with | some t' => !seesHole s t (regionOfTile t') | none => false

/-- The holes beside a list of regions, joined on (R227). -/
def growHole (s : State) (t : Nat) : Nat → List Nat → List Nat
  | 0, set => set
  | n + 1, set =>
    let near := set.flatMap fun p =>
      (if gx p = 0 then [] else [regionAt (gx p - 1) (gy p)]) ++ (if gx p = 63 then [] else [regionAt (gx p + 1) (gy p)])
        ++ (if gy p = 0 then [] else [regionAt (gx p) (gy p - 1)]) ++ (if gy p = 71 then [] else [regionAt (gx p) (gy p + 1)])
    let more := (near.filter fun q => seesHole s t q && !set.contains q).eraseDups
    if more = [] then set else growHole s t n (set ++ more)

/-- Two regions lie in one hole, as tile t's router sees it: connected by regions whose fault-map bits are set (R227). -/
def sameHole (s : State) (t p q : Nat) : Bool :=
  seesHole s t p && seesHole s t q && (p = q || (growHole s t regionCount [p]).contains q)

/-- Every productive output of a packet leads into the hole where its destination lies (R228). -/
def atHoleEdge (s : State) (t : Nat) (prods : List Nat) (dst : Nat) : Bool :=
  seesHole s t dst && prods.all fun o =>
    match meshNext s t o with | some t' => sameHole s t dst (regionOfTile t') | none => false

/-- The route of a packet's head at a tile (R225 to R228). A VC2 packet moves along u first (R226). -/
def routeAt (s : State) (t : Nat) (k : Packet) (det : Option (Nat × Nat)) : Route :=
  let u := meshU s t
  let v := meshV t
  let n := netNo k.net
  if u = k.dstU && v = k.dstV then
    if k.exit then (match portOfTile s t with | some p => .out (edgeSide p) none false | none => .discard)
    else .out 4 none false
  else
    let all := productive u v k.dstU k.dstV
    let prods := if k.vc = 2 && k.net = .data then all.take 1 else all
    let opened := prods.filter (linkOpen s t n)
    let dist := hops u v k.dstU k.dstV
    let best := match opened with
      | [a, b] => if credits s t b k > credits s t a k then some b else some a
      | a :: _ => some a
      | [] => none
    let follow := fun (h d0 : Nat) (entered : Bool) =>
      match alongHole s t h with
      | some o => if linkOpen s t n o then Route.out o (some (d0, o)) entered else .wait
      | none => .wait
    match best, det with
    | some o, none => .out o none false
    | some o, some (d0, h) => if dist < d0 then .out o none false else follow h d0 false
    | none, _ =>
      if prods.any (linkWaits s t n) then .wait
      else if atHoleEdge s t all (regionOfTile (tileAtMesh s k.dstU k.dstV)) then .discard
      else match det with
        | some (d0, h) => follow h d0 false
        | none => follow ((prods.headD 0 + 3) % 4) dist true

/-! Delivery out of a router. -/

/-- The packet of a stream through a bridge as a link frame (R344). -/
def frameOf (k : Packet) (ttl : Nat) (broadcast : Bool) (bseq : Nat) : LinkFrame :=
  let plen := match k.red with | some r => 64 + 16 * r.n | none => 16 + k.payload.length
  { seq := 0, vc := (match k.net with | .data => k.vc | .control => 4 + k.vc), nblk := (20 + plen + 31) / 32, tseq := 0
    ttl := ttl, broadcast := broadcast, dl := false, bseq := bseq, body := .packet k }

/-- A frame handed over the rim from bridge `src` to port p (R359). -/
def toRim (s : State) (src p : Nat) (f : LinkFrame) : State := rimSend s src { dst := p, load := .frame f }

/-- A packet over the rim to a port (R359, R374): an Ethernet port takes it as an egress segment. -/
def sendTo (s : State) (src p : Nat) (f : LinkFrame) : State :=
  match f.body with
  | .packet k => if personality s p = 3 then rimSend s src { dst := p, load := .egress k } else toRim s src p f
  | .stream _ => toRim s src p f

/-- The flag DL on leaving through port q, having arrived at p (R361). -/
def dlThrough (s : State) (p q : Nat) (dl : Bool) : Bool :=
  if dateline s q then true else if ringGroup s q ≠ ringGroup s p then false else dl

/-- The notify record that a KIND 0xB packet carries; the places of its fields are the model's (log 63). -/
def notifyOf (k : Packet) : NotifyRec :=
  { stamp := fld k.payload 0 8, source := fld k.payload 8 4, ltile := fld k.payload 0xC 4, payload := fld k.payload 0x10 4
    late := false }

/-- A NAK for a message of an event object, told by its TAG and the SEQ of one of its firings, is counted (R293). Where several objects
fit, the one whose target it comes from counts it, else the first (DESIGN CHOICE, log 107). -/
def eventNak (s : State) (k : Packet) : State :=
  let fits := (List.range 32).filter fun n =>
    let c := dnum s (0x2560 + n) 1 0
    let fired := (smGetD s.sig.events n {}).fired
    bit (bits c 63 62) 1 && bits c 15 0 = fld k.payload 4 2
    && (fired ≥ 65536 || (1 ≤ fld k.payload 6 2 && fld k.payload 6 2 ≤ fired))
  let aimed := fits.filter fun n => bits (dnum s (0x2560 + n) 1 0) 50 32 = k.srcLtile
  match (aimed ++ fits).head? with
  | some n => { s with sig := { s.sig with
      events := smUpd s.sig.events n {} fun e => { e with refused := (e.refused + 1) % 2 ^ 32 } } }
  | none => s

/-- A packet for the Eyepiece: a control-space access, a NAK for an event object's message, or a notify record (R253, R293, R294). -/
def toEyepiece (s : State) (k : Packet) : State :=
  if k.kind = 0xA && fld k.payload 0x10 1 ≠ 2 then { s with dict := { s.dict with accesses := s.dict.accesses ++ [k] } }
  else if k.kind = 6 then eventNak s k
  else if k.kind = 0xB then { s with sig := { s.sig with notifyIn := s.sig.notifyIn ++ [notifyOf k] } }
  else s

/-- A packet that a bridge sends: into this wafer's mesh, or over the rim to the port its route chooses, with DL set by a dateline port
(R361); without a route it is discarded and counted (R357, R359). -/
def bridgeSend (s : State) (p : Nat) (k : Packet) : State :=
  if k.dstDev = s.fabric.devId && k.dstLtile = 0x7FFFF then toEyepiece s k
  else if k.dstDev = s.fabric.devId then updPort s p fun x => { x with toMesh := x.toMesh ++ [{ k with bridge := true }] }
  else match routePort s k.dstDev k.srcDev k.srcLtile (k.vc = 2) with
    | some (q, ttl) => sendTo s p q { frameOf { k with bridge := true } ttl false 0 with dl := dateline s q }
    | none => updPortCtr s p fun c => { c with noRoute := (c.noRoute + 1) % 2 ^ 32 }

/-- A packet that floods this wafer's control network, with the next broadcast sequence number; its contents are open (R222, R224, R229). -/
def floodPacket (s : State) (srcLtile : Nat) : Packet × State :=
  ({ mkPacket .control 0 8 0 s.fabric.devId 0 s.fabric.devId srcLtile (freshBytes s.free 64) with bseq := s.fabric.meshSeq },
    { s with free := s.free + 64, fabric := { s.fabric with meshSeq := (s.fabric.meshSeq + 1) % 256 } })

/-- The bridge by which the Eyepiece sends: the lowest that has an injection point in service (DESIGN CHOICE, log 57). -/
def eyepieceBridge (s : State) : Option Nat := (List.range 32).find? fun p => (injTiles s p).length > 0

/-- The Eyepiece's packets for the mesh go over the rim to a bridge; where they join the rim the spec does not say: at the bridge before
it (R33; DESIGN CHOICE, log 57). -/
def sendBy (s : State) (p : Nat) (k : Packet) : State :=
  rimSend s ((p + 31) % 32) { dst := p, load := .mesh { k with bridge := true } }
def eyepieceSend (s : State) (k : Packet) : State :=
  match eyepieceBridge s with
  | some p => sendBy s p k
  | none => s

/-- A broadcast of the Eyepiece on the control network (R287, R355). -/
def eyepieceBroadcast (s : State) : State :=
  let (k, s) := floodPacket s 0x7FFFF
  eyepieceSend s k

/-- The binding table and the fault map as they stand now (R222, R317). -/
def meshTables (s : State) : MeshTables :=
  { no := s.fabric.tableNo
    bound := (s.regions.filter fun e => e.2.binding ≠ 0xFFFF).map fun e => (bindingSlot e.2.binding, e.1)
    clear := (s.regions.filter fun e => !faultMapBit e.2).map (·.1) }

/-- A broadcast that carries the tables, each with a number of its own, by which a region tells a newer one (R222; its layout is open,
log 57). -/
def floodTables (s : State) (srcLtile : Nat) : Packet × State :=
  let s := { s with fabric := { s.fabric with tableNo := s.fabric.tableNo + 1 } }
  let (k, s) := floodPacket s srcLtile
  ({ k with tables := some (meshTables s) }, s)

/-- The tables of a broadcast taken into a region's copies (R222). -/
def takeTables (s : State) (p : Nat) (k : Packet) : State :=
  match k.tables with
  | none => s
  | some c => updRegion s p fun r => { r with
      copy := match r.copy with | some o => if o.no < c.no then some c else some o | none => some c }

/-- A fault map of the Eyepiece broadcast (R314, R317). -/
def mapBroadcast (s : State) : State :=
  let (k, s) := floodTables s 0x7FFFF
  eyepieceSend s k

/-- A fault map that has reached every region in service, at which a fence is complete (R314). -/
def mapReached (s : State) : State :=
  { s with regions := s.regions.map fun e => (e.1, if clocksRun e.2 then { e.2 with copy := some (meshTables s) } else e.2) }

/-- A control-class message of a tile's engine whose contents are open: free bytes (R33, R39, R299, R324). -/
def noteTo (s : State) (t own dstDev dst : Nat) : State :=
  queueOut { s with free := s.free + 48 } t (mkPacket .control 0 0 0 dstDev dst s.fabric.devId own (freshBytes s.free 48))

/-- Position 0 of row 0 of the standby's slot (R377). -/
def standbyTile : Nat := ltileAt 4606 0 0

/-- A change of Periscope's tables or of the stream table sent to the standby before it takes effect (R299, R308). -/
def tellStandby (s : State) : State :=
  match carrier s 364150, carrier s standbyTile with
  | some t, some _ => noteTo s t 364150 s.fabric.devId standbyTile
  | _, _ => s

/-- A change of the tables: told to the standby, then broadcast from the primary steward's tile (R222, R299, R306, R328). -/
def stewardBroadcast (s : State) : State :=
  match carrier s 364150 with
  | some t =>
    let (k, s) := floodTables (tellStandby s) 364150
    queueOut s t k
  | none => s

/-- A fault or fence notice to the primary steward (R224, R314); its contents, a region and a cause, are the model's (log 57). -/
def fenceNotice (s : State) (p : Nat) : State :=
  eyepieceSend s (mkPacket .control 0 9 3 s.fabric.devId 364150 s.fabric.devId 0x7FFFF
    (natLe 2 p ++ natLe 2 (regionOfNo s p).fence.cause ++ List.replicate 4 0))

/-- TTL of a broadcast on a port: HOPS + 2 of the farthest entry that it is ALT0 of (R357, R360). -/
def floodTtl (s : State) (q : Nat) : Nat :=
  (s.fabric.map.filter fun e => rtValid e.2 && rtAlt e.2 0 = q).foldl (fun a e => max a (rtHops e.2 + 2)) 2

/-- A broadcast that leaves its device by bridge p: a frame with a fresh BSEQ on every port that is ALT0 of an entry; its own pair is
noted so that it does not return (R360). -/
def floodOut (s : State) (p : Nat) (k : Packet) : State :=
  let b := s.fabric.bseq
  let s := { s with fabric := { s.fabric with
    bseq := (b + 1) % 65536
    seen := (s.fabric.seen ++ [(s.fabric.devId, b)]).drop (s.fabric.seen.length - 255) } }
  (floodPorts s).foldl (fun s q =>
    toRim s p q { frameOf { k with bridge := true } (floodTtl s q) true b with dl := dateline s q }) s

/-- A packet that has left the mesh at a port's bridge (R32, R253, R294, R360, R366, R374). The spec gives what a bridge holds for its
port no size: it has none here (DESIGN CHOICE, log 107). -/
def leaveMesh (s : State) (p : Nat) (k : Packet) : State :=
  if k.kind = 0xB then toEyepiece s k
  else if k.dstDev = 0xFFFF then
    let s := if k.kind = 0xA then { s with dict := { s.dict with accesses := s.dict.accesses ++ [k] } } else s
    if k.kind = 2 || k.kind = 0xA then floodOut s p k else s
  else if k.dstDev = s.fabric.devId && ((k.kind = 0xA && fld k.payload 0x10 1 ≠ 2) || (k.kind = 6 && k.dstLtile = 0x7FFFF)) then
    toEyepiece s k
  else if personality s p = 3 then updPort s p fun x => { x with egress := x.egress ++ [k] }
  else updPort s p fun x => { x with fromMesh := x.fromMesh ++ [(s.time.tb, k)] }

/-! Counters of R246. -/

/-- Counters of a link direction into an input: corrected flits, replays, retrains. -/
def countLink (s : State) (t key a b c : Nat) : State :=
  updCtr s (regionOfTile t) fun r =>
    { r with links := smUpd r.links (t * 16 + key) (0, 0, 0) fun x =>
      ((x.1 + a) % 2 ^ 32, (x.2.1 + b) % 2 ^ 32, (x.2.2 + c) % 2 ^ 32) }

def countTileDown (s : State) (p : Nat) : State := updCtr s p fun c => { c with tileDown := (c.tileDown + 1) % 2 ^ 32 }
def countDiscard (s : State) (p : Nat) : State := updCtr s p fun c => { c with discarded := (c.discarded + 1) % 2 ^ 32 }

/-- Every flit of a packet removed from the mesh. -/
def removePacket (s : State) (k : Packet) : State :=
  { s with
    tiles := s.tiles.map fun e => (e.1, { e.2 with router := dropPackets [k.uid] e.2.router })
    fabric := { s.fabric with
      ports := s.fabric.ports.map fun e => (e.1, { e.2 with inj := e.2.inj.filter fun x => x.2.pkt.uid ≠ k.uid }) } }

/-- A packet stopped at tile t's router: discarded, and answered with NAK TILE_DOWN where it is due (R228, R246). -/
def stopPacket (s : State) (t : Nat) (k : Packet) : State :=
  let p := regionOfTile t
  let s := countDiscard s p
  if nakDue k then queueOut (loupeNak (countTileDown s p) t k 6) t (mkNak k 6) else s

/-! Injection (R220, R222, R230). -/

/-- The packet as it enters the mesh: with a number of its own. -/
def stampPacket (s : State) (k : Packet) : State × Packet :=
  ({ s with fabric := { s.fabric with packetNo := s.fabric.packetNo + 1 } }, { k with uid := s.fabric.packetNo })

/-- A packet's flits entering the local input's buffer, if they fit; a VC2 packet takes a combine entry (R240). -/
def pushPacket (s : State) (t : Nat) (k : Packet) : Option State :=
  let key := bufKey (netNo k.net) 4 (vcAt t k)
  if (qGet (tileOf s t).router.buf key).length + k.flits ≤ 10 then
    let (s, k) := stampPacket s k
    some (updRouter s t fun r => { r with
      buf := smSet r.buf key (qGet r.buf key ++ flitsFor k (cyclesNow s t))
      combine := if k.red.isSome && r.combine.length < 16 then r.combine ++ [(4, k)] else r.combine })
  else none


/-- Completion of a message that is not tracked: its record and its beam arrival (R249, R251). CYCLES is `cycles`. -/
def msgDone (s : State) (t : Nat) (m : SendMsg) (status cycles : Nat) : State :=
  let ctl := fld m.hdr 0x14 4
  let tag := fld m.hdr 4 2
  let s := if bit ctl 31 then
      writeNum s t (m.base + fld m.hdr 0x10 4) 8 (min cycles 0xFFFFFFFF * 2 ^ 32 + status * 65536 + tag)
    else s
  if bit ctl 30 then arriveTile s t (ctl % 32) else s

/-- The lines that a message's completion record covers in part (R66, R249). -/
def msgLines (m : SendMsg) : List (Nat × Nat) :=
  if bit (fld m.hdr 0x14 4) 31 then partLines (m.base + fld m.hdr 0x10 4) 8 else []

/-- The same for a packet of an untracked message: CYCLES runs from its first injection cycle (R251). `errs`: what the checks of the
record's lines find (R67). -/
def cplDone (s : State) (t : Nat) (o : OutPacket) (status : Nat) (errs : LineErrors) : State :=
  match o.cpl with
  | some m => onLines s t (msgLines m) errs fun s => msgDone s t m status (cyclesSince s t o.start + o.pkt.flits)
  | none => s

/-- The refusal at the source (R36, R228, R264, R357): the NAK arises inside the engine; what gets none is discarded. -/
def refuseAtSource (s : State) (t : Nat) (o : OutPacket) (errs : LineErrors) : State :=
  let p := regionOfTile t
  if nakDue o.pkt then
    let s := updCtr (countTileDown s p) p fun c => { c with naks := c.naks.modify 5 fun n => (n + 1) % 2 ^ 32 }
    cplDone (arriveAt (loupeNak s t o.pkt 6) t (mkNak o.pkt 6)) t o 0x16 errs
  else cplDone (countDiscard s p) t o 0 errs

/-- The packet at the head of a message engine's output enters the local input of its router (R220, R222); one that leaves by a port goes
to its injection tiles in rotation. -/
def injectTile (s : State) (t : Nat) (errs : LineErrors) : State :=
  match (tileOf s t).msg.outPk with
  | [] => s
  | o :: rest =>
    let popped := fun s => updMsg s t fun m => { m with outPk := rest }
    let enter := fun (k : Packet) => (pushPacket s t k).map fun s' => cplDone (popped s') t o 0 errs
    let refused := refuseAtSource (popped s) t o errs
    if o.pkt.kind = 8 then (enter o.pkt).getD s
    else match targetOf s t o.pkt with
    | .mesh t' => (enter { o.pkt with dstU := meshU s t', dstV := meshV t', exit := false }).getD s
    | .exit p =>
      let tiles := injTiles s p
      (match tiles[(portOf s p).exitRotor % tiles.length]? with
       | some t' =>
         match enter { o.pkt with dstU := meshU s t', dstV := meshV t', exit := true } with
         | some s' => updPort s' p fun x => { x with exitRotor := x.exitRotor + 1 }
         | none => s
       | none => refused)
    | .refused => refused

/-- One flit put on the link of an output, with its sequence number, and kept for a replay (R234). -/
def sendFlit (s : State) (t net out : Nat) (f : Flit) : State :=
  match meshNext s t out with
  | none => s
  | some t' =>
    let key := linkKey net out
    let q := smGetD (tileOf s t).router.txSeq key 0
    let f := { f with seq := q }
    updRouter (updRouter s t fun r => { r with replay := qPush r.replay key f, txSeq := smSet r.txSeq key ((q + 1) % 16) }) t' fun r =>
      { r with link := qPush r.link (linkKey net (facingInput out)) f }

/-- One flit put on the link from an injection tile to its bridge (R32, R234). -/
def exitFlit (s : State) (t net out : Nat) (f : Flit) : State :=
  let key := linkKey net out
  updRouter s t fun r =>
    let q := smGetD r.txSeq key 0
    let f := { f with seq := q }
    { r with
      replay := qPush r.replay key f, txSeq := smSet r.txSeq key ((q + 1) % 16), link := qPush r.link (linkKey net (4 + out)) f }

/-- The link from an injection tile to its bridge can take a flit: it is in service, and its sender has fewer than 8 unacknowledged flits,
which is also what the crossing to the bridge holds (R202, R234, R235). -/
def exitCanGo (s : State) (t net out : Nat) : Bool :=
  let r := (tileOf s t).router
  let key := linkKey net (4 + out)
  !r.down.contains key && !r.retraining.contains key && (qGet r.replay (linkKey net out)).length < 8

/-- One flit put by a bridge on the link into an injection tile's edge input (R32, R234). -/
def bridgeFlit (s : State) (t side : Nat) (f : Flit) : State :=
  let net := netNo f.pkt.net
  let key := linkKey net (4 + side)
  updRouter s t fun r =>
    let q := smGetD r.txSeq key 0
    let f := { f with seq := q }
    { r with
      replay := qPush r.replay key f, txSeq := smSet r.txSeq key ((q + 1) % 16), link := qPush r.link (linkKey net side) f }

/-- A bridge's link into an injection tile can take a flit: the region carries traffic, the link is in service, its sender has fewer
than 8 unacknowledged flits, and the input buffer a credit (R220, R230, R234, R235). -/
def bridgeCanGo (s : State) (t side : Nat) (f : Flit) : Bool :=
  let r := (tileOf s t).router
  let net := netNo f.pkt.net
  let key := linkKey net side
  let sent := qGet r.replay (linkKey net (4 + side))
  let vc := vcAt t f.pkt
  !inHole s (regionOfTile t) && !r.down.contains key && !r.retraining.contains key && sent.length < 8
    && (qGet r.buf (bufKey net side vc)).length + (sent.filter fun x => vcAt t x.pkt = vc).length < 10

/-- The flits of the packet that a bridge sends into the mesh, as far as the link takes them; they are lost with a region that is
fenced (R228). -/
def pumpFlits : Nat → State → Nat → State
  | 0, s, _ => s
  | n + 1, s, p =>
    match (portOf s p).inj with
    | [] => s
    | (t, f) :: rest =>
      if inHole s (regionOfTile t) then updPort s p fun x => { x with inj := [] }
      else if bridgeCanGo s t (edgeSide p) f then
        pumpFlits n (bridgeFlit (updPort s p fun x => { x with inj := rest }) t (edgeSide p) f) p
      else s

/-- Whether a port borrows, brought up to date: a borrowing episode starts and is counted when fewer than 4 of its points are in
service, and stops with 4 (R31). `up`: the bridges that may lend; where none may, the spec is silent, and the port keeps the lender it
had, or its own points (DESIGN CHOICE, log 106). -/
def settleBorrow (up : List Nat) (s : State) (p : Nat) : State :=
  if !up.contains p then
    match lenderOf up p with
    | some q =>
      let s1 := if (portOf s p).lender.isSome then s else updPortCtr s p fun c => { c with borrows := (c.borrows + 1) % 2 ^ 32 }
      updPort s1 p fun x => { x with lender := some q }
    | none => s
  else if (portOf s p).lender.isSome then updPort s p fun x => { x with lender := none } else s

/-- A packet that a bridge cannot deliver into the mesh: NAK TILE_DOWN where it is due, else a discard, counted in the region of the
point whose turn it is (R224, R228, R246; which region counts it the spec does not say: DESIGN CHOICE, log 100). -/
def undelivered (s : State) (p : Nat) (k : Packet) : State :=
  let s := freeHeld s k
  if nakDue k then bridgeSend s p (mkNak k 6)
  else match (injTiles s p).head? with
    | some t => countDiscard s (regionOfTile t)
    | none => s

/-- A packet's flits on their way from bridge p into the injection tile whose turn it is (R29, R31). -/
def startInject (s : State) (p : Nat) (rest : List Packet) (k : Packet) : State :=
  let tiles := injTiles s p
  match tiles[(portOf s p).rotor % tiles.length]? with
  | some t =>
    let (s, k) := stampPacket (freeHeld s k) { k with exit := false, bridge := true, held := none }
    pumpFlits 10 (updPort s p fun x => { x with
      toMesh := rest, rotor := x.rotor + 1, inj := (flitsFor k 0).map fun f => (t, f) }) p
  | none => s

/-- The region of the injection tile whose turn it is at a bridge; its copies of the tables are the bridge's (R29, R222). -/
def pointRegion (s : State) (p : Nat) : Nat :=
  let tiles := injTiles s p
  ((tiles[(portOf s p).rotor % tiles.length]?).map regionOfTile).getD regionCount

/-- The packet at the head of a bridge's mesh queue enters an injection tile's edge-facing input, or goes over the rim to the bridge
that lends its points (R31, R32, R222). -/
def injectPort (s : State) (p : Nat) : State :=
  if (portOf s p).inj ≠ [] then pumpFlits 10 s p
  else match (portOf s p).toMesh with
  | [] => s
  | k :: rest =>
    let s1 := settleBorrow (lenders s) s p
    match (portOf s1 p).lender with
    | some q => rimSend (updPort s1 p fun x => { x with toMesh := rest }) p { dst := q, load := .mesh k }
    | none =>
      if k.kind = 8 then startInject s1 p rest k
      else match localTarget s1 (pointRegion s1 p) k.dstLtile with
        | .mesh t' => startInject s1 p rest { k with dstU := meshU s1 t', dstV := meshV t' }
        | _ => undelivered (updPort s1 p fun x => { x with toMesh := rest }) p k

/-- Meaning of PACKET_INJECT (R67, R222). `errs`: what the checks of the lines that a record covers in part find. -/
def execPacketInject (source : InjectSource) (errs : LineErrors) (s : State) : Res :=
  .next (match source with
    | .tile t => if tileRuns s t then injectTile s t errs else s
    | .port p => if rimRuns s && p < 32 then injectPort s p else s)

/-! Grants (R230). -/

/-- A candidate of an output: its input, buffer key, virtual channel, flit and route. -/
structure Cand where
  inp : Nat
  vc : Nat
  flit : Flit
  route : Route
  deriving DecidableEq, Repr

/-- The heads of a router's input buffers on a network with what is to become of them. Broadcasts flood apart (R229). -/
def heads (s : State) (t : Nat) (net : MeshNet) : List Cand :=
  let r := (tileOf s t).router
  (List.range 5).flatMap fun inp => (List.range 8).filterMap fun vc =>
    match qGet r.buf (bufKey (netNo net) inp vc) with
    | [] => none
    | f :: _ =>
      if f.pkt.kind = 8 then none
      else if f.idx = 0 then some { inp := inp, vc := vc, flit := f, route := routeAt s t f.pkt f.det }
      else (r.route.find? fun x => x.1 = f.pkt).map fun x =>
        { inp := inp, vc := vc, flit := f, route := .out x.2.1 none false }

/-- The priority in force: 3 once the head has waited 32 x (3 - PRI) cycles, counted at the region's clock (R200, R230). -/
def effPri (s : State) (t : Nat) (f : Flit) : Nat :=
  if cyclesSince s t f.age ≥ 32 * (3 - f.pkt.pri) then 3 else f.pkt.pri

/-- One candidate goes before another (R230). -/
def before (s : State) (t : Nat) (a b : Cand) : Bool :=
  let pa := effPri s t a.flit
  let pb := effPri s t b.flit
  if pa ≠ pb then pa > pb
  else if a.flit.age ≠ b.flit.age then a.flit.age < b.flit.age
  else if a.inp ≠ b.inp then a.inp < b.inp
  else a.vc < b.vc

/-- The reduction unit of a tile is busy: a reduction stands before it, or one that it has taken waits for its completion (R240, R242,
R243). -/
def reductionBusy (k : Tile) : Bool :=
  k.msg.arrived.any (·.red.isSome) || (qGet k.router.eject 0).any (·.pkt.red.isSome) || k.redDone ≠ []

/-- A candidate can go on an output: a credit, at most 8 unacknowledged flits, an open link (R230, R234, R235). At the local output VC0
packets of the data network wait while the hold register is occupied (R259), and VC2 packets while the reduction unit is busy (R240,
R242). -/
def canGo (s : State) (t out : Nat) (c : Cand) : Bool :=
  let k := c.flit.pkt
  if out = 4 then
    !(k.net = .data && k.vc = 0 && (tileOf s t).msg.hold.isSome)
    && !(k.red.isSome && c.flit.idx = 0 && reductionBusy (tileOf s t))
  else if k.exit && meshU s t = k.dstU && meshV t = k.dstV then exitCanGo s t (netNo k.net) out
  else
    linkOpen s t (netNo k.net) out && credits s t out k > 0
    && (qGet (tileOf s t).router.replay (linkKey (netNo k.net) out)).length < 8

/-- The bookkeeping of a granted flit in its own router (R225, R240). -/
def popFlit (s : State) (t out : Nat) (c : Cand) : State :=
  let k := c.flit.pkt
  let key := bufKey (netNo k.net) c.inp c.vc
  let r := (tileOf s t).router
  let whole := ((qGet r.buf key).filter fun f => f.pkt = k).length = k.flits
  let unmerged := k.red.isSome && c.flit.idx = 0 && whole && !(r.combine.any fun x => x.2 = k)
  let s := if unmerged then updCtr s (regionOfTile t) fun x => { x with combineFull := (x.combineFull + 1) % 2 ^ 32 } else s
  updRouter s t fun r => { r with
    buf := smSet r.buf key ((qGet r.buf key).drop 1)
    combine := r.combine.filter fun x => x.2 ≠ k
    route :=
      if c.flit.idx + 1 = k.flits then r.route.filter fun x => x.1 ≠ k
      else if c.flit.idx = 0 then r.route ++ [(k, out, c.flit.age)] else r.route }

/-- One flit granted on an output (R230): to the next router's link, to the local output, or to the bridge. -/
def grantFlit (s : State) (t out : Nat) (c : Cand) : State :=
  let k := c.flit.pkt
  let n := netNo k.net
  let det := match c.route with | .out _ d _ => d | _ => none
  let entered := match c.route with | .out _ _ e => e | _ => false
  let s := popFlit s t out c
  let s := if entered then updCtr s (regionOfTile t) fun x => { x with detours := (x.detours + 1) % 2 ^ 32 } else s
  if out = 4 then updRouter s t fun r => { r with eject := qPush r.eject n { c.flit with det := none } }
  else if k.exit && meshU s t = k.dstU && meshV t = k.dstV then exitFlit s t n out { c.flit with det := none }
  else sendFlit s t n out { c.flit with det := det }

/-- Meaning of FLIT_GRANT (R225 to R230): a packet stopped at the edge of a hole is discarded; else the first candidate
of the output is granted. -/
def execFlitGrant (t : Nat) (net : MeshNet) (out : Nat) (s : State) : Res :=
  .next (if !tileRuns s t then s else
    let cs := heads s t net
    match cs.find? fun c => c.route = .discard with
    | some c => stopPacket (removePacket s c.flit.pkt) t c.flit.pkt
    | none =>
      let mine := cs.filter fun c => (match c.route with | .out o _ _ => o = out | _ => false) && canGo s t out c
      match mine with
      | [] => s
      | c :: rest => grantFlit s t out (rest.foldl (fun a b => if before s t b a then b else a) c))

/-! Links (R234, R235). -/

/-- A tile's side toward a bridge. -/
def bridgeSide (s : State) (t side : Nat) : Option Nat :=
  match portOfTile s t with
  | some p => if edgeSide p = side then some p else none
  | none => none

/-- The other end of a port of a tile's links: a neighbour's router, or at an injection tile's edge the bridge, whose ports, numbered
from 4, the tile's router holds (R32, R234). -/
def linkPeer (s : State) (t port : Nat) : Option (Nat × Nat) :=
  if port ≥ 4 then (bridgeSide s t (port - 4)).map fun _ => (t, port - 4)
  else match meshNext s t port with
    | some t' => some (t', facingInput port)
    | none => (bridgeSide s t port).map fun _ => (t, 4 + port)

/-- An input's link carries flits now (R235). -/
def linkLive (s : State) (t net inp : Nat) : Bool :=
  let r := (tileOf s t).router
  let here := linkKey net inp
  !r.down.contains here && !r.retraining.contains here
    && (match (if inp ≥ 4 then none else meshNext s t inp) with
      | some t' =>
        let r' := (tileOf s t').router
        let there := linkKey net (facingInput inp)
        !r'.down.contains there && !r'.retraining.contains there
      | none => true)

/-- A flit received: the link moves on, and the sender's replay buffer lets it go (R234). -/
def ackFlit (s : State) (t n inp : Nat) (f : Flit) : State :=
  let key := linkKey n inp
  let s := updRouter s t fun r => { r with
    link := smSet r.link key ((qGet r.link key).drop 1)
    rxSeq := smSet r.rxSeq key ((f.seq + 1) % 16)
    fails := smDel r.fails key }
  match linkPeer s t inp with
  | some (t', o) => updRouter s t' fun r => { r with
      replay := smSet r.replay (linkKey n o) ((qGet r.replay (linkKey n o)).drop 1) }
  | none => s

/-- A flit that a bridge receives: the packet leaves the mesh with its last one (R32). -/
def bridgeTakes (s : State) (t p n : Nat) (f : Flit) : State :=
  let key := bufKey n 5 (vcAt t f.pkt)
  let q := qGet (tileOf s t).router.buf key ++ [f]
  if f.idx + 1 = f.pkt.flits then
    leaveMesh (updRouter s t fun r => { r with buf := smSet r.buf key (q.filter fun x => x.pkt ≠ f.pkt) }) p f.pkt
  else updRouter s t fun r => { r with buf := smSet r.buf key q }

/-- A flit enters its buffer, unless its packet is lost (R228); a VC2 packet received whole takes a combine entry if one is free (R240);
at a bridge it is on its way out (R32). -/
def acceptFlit (s : State) (t : Nat) (net : MeshNet) (inp : Nat) (f : Flit) : State :=
  let n := netNo net
  let key := bufKey n inp (vcAt t f.pkt)
  let r := (tileOf s t).router
  let s := ackFlit s t n inp f
  if f.dead then s
  else if inp ≥ 4 then (match bridgeSide s t (inp - 4) with | some p => bridgeTakes s t p n f | none => s)
  else
  let age := match (qGet r.buf key).find? fun x => x.pkt = f.pkt with
    | some x => x.age
    | none => match r.route.find? fun x => x.1 = f.pkt with | some x => x.2.2 | none => cyclesNow s t
  updRouter s t fun r =>
    let q := qGet r.buf key ++ [{ f with age := age }]
    let whole := (q.filter fun x => x.pkt = f.pkt).length = f.pkt.flits
    { r with
      buf := smSet r.buf key q
      combine := if f.pkt.red.isSome && whole && r.combine.length < 16 then r.combine ++ [(inp, f.pkt)] else r.combine }

/-- A flit that fails its CRC: it and every later one on the link are discarded, a replay is requested by its sequence number; at the
fourth failure in succession the link retrains (R234, R235). -/
def rejectFlit (s : State) (t : Nat) (net : MeshNet) (inp : Nat) (f : Flit) : State :=
  let key := linkKey (netNo net) inp
  let n := smGetD (tileOf s t).router.fails key 0 + 1
  let s := updRouter s t fun r => { r with
    link := smSet r.link key []
    fails := smSet r.fails key n
    retraining := if n ≥ 4 && !r.retraining.contains key then r.retraining ++ [key] else r.retraining }
  match linkPeer s t inp with
  | some (t', o) => updRouter s t' fun r => { r with resend := smSet r.resend (linkKey (netNo net) o) f.seq }
  | none => s

/-- A flit that follows a refused one, sent before the replay: discarded (R234). -/
def skipFlit (s : State) (t key : Nat) : State :=
  updRouter s t fun r => { r with link := smSet r.link key ((qGet r.link key).drop 1) }

/-- Meaning of FLIT_RECEIVE (R234, R235): the next flit in sequence is corrected, checked and accepted or refused. An input from 4 up is
the bridge's beside an injection tile. -/
def execFlitReceive (t : Nat) (net : MeshNet) (inp : Nat) (err : EccOutcome) (s : State) : Res :=
  .next (
    let key := linkKey (netNo net) inp
    if !tileRuns s t || !linkLive s t (netNo net) inp then s else
    match qGet (tileOf s t).router.link key with
    | [] => s
    | f :: _ =>
      if f.seq ≠ smGetD (tileOf s t).router.rxSeq key 0 then skipFlit s t key
      else match err with
        | .clean => acceptFlit s t net inp f
        | .corrected => countLink (acceptFlit s t net inp f) t key 1 0 0
        | .uncorrectable => rejectFlit s t net inp f)

/-- Meaning of REPLAY_REQUEST: the sender resends from the requested flit onward, in order (R234); an output from 4 up is the bridge's
beside an injection tile. -/
def execReplayRequest (t : Nat) (net : MeshNet) (out : Nat) (s : State) : Res :=
  .next (
    let n := netNo net
    match linkPeer s t out with
    | none => s
    | some (t', inp) =>
      let r := (tileOf s t).router
      let key := linkKey n out
      if tileRuns s t && (smGet r.resend key).isSome && linkLive s t' n inp then
        let s := updRouter s t fun r => { r with resend := smDel r.resend key }
        let s := updRouter s t' fun x => { x with link := smSet x.link (linkKey n inp) (qGet r.replay key) }
        countLink s t' (linkKey n inp) 0 1 0
      else s)

/-- Meaning of LINK_RETRAIN (R235): the link is in service again, or it is marked down, the region fault MESH_LINK of the
receiving region; where a bridge receives, of the region of its injection tile, the spec naming none (DESIGN CHOICE, log 107). -/
def execLinkRetrain (t : Nat) (net : MeshNet) (inp : Nat) (ok : Bool) (s : State) : Res :=
  .next (
    let key := linkKey (netNo net) inp
    if tileRuns s t && (tileOf s t).router.retraining.contains key then
      let s := updRouter s t fun r => { r with
        retraining := r.retraining.filter (· ≠ key), fails := smDel r.fails key
        down := if ok then r.down else r.down ++ [key] }
      let s := countLink s t key 0 0 1
      if ok then s
      else
        let p := regionOfTile t
        regionFault (updCtr s p fun c => { c with linksDown := (c.linksDown + 1) % 2 ^ 32 }) p 0x34 0 none 0
    else s)

/-! Broadcast and ejection (R220, R228, R229). -/

/-- The outputs a broadcast takes from an input: every one whose link is there but that it came by; a link that retrains is waited
for (R229, R235). -/
def floodOuts (s : State) (t inp : Nat) : List Nat :=
  (List.range 4).filter fun o => o ≠ inp && (linkOpen s t 1 o || linkWaits s t 1 o)

/-- The pair of source and broadcast sequence number (R229). -/
def floodPair (k : Packet) : Nat × Nat := (k.srcDev * 2 ^ 19 + k.srcLtile, k.bseq)

/-- What becomes of the broadcast at the head of an input: the outputs it still feeds, each with a copy of its own, and whether the local
one is; a pair already seen feeds nothing (R229). -/
def floodPlan (s : State) (t inp : Nat) (k : Packet) : FloodPlan :=
  let r := (tileOf s t).router
  let new : FloodPlan :=
    if r.seen.contains (floodPair k) then { uid := k.uid, outs := [], here := false }
    else { uid := k.uid, outs := (floodOuts s t inp).zipIdx.map fun o => (o.1, s.fabric.packetNo + o.2), here := true }
  match smGet r.flood inp with
  | some x => if x.uid = k.uid then { x with outs := x.outs.filter fun o => linkOpen s t 1 o.1 || linkWaits s t 1 o.1 } else new
  | none => new

/-- A broadcast's flit can go on an output: an open link, a credit, fewer than 8 unacknowledged flits (R230, R234). -/
def floodReady (s : State) (t : Nat) (k : Packet) (o : Nat) : Bool :=
  linkOpen s t 1 o && credits s t o k > 0 && (qGet (tileOf s t).router.replay (linkKey 1 o)).length < 8

/-- The bookkeeping of a broadcast's flit that leaves its input buffer: the plan stands until the last flit; the head flit notes the
pair in the 8-entry table (R229). -/
def floodPop (s : State) (t inp : Nat) (f : Flit) (plan : FloodPlan) : State :=
  let key := bufKey 1 inp 0
  let s := if f.idx = 0 then { s with fabric := { s.fabric with packetNo := s.fabric.packetNo + plan.outs.length } } else s
  updRouter s t fun r => { r with
    buf := smSet r.buf key ((qGet r.buf key).drop 1)
    flood := if f.idx + 1 ≥ f.pkt.flits then smDel r.flood inp else smSet r.flood inp plan
    seen := if f.idx = 0 && plan.here then (r.seen ++ [floodPair f.pkt]).drop (r.seen.length - 7) else r.seen
    eject := if plan.here then qPush r.eject 1 { f with det := none } else r.eject }

/-- Meaning of BROADCAST_FLOOD (R229): the flit at the head of an input goes to the local output and every other output once each can
take it; a repeat of a pair seen is dropped. -/
def execBroadcastFlood (t inp : Nat) (s : State) : Res :=
  .next (if !tileRuns s t then s else
    match qGet (tileOf s t).router.buf (bufKey 1 inp 0) with
    | [] => s
    | f :: _ =>
      let plan := floodPlan s t inp f.pkt
      if f.pkt.kind ≠ 8 || !(plan.outs.all fun o => floodReady s t f.pkt o.1) then s
      else plan.outs.foldl (fun s o => sendFlit s t 1 o.1 { f with det := none, pkt := { f.pkt with uid := o.2 } })
        (floodPop s t inp f plan))

/-- The first packet at the local output that is whole and may leave it (R220, R259). -/
def wholeAtEject (s : State) (t : Nat) (net : MeshNet) : Option Packet :=
  let q := qGet (tileOf s t).router.eject (netNo net)
  (q.find? fun f => (q.filter fun x => x.pkt = f.pkt).length ≥ f.pkt.flits
    && !(net = .data && f.pkt.vc = 0 && (tileOf s t).msg.hold.isSome)).map (·.pkt)

/-- The flits of one copy of a packet taken out of a queue. -/
def takeCopy (k : Packet) : Nat → List Flit → List Flit
  | 0, q => q
  | n + 1, q => takeCopy k n (q.eraseP fun x => x.pkt = k)

/-- A tile frozen by a recovery accepts a packet only from the steward regions, from the mirror tiles of its slot, or from a Chadon Stream
bridge that serves the restore: only such a bridge sends writes and read replies of this device's own (R329, R366). -/
def frozenAccepts (s : State) (t : Nat) (k : Packet) : Bool :=
  let own := k.srcDev = s.fabric.devId
  let steward := match carrier s k.srcLtile with
    | some x => regionOfTile x = s.steward.primary || regionOfTile x = s.steward.standby
    | none => false
  let mirror := match (modelSlot s (regionOfNo s (regionOfTile t)).mslot).bundle with
    | some g => g.slots.any fun n => mirrorSlot n = some (slotOf k.srcLtile)
    | none => false
  own && (steward || mirror || (k.bridge && k.srcLtile = 0x7FFFF && (k.kind = 2 || k.kind = 4)))

/-- Meaning of PACKET_EJECT (R220): a packet for another tile than this is treated as one for a hole (R228); a frozen tile's
engine filters (R329); a broadcast's tables are written into the region's copies (R222), and a notice ends here. -/
def execPacketEject (t : Nat) (net : MeshNet) (s : State) : Res :=
  .next (if !tileRuns s t then s else
    match wholeAtEject s t net with
    | none => s
    | some k =>
      let n := netNo net
      let s := updRouter s t fun r => { r with eject := smSet r.eject n (takeCopy k k.flits (qGet r.eject n)) }
      if k.kind = 8 then takeTables s (regionOfTile t) k
      else if (tileOf s t).core.ltile ≠ some k.dstLtile then stopPacket s t k
      else if k.kind = 9 then s
      else if (tileOf s t).snap.frozen && !frozenAccepts s t k then countDiscard s (regionOfTile t)
      else arriveAt s t k)

/-! In-network reduction (R237 to R243). -/

/-- Two packets of one reduction may merge (R240). -/
def sameReduction (a b : Reduction) : Bool :=
  a.dest = b.dest && a.cid = b.cid && a.rop = b.rop && a.n = b.n && a.win = b.win

/-- Signed value of a 32-bit lane in its low bits. -/
def lane32 (x : BitVec 128) : Nat := x.toNat % 2 ^ 32

/-- One lane combined with another (R238). -/
def laneCombine (rop : Nat) (a b : Option (BitVec 128)) : Option (BitVec 128) :=
  match a, b with
  | none, y => y
  | x, none => x
  | some x, some y =>
    let small := fun (n : Nat) => some (BitVec.ofNat 128 n)
    match rop % 16 with
    | 2 => small (fMinMax f32 1 (lane32 x) (lane32 y)).1
    | 3 => small (fMinMax f32 0 (lane32 x) (lane32 y)).1
    | 4 => small (if toSigned 32 (lane32 x) ≥ toSigned 32 (lane32 y) then lane32 x else lane32 y)
    | 5 => small (if toSigned 32 (lane32 x) ≤ toSigned 32 (lane32 y) then lane32 x else lane32 y)
    | 6 => small (lane32 x &&& lane32 y)
    | 7 => small (lane32 x ||| lane32 y)
    | _ => some (x + y)

/-- Two contributions merged into one (R240). -/
def mergeRed (a b : Reduction) : Reduction :=
  { a with
    contrib := min 65535 (a.contrib + b.contrib), flags := a.flags ||| b.flags
    lanes := (List.range a.n).map fun i => laneCombine a.rop (a.lanes.getD i none) (b.lanes.getD i none) }

/-- The first two of some waiting packets that may merge: they wait for the same output, named by `out`, with the same DEST, CID, ROP,
N and WIN (R240). -/
def mergePair (out : Packet → Option Nat) : List Packet → Option (Packet × Packet)
  | [] => none
  | x :: xs =>
    match xs.find? fun y => (out x).isSome && out y = out x && (match x.red, y.red with
        | some a, some b => sameReduction a b
        | _, _ => false) with
    | some y => some (x, y)
    | none => mergePair out xs

/-- The output that a VC2 packet waits for in a router, in detour mode too (R226, R227, R240). -/
def vc2Output (s : State) (t : Nat) (k : Packet) : Option Nat :=
  let head := (tileOf s t).router.buf.findSome? fun e => e.2.find? fun f => f.pkt = k && f.idx = 0
  match routeAt s t k (head.bind (·.det)) with | .out o _ _ => some o | _ => none

/-- The merged packet (R240). -/
def mergedPacket (a b : Packet) : Packet :=
  match a.red, b.red with
  | some x, some y => { a with red := some (mergeRed x y) }
  | _, _ => a

/-- Two packets merged in a router: the first's flits carry the merged packet with the greater age, the second's go. -/
def mergeInRouter (r : Router) (a b : Packet) : Router :=
  let m := mergedPacket a b
  let ages := r.buf.flatMap fun e => (e.2.filter fun f => f.pkt = a || f.pkt = b).map (·.age)
  let age := ages.foldl min (ages.headD 0)
  { r with
    buf := r.buf.map fun e => (e.1, (e.2.filter fun f => f.pkt ≠ b).map fun f =>
      if f.pkt = a then { f with pkt := m, age := age } else f)
    combine := (r.combine.filter fun x => x.2 ≠ b).map fun x => if x.2 = a then (x.1, m) else x }

/-- The reductions that wait for a port, with their places: in the queue from the mesh, then in that from the rim (R362). -/
def portReds (x : Port) : List (Bool × Nat × Nat × Packet) :=
  (x.fromMesh.zipIdx.filterMap fun e => if e.1.2.red.isSome then some (false, e.2, e.1.1, e.1.2) else none)
    ++ x.fromRim.zipIdx.filterMap fun e => match e.1.2.body with
      | .packet k => if k.red.isSome then some (true, e.2, e.1.1, k) else none
      | .stream _ => none

/-- The first two of some reductions at a port that may merge: every one waits for the port. -/
def portPair : List (Bool × Nat × Nat × Packet) → Option ((Bool × Nat × Nat × Packet) × (Bool × Nat × Nat × Packet))
  | [] => none
  | x :: xs =>
    match xs.find? fun y => y.2.2.2.dstDev = x.2.2.2.dstDev && (match x.2.2.2.red, y.2.2.2.red with
        | some a, some b => sameReduction a b
        | _, _ => false) with
    | some y => some (x, y)
    | none => portPair xs

/-- Two frames of one reduction waiting for a port merge in its bridge, whose combine buffer holds 64; the merged one takes the greater
age (R240, R362). -/
def mergeAtPort (s : State) (p : Nat) : State :=
  match portPair ((portReds (portOf s p)).take 64) with
  | none => s
  | some (a, b) =>
    let m := mergedPacket a.2.2.2 b.2.2.2
    let age := min a.2.2.1 b.2.2.1
    let s := updPort s p fun x =>
      let x := match a.1, x.fromRim[a.2.1]? with
        | true, some e => { x with fromRim := x.fromRim.set a.2.1 (age, { e.2 with body := .packet m }) }
        | _, _ => { x with fromMesh := x.fromMesh.set a.2.1 (age, m) }
      if b.1 then { x with fromRim := x.fromRim.eraseIdx b.2.1 } else { x with fromMesh := x.fromMesh.eraseIdx b.2.1 }
    updPortCtr s p fun c => { c with merges := (c.merges + 1) % 2 ^ 32 }

/-- Meaning of VC2_MERGE (R240, R362). -/
def execVc2Merge (place : InjectSource) (s : State) : Res :=
  .next (match place with
    | .port p => if rimRuns s && p < 32 then mergeAtPort s p else s
    | .tile t =>
      if !tileRuns s t then s else
      match mergePair (vc2Output s t) ((tileOf s t).router.combine.map (·.2)) with
      | none => s
      | some (a, b) =>
        let s := updRouter s t fun r => mergeInRouter r a b
        updCtr s (regionOfTile t) fun c => { c with merges := (c.merges + 1) % 2 ^ 32 })

/-- The packet that a selection picks from a message engine, and the engine without it. -/
def takeArrived (s : State) (t : Nat) (sel : Packet → Bool) : Option (Packet × State) :=
  match (tileOf s t).msg.arrived.find? sel with
  | some k => some (k, updMsg s t fun m => { m with arrived := m.arrived.erase k })
  | none => none

/-- Absolute offset of lane i of a record. -/
def laneAt (rec_ i : Nat) : Nat := rec_ + 16 + 16 * i

/-- A record's lane: none while no value has entered it (R238). -/
def readLane (s : State) (t rec_ i : Nat) : Option (BitVec 128) :=
  if (tileOf s t).redEmpty.contains (laneAt rec_ i) then none
  else some (BitVec.ofNat 128 (readNum s t (laneAt rec_ i) 16))

/-- A lane written; one that no value has entered reads as a free value until one does (R238 names no bits; log 9). -/
def writeLane (s : State) (t rec_ i : Nat) (v : Option (BitVec 128)) : State :=
  let a := laneAt rec_ i
  match v with
  | some x =>
    let s := updTile s t fun k => { k with redEmpty := k.redEmpty.filter (· ≠ a) }
    writeNum s t a 16 x.toNat
  | none =>
    let (n, s) := fresh s
    let s := updTile s t fun k => { k with redEmpty := k.redEmpty.filter (· ≠ a) ++ [a] }
    writeNum s t a 16 n

/-- A contribution taken into a record (R242, the last two cases). -/
def combineRecord (s : State) (t rec_ : Nat) (r : Reduction) : State :=
  let count := readNum s t (rec_ + 4) 2
  let total := readNum s t (rec_ + 2) 2
  let flags := readNum s t (rec_ + 7) 1
  let lanes := (List.range r.n).map fun i =>
    if count = 0 then r.lanes.getD i none else laneCombine r.rop (readLane s t rec_ i) (r.lanes.getD i none)
  let s := lanes.zipIdx.foldl (fun s x => writeLane s t rec_ x.2 x.1) s
  let s := writeNum s t (rec_ + 4) 2 (count + r.contrib)
  let s := writeNum s t (rec_ + 7) 1 (flags ||| r.flags)
  if count + r.contrib = total then updTile s t fun k => { k with redDone := k.redDone ++ [rec_] } else s

/-- Meaning of REDUCTION_PACKET_ARRIVAL: the first matching case of R242. `errs`: what the checks of the record's lines find (R67). -/
def execReductionPacketArrival (t : Nat) (errs : LineErrors) (s : State) : Res :=
  .next (if !tileRuns s t then s else
    match takeArrived s t (fun k => k.red.isSome) with
    | none => s
    | some (k, s) =>
      match k.red with
      | none => s
      | some r =>
        let a := saOffset r.dest
        let setFlag := fun (s : State) n => writeNum s t (a + 7) 1 (readNum s t (a + 7) 1 ||| 2 ^ n)
        let reads := (a, 16) :: (if readNum s t (a + 4) 2 = 0 then [] else [(a + 16, 16 * r.n)])
        onLines s t reads errs fun s =>
        if readNum s t (a + 6) 1 ≠ 1 || readNum s t a 2 ≠ r.cid then
          let s := updCtr s (regionOfTile t) fun c => { c with redMiss := (c.redMiss + 1) % 2 ^ 32 }
          logRegion s (regionOfTile t) 0x0310 1 ((tileOf s t).core.ltile.getD 0) r.cid
        else if readNum s t (a + 8) 1 ≠ r.rop || readNum s t (a + 9) 1 ≠ r.n || readNum s t (a + 0xA) 1 ≠ r.win then setFlag s 7
        else if readNum s t (a + 4) 2 + r.contrib > readNum s t (a + 2) 2 then setFlag s 6
        else combineRecord s t a r)

/-- Record flags of R241. -/
def rSAT : Nat := 1
def rNX : Nat := 2
def rOF : Nat := 32

/-- A lane's 32-bit result and the flags it sets (R243). -/
def laneResult (rop win flags : Nat) (v : Option (BitVec 128)) : Nat × Nat :=
  match rop % 16 with
  | 0 =>
    if bit flags 2 || (bit flags 3 && bit flags 4) then (f32.dnan, 0)
    else if bit flags 3 then (f32.inf, 0)
    else if bit flags 4 then (f32.withSign true f32.inf, 0)
    else
      let x := (v.getD 0).toInt
      let r := roundInt f32 (bits rop 5 4) false x ((win : Int) - 160)
      (r.1, (if r.2 % 2 = 1 then rNX else 0) + (if bit r.2 2 then rOF else 0))
  | 1 =>
    let x := (v.getD 0).toInt
    if x > 2147483647 then (0x7FFFFFFF, rSAT) else if x < -2147483648 then (0x80000000, rSAT) else (ofSigned 32 x, 0)
  | 2 | 3 =>
    if bit flags 2 then (f32.dnan, 0) else match v with | some x => (lane32 x, 0) | none => (f32.dnan, 0)
  | _ => (lane32 (v.getD 0), 0)

/-- Meaning of REDUCTION_COMPLETE (R243): a record whose COUNT has reached TOTAL gets its results, STATE 2, and its beam
arrival. -/
def execReductionComplete (t : Nat) (errs : LineErrors) (s : State) : Res :=
  .next (if !tileRuns s t then s else
    match (tileOf s t).redDone with
    | [] => s
    | a :: rest => onLines s t [(a, 16 + 16 * readNum s t (a + 9) 1)] errs fun s =>
      let rop := readNum s t (a + 8) 1
      let n := readNum s t (a + 9) 1
      let win := readNum s t (a + 0xA) 1
      let flags := readNum s t (a + 7) 1
      let beam := readNum s t (a + 0xB) 1
      let rs := (List.range n).map fun i => laneResult rop win flags (readLane s t a i)
      let s := updTile s t fun k => { k with
        redDone := rest, redEmpty := k.redEmpty.filter fun x => x < a + 16 || x ≥ a + 16 + 16 * n }
      let s := if bits rop 7 6 = 0 then
          let out := rs.flatMap fun r => natLe 4 r.1
          let fl := (rs.map (·.2)).foldl orF flags
          writeNum (writeSpad s t (a + 16) (padTo (16 * n) out)) t (a + 7) 1 fl
        else s
      let s := writeNum s t (a + 6) 1 2
      if bit beam 7 then arriveTile s t (beam % 32) else s)

end Sys2Proof.Machine
end

