-- ==== Sys2Proof/Machine/Links.lean ====
section
/-! DEFINITION. The commands of the ports that no client sends (chapter 12): training, frames with their retry and
credits, control blocks, trunks and Chadon Stream. -/

namespace Sys2Proof.Machine

/-! Control blocks (R343). -/

/-- A control block: kind, bytes 1 to 29, CRC-16. -/
def controlBlock (kind : Nat) (body : List Byte) : List Byte :=
  let b := natLe 1 kind ++ padTo 29 body
  b ++ natLe 2 (crc16 0x1021 0xFFFF b)

/-- A block of a known kind whose CRC-16 holds. -/
def blockGood (b : List Byte) : Bool := b.length = 32 && fld b 0 1 ≤ 7 && fld b 30 2 = crc16 0x1021 0xFFFF (b.take 30)

/-- A port carries blocks: its lanes run as Zarryn Link or Chadon Stream (R342, R365). -/
def carriesBlocks (s : State) (p : Nat) : Bool :=
  rimRuns s && p < 32 && (personality s p = 1 || personality s p = 2) && (portOf s p).st ≥ 2 && (portOf s p).st ≤ 4

/-- A TRAIN block is heard by an enabled port, DOWN ones too (R339, R343). -/
def hearsTrain (s : State) (p : Nat) : Bool :=
  rimRuns s && p < 32 && (personality s p = 1 || personality s p = 2) && (portOf s p).st ≥ 1 && (portOf s p).st ≤ 4

/-- A control block that arrives: discarded and counted if it is not good; handled if it is of the expected kind. -/
def onBlock (s : State) (p kind : Nat) (b : List Byte) (f : State → State) : State :=
  if !(if kind = 7 then hearsTrain s p else carriesBlocks s p) then s
  else if !blockGood b then updPortCtr s p fun c => { c with badBlocks := (c.badBlocks + 1) % 2 ^ 32 }
  else if fld b 0 1 = kind then f s else s

/-! States (R339). -/

/-- The state byte of 0x3000 + p.05. -/
def portByte (x : Port) : Nat := x.st + 16 * x.cause

/-- The Ethernet interfaces of a mode: how many, lanes used of interface i, generation (R370). -/
def ethModeInfo (m : Nat) : Option (Nat × (Nat → List Nat) × Nat) :=
  let run := fun (k n : Nat) => fun i => (List.range n).map (k * i + ·)
  match m with
  | 1 => some (2, run 8 8, 2)
  | 2 => some (2, run 8 4, 3)
  | 3 => some (4, run 4 4, 2)
  | 4 => some (4, run 4 2, 3)
  | 5 => some (8, run 2 2, 2)
  | 6 => some (8, run 2 1, 3)
  | 7 => some (8, run 2 1, 2)
  | 8 => some (8, run 2 2, 1)
  | _ => none

/-- An interface works: its port is in service and all its lanes pass in both directions (R337, R370). -/
def ifaceUp (s : State) (p i : Nat) : Bool :=
  inService s p && personality s p = 3 && (match ethModeInfo (ethMode s p) with
    | some (n, lanes, _) =>
      i < n && (lanes i).all fun l => bit (portOf s p).txLanes l && bit (portOf s p).rxLanes l
    | none => false)

/-- A beam-link event of a child port that leaves or enters service (R274). -/
def beamLink (s : State) (p : Nat) (up : Bool) : State :=
  if bit (dnum s 0x2500 3 0) p then
    let isDown := s.beam.linkDown.contains p
    if up && isDown then
      logSource { s with beam := { s.beam with linkDown := s.beam.linkDown.filter (· ≠ p) } } (0x10 + p) 0x0203 1 p 1
    else if !up && !isDown then
      logSource { s with beam := { s.beam with
        linkDown := s.beam.linkDown ++ [p], childUp := s.beam.childUp.filter fun e => e.1 / 32 ≠ p } } (0x10 + p) 0x0203 1 p 0
    else s
  else s

/-- A port in a new state, with the cause of a DOWN or FAILED, its record, its alert and its beam link. -/
def setPort (s : State) (p st cause : Nat) : State :=
  let old := portOf s p
  let s := updPort s p fun x => { x with st := st, cause := if st = 1 || st = 5 then cause else x.cause }
  if old.st = st && portByte (portOf s p) = portByte old then s
  else
    let s := logSource s (0x10 + p) 0x0400 (if st = 5 then 2 else 1) p (portByte (portOf s p))
    let s := if st = 4 || st = 5 then setAlert s 4 else s
    beamLink s p (st = 3 || st = 4)

/-- Some other set's map meets this port's map, or its set is not complete (R364). -/
def compMapBad (s : State) (p : Nat) : Bool :=
  compSize s p ≠ 0 &&
    ((setMembers s p).length ≠ setSize s p
     || (List.range 32).any fun q =>
          personality s q = 2 && !(setMembers s p).contains q && compSize s q ≠ 0
          && compBase s q < compBase s p + compSize s p && compBase s p < compBase s q + compSize s q)

/-- The members of a port's trunk agree among themselves (R351). -/
def trunkAgrees (s : State) (p : Nat) : Bool :=
  (trunkMembers s (trunkBase s p)).all fun q =>
    personality s q = 1 && trunkSize s q = trunkSize s p && generation s q = generation s p

/-- The cause that this device's own configuration gives a port to stay DOWN; 0 none (R339, R353, R364, R370). -/
def localCause (s : State) (p : Nat) : Nat :=
  match personality s p with
  | 1 => if s.fabric.devId = 0xFFFF then 5 else if generation s p = 1 then 1 else if !trunkAgrees s p then 3 else 0
  | 2 => if s.fabric.devId = 0xFFFF then 5 else if generation s p = 1 then 1 else if compMapBad s p then 6 else 0
  | _ => match ethModeInfo (ethMode s p) with
    | some (_, _, g) => if g = generation s p then 0 else 7
    | none => 7

/-- A TRAIN block (R343); the places of its fields are the model's, and its lane masks, 0 until the port is in service, say that it is
ready (R352; log 36). -/
def trainBlock (s : State) (p : Nat) : List Byte :=
  let lanes := fun m => if inService s p then m else 0
  controlBlock 7 (natLe 2 s.fabric.devId ++ natLe 1 p ++ natLe 1 (personality s p) ++ natLe 1 (generation s p)
    ++ natLe 1 (trunkSize s p) ++ natLe 1 (trunkBase s p) ++ natLe 3 (lanes (portOf s p).txLanes)
    ++ natLe 3 (lanes (portOf s p).rxLanes))

/-- What a TRAIN block says of the partner. -/
def partnerOf (b : List Byte) : Partner :=
  { dev := fld b 1 2, port := fld b 3 1, personality := fld b 4 1, gen := fld b 5 1, trunk := fld b 6 1, base := fld b 7 1 }

/-- A port starts to train, unless a cause, KEEP-ALIVE or a lost reference holds it DOWN (R212, R215, R335, R339, R340). One that was OFF
takes the serving UDP port as stored (R379). -/
def startTraining (s : State) (p : Nat) : State :=
  let s := if (portOf s p).st = 0 then updPort s p fun x => { x with udpPort := dnum s 0x2600 1 20057 } else s
  let c := localCause s p
  if c ≠ 0 then setPort s p 1 c
  else if s.dev.st = .keepAlive && personality s p ≠ 1 then setPort s p 1 0
  else if !s.clock.locked || (1 ≤ s.clock.holdStep && s.clock.holdStep ≤ 6) then setPort s p 1 0
  else
    let s := setPort s p 2 0
    if personality s p = 1 || personality s p = 2 then emit s (.block p (trainBlock s p)) else s

/-- Sequence numbers, credits and frames of a link that starts anew at both ends (log 37). -/
def freshSeqs (x : Port) : Port :=
  { x with
    txSeq := 0, rxSeq := 0, replay := [], resend := [], refused := none, refusals := 0, nakOut := false, sinceAck := 0
    unfreed := [], freedByPartner := List.replicate 6 0, freed := List.replicate 6 0, freedTold := List.replicate 6 0 }

/-- The state of a link that ENABLE starts anew (log 37). -/
def freshLink (x : Port) : Port :=
  { freshSeqs x with
    tseqTx := 0, tseqRx := 0, reorder := [], joinAt := none, again := [], partner := none, heard := none, partnerReady := false, tags := []
    csOut := [], csIn := [], timeRx := none, gateways := [], partials := [], txLanes := 0, rxLanes := 0 }

/-- ENABLE written as 1 (R340): training starts; a port OFF by its personality stays OFF. -/
def portStart (s : State) (p : Nat) : State :=
  let s := setNum s (0x3000 + p) 4 1
  let s := updPort s p fun x => { freshLink x with udpPort := dnum s 0x2600 1 20057 }
  if personality s p = 0 then setPort s p 0 0 else startTraining s p

/-- ENABLE written as 0 (R339). -/
def portStop (s : State) (p : Nat) : State :=
  setPort (updPort (setNum s (0x3000 + p) 4 0) p freshLink) p 0 0

/-! Training (R337, R339, R351). -/

/-- The lanes a mask has. -/
def lanesOf (mask : Nat) : List Nat := (List.range 18).filter (bit mask)

/-- The mask of a list of lanes. -/
def laneMask (l : List Nat) : Nat := (l.map (2 ^ ·)).foldl (· + ·) 0

/-- The lanes training chooses of those that pass: 16, else 8, else none. -/
def chooseLanes (mask : Nat) : List Nat :=
  let l := lanesOf mask
  if l.length ≥ 16 then l.take 16 else if l.length ≥ 8 then l.take 8 else []

/-- What the partner gives cause for (R339, R351): 0 nothing. -/
def partnerCause (s : State) (p : Nat) (x : Partner) : Nat :=
  if x.gen ≠ generation s p then 1
  else if x.personality ≠ personality s p then 2
  else if personality s p = 1 && trunkSize s p > 1
    && (x.trunk ≠ trunkSize s p || x.port - x.base ≠ p - trunkBase s p || x.base % x.trunk ≠ 0
      || (trunkMembers s (trunkBase s p)).any fun q => match (portOf s q).partner with
          | some y => inService s q && (y.dev ≠ x.dev || y.base ≠ x.base)
          | none => false) then 3
  else if personality s p = 1 && trunkSize s p = 1 && x.trunk ≠ 1 then 3
  else 0

/-- A cause of 1 to 3 that holds a port DOWN has ceased, by its own configuration and by what its partner last said (R339, R351). -/
def causeCeased (s : State) (p : Nat) : Bool :=
  let x := portOf s p
  portEnabled s p && x.st = 1 && 1 ≤ x.cause && x.cause ≤ 3 && localCause s p = 0
    && (match x.heard with | some y => partnerCause s p y = 0 | none => x.cause = 3)

/-- Trunks and companion sets looked at again after a change of configuration (R351, R364): a companion port whose map no longer fits
goes DOWN with cause 6; one held by cause 6 alone, and a trunk member whose cause 3 has ceased, trains. -/
def recheckSets (s : State) : State :=
  (List.range 32).foldl (fun s p =>
    if personality s p = 2 && portEnabled s p then
      if compMapBad s p then (if (portOf s p).st = 1 && (portOf s p).cause ≠ 0 then s else setPort s p 1 6)
      else if (portOf s p).st = 1 && (portOf s p).cause = 6 then startTraining s p
      else s
    else if personality s p = 1 && (portOf s p).cause = 3 && causeCeased s p then startTraining s p
    else s) s

/-- The partner's last TRAIN block holds no longer: training starts anew. -/
def forgetPartner (s : State) (p : Nat) : State :=
  updPort s p fun x => { x with heard := none, partnerReady := false }

/-- A port in service trains again with its saved settings; what the partner is, sequence numbers, credits and frames carry over; a TRAIN
block goes out (R339, R343). -/
def retrainPort (s : State) (p : Nat) : State :=
  let s := updPortCtr s p fun c => { c with retrains := (c.retrains + 1) % 2 ^ 32 }
  let s := setPort (updPort s p fun x => { x with refused := none, refusals := 0, partnerReady := false }) p 2 0
  if personality s p = 1 || personality s p = 2 then emit s (.block p (trainBlock s p)) else s

/-- The next multiple of 1,024 in TSEQ that a trunk has not reached (R352). -/
def nextJoin (s : State) (p : Nat) : Nat := ((portOf s (trunkBase s p)).tseqTx / 1024 + 1) * 1024 % 65536

/-- A request for a companion box (R365). -/
def csRequest (op len boxOff : Nat) (data : List Byte) : CsFrame :=
  { op := op, status := 0, tag := 0, len := len, boxOff := boxOff, ctx := 0, last := false, data := data }

/-- What a port does as it enters service: unacknowledged frames go again (R339); a companion port asks INFO (log 38); a beam
child sends its up states (R274). -/
def enterService (s : State) (p st : Nat) : State :=
  let s := setPort s p st 0
  let s := updPort s p fun x => { x with resend := x.replay, refused := none, refusals := 0, nakOut := false }
  let s := if personality s p = 2 then
      updPort s p fun x => { x with csOut := x.csOut ++ [(.info, csRequest 5 0 0 [])] }
    else s
  if personality s p = 1 && dnum s 0x2500 2 0xFF = p then
    ((List.range 31).filter fun c => bit (dnum s 0x2500 1 0) c).foldl (fun s c =>
      emit s (.block p (controlBlock 6 (natLe 1 0 ++ natLe 1 c ++ natLe 1 (s.beam.count.getD c 0)
        ++ natLe 1 (smGetD s.beam.upSent c 0))))) s
  else s

/-- The equalisation that a training leaves for the 18 lanes of a port (R447); the spec gives no values: free ones (log 9). -/
def equalise (s : State) (p : Nat) : State :=
  updPort { s with free := s.free + 18 } p fun x => { x with equal := freshBytes s.free 18 }

/-- Meaning of PORT_TRAINING_DONE (R337, R339, R351, R352, R370): what the partner is, its TRAIN block has said; a trunk member that
returns while others carry traffic signals itself ready. -/
def execPortTrainingDone (p txPass rxPass : Nat) (s : State) : Res :=
  .next (if !rimRuns s || p ≥ 32 || (portOf s p).st ≠ 2 then s else
    let s := equalise s p
    if personality s p = 3 then
      (match ethModeInfo (ethMode s p) with
       | none => setPort s p 1 7
       | some (n, lanes, _) =>
         let own := (List.range n).flatMap lanes
         let s := updPort s p fun x => { x with
           saved := true
           txLanes := laneMask (own.filter (bit txPass)), rxLanes := laneMask (own.filter (bit rxPass)) }
         if (List.range n).any fun i => (lanes i).all fun l => bit txPass l && bit rxPass l then enterService s p 3
         else setPort s p 1 0)
    else match (portOf s p).heard with
      | none => setPort s p 1 0
      | some x =>
        let s := updPort s p fun y => { y with partner := some x }
        let c := if localCause s p ≠ 0 then localCause s p else partnerCause s p x
        if c ≠ 0 then setPort s p 1 c
        else
          let tx := chooseLanes txPass
          let rx := chooseLanes rxPass
          if tx = [] || rx = [] then setPort s p 5 4
          else
            let changed := (portOf s p).saved && (portOf s p).txLanes ≠ 0
              && ((portOf s p).txLanes ≠ laneMask tx || (portOf s p).rxLanes ≠ laneMask rx)
            let others := personality s p = 1 && (trunkMembers s (trunkBase s p)).any fun q => q ≠ p && inService s q
            let s := if changed then updPortCtr s p fun c => { c with laneChanges := (c.laneChanges + 1) % 2 ^ 32 } else s
            let s := updPort s p fun y => { y with
              saved := true, txLanes := laneMask tx, rxLanes := laneMask rx
              joinAt := if !others then none else some (if y.partnerReady then nextJoin s p else 65536) }
            let s := enterService s p (if tx.length = 16 && rx.length = 16 then 3 else 4)
            if others then emit s (.block p (trainBlock s p)) else s)

/-- Meaning of PORT_TRAINING_RETRY (R339): an enabled FAILED port trains again. -/
def execPortTrainingRetry (p : Nat) (s : State) : Res :=
  .next (if rimRuns s && p < 32 && (portOf s p).st = 5 && portEnabled s p then startTraining (forgetPartner s p) p else s)

/-- Meaning of PARTNER_SIGNAL_DETECTED (R339): an enabled port that is DOWN without a cause trains; one that a cause holds trains when
the cause has ceased. -/
def execPartnerSignalDetected (p : Nat) (s : State) : Res :=
  .next (if !rimRuns s || p ≥ 32 || (portOf s p).st ≠ 1 || !portEnabled s p then s
    else if (portOf s p).cause = 0 then startTraining (forgetPartner s p) p
    else if causeCeased s p then startTraining s p else s)

/-- Meaning of PORT_RETRAIN (R339): a lane in use of a port in service loses lock or codeword alignment. The other cause of a retrain, 8
refusals of one frame, is found where they are counted (NAK_BLOCK_RX). -/
def execPortRetrain (p lane : Nat) (s : State) : Res :=
  .next (if rimRuns s && p < 32 && inService s p && bit (portOf s p).rxLanes lane then retrainPort s p else s)

/-! Frames out (R344 to R347, R352, R358, R361). -/

/-- Packet bytes of a frame (PLEN, R344). -/
def frameBytes (f : LinkFrame) : Nat := (bodyBytes f.body).length

/-- Half of a receiver's buffer for a VC, in blocks (R347, R361). -/
def halfBuffer (vc : Nat) : Nat := if vc < 4 then 4096 else 256

/-- A frame's VC holds credit for all its blocks in the half its DL names. -/
def hasCredit (x : Port) (f : LinkFrame) : Bool :=
  let used := (qGet x.unfreed f.vc).filter fun e => e.2 = f.dl
  (used.map (·.1)).foldl (· + ·) 0 + f.nblk ≤ halfBuffer f.vc

/-- The members of a trunk that carry the frame with the next TSEQ (R352). -/
def carriers (s : State) (b : Nat) : List Nat :=
  (trunkMembers s b).filter fun q => inService s q && (match (portOf s q).joinAt with
    | some j => j < 65536 && (portOf s b).tseqTx / 1024 = j / 1024
    | none => true)

/-- The waiting packet of a port as a frame with its TTL and DL (R356, R358, R361). -/
def meshFrame (s : State) (p : Nat) (k : Packet) : LinkFrame :=
  let ttl := match routeEntry s k.dstDev with | some e => rtHops e + 2 | none => 0
  { frameOf k ttl false 0 with dl := dateline s p }

/-- A frame in line for a port: its arrival, whether it comes from the rim, the frame. -/
structure Waiting where
  at_ : Nat
  rim : Bool
  frame : LinkFrame
  deriving DecidableEq, Repr

/-- The oldest frame of each queue: rim then mesh, one queue a VC (R345). -/
def waitingFrames (s : State) (p : Nat) : List Waiting :=
  let x := portOf s p
  let all := (x.fromRim.map fun e => { at_ := e.1, rim := true, frame := e.2 : Waiting })
    ++ x.fromMesh.map fun e => { at_ := e.1, rim := false, frame := meshFrame s p e.2 }
  (List.range 6).flatMap fun vc =>
    ((all.find? fun w => w.rim && w.frame.vc = vc).toList) ++ (all.find? fun w => !w.rim && w.frame.vc = vc).toList

/-- The priority of a waiting frame (R230): raised to 3 after 32 x (3 - PRI) nominal cycles. -/
def waitingPri (s : State) (w : Waiting) : Nat :=
  let pri := match w.frame.body with | .packet k => k.pri | .stream _ => 0
  if (s.time.tb - w.at_) / 2 ≥ 32 * (3 - pri) then 3 else pri

/-- One waiting frame goes before another (R230, R345). -/
def waitsBefore (s : State) (a b : Waiting) : Bool :=
  let pa := waitingPri s a
  let pb := waitingPri s b
  if pa ≠ pb then pa > pb
  else if a.at_ ≠ b.at_ then a.at_ < b.at_
  else if a.rim ≠ b.rim then a.rim
  else a.frame.vc < b.frame.vc

/-- The best of a list of waiting frames. -/
def bestWaiting (s : State) : List Waiting → Option Waiting
  | [] => none
  | w :: ws => some (ws.foldl (fun a b => if waitsBefore s b a then b else a) w)

/-- A waiting frame leaves its queue. -/
def takeWaiting (s : State) (p : Nat) (w : Waiting) : State :=
  updPort s p fun x =>
    if w.rim then { x with fromRim := x.fromRim.eraseP fun e => e.2 = w.frame }
    else { x with fromMesh := x.fromMesh.eraseP fun e => FrameBody.packet e.2 = w.frame.body && e.1 = w.at_ }

/-- A frame sent for the first time on a port: numbered, kept for replay, its blocks counted (R346, R347, R376). -/
def sendFrame (s : State) (p : Nat) (f : LinkFrame) : State :=
  let f := { f with seq := (portOf s p).txSeq }
  let s := updPort s p fun x => { x with
    txSeq := (x.txSeq + 1) % 4096
    replay := x.replay ++ [f]
    unfreed := qPush x.unfreed f.vc (f.nblk, f.dl) }
  let s := updPortCtr s p fun c => { c with framesTx := c.framesTx + 1, bytesTx := c.bytesTx + frameBytes f }
  emit s (.frame p (frameOctets f))

/-- Tags and read limit of a companion port (R369). -/
def csTags (s : State) (p : Nat) : Nat := if generation s p = 3 then 2048 else 256

/-- The lowest tag not in use. -/
def freeTag (s : State) (p : Nat) : Option Nat :=
  (List.range (csTags s p)).find? fun t => (smGet (portOf s p).tags t).isNone

/-- A stream frame on VC0 (R365). -/
def streamFrame (c : CsFrame) : LinkFrame :=
  { seq := 0, vc := 0, nblk := (16 + 32 + c.data.length + 4 + 31) / 32, tseq := 0, ttl := 0, broadcast := false, dl := false
    bseq := 0, body := .stream c }

/-- The request that a mesh packet becomes (R366), whether or not every member of the set is in service now. -/
def csOfPacket (s : State) (k : Packet) : Option CsFrame :=
  (compPlace s (saComp (pkAddr k))).bind fun x =>
    if k.kind = 3 then some (csRequest 1 (fld k.payload 8 2) x.2.2 [])
    else if k.kind = 2 then some (csRequest 2 (fld k.payload 8 2) x.2.2 (slice k.payload 16 (fld k.payload 8 2)))
    else none

/-- A request that the map in force places nowhere is answered with NAK TILE_DOWN where one is due (R224, R364). -/
def csUnplaced (s : State) (p : Nat) (k : Packet) : State := if nakDue k then bridgeSend s p (mkNak k 6) else s

/-- The next request of a companion port: the stream engine's and Periscope's first, then packets by arbitration. Without a
free tag it waits (R366). -/
def sendStream (s : State) (p : Nat) : State :=
  match freeTag s p with
  | none => s
  | some tag =>
    let go := fun (s : State) (q : CsReq) (c : CsFrame) =>
      let f := streamFrame { c with tag := tag }
      if hasCredit (portOf s p) f then some (sendFrame (updPort s p fun x => { x with tags := smSet x.tags tag q }) p f) else none
    match (portOf s p).csOut with
    | (q, c) :: rest => ((go s q c).map fun s => updPort s p fun x => { x with csOut := rest }).getD s
    | [] =>
      match bestWaiting s (waitingFrames s p) with
      | none => s
      | some w =>
        match w.frame.body with
        | .stream _ => takeWaiting s p w
        | .packet k =>
          match csOfPacket s k with
          | none => csUnplaced (takeWaiting s p w) p k
          | some c => ((go s (.packet k) c).map fun s => takeWaiting s p w).getD s

/-- A trunk may number a new frame: the receiver's window of 1,024 reaches it whatever frame not yet acknowledged it still waits for (R352;
DEDUCED, log 37). -/
def windowOpen (s : State) (b : Nat) : Bool :=
  (trunkMembers s b).all fun q => ((portOf s q).replay ++ (portOf s q).again).all fun f =>
    ((portOf s b).tseqTx + 65536 - f.tseq) % 65536 < 1024

/-- The next frame of a Zarryn Link port: frames of a lost member, then the arbitration of R345. A member of a trunk sends the
frame whose turn it is (R352). -/
def sendLink (s : State) (p : Nat) : State :=
  match (portOf s p).again with
  | f :: rest =>
    if hasCredit (portOf s p) f then sendFrame (updPort s p fun x => { x with again := rest }) p f else s
  | [] =>
    let b := trunkBase s p
    let n := trunkSize s p
    let cs := carriers s b
    let t := (portOf s b).tseqTx
    if n > 1 && (cs[t % max 1 cs.length]? ≠ some p || !windowOpen s b) then s
    else
      let ready := (waitingFrames s b).filter fun w => hasCredit (portOf s p) w.frame
      match bestWaiting s ready with
      | none => s
      | some w =>
        let s := takeWaiting s b w
        if n > 1 then
          let t' := (t + 1) % 65536
          let s := updPort s b fun x => { x with tseqTx := t' }
          let s := (trunkMembers s b).foldl (fun s q => updPort s q fun x => { x with
            joinAt := if x.joinAt = some t' then none else x.joinAt }) s
          sendFrame s p { w.frame with tseq := t }
        else sendFrame s p w.frame

/-- Meaning of FRAME_TX (R345, R346): resent frames first and in order; no new frame while 2,048 are unacknowledged. -/
def execFrameTx (p : Nat) (s : State) : Res :=
  .next (if !rimRuns s || p ≥ 32 || !inService s p then s else
    match (portOf s p).resend with
    | f :: rest => emit (updPort s p fun x => { x with resend := rest }) (.frame p (frameOctets f))
    | [] =>
      if (portOf s p).replay.length ≥ 2048 then s
      else if personality s p = 1 then sendLink s p
      else if personality s p = 2 then sendStream s p
      else s)

/-! Frames in (R346, R352, R357 to R361). -/

/-- A packet for this device: a control-space access goes to the Eyepiece, one for the companion window to its port, any other
to the mesh (R359, R364). It holds its place in the receive buffer until it is in the mesh or on the rim (R347). -/
def deliverLocal (s : State) (p : Nat) (k : Packet) : State :=
  if k.kind = 0xA && fld k.payload 0x10 1 ≠ 2 then
    { freeHeld s k with dict := { s.dict with accesses := s.dict.accesses ++ [{ k with held := none }] } }
  else if (k.kind = 2 || k.kind = 3) && saSpace (pkAddr k) = 1 then
    match compPort s (saComp (pkAddr k)) with
    | some (q, _) => toRim s p q (frameOf k 0 false 0)
    | none => csUnplaced (freeHeld s k) p k
  else updPort s p fun x => { x with toMesh := x.toMesh ++ [k] }

/-- A broadcast frame: once per source and number; applied here, and sent on every other port that floods (R360). -/
def broadcastFrame (s : State) (p : Nat) (f : LinkFrame) (k : Packet) : State :=
  let key := (k.srcDev, f.bseq)
  if s.fabric.seen.contains key then updPortCtr (freeHeld s k) p fun c => { c with repeats := (c.repeats + 1) % 2 ^ 32 }
  else
    let s := { s with fabric := { s.fabric with seen := (s.fabric.seen ++ [key]).drop (s.fabric.seen.length - 255) } }
    let s := deliverLocal s p k
    if f.ttl = 0 then s
    else ((floodPorts s).filter fun q => trunkBase s q ≠ trunkBase s p).foldl (fun s q =>
      toRim s p q { f with
        ttl := f.ttl - 1, dl := dlThrough s p q f.dl, tseq := 0, body := .packet { k with held := none } }) s

/-- A frame delivered to the bridge of port p (R357 to R360). -/
def deliverFrame (s : State) (p : Nat) (f : LinkFrame) : State :=
  match f.body with
  | .stream _ => updPort s p fun x => { x with csIn := x.csIn ++ [f] }
  | .packet k =>
    let k := { k with bridge := true, held := some (p, f.vc, f.nblk) }
    if f.broadcast then broadcastFrame s p f k
    else if k.dstDev = s.fabric.devId then deliverLocal s p k
    else if f.ttl = 0 then updPortCtr (freeHeld s k) p fun c => { c with ttl := (c.ttl + 1) % 2 ^ 32 }
    else match routePort s k.dstDev k.srcDev k.srcLtile (k.vc = 2) with
      | some (q, _) =>
        sendTo s p q { f with body := .packet k, ttl := f.ttl - 1, dl := dlThrough s p q f.dl, tseq := 0 }
      | none =>
        let s := updPortCtr (freeHeld s k) p fun c => { c with noRoute := (c.noRoute + 1) % 2 ^ 32 }
        if nakDue k then bridgeSend s p (mkNak k 6) else s

/-- The frames of a trunk that are next in TSEQ order, delivered (R352). At most as many as wait. -/
def deliverOrdered (s : State) (b : Nat) : Nat → State
  | 0 => s
  | n + 1 =>
    match (portOf s b).reorder.find? fun e => e.2.tseq = (portOf s b).tseqRx with
    | none => s
    | some e =>
      let s := updPort s b fun x => { x with
        tseqRx := (x.tseqRx + 1) % 65536, reorder := x.reorder.filter fun y => y.2.tseq ≠ e.2.tseq }
      deliverOrdered (deliverFrame s e.1 e.2) b n

/-- A frame in link order: at once, or through the reorder window of its trunk, which has no place for a repeat. -/
def acceptFrame (s : State) (p : Nat) (f : LinkFrame) : State :=
  let b := trunkBase s p
  if personality s p = 1 && trunkSize s p > 1 then
    let x := portOf s b
    if (f.tseq + 65536 - x.tseqRx) % 65536 < 1024 && !(x.reorder.any fun e => e.2.tseq = f.tseq) then
      let s := updPort s b fun x => { x with reorder := x.reorder ++ [(p, f)] }
      deliverOrdered s b (portOf s b).reorder.length
    else leaveBuffer s p f.vc f.nblk
  else deliverFrame s p f

/-- An ACK of everything received in order (R346). -/
def sendAck (s : State) (p : Nat) : State :=
  let n := ((portOf s p).rxSeq + 4095) % 4096
  emit (updPort s p fun x => { x with sinceAck := 0 }) (.block p (controlBlock 2 (natLe 2 n)))

/-- A NAK with the sequence number expected (R346). -/
def sendNak (s : State) (p : Nat) : State :=
  emit (updPort s p fun x => { x with nakOut := true }) (.block p (controlBlock 3 (natLe 2 (portOf s p).rxSeq)))

/-- Meaning of FRAME_RX (R346): the frame whose bytes `frameOctets` gives but for its last four, the CRC-32 received; `fixed` symbols
corrected in its codewords, `lost` of them not correctable. It stays in the receive buffer until it goes on (R347). -/
def execFrameRx (p : Nat) (f : LinkFrame) (crc fixed lost : Nat) (s : State) : Res :=
  .next (if !rimRuns s || p ≥ 32 || !inService s p || personality s p = 3 then s else
    let s := updPortCtr s p fun c => { c with fec := c.fec + fixed, badCodewords := (c.badCodewords + lost) % 2 ^ 32 }
    if lost ≠ 0 || frameCrc f ≠ crc then sendNak s p
    else if f.seq ≠ (portOf s p).rxSeq then (if (portOf s p).nakOut then s else sendNak s p)
    else
      let s := updPort s p fun x => { x with
        rxSeq := (x.rxSeq + 1) % 4096, nakOut := false, sinceAck := x.sinceAck + 1 }
      let s := updPortCtr s p fun c => { c with framesRx := c.framesRx + 1, bytesRx := c.bytesRx + frameBytes f }
      let s := if (portOf s p).sinceAck ≥ 64 then sendAck s p else s
      acceptFrame s p f)

/-! Control blocks in (R343, R346, R347, R351, R352). -/

/-- Meaning of IDLE_BLOCK_RX (R343): nothing but the check. -/
def execIdleBlockRx (p : Nat) (block : List Byte) (s : State) : Res := .next (onBlock s p 0 block id)

/-- Meaning of ALIGN_BLOCK_RX (R342): nothing but the check; the alignment is the lanes'. -/
def execAlignBlockRx (p : Nat) (block : List Byte) (s : State) : Res := .next (onBlock s p 1 block id)

/-- Meaning of ACK_BLOCK_RX (R346): the replay buffer is freed up to the frame named. -/
def execAckBlockRx (p : Nat) (block : List Byte) (s : State) : Res :=
  .next (onBlock s p 2 block fun s =>
    let n := fld block 1 2 % 4096
    let r := (portOf s p).replay
    match r.findIdx? fun f => f.seq = n with
    | none => s
    | some i => updPort s p fun x => { x with
        replay := r.drop (i + 1), resend := x.resend.filter fun f => !(r.take (i + 1)).contains f
        refused := none, refusals := 0 })

/-- Meaning of NAK_BLOCK_RX (R346): every frame from the one named is resent; a port in service whose same frame is refused 8 times in
succession trains again (R339). -/
def execNakBlockRx (p : Nat) (block : List Byte) (s : State) : Res :=
  .next (onBlock s p 3 block fun s =>
    let n := fld block 1 2 % 4096
    let s := updPortCtr s p fun c => { c with naks := (c.naks + 1) % 2 ^ 32 }
    let s := updPort s p fun x => { x with
      resend := x.replay.dropWhile fun f => f.seq ≠ n
      refusals := if x.refused = some n then x.refusals + 1 else 1, refused := some n }
    if (portOf s p).refusals ≥ 8 && inService s p then retrainPort s p else s)

/-- Blocks that the partner freed, taken from the oldest outstanding ones. -/
def freeBlocks : List (Nat × Bool) → Nat → List (Nat × Bool)
  | [], _ => []
  | (n, d) :: l, k => if k = 0 then (n, d) :: l else if n ≤ k then freeBlocks l (k - n) else (n - k, d) :: l

/-- Meaning of CREDIT_BLOCK_RX (R347): six cumulative counts. -/
def execCreditBlockRx (p : Nat) (block : List Byte) (s : State) : Res :=
  .next (onBlock s p 4 block fun s =>
    updPort s p fun x =>
      let told := (List.range 6).map fun v => fld block (1 + 2 * v) 2
      { x with
        unfreed := (List.range 6).foldl (fun m v =>
          smSet m v (freeBlocks (qGet m v) ((told.getD v 0 + 65536 - x.freedByPartner.getD v 0) % 65536))) x.unfreed
        freedByPartner := told })

/-- Meaning of TRAIN_BLOCK_RX (R339, R343, R351, R352): what the partner is and whether it is ready is noted; a member that returned and
has signalled itself ready carries traffic from the next multiple of 1,024 in TSEQ once the partner is ready too. A port in training
answers the first block (DESIGN CHOICE, log 36); one that a ceased cause held DOWN trains. -/
def execTrainBlockRx (p : Nat) (block : List Byte) (s : State) : Res :=
  .next (onBlock s p 7 block fun s =>
    let ready := fld block 8 3 ≠ 0 && fld block 11 3 ≠ 0
    let first := (portOf s p).st = 2 && (portOf s p).heard = none
    let s := updPort s p fun x => { x with
      heard := some (partnerOf block), partnerReady := ready
      joinAt := if ready && x.joinAt = some 65536 then some (nextJoin s p) else x.joinAt }
    if first then emit s (.block p (trainBlock s p))
    else if causeCeased s p then startTraining s p else s)

/-- Meaning of LINK_ACK_TIMER (R346): an ACK while a received frame is unacknowledged. -/
def execLinkAckTimer (p : Nat) (s : State) : Res :=
  .next (if rimRuns s && p < 32 && inService s p && (portOf s p).sinceAck > 0 then sendAck s p else s)

/-- Meaning of LINK_CREDIT_TIMER (R347): a CREDIT block while a count has changed. -/
def execLinkCreditTimer (p : Nat) (s : State) : Res :=
  .next (
    let x := portOf s p
    if rimRuns s && p < 32 && inService s p && personality s p ≠ 3 && x.freed ≠ x.freedTold then
      emit (updPort s p fun x => { x with freedTold := x.freed }) (.block p (controlBlock 4 (x.freed.flatMap (natLe 2))))
    else s)

/-- Meaning of TRUNK_MEMBER_DOWN (R352): the unacknowledged frames of a member out of service go to the lowest member in
service, in TSEQ order; its link starts anew when it returns (log 37). -/
def execTrunkMemberDown (p : Nat) (s : State) : Res :=
  .next (
    let b := trunkBase s p
    let x := portOf s p
    match (trunkMembers s b).find? (inService s) with
    | some q =>
      if rimRuns s && p < 32 && personality s p = 1 && trunkSize s p > 1 && !inService s p then
        let t0 := ((portOf s b).tseqTx + 32768) % 65536
        let age := fun (f : LinkFrame) => (f.tseq + 65536 - t0) % 65536
        let s := updPort s p fun x => { freshSeqs x with again := [] }
        updPort s q fun y => { y with again := (y.again ++ x.again ++ x.replay).mergeSort fun f g => age f ≤ age g }
      else s
    | none => s)

/-! Chadon Stream responses (R365 to R368). -/

/-- The first stream frame received, taken from the receive buffer if it has the expected operation (R347, R365). -/
def onStream (s : State) (p op : Nat) (f : State → CsFrame → State) : State :=
  match (portOf s p).csIn with
  | g :: rest =>
    match g.body with
    | .stream c =>
      if rimRuns s && p < 32 && c.op = op then
        f (leaveBuffer (updPort s p fun x => { x with csIn := rest }) p g.vc g.nblk) c
      else s
    | .packet _ => s
  | [] => s

/-- A response other than OK is counted (R366, R376). -/
def countCs (s : State) (p : Nat) (c : CsFrame) : State :=
  if c.status = 0 then s else updPortCtr s p fun x => { x with csErrors := (x.csErrors + 1) % 2 ^ 32 }

/-- A tag frees. -/
def endTag (s : State) (p tag : Nat) : State := updPort s p fun x => { x with tags := smDel x.tags tag }

/-- What a packet's requester gets for a response with an error: NAK BOUND for RANGE, else TILE_DOWN (R366). -/
def csNak (s : State) (p : Nat) (k : Packet) (status : Nat) : State :=
  bridgeSend s p (mkNak k (if status = 1 then 5 else 6))

/-- The window offset of box offset b at a member, by the map in force (R364, backwards). -/
def windowOffset (s : State) (p b : Nat) : Nat :=
  match s.fabric.compMap.find? fun e => e.port = p with
  | some e =>
    let m := ((compMembers s e).findIdx? (· = p)).getD 0
    e.base + (b / 4096 * e.members + m) * 4096 + b % 4096
  | none => b

/-- A remote write of the stream engine, on VC3 (R368). -/
def streamWrite (s : State) (p l off : Nat) (data : List Byte) : State :=
  let a := s.fabric.devId * 2 ^ 48 + l * 2 ^ 27 + off
  bridgeSend s p (mkPacket .data 3 2 0 s.fabric.devId l s.fabric.devId 0x7FFFF
    (natLe 8 a ++ natLe 2 data.length ++ natLe 1 0 ++ natLe 1 1 ++ List.replicate 4 0 ++ data))

/-- The bytes of an RDATA frame of a STRM go to the tiles its engine was given (R368). -/
def streamData (s : State) (p : Nat) (dests : List (Nat × Nat × Nat × Nat)) (c : CsFrame) : State :=
  let o := windowOffset s p c.boxOff
  dests.foldl (fun s d =>
    let lo := max o d.1
    let hi := min (o + c.data.length) (d.1 + d.2.1)
    if lo < hi then streamWrite s p d.2.2.1 (d.2.2.2 + (lo - d.1)) (slice c.data (lo - o) (hi - lo)) else s) s

/-- Meaning of CS_RDATA (R366, R368): a read reply at its place, or remote writes of a stream. -/
def execCsRdata (p : Nat) (s : State) : Res :=
  .next (onStream s p 0x81 fun s c =>
    let s := countCs s p c
    match smGet (portOf s p).tags c.tag with
    | none => s
    | some q =>
      let s := if c.last || c.status ≠ 0 then endTag s p c.tag else s
      match q with
      | .packet k =>
        if c.status ≠ 0 then csNak s p k c.status
        else
          let base := ((compPlace s (saComp (pkAddr k))).map (·.2.2)).getD c.boxOff
          let vc := if bit (fld k.payload 0xB 1) 0 then 3 else 1
          bridgeSend s p (mkPacket .data vc 4 k.pri k.srcDev k.srcLtile s.fabric.devId 0x7FFFF
            (natLe 4 (fld k.payload 0xC 4 + (c.boxOff - base)) ++ natLe 2 c.data.length ++ natLe 1 (pkTxid k)
              ++ List.replicate 9 0 ++ c.data))
      | .stream d => if c.status = 0 then streamData s p d c else s
      | .commit _ | .info => s)

/-- Meaning of CS_WACK (R366, R367): the acknowledgement of a remote write. -/
def execCsWack (p : Nat) (s : State) : Res :=
  .next (onStream s p 0x82 fun s c =>
    let s := countCs s p c
    match smGet (portOf s p).tags c.tag with
    | some (.packet k) =>
      let s := endTag s p c.tag
      if c.status ≠ 0 then csNak s p k c.status
      else if bit (fld k.payload 0xB 1) 0 then s
      else bridgeSend s p (mkPacket .data 1 5 k.pri k.srcDev k.srcLtile s.fabric.devId 0x7FFFF
        (natLe 1 (pkTxid k) ++ List.replicate 15 0))
    | _ => s)

/-- Meaning of CS_CACK (R367): a member of the set has made its writes durable. -/
def execCsCack (p : Nat) (s : State) : Res :=
  .next (onStream s p 0x84 fun s c =>
    let s := countCs s p c
    match smGet (portOf s p).tags c.tag with
    | some (.commit m) =>
      let s := endTag s p c.tag
      updModel s m fun x => { x with cmtWait := x.cmtWait.filter (· ≠ p), logFail := x.logFail || c.status ≠ 0 }
    | _ => s)

/-- Meaning of CS_INFOR (R365): capacity in its first 8 bytes, the protocol version in the next. -/
def execCsInfor (p : Nat) (s : State) : Res :=
  .next (onStream s p 0x85 fun s c =>
    let s := countCs s p c
    match smGet (portOf s p).tags c.tag with
    | some .info =>
      let s := endTag s p c.tag
      if c.status = 0 then updPort s p fun x => { x with boxInfo := some (fld c.data 0 8, fld c.data 8 1) } else s
    | _ => s)

/-! The route table (R354, R355). -/

/-- A route entry that may be stored (R355): no reserved encoding, no prefix bit below PLEN, alternatives that name ports or
trunk bases. An entry that is not VALID is held to the same. -/
def routeEntryOk (s : State) (e : Nat) : Bool :=
  let alts := (List.range 4).map (rtAlt e)
  bits e 7 2 = 0 && rtPolicy e ≤ 1 && (!rtValid e || (rtPlen e ≥ 1 && rtPlen e ≤ 16)) && rtPlen e ≤ 16
  && rtPrefix e % 2 ^ (16 - rtPlen e) = 0
  && alts.all (· ≤ 31)
  && alts.all fun p => !(trunkSize s p > 1 && p ≠ trunkBase s p)

/-- The entries of a table of 8 bytes each (R354); an entry of 0 is not listed. -/
def routesOf (b : List Byte) : SMap Nat :=
  ((List.range (b.length / 8)).map fun n => (n, fld b (8 * n) 8)).filter fun e => e.2 ≠ 0

/-- The whole route table as bytes (R354). -/
def routeBytes (m : SMap Nat) : List Byte := (List.range 32768).flatMap fun n => natLe 8 (smGetD m n 0)

/-- The table and the port configuration compiled into the forwarding map and the companion map in force (R355). -/
def compileRoutes (s : State) : State :=
  { s with fabric := { s.fabric with
    map := s.fabric.routes.filter fun e => rtValid e.2, compMap := compileComp s
    version := (s.fabric.version + 1) % 2 ^ 32 } }

/-- The table applied (R355): every region and bridge switches to the new maps at one broadcast of the Eyepiece. -/
def applyRoutes (s : State) : State := eyepieceBroadcast (compileRoutes s)

end Sys2Proof.Machine
end

