-- ==== Sys2Proof/Machine/Operands.lean ====
section
/-! DEFINITION. The instructions of the control core as the tile commands read them from the scratchpad: RV32I with M, C,
Zicsr, Zifencei, Zba, Zbb (R40; encodings of the RISC-V standard, log 23) and Xnt (R53 to R55). -/

namespace Sys2Proof.Machine

/-- Register-register and register-immediate operations of RV32I, M, Zba and Zbb (R40). -/
inductive AluFn
  | add | sub | sll | slt | sltu | xor | srl | sra | or | and
  | mul | mulh | mulhsu | mulhu | div | divu | rem | remu
  | sh1add | sh2add | sh3add | andn | orn | xnor
  | max | maxu | min | minu | rol | ror
  | clz | ctz | cpop | sextb | sexth | zexth | orcb | rev8
  deriving DecidableEq, Repr

/-- The conditions of the RV32I branches (R40). -/
inductive BranchFn
  | eq | ne | lt | ge | ltu | geu
  deriving DecidableEq, Repr

/-- How a CSR instruction combines its source with the CSR (R40, Zicsr). -/
inductive CsrFn
  | write | set | clear
  deriving DecidableEq, Repr

/-- The Xnt instructions (R54, R55), with their register fields. -/
inductive XntOp
  | msgSend (rs1 : Nat) | msgAvail (rd rs1 : Nat) | msgFence
  | bmArrive (rs1 : Nat) | bmTest (rd rs1 : Nat) | bmWait (rs1 : Nat) | slWait (rd : Nat)
  | mxRun (rs1 : Nat) | mxFence | mxCount (rd : Nat)
  | pzRun (rs1 rs2 rs3 : Nat) | pzFence | pzCount (rd : Nat)
  | tkStart (rd rs1 rs2 : Nat) | tkExit | tkYield | tkReset (rs1 : Nat) | tkWdog
  | tbSnap (rs1 : Nat) | tbWake (rs1 rs2 : Nat) | tbCancel | tbNotify (rs1 : Nat)
  | ltSwitch (rs1 : Nat) | ltLdcfg (rs1 rs2 : Nat)
  | mxRuni (imm : Nat) | pzRuni (reg imm : Nat) | msgSendi (imm : Nat) | tbNotifyi (imm : Nat)
  deriving DecidableEq, Repr

/-- A decoded instruction of the control core. -/
inductive CoreOp
  | load (rd rs1 : Nat) (imm : Word) (size : Nat) (signed : Bool)
  | store (rs1 rs2 : Nat) (imm : Word) (size : Nat)
  | alu (f : AluFn) (rd rs1 rs2 : Nat)
  | aluImm (f : AluFn) (rd rs1 : Nat) (imm : Word)
  | lui (rd : Nat) (imm : Word)
  | auipc (rd : Nat) (imm : Word)
  | jal (rd : Nat) (off : Word)
  | jalr (rd rs1 : Nat) (off : Word)
  | branch (f : BranchFn) (rs1 rs2 : Nat) (off : Word)
  | fence | fenceI | wfi | ecall | ebreak | mret
  | csr (f : CsrFn) (rd src : Nat) (isImm : Bool) (addr : Nat)
  | xnt (x : XntOp)
  deriving DecidableEq, Repr

/-- A sign-extended immediate of `w` bits. -/
def sext (w v : Nat) : Word := BitVec.ofInt 32 (toSigned w v)

/-- The immediates of the RV32I formats. -/
def immI (w : Nat) : Word := sext 12 (bits w 31 20)
def immS (w : Nat) : Word := sext 12 (bits w 31 25 * 32 + bits w 11 7)
def immB (w : Nat) : Word :=
  sext 13 (bits w 31 31 * 4096 + bits w 7 7 * 2048 + bits w 30 25 * 32 + bits w 11 8 * 2)
def immU (w : Nat) : Word := BitVec.ofNat 32 (bits w 31 12 * 4096)
def immJ (w : Nat) : Word :=
  sext 21 (bits w 31 31 * 1048576 + bits w 19 12 * 4096 + bits w 20 20 * 2048 + bits w 30 21 * 2)

/-- The OP major opcode: funct7 and funct3 choose the operation; zext.h needs rs2 = 0. -/
def decodeOp (f7 f3 rs2 : Nat) : Option AluFn :=
  match f7, f3 with
  | 0x00, 0 => some .add | 0x00, 1 => some .sll | 0x00, 2 => some .slt | 0x00, 3 => some .sltu
  | 0x00, 4 => some .xor | 0x00, 5 => some .srl | 0x00, 6 => some .or | 0x00, 7 => some .and
  | 0x20, 0 => some .sub | 0x20, 5 => some .sra
  | 0x20, 4 => some .xnor | 0x20, 6 => some .orn | 0x20, 7 => some .andn
  | 0x01, 0 => some .mul | 0x01, 1 => some .mulh | 0x01, 2 => some .mulhsu | 0x01, 3 => some .mulhu
  | 0x01, 4 => some .div | 0x01, 5 => some .divu | 0x01, 6 => some .rem | 0x01, 7 => some .remu
  | 0x10, 2 => some .sh1add | 0x10, 4 => some .sh2add | 0x10, 6 => some .sh3add
  | 0x05, 4 => some .min | 0x05, 5 => some .minu | 0x05, 6 => some .max | 0x05, 7 => some .maxu
  | 0x30, 1 => some .rol | 0x30, 5 => some .ror
  | 0x04, 4 => if rs2 = 0 then some .zexth else none
  | _, _ => none

/-- The OP-IMM major opcode: the operation and its immediate (a shift's amount, 0 for a unary operation). -/
def decodeOpImm (w : Nat) : Option (AluFn × Word) :=
  let f7 := bits w 31 25
  let sh := bits w 24 20
  let shamt := BitVec.ofNat 32 sh
  match bits w 14 12 with
  | 0 => some (.add, immI w) | 2 => some (.slt, immI w) | 3 => some (.sltu, immI w)
  | 4 => some (.xor, immI w) | 6 => some (.or, immI w) | 7 => some (.and, immI w)
  | 1 =>
    if f7 = 0 then some (.sll, shamt)
    else if f7 = 0x30 then
      match sh with
      | 0 => some (.clz, 0) | 1 => some (.ctz, 0) | 2 => some (.cpop, 0) | 4 => some (.sextb, 0) | 5 => some (.sexth, 0)
      | _ => none
    else none
  | _ =>
    if f7 = 0 then some (.srl, shamt) else if f7 = 0x20 then some (.sra, shamt)
    else if f7 = 0x30 then some (.ror, shamt)
    else if bits w 31 20 = 0x287 then some (.orcb, 0)
    else if bits w 31 20 = 0x698 then some (.rev8, 0)
    else none

/-- Custom-0 (R53, R54): a field the instruction does not use must be 0. -/
def decodeCustom0 (w : Nat) : Option XntOp :=
  let f7 := bits w 31 25
  let f2 := bits w 26 25
  let sub := bits w 31 27
  let rs2 := bits w 24 20
  let rs1 := bits w 19 15
  let rd := bits w 11 7
  match bits w 14 12, f7 with
  | 0, 0 => if rs2 = 0 ∧ rd = 0 then some (.msgSend rs1) else none
  | 0, 1 => if rs2 = 0 then some (.msgAvail rd rs1) else none
  | 0, 2 => if rs2 = 0 ∧ rs1 = 0 ∧ rd = 0 then some .msgFence else none
  | 1, 0 => if rs2 = 0 ∧ rd = 0 then some (.bmArrive rs1) else none
  | 1, 1 => if rs2 = 0 then some (.bmTest rd rs1) else none
  | 1, 2 => if rs2 = 0 ∧ rd = 0 then some (.bmWait rs1) else none
  | 1, 8 => if rs2 = 0 ∧ rs1 = 0 then some (.slWait rd) else none
  | 2, 0 => if rs2 = 0 ∧ rd = 0 then some (.mxRun rs1) else none
  | 2, 1 => if rs2 = 0 ∧ rs1 = 0 ∧ rd = 0 then some .mxFence else none
  | 2, 2 => if rs2 = 0 ∧ rs1 = 0 then some (.mxCount rd) else none
  | 3, _ =>
    if f2 = 0 then (if rd = 0 then some (.pzRun rs1 rs2 sub) else none)
    else if f2 = 1 ∧ sub = 0 then (if rs2 = 0 ∧ rs1 = 0 ∧ rd = 0 then some .pzFence else none)
    else if f2 = 1 ∧ sub = 1 then (if rs2 = 0 ∧ rs1 = 0 then some (.pzCount rd) else none)
    else none
  | 4, 0 => some (.tkStart rd rs1 rs2)
  | 4, 1 => if rs2 = 0 ∧ rs1 = 0 ∧ rd = 0 then some .tkExit else none
  | 4, 2 => if rs2 = 0 ∧ rs1 = 0 ∧ rd = 0 then some .tkYield else none
  | 4, 3 => if rs2 = 0 ∧ rd = 0 then some (.tkReset rs1) else none
  | 4, 4 => if rs2 = 0 ∧ rs1 = 0 ∧ rd = 0 then some .tkWdog else none
  | 5, 0 => if rs2 = 0 ∧ rd = 0 then some (.tbSnap rs1) else none
  | 5, 1 => if rd = 0 then some (.tbWake rs1 rs2) else none
  | 5, 2 => if rs2 = 0 ∧ rs1 = 0 ∧ rd = 0 then some .tbCancel else none
  | 5, 3 => if rs2 = 0 ∧ rd = 0 then some (.tbNotify rs1) else none
  | 6, 0 => if rs2 = 0 ∧ rd = 0 then some (.ltSwitch rs1) else none
  | 6, 1 => if rd = 0 then some (.ltLdcfg rs1 rs2) else none
  | _, _ => none

/-- Custom-1 (R53, R55): bit 15 must be 0. -/
def decodeCustom1 (w : Nat) : Option XntOp :=
  let imm := bits w 31 16
  let reg := bits w 11 7
  if bit w 15 then none else
  match bits w 14 12 with
  | 0 => if reg = 0 then some (.mxRuni imm) else none
  | 1 => if reg = 31 then none else some (.pzRuni reg imm)
  | 2 => if reg = 0 then some (.msgSendi imm) else none
  | 3 => if reg = 0 then some (.tbNotifyi imm) else none
  | _ => none

/-- The SYSTEM major opcode with funct3 0: the instructions this core has (R40, R41). -/
def decodeSystem (w : Nat) : Option CoreOp :=
  if w = 0x00000073 then some .ecall
  else if w = 0x00100073 then some .ebreak
  else if w = 0x30200073 then some .mret
  else if w = 0x10500073 then some .wfi
  else none

/-- A 32-bit encoding; none is ILLEGAL. -/
def decode32 (w : Nat) : Option CoreOp :=
  let f3 := bits w 14 12
  let rd := bits w 11 7
  let rs1 := bits w 19 15
  let rs2 := bits w 24 20
  match bits w 6 0 with
  | 0x03 =>
    match f3 with
    | 0 => some (.load rd rs1 (immI w) 1 true) | 1 => some (.load rd rs1 (immI w) 2 true)
    | 2 => some (.load rd rs1 (immI w) 4 true) | 4 => some (.load rd rs1 (immI w) 1 false)
    | 5 => some (.load rd rs1 (immI w) 2 false) | _ => none
  | 0x23 =>
    match f3 with
    | 0 => some (.store rs1 rs2 (immS w) 1) | 1 => some (.store rs1 rs2 (immS w) 2)
    | 2 => some (.store rs1 rs2 (immS w) 4) | _ => none
  | 0x13 => (decodeOpImm w).map fun x => .aluImm x.1 rd rs1 x.2
  | 0x33 => (decodeOp (bits w 31 25) f3 rs2).map fun f => .alu f rd rs1 rs2
  | 0x37 => some (.lui rd (immU w))
  | 0x17 => some (.auipc rd (immU w))
  | 0x6F => some (.jal rd (immJ w))
  | 0x67 => if f3 = 0 then some (.jalr rd rs1 (immI w)) else none
  | 0x63 =>
    match f3 with
    | 0 => some (.branch .eq rs1 rs2 (immB w)) | 1 => some (.branch .ne rs1 rs2 (immB w))
    | 4 => some (.branch .lt rs1 rs2 (immB w)) | 5 => some (.branch .ge rs1 rs2 (immB w))
    | 6 => some (.branch .ltu rs1 rs2 (immB w)) | 7 => some (.branch .geu rs1 rs2 (immB w))
    | _ => none
  | 0x0F => if f3 = 0 then some .fence else if f3 = 1 then some .fenceI else none
  | 0x73 =>
    match f3 with
    | 0 => decodeSystem w
    | 1 => some (.csr .write rd rs1 false (bits w 31 20)) | 2 => some (.csr .set rd rs1 false (bits w 31 20))
    | 3 => some (.csr .clear rd rs1 false (bits w 31 20)) | 5 => some (.csr .write rd rs1 true (bits w 31 20))
    | 6 => some (.csr .set rd rs1 true (bits w 31 20)) | 7 => some (.csr .clear rd rs1 true (bits w 31 20))
    | _ => none
  | 0x0B => (decodeCustom0 w).map .xnt
  | 0x2B => (decodeCustom1 w).map .xnt
  | _ => none

/-- A 16-bit encoding of the C extension, as the instruction it stands for; none is ILLEGAL. -/
def decode16 (w : Nat) : Option CoreOp :=
  let rdF := bits w 11 7
  let rs2F := bits w 6 2
  let rdC := bits w 4 2 + 8
  let rs1C := bits w 9 7 + 8
  let imm6 := sext 6 (bits w 12 12 * 32 + bits w 6 2)
  let shamt := BitVec.ofNat 32 (bits w 6 2)
  let lwOff := BitVec.ofNat 32 (bits w 5 5 * 64 + bits w 12 10 * 8 + bits w 6 6 * 4)
  let jOff := sext 12 (bits w 12 12 * 2048 + bits w 8 8 * 1024 + bits w 10 9 * 256 + bits w 6 6 * 128
    + bits w 7 7 * 64 + bits w 2 2 * 32 + bits w 11 11 * 16 + bits w 5 3 * 2)
  let bOff := sext 9 (bits w 12 12 * 256 + bits w 6 5 * 64 + bits w 2 2 * 32 + bits w 11 10 * 8 + bits w 4 3 * 2)
  match bits w 1 0, bits w 15 13 with
  | 0, 0 =>
    let imm := bits w 10 7 * 64 + bits w 12 11 * 16 + bits w 5 5 * 8 + bits w 6 6 * 4
    if imm = 0 then none else some (.aluImm .add rdC 2 (BitVec.ofNat 32 imm))
  | 0, 2 => some (.load rdC rs1C lwOff 4 true)
  | 0, 6 => some (.store rs1C rdC lwOff 4)
  | 1, 0 => some (.aluImm .add rdF rdF imm6)
  | 1, 1 => some (.jal 1 jOff)
  | 1, 2 => some (.aluImm .add rdF 0 imm6)
  | 1, 3 =>
    if rdF = 2 then
      let imm := bits w 12 12 * 512 + bits w 4 3 * 128 + bits w 5 5 * 64 + bits w 2 2 * 32 + bits w 6 6 * 16
      if imm = 0 then none else some (.aluImm .add 2 2 (sext 10 imm))
    else if imm6 = 0 then none else some (.lui rdF (imm6 <<< 12))
  | 1, 4 =>
    match bits w 11 10 with
    | 0 => if bit w 12 then none else some (.aluImm .srl rs1C rs1C shamt)
    | 1 => if bit w 12 then none else some (.aluImm .sra rs1C rs1C shamt)
    | 2 => some (.aluImm .and rs1C rs1C imm6)
    | _ =>
      if bit w 12 then none else
      match bits w 6 5 with
      | 0 => some (.alu .sub rs1C rs1C rdC) | 1 => some (.alu .xor rs1C rs1C rdC)
      | 2 => some (.alu .or rs1C rs1C rdC) | _ => some (.alu .and rs1C rs1C rdC)
  | 1, 5 => some (.jal 0 jOff)
  | 1, 6 => some (.branch .eq rs1C 0 bOff)
  | 1, 7 => some (.branch .ne rs1C 0 bOff)
  | 2, 0 => if bit w 12 then none else some (.aluImm .sll rdF rdF shamt)
  | 2, 2 =>
    if rdF = 0 then none
    else some (.load rdF 2 (BitVec.ofNat 32 (bits w 3 2 * 64 + bits w 12 12 * 32 + bits w 6 4 * 4)) 4 true)
  | 2, 4 =>
    if bit w 12 then
      if rdF = 0 ∧ rs2F = 0 then some .ebreak
      else if rs2F = 0 then some (.jalr 1 rdF 0)
      else some (.alu .add rdF rdF rs2F)
    else if rs2F = 0 then (if rdF = 0 then none else some (.jalr 0 rdF 0))
    else some (.alu .add rdF 0 rs2F)
  | 2, 6 => some (.store 2 rs2F (BitVec.ofNat 32 (bits w 8 7 * 64 + bits w 12 9 * 4)) 4)
  | _, _ => none

/-- The bit reversal of counting: leading zeros of a word. -/
def clz32 (a : Word) : Nat := ((List.range 32).takeWhile fun k => !a.getLsbD (31 - k)).length

/-- Trailing zeros of a word. -/
def ctz32 (a : Word) : Nat := ((List.range 32).takeWhile fun k => !a.getLsbD k).length

/-- Bits set in a word. -/
def cpop32 (a : Word) : Nat := ((List.range 32).filter fun k => a.getLsbD k).length

/-- A word rotated left. -/
def rol32 (a : Word) (n : Nat) : Word := a <<< (n % 32) ||| a >>> ((32 - n % 32) % 32)

/-- Byte k of a word. -/
def byteOf (a : Word) (k : Nat) : Nat := a.toNat / 256 ^ k % 256

/-- The result of an operation (R40: RV32I, M, Zba, Zbb). Division by 0 and the overflow of division have the results of
the M extension. -/
def aluEval (f : AluFn) (a b : Word) : Word :=
  let sh := b.toNat % 32
  match f with
  | .add => a + b
  | .sub => a - b
  | .sll => a <<< sh
  | .slt => if a.toInt < b.toInt then 1 else 0
  | .sltu => if a.toNat < b.toNat then 1 else 0
  | .xor => a ^^^ b
  | .srl => a >>> sh
  | .sra => a.sshiftRight sh
  | .or => a ||| b
  | .and => a &&& b
  | .mul => a * b
  | .mulh => BitVec.ofInt 32 (a.toInt * b.toInt / 2 ^ 32)
  | .mulhsu => BitVec.ofInt 32 (a.toInt * b.toNat / 2 ^ 32)
  | .mulhu => BitVec.ofNat 32 (a.toNat * b.toNat / 2 ^ 32)
  | .div => if b = 0 then BitVec.allOnes 32 else BitVec.ofInt 32 (a.toInt.tdiv b.toInt)
  | .divu => if b = 0 then BitVec.allOnes 32 else BitVec.ofNat 32 (a.toNat / b.toNat)
  | .rem => if b = 0 then a else BitVec.ofInt 32 (a.toInt.tmod b.toInt)
  | .remu => if b = 0 then a else BitVec.ofNat 32 (a.toNat % b.toNat)
  | .sh1add => b + a <<< 1
  | .sh2add => b + a <<< 2
  | .sh3add => b + a <<< 3
  | .andn => a &&& ~~~b
  | .orn => a ||| ~~~b
  | .xnor => ~~~(a ^^^ b)
  | .max => if a.toInt < b.toInt then b else a
  | .maxu => if a.toNat < b.toNat then b else a
  | .min => if a.toInt < b.toInt then a else b
  | .minu => if a.toNat < b.toNat then a else b
  | .rol => rol32 a sh
  | .ror => rol32 a (32 - sh)
  | .clz => BitVec.ofNat 32 (clz32 a)
  | .ctz => BitVec.ofNat 32 (ctz32 a)
  | .cpop => BitVec.ofNat 32 (cpop32 a)
  | .sextb => sext 8 (a.toNat % 256)
  | .sexth => sext 16 (a.toNat % 65536)
  | .zexth => BitVec.ofNat 32 (a.toNat % 65536)
  | .orcb => BitVec.ofNat 32 (leNat ((List.range 4).map fun k => if byteOf a k = 0 then 0 else 0xFF))
  | .rev8 => BitVec.ofNat 32 (leNat ((List.range 4).map fun k => BitVec.ofNat 8 (byteOf a (3 - k))))

/-- A branch is taken (R40). -/
def branchTaken (f : BranchFn) (a b : Word) : Bool :=
  match f with
  | .eq => a = b
  | .ne => a ≠ b
  | .lt => a.toInt < b.toInt
  | .ge => !decide (a.toInt < b.toInt)
  | .ltu => a.toNat < b.toNat
  | .geu => !decide (a.toNat < b.toNat)

/-- What the fetch buffer holds at the running slot's PC (R43): the bits, the decoding (none is ILLEGAL), the length in
bytes. -/
structure Fetched where
  word : Nat
  op : Option CoreOp
  len : Nat
  deriving DecidableEq, Repr

/-- The bytes the fetch buffer holds at an absolute offset, if it holds the line (R43). -/
def bufHalf (c : Core) (a : Nat) : Option Nat :=
  (c.fetchBuf.find? fun e => e.1 = a / 16).map fun e => fld e.2 (a % 16) 2

/-- An access of n bytes at a task-relative address is in bound for a base and bound in bytes (R48). -/
def inBound (base bound a n : Nat) : Bool := a + n ≤ bound && base + a + n ≤ spadBytes

/-- The instruction at the running slot's PC, if its bytes are in bound and in the buffer (R43, R44: always 2-byte aligned; R48). -/
def fetched (c : Core) : Option Fetched :=
  let k := slotAt c c.cur
  let a := k.base + k.pc.toNat
  if !inBound k.base k.bound k.pc.toNat 2 then none else
  (bufHalf c a).bind fun lo =>
    if lo % 4 = 3 then
      if !inBound k.base k.bound k.pc.toNat 4 then none else (bufHalf c (a + 2)).map fun hi =>
        { word := lo + hi * 65536, op := decode32 (lo + hi * 65536), len := 4 }
    else some { word := lo, op := decode16 lo, len := 2 }

/-- The line the running slot's next instruction still needs (R43), with its task-relative address when it lies
outside the bound (R48). -/
def neededLine (c : Core) : Option (Nat × Bool) :=
  let k := slotAt c c.cur
  let pc := k.pc.toNat
  let ok := fun x => inBound k.base k.bound x 2
  if !ok pc then some (0, false) else
  match bufHalf c (k.base + pc) with
  | none => some ((k.base + pc) / 16, true)
  | some lo =>
    if lo % 4 = 3 then
      if !ok (pc + 2) then some (0, false)
      else if (bufHalf c (k.base + pc + 2)).isNone then some ((k.base + pc + 2) / 16, true)
      else none
    else none

/-- The cycles a command of the core takes, counted by mcycle and the watchdog (R42, R75; a free value, log 9). -/
def countCycles (s : State) (t : Nat) : State :=
  let (n, s) := fresh s
  updCore s t fun c => { c with
    mcycle := c.mcycle + BitVec.ofNat 64 n
    wdogCount := if c.wdogPeriod = 0 then c.wdogCount else c.wdogCount + n }

/-- The running slot's PC moved past its instruction, which retires (R42). -/
def retireTo (c : Core) (pc : Word) : Core :=
  { updSlot c c.cur fun k => { k with pc := pc } with minstret := c.minstret + 1 }

/-- Retirement to the next instruction. -/
def retire (c : Core) (len : Nat) : Core := retireTo c ((slotAt c c.cur).pc + BitVec.ofNat 32 len)

/-- Retirement with x[rd] written. -/
def retireRd (c : Core) (len rd : Nat) (v : Word) : Core := retire (updSlot c c.cur fun k => setX k rd v) len

/-- Runs `f` where the tile's core is awake at an instruction of the kind `sel` chooses; elsewhere nothing happens
(log 2). The cycles are counted first. -/
def atOp (s : State) (t : Nat) (sel : CoreOp → Bool) (f : State → CoreOp → Nat → State) : State :=
  if tileActs s t && awake (tileOf s t).core then
    match fetched (tileOf s t).core with
    | some ⟨_, some op, len⟩ => if sel op then f (countCycles s t) op len else s
    | _ => s
  else s

/-- Runs `f` at an Xnt instruction. -/
def atXnt (s : State) (t : Nat) (sel : XntOp → Bool) (f : State → XntOp → Nat → State) : State :=
  atOp s t (fun op => match op with | .xnt x => sel x | _ => false)
    (fun s op len => match op with | .xnt x => f s x len | _ => s)

/-- A fault of the running slot at its instruction. -/
def faultHere (s : State) (t code : Nat) (addr : Word) (store : Bool) : State :=
  tileFault s t (tileOf s t).core.cur code addr store

/-- The bits of the instruction at the running slot's PC (R76, ILLEGAL and CFG_PRIV). -/
def wordHere (s : State) (t : Nat) : Word := BitVec.ofNat 32 (((fetched (tileOf s t).core).map (·.word)).getD 0)

end Sys2Proof.Machine
end

