-- ==== Sys2Proof/Machine/Processor.lean ====
section
/-! DEFINITION. The commands of the control core: fetch, load, store, compute, fences, wfi, ecall, ebreak, mret
(chapter 02). -/

namespace Sys2Proof.Machine

/-- FETCH_INSTRUCTION (R43, R48): the line the running slot's next instruction needs enters the two-line buffer, in place
of the older; a fetch outside the bound is FETCH_BOUND. -/
def doFetch (s : State) (t : Nat) (err : EccOutcome) : State :=
  let c := (tileOf s t).core
  match neededLine c with
  | none => s
  | some (_, false) => faultHere (countCycles s t) t 0x04 (slotAt c c.cur).pc false
  | some (line, true) =>
    onLine (countCycles s t) t line err fun s => updCore s t fun c => { c with
      fetchBuf := (c.fetchBuf.filter (·.1 ≠ line)).drop ((c.fetchBuf.filter (·.1 ≠ line)).length - 1)
        ++ [(line, readSpad s t (line * 16) 16)] }

/-- Meaning of FETCH_INSTRUCTION. -/
def execFetchInstruction (t : Nat) (err : EccOutcome) (s : State) : Res :=
  .next (if tileActs s t && awake (tileOf s t).core then doFetch s t err else s)

/-- The running slot. -/
def curSlot (s : State) (t : Nat) : TaskSlot := slotAt (tileOf s t).core (tileOf s t).core.cur

/-- An operand register of the running slot. -/
def xcur (s : State) (t r : Nat) : Word := xreg (curSlot s t) r

/-- The checks of a core access: MISALIGN (R44), then the bound (R48); `ok` runs with the absolute offset (log 24). -/
def onAccess (s : State) (t : Nat) (addr : Word) (size : Nat) (store : Bool) (ok : Nat → State) : State :=
  let k := curSlot s t
  if addr.toNat % size ≠ 0 then faultHere s t 0x05 addr store
  else if !inBound k.base k.bound addr.toNat size then faultHere s t (if store then 0x03 else 0x02) addr store
  else ok (k.base + addr.toNat)

/-- A load (R44, R48). -/
def doLoad (s : State) (t : Nat) (err : EccOutcome) (rd : Nat) (addr : Word) (size : Nat) (signed : Bool)
    (len : Nat) : State :=
  onAccess s t addr size false fun a => onLine s t (a / 16) err fun s =>
    let v := readNum s t a size
    updCore s t fun c => retireRd c len rd (if signed then sext (8 * size) v else BitVec.ofNat 32 v)

/-- Meaning of CORE_LOAD. -/
def execCoreLoad (t : Nat) (err : EccOutcome) (s : State) : Res :=
  .next (atOp s t (fun op => match op with | .load .. => true | _ => false) fun s op len =>
    match op with
    | .load rd rs1 imm size signed => doLoad s t err rd (xcur s t rs1 + imm) size signed len
    | _ => s)

/-- A store; the narrower write reads its line first (R44, R48, R66, R69). -/
def doStore (s : State) (t : Nat) (err : EccOutcome) (addr v : Word) (size len : Nat) : State :=
  onAccess s t addr size true fun a => onLine s t (a / 16) err fun s =>
    updCore (writeNum s t a size v.toNat) t fun c => retire c len

/-- Meaning of CORE_STORE. -/
def execCoreStore (t : Nat) (err : EccOutcome) (s : State) : Res :=
  .next (atOp s t (fun op => match op with | .store .. => true | _ => false) fun s op len =>
    match op with
    | .store rs1 rs2 imm size => doStore s t err (xcur s t rs1 + imm) (xcur s t rs2) size len
    | _ => s)

/-- The operations of CORE_COMPUTE: arithmetic, jumps and branches. -/
def isCompute : CoreOp → Bool
  | .alu .. | .aluImm .. | .lui .. | .auipc .. | .jal .. | .jalr .. | .branch .. => true
  | _ => false

/-- What a compute operation does to the core's registers and PC (R40). -/
def computeCore (c : Core) (op : CoreOp) (len : Nat) : Core :=
  let k := slotAt c c.cur
  let nxt := k.pc + BitVec.ofNat 32 len
  match op with
  | .alu f rd rs1 rs2 => retireRd c len rd (aluEval f (xreg k rs1) (xreg k rs2))
  | .aluImm f rd rs1 imm => retireRd c len rd (aluEval f (xreg k rs1) imm)
  | .lui rd imm => retireRd c len rd imm
  | .auipc rd imm => retireRd c len rd (k.pc + imm)
  | .jal rd off => retireTo (updSlot c c.cur fun k => setX k rd nxt) (k.pc + off)
  | .jalr rd rs1 off => retireTo (updSlot c c.cur fun k => setX k rd nxt) ((xreg k rs1 + off) &&& ~~~1)
  | .branch f rs1 rs2 off => if branchTaken f (xreg k rs1) (xreg k rs2) then retireTo c (k.pc + off) else retire c len
  | _ => c

/-- Meaning of CORE_COMPUTE: the RV32 M Zba Zbb operations; an encoding the core does not have is ILLEGAL (R40, R53). -/
def execCoreCompute (t : Nat) (s : State) : Res :=
  .next (
    if tileActs s t && awake (tileOf s t).core then
      match fetched (tileOf s t).core with
      | some ⟨w, none, _⟩ => faultHere (countCycles s t) t 0x01 (BitVec.ofNat 32 w) false
      | _ => atOp s t isCompute fun s op len => updCore s t fun c => computeCore c op len
    else s)

/-- Meaning of FENCE: every core store has reached its bank already (R43). -/
def execFence (t : Nat) (s : State) : Res :=
  .next (atOp s t (fun op => op = .fence) fun s _ len => updCore s t fun c => retire c len)

/-- Meaning of FENCE_I: the fetch buffer is emptied (R43). -/
def execFenceI (t : Nat) (s : State) : Res :=
  .next (atOp s t (fun op => op = .fenceI) fun s _ len => updCore s t fun c => { retire c len with fetchBuf := [] })

/-- Meaning of WFI: a no-op (R41). -/
def execWfi (t : Nat) (s : State) : Res :=
  .next (atOp s t (fun op => op = .wfi) fun s _ len => updCore s t fun c => retire c len)

/-- The service request of R51: the caller is READY at the next instruction, T0 is entered with CODE ECALL. -/
def serviceRequest (c : Core) (len : Nat) : Core :=
  let n := c.cur
  let pc := (slotAt c n).pc
  enterT0 (updSlot c n fun k => { k with st := .ready, pc := pc + BitVec.ofNat 32 len }) n 0x09 0 pc 0 false

/-- Meaning of ECALL (R51): in T0 it is ILLEGAL. -/
def execEcall (t : Nat) (s : State) : Res :=
  .next (atOp s t (fun op => op = .ecall) fun s _ len =>
    if (tileOf s t).core.cur = 0 then faultHere s t 0x01 (wordHere s t) false
    else updCore s t fun c => serviceRequest c len)

/-- Meaning of EBREAK: the fault EBREAK (R76), or a service request in T1 to T3 under a debug unlock (R455). -/
def execEbreak (t : Nat) (s : State) : Res :=
  .next (atOp s t (fun op => op = .ebreak) fun s _ len =>
    if (tileOf s t).core.cur ≠ 0 && s.boot.perms.getLsbD 0 then updCore s t fun c => serviceRequest c len
    else faultHere s t 0x0A (curSlot s t).pc false)

/-- mret in T0 (R50): its saved PC and state return, then R46. A saved WAITING state returns as it was saved, although its channel may
have released or a wake condition come meanwhile: the spec is silent (DESIGN CHOICE, log 22). -/
def returnT0 (c : Core) : Core :=
  let st := if c.saved.st = .running then .ready else c.saved.st
  let c := updSlot c 0 fun k => { k with st := st, wait := c.saved.wait, pc := c.saved.pc }
  deliverPending (switchSlot { c with inEntry := false, minstret := c.minstret + 1 })

/-- Meaning of MRET (R46, R50): in T1 to T3 it is ILLEGAL (log 16). -/
def execMret (t : Nat) (s : State) : Res :=
  .next (atOp s t (fun op => op = .mret) fun s _ _ =>
    if (tileOf s t).core.cur = 0 then updCore s t returnT0 else faultHere s t 0x01 (wordHere s t) false)

end Sys2Proof.Machine
end

