-- ==== Sys2Proof/Machine/Csr.lean ====
section
/-! DEFINITION. The CSRs of a tile: the standard ones (R42) and Xnt's (R57 to R62), and the commands that read and write
them. -/

namespace Sys2Proof.Machine

/-- A word from a number. -/
def w32 (n : Nat) : Word := BitVec.ofNat 32 n

/-- The slot that the task registers act on (TASK_SEL). -/
def selSlot (c : Core) : TaskSlot := slotAt c c.taskSel

/-- A ring of a tile. -/
def ringAt (k : Tile) (n : Nat) : Ring := k.rings.getD n {}

/-- RING_CTL as it reads (R59). -/
def ringCtl (k : Tile) : Nat :=
  ((List.range 4).map fun n => b2n (ringAt k n).isOpen * 2 ^ n + b2n (ringAt k n).naked * 2 ^ (n + 4)).foldl (· + ·) 0

/-- RING_EPOCH as it reads. -/
def ringEpochs (k : Tile) : Nat :=
  ((List.range 4).map fun n => (ringAt k n).epoch * 2 ^ (8 * n)).foldl (· + ·) 0

/-- LAT_GEN as it reads. -/
def latGen (l : Lattice) : Nat :=
  b2n l.pend.isSome * 512 + b2n l.shadowValid * 256 + l.shadowGen * 16 + l.activeGen

/-- TILE_ID as it reads. -/
def tileId (c : Core) : Nat := match c.ltile with | some l => 2 ^ 31 + l | none => 0

/-- TASK_STAT as it reads. -/
def taskStat (c : Core) : Nat :=
  c.cur * 4096 + ((List.range 4).map fun n => slotCode (slotAt c n).st * 8 ^ n).foldl (· + ·) 0

/-- An Xnt CSR's value (R57 to R62); none where no table defines the address. -/
def xntRead (s : State) (t slot a : Nat) : Option Word :=
  let k := tileOf s t
  let c := k.core
  let l := k.lat
  match a with
  | 0x7C0 => some (w32 (tileId c))
  | 0x7C1 => some (w32 c.taskSel)
  | 0x7C2 => some (w32 ((selSlot c).base / 4))
  | 0x7C3 => some (w32 ((selSlot c).bound / 4))
  | 0x7C4 => some (w32 (slotCode (selSlot c).st))
  | 0x7C5 => some (w32 c.wdogPeriod)
  | 0x7C6 => some (w32 (taskStat c))
  | 0x7C7 => some (w32 s.fabric.devId)
  | 0x7C8 => some (w32 (ringAt k 0).base) | 0x7C9 => some (w32 (ringAt k 1).base)
  | 0x7CA => some (w32 (ringAt k 2).base) | 0x7CB => some (w32 (ringAt k 3).base)
  | 0x7CC => some (w32 (ringAt k 0).size) | 0x7CD => some (w32 (ringAt k 1).size)
  | 0x7CE => some (w32 (ringAt k 2).size) | 0x7CF => some (w32 (ringAt k 3).size)
  | 0x7D0 => some (w32 (ringAt k 0).head) | 0x7D1 => some (w32 (ringAt k 1).head)
  | 0x7D2 => some (w32 (ringAt k 2).head) | 0x7D3 => some (w32 (ringAt k 3).head)
  | 0x7D4 => some (w32 (ringAt k 0).tail) | 0x7D5 => some (w32 (ringAt k 1).tail)
  | 0x7D6 => some (w32 (ringAt k 2).tail) | 0x7D7 => some (w32 (ringAt k 3).tail)
  | 0x7D8 => some (w32 (ringCtl k))
  | 0x7D9 => some (w32 c.holdWindow)
  | 0x7DA => some (w32 (ringEpochs k))
  | 0x7DC => some (w32 c.tagmSel)
  | 0x7DD => some (c.tagm.getD c.tagmSel 0)
  | 0x7DF => some (w32 t)
  | 0x7E0 => some c.beamMask
  | 0x7E1 => some c.wakeCtl
  | 0x7E4 => some (w32 (c.stepCnt.toNat % 2 ^ 32))
  | 0x7E5 => some (slotAt c slot).stepLatch
  | 0x7E6 => some c.holdCnt
  | 0x7E7 => some c.stretchCnt
  | 0x7E8 => some (w32 (latGen l))
  | 0x7E9 => some (w32 c.genDiscard)
  | 0x7F0 => some (w32 (tileTb s t % 2 ^ 32))
  | 0x7F1 => some (slotAt c slot).tbLatch
  | 0x7F2 => some (w32 c.dirtySel)
  | 0x7F3 => some (w32 (c.dirty.toNat / 2 ^ (32 * c.dirtySel) % 2 ^ 32))
  | 0x7F4 => some c.fflagsX
  | 0x7F5 => some (w32 (c.spareRows.length * 65536 + c.eccCorr))
  | 0x7F8 => some c.faultCause
  | 0x7F9 => some c.faultAddr
  | _ => none

/-- The CSRs whose every field is RO or CONST, which also read at their address plus 0x800 (R57). -/
def readOnlyXnt (a : Nat) : Bool :=
  [0x7C0, 0x7C6, 0x7C7, 0x7D4, 0x7D5, 0x7D6, 0x7D7, 0x7DF, 0x7E4, 0x7E5, 0x7E6, 0x7E7, 0x7E8, 0x7E9, 0x7F0, 0x7F1,
   0x7F5, 0x7F9].contains a

/-- A standard CSR's value (R42); none is ILLEGAL. -/
def stdRead (s : State) (t a : Nat) : Option Word :=
  let c := (tileOf s t).core
  match a with
  | 0x301 => some 0x40001104
  | 0xF11 => some 0 | 0xF12 => some 0 | 0xF14 => some 0
  | 0xF13 => some 0xA1
  | 0x300 => some 0x1800
  | 0x304 => some 0 | 0x344 => some 0
  | 0x305 => some 0
  | 0x340 => some c.mscratch
  | 0x341 => some c.mepc
  | 0x342 => some c.mcause
  | 0x343 => some c.mtval
  | 0xB00 => some (w32 (c.mcycle.toNat % 2 ^ 32)) | 0xC00 => some (w32 (c.mcycle.toNat % 2 ^ 32))
  | 0xB80 => some (w32 (c.mcycle.toNat / 2 ^ 32))
  | 0xB02 => some (w32 (c.minstret.toNat % 2 ^ 32)) | 0xC02 => some (w32 (c.minstret.toNat % 2 ^ 32))
  | 0xB82 => some (w32 (c.minstret.toNat / 2 ^ 32))
  | 0xC01 => some (w32 (tileTb s t % 2 ^ 32))
  | 0xC81 => some (w32 (tileTb s t / 2 ^ 32))
  | _ => none

/-- The value a CSR address reads as, mirrors included (R57). -/
def csrRead (s : State) (t slot a : Nat) : Option Word :=
  if 0x7C0 ≤ a ∧ a ≤ 0x7FF then xntRead s t slot a
  else if 0xFC0 ≤ a ∧ a ≤ 0xFFF then (if readOnlyXnt (a - 0x800) then xntRead s t slot (a - 0x800) else none)
  else stdRead s t a

/-- A CSR instruction reads its CSR (Zicsr, R40): csrrw with rd = x0 does not. -/
def csrReads (f : CsrFn) (rd : Nat) : Bool := f ≠ .write || rd ≠ 0

/-- What a read of a low word latches for the reading slot (R58). -/
def csrLatch (s : State) (t slot a : Nat) : State :=
  if a = 0x7E4 ∨ a = 0xFE4 then
    updCore s t fun c => updSlot c slot fun k => { k with stepLatch := w32 (c.stepCnt.toNat / 2 ^ 32) }
  else if a = 0x7F0 ∨ a = 0xFF0 then
    let tb := tileTb s t
    updCore s t fun c => updSlot c slot fun k => { k with tbLatch := w32 (tb / 2 ^ 32) }
  else s

/-- CSRs that T1 to T3 may write (R47): TASK_SEL, TAGM_SEL, DIRTY_SEL, RING_HEAD, WAKE_CTL, FFLAGS_X, and the standard
ones but mepc, mcause, mtval, mscratch. -/
def userWritable (a : Nat) : Bool :=
  if 0x7C0 ≤ a ∧ a ≤ 0x7FF then
    [0x7C1, 0x7DC, 0x7F2, 0x7D0, 0x7D1, 0x7D2, 0x7D3, 0x7E1, 0x7F4].contains a
  else !([0x340, 0x341, 0x342, 0x343].contains a)

/-- TASK_BASE and TASK_BOUND written on the selected slot, T0's CONST; a bound above 65,536 words is ignored (R48, R49,
log 19). -/
def writeWindow (c : Core) (a v : Nat) : Core :=
  if c.taskSel = 0 then c
  else if a = 0x7C2 then updSlot c c.taskSel fun k => { k with base := bits v 15 4 * 64 }
  else if bits v 16 0 ≤ 65536 then updSlot c c.taskSel fun k => { k with bound := bits v 16 0 * 4 }
  else c

/-- Operations a slot has issued that have not completed (R52). -/
def slotBusy (k : Tile) (n : Nat) : Bool :=
  k.mxQ.any (·.slot = n) || k.pzQ.any (·.slot = n) || k.msg.sendQ.any (·.slot = n)
    || (k.msg.outPk.any fun o => match o.cpl with | some m => m.slot = n | none => false)
    || k.msg.track.any fun e => match e with | some x => x.slot = n | none => false

/-- Steps 1 and 2 of R52 on slot n: IDLE, its PC discarded, the rings closed, their epochs incremented; a fault of the
slot held pending is discarded with it (log 25). -/
def resetSlot (k : Tile) (n : Nat) : Tile :=
  let k := closeRings k
  { k with core := { updSlot k.core n (fun x => { x with st := .idle, pc := 0, wait := .nothing }) with
      pendingFaults := k.core.pendingFaults.filter (·.slot ≠ n) } }

/-- tk.reset and TASK_CTL.RST (R52): steps 1 and 2 once, then the instruction waits until the slot's operations have
completed, and retires. -/
def doReset (s : State) (t n : Nat) (done : Core → Core) : State :=
  let s := if (tileOf s t).core.resetting = some n then s
    else updTile s t fun k => let k := resetSlot k n; { k with core := { k.core with resetting := some n } }
  if slotBusy (tileOf s t) n then s
  else updCore s t fun c => done { c with resetting := none }

/-- A message held for a ring that closes gets its NAK at the next retry (R263). Opening and closing by RING_CTL (R59,
R263). -/
def writeOpen (k : Tile) (v : Nat) : Tile :=
  { k with
    rings := k.rings.mapIdx fun n r =>
      let r := if bit v (n + 4) then { r with naked := false } else r
      if bit v n then
        if !r.isOpen && r.size ≥ 256 && r.base + r.size ≤ spadBytes then { r with isOpen := true, head := 0, tail := 0 }
        else r
      else { r with isOpen := false }
    msg := { k.msg with ringPend := k.msg.ringPend.map fun p => { p with closed := p.closed || !bit v p.ring } } }

/-- RING_BASE, RING_SIZE: ignored while the ring is open (R59). -/
def writeRing (k : Tile) (n : Nat) (f : Ring → Ring) : Tile :=
  { k with rings := k.rings.modify n fun r => if r.isOpen then r else f r }

/-- RING_HEAD: a write at or past SIZE is ignored (R58 map). -/
def writeHead (k : Tile) (n v : Nat) : Tile :=
  { k with rings := k.rings.modify n fun r => if bits v 17 4 * 16 ≥ r.size then r else { r with head := bits v 17 4 * 16 } }

/-- RING_EPOCH: a byte written as 0 keeps its value. -/
def writeEpochs (k : Tile) (v : Nat) : Tile :=
  { k with rings := k.rings.mapIdx fun n r =>
      let e := v / 2 ^ (8 * n) % 256
      if e = 0 then r else { r with epoch := e } }

/-- BEAM_MASK: setting a bit makes the tile a participant with vote 0, clearing one makes the vote 1 (R269). -/
def writeMask (c : Core) (v : Word) : Core :=
  { c with beamMask := v, votes := c.votes &&& c.beamMask &&& v }

/-- DIRTY_VAL: T0 clears write-tracking bits of the selected group (R69). -/
def clearDirty (c : Core) (v : Nat) : Core :=
  { c with dirty := c.dirty &&& ~~~(BitVec.ofNat 256 (v * 2 ^ (32 * c.dirtySel))) }

/-- FAULT_CAUSE: writing 1 to VALID clears it, and a held fault follows (R50). -/
def clearCause (c : Core) (v : Nat) : Core :=
  if bit v 31 then deliverPending { c with faultCause := c.faultCause &&& ~~~(0x80000000 : Word) } else c

/-- A write of a standard CSR (R41, R42, log 15): mscratch, mepc, mcause, mtval and the machine counters take it, every
other ignores it. A write of minstret stands in place of the instruction's own count (Zicsr, R40): `retired` is its value before. -/
def stdWrite (c : Core) (retired : DWord) (a : Nat) (v : Word) : Core :=
  match a with
  | 0x340 => { c with mscratch := v }
  | 0x341 => { c with mepc := v &&& ~~~1 }
  | 0x342 => { c with mcause := v }
  | 0x343 => { c with mtval := v }
  | 0xB00 => { c with mcycle := BitVec.ofNat 64 (c.mcycle.toNat / 2 ^ 32 * 2 ^ 32 + v.toNat) }
  | 0xB80 => { c with mcycle := BitVec.ofNat 64 (v.toNat * 2 ^ 32 + c.mcycle.toNat % 2 ^ 32) }
  | 0xB02 => { c with minstret := BitVec.ofNat 64 (retired.toNat / 2 ^ 32 * 2 ^ 32 + v.toNat) }
  | 0xB82 => { c with minstret := BitVec.ofNat 64 (v.toNat * 2 ^ 32 + retired.toNat % 2 ^ 32) }
  | _ => c

/-- A write of an Xnt CSR; a field that is RO or CONST ignores it (R12, R57). TASK_CTL.RST is done apart. -/
def xntWrite (k : Tile) (a : Nat) (v : Word) : Tile :=
  let n := v.toNat
  let c := k.core
  let setC := fun c => { k with core := c }
  match a with
  | 0x7C1 => setC { c with taskSel := n % 4 }
  | 0x7C2 => setC (writeWindow c 0x7C2 n)
  | 0x7C3 => setC (writeWindow c 0x7C3 n)
  | 0x7C5 => setC { c with wdogPeriod := n % 2 ^ 24 }
  | 0x7C8 => writeRing k 0 fun r => { r with base := bits n 17 4 * 16 }
  | 0x7C9 => writeRing k 1 fun r => { r with base := bits n 17 4 * 16 }
  | 0x7CA => writeRing k 2 fun r => { r with base := bits n 17 4 * 16 }
  | 0x7CB => writeRing k 3 fun r => { r with base := bits n 17 4 * 16 }
  | 0x7CC => writeRing k 0 fun r => { r with size := bits n 18 4 * 16 }
  | 0x7CD => writeRing k 1 fun r => { r with size := bits n 18 4 * 16 }
  | 0x7CE => writeRing k 2 fun r => { r with size := bits n 18 4 * 16 }
  | 0x7CF => writeRing k 3 fun r => { r with size := bits n 18 4 * 16 }
  | 0x7D0 => writeHead k 0 n
  | 0x7D1 => writeHead k 1 n
  | 0x7D2 => writeHead k 2 n
  | 0x7D3 => writeHead k 3 n
  | 0x7D8 => writeOpen k n
  | 0x7D9 => setC { c with holdWindow := n % 65536 }
  | 0x7DA => writeEpochs k n
  | 0x7DC => setC { c with tagmSel := n % 8 }
  | 0x7DD => setC { c with tagm := c.tagm.set c.tagmSel (v &&& 0xC003FFFF) }
  | 0x7E0 => setC (writeMask c v)
  | 0x7E1 => setC { c with wakeCtl := v &&& 0x70F }
  | 0x7F2 => setC { c with dirtySel := n % 8 }
  | 0x7F3 => setC (clearDirty c n)
  | 0x7F4 => setC { c with fflagsX := c.fflagsX &&& ~~~v }
  | 0x7F8 => setC (clearCause c n)
  | _ => k

/-- The value a CSR instruction writes, if it writes (Zicsr: csrrs and csrrc with a zero source do not). -/
def csrNew (f : CsrFn) (old v : Word) (srcZero : Bool) : Option Word :=
  match f with
  | .write => some v
  | .set => if srcZero then none else some (old ||| v)
  | .clear => if srcZero then none else some (old &&& ~~~v)

/-- A CSR instruction (R42, R47, R57 to R59): ILLEGAL for an address without a CSR and for a write to a mirror, CFG_PRIV
for a write reserved to T0; rd reads the value before the write. -/
def doCsr (s : State) (t : Nat) (f : CsrFn) (rd src : Nat) (isImm : Bool) (a len : Nat) : State :=
  let c := (tileOf s t).core
  let v := if isImm then w32 src else xcur s t src
  let latch := fun (s : State) => if csrReads f rd then csrLatch s t c.cur a else s
  match csrRead s t c.cur a with
  | none => faultHere s t 0x01 (wordHere s t) false
  | some old =>
    match csrNew f old v (src = 0) with
    | none => updCore (latch s) t fun c => retireRd c len rd old
    | some new =>
      if 0xFC0 ≤ a ∧ a ≤ 0xFFF then faultHere s t 0x01 (wordHere s t) false
      else if c.cur ≠ 0 && !userWritable a then faultHere s t 0x08 (wordHere s t) false
      else
        let s := latch s
        if 0x7C0 ≤ a ∧ a ≤ 0x7FF then
          if a = 0x7C4 ∧ bit new.toNat 4 ∧ c.taskSel ≠ 0 then doReset s t c.taskSel fun c => retireRd c len rd old
          else if a = 0x7F8 then
            updCore s t fun c => clearCause (retireRd c len rd old) new.toNat
          else updCore (updTile s t fun k => xntWrite k a new) t fun c => retireRd c len rd old
        else updCore s t fun c => stdWrite (retireRd c len rd old) c.minstret a new

/-- A CSR instruction that `sel` chooses by its address and by the value it would write. -/
def csrCommand (s : State) (t : Nat) (sel : State → Nat → Option Word → Bool) : State :=
  atOp s t
    (fun op =>
      match op with
      | .csr f _ src isImm a =>
        let v := if isImm then w32 src else xcur s t src
        sel s a (csrNew f ((csrRead s t (tileOf s t).core.cur a).getD 0) v (src = 0))
      | _ => false)
    fun s op len =>
      match op with
      | .csr f rd src isImm a => doCsr s t f rd src isImm a len
      | _ => s

/-- Meaning of CSR_INSTRUCTION: any CSR instruction (R42, R47, R57). -/
def execCsrInstruction (t : Nat) (s : State) : Res := .next (csrCommand s t fun _ _ _ => true)

/-- Meaning of CSR_READ_LOW_LATCH: one on a low word of a pair, which latches the high word (R58). -/
def execCsrReadLowLatch (t : Nat) (s : State) : Res :=
  .next (csrCommand s t fun _ a _ => [0x7E4, 0x7F0, 0xFE4, 0xFF0].contains a)

/-- Meaning of TASK_WINDOW_WRITE: a write of TASK_BASE or TASK_BOUND (R48, R49). -/
def execTaskWindowWrite (t : Nat) (s : State) : Res :=
  .next (csrCommand s t fun _ a v => (a = 0x7C2 || a = 0x7C3) && v.isSome)

/-- Meaning of TASK_CTL_RST: a write of 1 to TASK_CTL.RST, which performs tk.reset on the selected slot (R52, R58). -/
def execTaskCtlRst (t : Nat) (s : State) : Res :=
  .next (csrCommand s t fun _ a v => a = 0x7C4 && (match v with | some v => bit v.toNat 4 | none => false))

/-- Meaning of RING_OPEN: a write of RING_CTL that names a closed ring OPEN (R59). -/
def execRingOpen (t : Nat) (s : State) : Res :=
  .next (csrCommand s t fun s a v => a = 0x7D8 && (match v with
    | some v => (List.range 4).any fun n => bit v.toNat n && !(ringAt (tileOf s t) n).isOpen
    | none => false))

/-- Meaning of RING_CLOSE: a write of RING_CTL that clears an open ring's OPEN bit (R263). -/
def execRingClose (t : Nat) (s : State) : Res :=
  .next (csrCommand s t fun s a v => a = 0x7D8 && (match v with
    | some v => (List.range 4).any fun n => !bit v.toNat n && (ringAt (tileOf s t) n).isOpen
    | none => false))

/-- Meaning of RING_HEAD_WRITE: a write of RING_HEADn, by which the consumer frees space (R261). -/
def execRingHeadWrite (t : Nat) (s : State) : Res :=
  .next (csrCommand s t fun _ a v => 0x7D0 ≤ a && a ≤ 0x7D3 && v.isSome)

/-- Meaning of RING_EPOCH_WRITE: it counts for the next check of every message (R263). -/
def execRingEpochWrite (t : Nat) (s : State) : Res := .next (csrCommand s t fun _ a v => a = 0x7DA && v.isSome)

/-- Meaning of BEAM_MASK_WRITE (R269). -/
def execBeamMaskWrite (t : Nat) (s : State) : Res := .next (csrCommand s t fun _ a v => a = 0x7E0 && v.isSome)

/-- Meaning of DIRTY_VAL_CLEAR (R69). -/
def execDirtyValClear (t : Nat) (s : State) : Res := .next (csrCommand s t fun _ a v => a = 0x7F3 && v.isSome)

/-- Meaning of FFLAGS_X_CLEAR (R103). -/
def execFflagsXClear (t : Nat) (s : State) : Res := .next (csrCommand s t fun _ a v => a = 0x7F4 && v.isSome)

/-- Meaning of FAULT_CAUSE_CLEAR (R50). -/
def execFaultCauseClear (t : Nat) (s : State) : Res := .next (csrCommand s t fun _ a v => a = 0x7F8 && v.isSome)

end Sys2Proof.Machine
end

