-- ==== Sys2Proof/Machine/Planes.lean ====
section
/-! DEFINITION. Configuration planes: the image (R165), its schedule (R169, R170), its checks (R168), the links it may use
(R159 to R161), and the swap trigger (R180, R182). -/

namespace Sys2Proof.Machine

/-! Bindings and places (R24, R302). -/

/-- A binding: logical slots and the regions that carry them. -/
abbrev Binding := List (Nat × Nat)

/-- The slot that a binding gives a region. -/
def slotOn (b : Binding) (p : Nat) : Option Nat := (b.find? fun e => e.2 = p).map (·.1)

/-- The region that a binding gives a slot. -/
def regionFor (b : Binding) (n : Nat) : Option Nat := (b.find? fun e => e.1 = n).map (·.2)

/-- The physical region beside a region: 0 N, 1 E, 2 S, 3 W. -/
def regionBeside (p d : Nat) : Option Nat :=
  match d with
  | 0 => if gy p = 0 then none else some (regionAt (gx p) (gy p - 1))
  | 1 => if gx p = 63 then none else some (regionAt (gx p + 1) (gy p))
  | 2 => if gy p = 71 then none else some (regionAt (gx p) (gy p + 1))
  | _ => if gx p = 0 then none else some (regionAt (gx p - 1) (gy p))

/-- A place on the wafer by region and logical position. -/
structure Place where
  region : Nat
  j : Nat
  r : Nat
  deriving DecidableEq, Repr

/-- The place one link leads to, with the region crossed into, if it is another (R160). -/
def placeNext (x : Place) (port : Nat) : Option Place :=
  let d := if port < 4 then 1 else 8
  match port % 4 with
  | 0 => if d ≤ x.r then some { x with r := x.r - d } else (regionBeside x.region 0).map fun p => { x with region := p, r := x.r + 8 - d }
  | 1 => if x.j + d < 10 then some { x with j := x.j + d }
    else (regionBeside x.region 1).map fun p => { x with region := p, j := x.j + d - 10 }
  | 2 => if x.r + d < 8 then some { x with r := x.r + d } else (regionBeside x.region 2).map fun p => { x with region := p, r := x.r + d - 8 }
  | _ => if d ≤ x.j then some { x with j := x.j - d }
    else (regionBeside x.region 3).map fun p => { x with region := p, j := x.j + 10 - d }

/-! Ports and links (R159, R160). Networks: 0 scalar, 1 vector, 2 control. -/

/-- Index of an input or output: scalar 0 to 7, vector 8 to 15, control 16 to 19. -/
def latIndex (net port : Nat) : Nat := net * 8 + port

/-- The port code that faces a port: N and S, E and W, NX and SX, EX and WX. -/
def facing (port : Nat) : Nat := port / 4 * 4 + (port + 2) % 4

/-- The logical tile a port leads to, within the 640 x 576 grid: neighbours, or 8 positions away (R160). -/
def portTarget (l port : Nat) : Option Nat :=
  let d := if port < 4 then 1 else 8
  let c := lcol l
  let r := lrow l
  match port % 4 with
  | 0 => if r < d then none else some (ltileNo c (r - d))
  | 1 => if c + d ≥ 640 then none else some (ltileNo (c + d) r)
  | 2 => if r + d ≥ 576 then none else some (ltileNo c (r + d))
  | _ => if c < d then none else some (ltileNo (c - d) r)

/-- The link a port leads into for the bundle of a tile's model slot: none outside the grid or the declared slots
(R161). -/
def linkTarget (s : State) (t port : Nat) : Option Nat :=
  match (tileOf s t).core.ltile with
  | none => none
  | some l =>
    let m := (regionOfNo s (regionOfTile t)).mslot
    (portTarget l port).bind fun l' =>
      if (modelSlot s m).binding.any (·.1 = slotOf l') then some l' else none

/-- The physical tile a port's link ends at: the place beside, in the region or over the crossing to the next, when that region
carries the same model slot. Between neighbours whose regions are not adjacent it is the first tile of the path that Periscope
places, whose own planes send the token on (R24, R160, R304). -/
def linkTile (s : State) (t port : Nat) : Option Nat :=
  match (tileOf s t).core.ltile with
  | none => none
  | some l =>
    let p := regionOfTile t
    (placeNext { region := p, j := lcol l % 10, r := lrow l % 8 } port).bind fun y =>
      if y.region = p || (modelSlot s (regionOfNo s p).mslot).binding.any (·.2 = y.region) then
        some (tileFor y.region (regionOfNo s y.region).repair (ltileAt 0 y.j y.r))
      else none

/-- A link passes a crossing: its ends lie in two regions (R160, R202). -/
def viaCrossing (t t' : Nat) : Bool := regionOfTile t ≠ regionOfTile t'

/-- A lattice queue. -/
def latQ (m : SMap (List Token)) (i : Nat) : List Token := smGetD m i []

/-- An output has room: the consumer's queue of 4, or the crossing's queue of 8, has a free entry for the producer's
credit (R161, R202). -/
def outRoom (s : State) (t net port : Nat) : Bool :=
  match linkTile s t port with
  | none => false
  | some t' =>
    let q := (tileOf s t').lat
    let i := latIndex net (facing port)
    if viaCrossing t t' then (latQ q.flight i).length + (latQ q.xq i).length < 8
    else (latQ q.flight i).length + (latQ q.inq i).length < 4

/-- A token put on an output's link (R160). -/
def emitToken (s : State) (t net port : Nat) (k : Token) : State :=
  match linkTile s t port with
  | none => s
  | some t' =>
    let i := latIndex net (facing port)
    updLat s t' fun l => { l with flight := smSet l.flight i (latQ l.flight i ++ [k]) }

/-! The image (R165). -/

/-- The length of a plane image (R165). -/
def planeLen (nroute nentry : Nat) : Nat := 64 + 8 * ((nroute + 1) / 2) + 8 * nentry

/-- A plane read from its image, with the base and bound of slot TASK (R165, R166). -/
def planeOf (img : List Byte) (base bound : Nat) : Plane :=
  let nroute := fld img 4 2
  let nentry := fld img 6 2
  let r0 := 0x40
  let e0 := r0 + 8 * ((nroute + 1) / 2)
  { ctl := w32 (fld img 0 4), stallLimit := w32 (fld img 8 4), steerCtl := w32 (fld img 0xC 4)
    steerAct := slice img 0x10 16
    steerOut := (List.range 4).map fun k => w32 (fld img (0x20 + 4 * k) 4)
    routes := (List.range nroute).map fun k => w32 (fld img (r0 + 4 * k) 4)
    entries := (List.range nentry).map fun k => BitVec.ofNat 64 (fld img (e0 + 8 * k) 8)
    base := base, bound := bound }

/-- Fields of a plane (R165, R178). -/
def plGen (p : Plane) : Nat := bits p.ctl.toNat 3 0
def plTask (p : Plane) : Nat := bits p.ctl.toNat 5 4
def plTrig (p : Plane) : Nat := bits p.ctl.toNat 9 8
def plTrigCh (p : Plane) : Nat := bits p.ctl.toNat 14 10
def plCut (p : Plane) : Bool := bit p.ctl.toNat 15
def steerEn (p : Plane) : Bool := bit p.steerCtl.toNat 31
def steerNet (p : Plane) : Nat := bits p.steerCtl.toNat 8 8
def steerDin (p : Plane) : Nat := bits p.steerCtl.toNat 7 5
def steerCin (p : Plane) : Nat := bits p.steerCtl.toNat 1 0
def outKind (p : Plane) (k : Nat) : Nat := bits (p.steerOut.getD k 0).toNat 31 30
def outPort (p : Plane) (k : Nat) : Nat := bits (p.steerOut.getD k 0).toNat 18 16
def outBase (p : Plane) (k : Nat) : Nat := bits (p.steerOut.getD k 0).toNat 15 0

/-- Fields of a route word (R165). -/
def rtNet (w : Word) : Nat := bits w.toNat 31 30
def rtOut (w : Word) : Nat := bits w.toNat 29 27
def rtIn (w : Word) : Nat := bits w.toNat 26 24

/-- Fields of a schedule entry (R169). -/
def eOp (e : DWord) : Nat := bits e.toNat 63 60
def eDelta (e : DWord) : Nat := bits e.toNat 59 48
def eNet (e : DWord) : Nat := bits e.toNat 47 46
def ePort (e : DWord) : Nat := bits e.toNat 45 43
def eAddr (e : DWord) : Nat := bits e.toNat 42 27
def eStride (e : DWord) : Int := toSigned 15 (bits e.toNat 14 0)
def eSaddr (e : DWord) : Nat := bits e.toNat 26 11
def eCh (e : DWord) : Nat := bits e.toNat 4 0
def eKind (e : DWord) : Nat := bits e.toNat 47 47
def eSel (e : DWord) : Nat := bits e.toNat 46 42
def eBudget (e : DWord) : Nat := bits e.toNat 41 26
def eLoopN (e : DWord) : Nat := bits e.toNat 11 0

/-- COUNT of a SEND, RECV or STEER entry (R169). -/
def eCount (e : DWord) : Nat := if eOp e = 4 then bits e.toNat 11 0 else bits e.toNat 26 15

/-- The bits of an entry that its OP does not list are 0, and no listed code is reserved (R169 to R173). -/
def entryOk (e : DWord) : Bool :=
  let n := e.toNat
  match eOp e with
  | 0 | 1 | 0xA => bits n 47 0 = 0
  | 2 | 3 => eNet e ≠ 3 && eCount e ≠ 0 && (eNet e ≠ 2 || ePort e < 4)
  | 4 => bits n 47 12 = 0 && eCount e ≠ 0
  | 5 => bits n 47 43 = 0 && bits n 26 0 = 0
  | 6 => bits n 47 43 = 0 && bits n 10 0 = 0
  | 7 => bits n 47 5 = 0
  | 8 => bits n 25 0 = 0 && (eKind e = 0 || eSel e < 4)
  | 9 => bits n 47 12 = 0 && eLoopN e ≠ 0
  | _ => false

/-! The schedule (R170). -/

/-- An entry with its first start step and the loops around it, innermost first: iteration length and count. -/
structure Leaf where
  e : DWord
  start : Nat
  loops : List (Nat × Nat)
  deriving DecidableEq, Repr

/-- The unfolding so far: the start of the entry before, entries outside loops, the open loops with their start, count and
entries, and whether a loop rule is broken (R168 case 5). -/
structure Unfold where
  cur : Nat := 0
  done : List Leaf := []
  frames : List (Nat × Nat × List Leaf) := []
  bad : Bool := false
  endAt : Option Nat := none
  deriving DecidableEq, Repr

/-- Entries added to the innermost open loop, or outside. -/
def addLeaves (u : Unfold) (ls : List Leaf) : Unfold :=
  match u.frames with
  | [] => { u with done := u.done ++ ls }
  | (a, n, b) :: fs => { u with frames := (a, n, b ++ ls) :: fs }

/-- One schedule entry taken in (R170). -/
def unfoldStep (u : Unfold) (e : DWord) : Unfold :=
  let at_ := u.cur + eDelta e
  let u := { u with cur := at_ }
  match eOp e with
  | 9 =>
    { u with frames := (at_, eLoopN e, []) :: u.frames, bad := u.bad || u.frames.length ≥ 4 }
  | 0xA =>
    match u.frames with
    | [] => { u with bad := true }
    | (a, n, body) :: fs =>
      let len := at_ - a
      let ls := body.map fun l => { l with loops := l.loops ++ [(len, n)] }
      { addLeaves { u with frames := fs } ls with cur := a + n * len, bad := u.bad || len = 0 }
  | 0 => { addLeaves u [{ e := e, start := at_, loops := [] }] with endAt := some at_ }
  | _ => addLeaves u [{ e := e, start := at_, loops := [] }]

/-- The schedule of a plane, unfolded. -/
def unfoldPlane (p : Plane) : Unfold := p.entries.foldl unfoldStep {}

/-- The section's length: the start step of END (R170). -/
def planeEnd (p : Plane) : Nat := (unfoldPlane p).endAt.getD 0

/-- Steps an entry is active on from a start step, 0 for those without an action (R170). -/
def activeLen (e : DWord) : Nat :=
  match eOp e with
  | 2 | 3 | 4 => eCount e
  | 5 | 6 | 7 => 1
  | 8 => eBudget e + 1
  | _ => 0

/-- The numbers k of the actions of an entry that fall on a step that lies d steps after its first start (R170). The
loops run outermost last. -/
def kAt (len : Nat) : List (Nat × Nat) → Nat → List Nat
  | [], d => if d < len then [d] else []
  | (t, n) :: rest, d =>
    let span := (rest.map fun x => x.1 * (x.2 - 1)).foldl (· + ·) 0 + len
    let hi := if t = 0 then n else min n (d / t + 1)
    let lo := if t = 0 then 0 else if d < span then 0 else (d - span) / t
    ((List.range (hi - lo)).map (· + lo)).flatMap fun i => if i * t ≤ d then kAt len rest (d - i * t) else []

/-- The actions of an entry at a step. -/
def leafAt (l : Leaf) (n : Nat) : List Nat :=
  if n < l.start then [] else kAt (activeLen l.e) l.loops.reverse (n - l.start)

/-- The last step an entry is active on. -/
def leafLast (l : Leaf) : Nat :=
  l.start + (l.loops.map fun x => x.1 * (x.2 - 1)).foldl (· + ·) 0 + (activeLen l.e - 1)

/-- The actions due at a step: entries with the number of the action, in entry order; a WAIT at its last step (R170). -/
def dueAt (p : Plane) (n : Nat) : List (DWord × Nat) :=
  (unfoldPlane p).done.flatMap fun l =>
    (leafAt l n).filterMap fun k => if eOp l.e = 8 && k ≠ eBudget l.e then none else some (l.e, k)

/-- Entry windows active at a step (R170). -/
def windowsAt (p : Plane) (n : Nat) : Nat :=
  ((unfoldPlane p).done.map fun l => (leafAt l n).length).foldl (· + ·) 0

/-- More than 8 windows are active in some step below n (R168 case 7). -/
def tooMany (p : Plane) : Nat → Bool
  | 0 => false
  | n + 1 => decide (windowsAt p n > 8) || tooMany p n

/-! The checks of R168. -/

/-- Words of a token (R171). -/
def tokenWords (net : Nat) : Nat := if net = 1 then 8 else 1

/-- Case 1: reserved encodings, GEN or TASK 0, a length that differs (R165, R168; non-zero reserved fields count, log
26). -/
def case1 (img : List Byte) (p : Plane) (len : Nat) : Bool :=
  let nroute := fld img 4 2
  let nentry := fld img 6 2
  nroute > 20 || nentry = 0 || nentry > 494 || len ≠ planeLen nroute nentry || len > 4096
  || plGen p = 0 || plTask p = 0 || plTrig p = 3 || bits p.ctl.toNat 31 16 ≠ 0 || bits p.ctl.toNat 7 6 ≠ 0
  || bits p.steerCtl.toNat 30 9 ≠ 0 || bits p.steerCtl.toNat 4 2 ≠ 0
  || (slice img 0x30 16).any (· ≠ 0)
  || (nroute % 2 = 1 && fld img (0x40 + 4 * nroute) 4 ≠ 0)
  || p.steerAct.any (fun b => bits b.toNat 6 2 ≠ 0)
  || p.steerOut.any (fun w => bits w.toNat 31 30 = 3 || bits w.toNat 29 19 ≠ 0)
  || (steerEn p && p.steerAct.any fun b => bit b.toNat 7 && outKind p (b.toNat % 4) = 0)
  || p.routes.any (fun w => rtNet w = 3 || bits w.toNat 23 0 ≠ 0 || (rtNet w = 2 && (rtOut w ≥ 4 || rtIn w ≥ 4)))
  || p.entries.any fun e => !entryOk e

/-- The entries of one OP. -/
def entriesOf (p : Plane) (op : Nat) : List DWord := p.entries.filter fun e => eOp e = op

/-- Lattice outputs of the steering unit, by index (R178). -/
def steerOuts (p : Plane) : List Nat :=
  if steerEn p then
    ((List.range 4).filter fun k => outKind p k = 1).map fun k => latIndex (steerNet p) (outPort p k)
  else []

/-- Inputs of the steering unit, by index (R178). -/
def steerIns (p : Plane) : List Nat :=
  if steerEn p then [latIndex (steerNet p) (steerDin p), latIndex 2 (steerCin p)] else []

/-- Case 2: an output driven twice, or an input claimed in two ways (R162); a STEER entry with EN = 0 (R179). Two STEER_OUTn that
name one lattice output are one driver, the steering unit, and no breach: the spec does not say (DESIGN CHOICE, log 100). -/
def case2 (p : Plane) : Bool :=
  let routeOuts := p.routes.map fun w => latIndex (rtNet w) (rtOut w)
  let routeIns := p.routes.map fun w => latIndex (rtNet w) (rtIn w)
  let sends := (entriesOf p 2).map fun e => latIndex (eNet e) (ePort e)
  let recvs := (entriesOf p 3).map fun e => latIndex (eNet e) (ePort e)
  !decide routeOuts.Nodup
  || routeOuts.any (fun o => sends.contains o || (steerOuts p).contains o)
  || sends.any (fun o => (steerOuts p).contains o)
  || routeIns.any (fun i => recvs.contains i || (steerIns p).contains i)
  || recvs.any (fun i => (steerIns p).contains i)
  || (!steerEn p && !(entriesOf p 4).isEmpty)

/-- Case 3: a port that leads nowhere (R161). -/
def case3 (s : State) (t : Nat) (p : Plane) : Bool :=
  let ports := p.routes.flatMap (fun w => [rtOut w, rtIn w])
    ++ (entriesOf p 2).map ePort ++ (entriesOf p 3).map ePort
    ++ (steerOuts p).map (· % 8) ++ (steerIns p).map (· % 8)
  ports.any fun port => (linkTarget s t port).isNone

/-- Words from a word offset are in the captured bound (R48, R166). -/
def wordsIn (p : Plane) (a : Int) (n : Nat) : Bool := 0 ≤ a && inBound p.base p.bound (a.toNat * 4) (n * 4)

/-- Case 4: ranges and alignment (R171, R178). -/
def case4 (p : Plane) : Bool :=
  ((entriesOf p 2 ++ entriesOf p 3).any fun e =>
    let w := tokenWords (eNet e)
    (w = 8 && (eAddr e % 8 ≠ 0 || eStride e % 8 ≠ 0))
    || !wordsIn p (eAddr e) w || !wordsIn p (eAddr e + (eCount e - 1 : Nat) * eStride e) w)
  || ((entriesOf p 5 ++ entriesOf p 6).any fun e => eAddr e % 16 ≠ 0 || !wordsIn p (eAddr e) 16)
  || ((entriesOf p 6).any fun e => eSaddr e % 2 ≠ 0 || !wordsIn p (eSaddr e) 2)
  || (steerEn p && (List.range 4).any fun k =>
      outKind p k = 2 && ((steerNet p = 1 && outBase p k % 8 ≠ 0) || !wordsIn p (outBase p k) (tokenWords (steerNet p))))

/-- Case 6: END missing, twice, not last, in a loop, or a due step at or after it (R168). -/
def case6 (p : Plane) : Bool :=
  let u := unfoldPlane p
  (entriesOf p 0).length ≠ 1 || (p.entries.getLast?.map eOp) ≠ some 0
  || (match u.endAt with
      | none => true
      | some e => !(u.done.any fun l => eOp l.e = 0) || u.done.any fun l => activeLen l.e ≠ 0 && leafLast l ≥ e)

/-- A generation g relative to the active one, modulo 16 (R177). -/
def genDiff (g a : Nat) : Nat := (g + 16 - a % 16) % 16

/-- Case 8: the generation is not newer than the active one (R168, R177). -/
def case8 (l : Lattice) (p : Plane) : Bool :=
  match l.active with
  | none => false
  | some _ => genDiff (plGen p) l.activeGen = 0 || genDiff (plGen p) l.activeGen ≥ 8

/-- The number of the case in which an image is refused, the lowest that applies; none accepts it (R168, log 26). -/
def planeCase (s : State) (t : Nat) (img : List Byte) (len : Nat) (p : Plane) : Option Nat :=
  let u := unfoldPlane p
  if case1 img p len then some 1
  else if case2 p then some 2
  else if case3 s t p then some 3
  else if case4 p then some 4
  else if u.bad || !u.frames.isEmpty then some 5
  else if case6 p then some 6
  else if tooMany p (planeEnd p) then some 7
  else if case8 (tileOf s t).lat p then some 8
  else none

/-- A plane image checked and taken as the shadow, or refused with its event (R167, R168). -/
def takePlane (s : State) (t len : Nat) (img : List Byte) : State :=
  let task := bits (fld img 0 4) 5 4
  let k := slotAt (tileOf s t).core task
  let p := planeOf img k.base k.bound
  match planeCase s t img len p with
  | none => updLat s t fun l => { l with shadow := some p, shadowValid := true, shadowGen := plGen p }
  | some n =>
    let s := updLat s t fun l => { l with shadowValid := false }
    let r := regionOfTile t
    let s := updCtr s r fun c => { c with refused := (c.refused + 1) % 2 ^ 32, refusedCase := n }
    logRegion s r 0x0300 1 r (n + (tileOf s t).core.ltile.getD 0 * 2 ^ 32)

/-- lt.ldcfg's load: SHADOW_VALID 0, then the image read (R167). -/
def loadPlane (s : State) (t off len : Nat) : State := takePlane s t len (readSpad s t off (min len 4096))

/-! Triggers (R180, R182). -/

/-- A swap trigger with its mode: no valid shadow gives the switch-without-plane event; a cut trigger turns a pending
drain into a cut; any other trigger during a pending swap is ignored. -/
def trigger (s : State) (t : Nat) (cut : Bool) : State :=
  let l := (tileOf s t).lat
  if !l.shadowValid then
    let r := regionOfTile t
    logRegion (updCtr s r fun c => { c with noPlane := (c.noPlane + 1) % 2 ^ 32 }) r 0x0301 1 r 0
  else
    match l.pend with
    | none => updLat s t fun l => { l with pend := some cut }
    | some false => if cut then updLat s t fun l => { l with pend := some true } else s
    | some true => s

end Sys2Proof.Machine
end

