-- ==== Sys2Proof/Machine/Beams.lean ====
section
/-! DEFINITION. The beam channels at the wafer root and between devices (R265 to R274, R350), with the cut of a snapshot
(R321 to R323) that a release of channel 30 is. -/

namespace Sys2Proof.Machine

/-- A region whose tiles see releases: powered and in service (R267). -/
def seesReleases (r : Region) : Bool :=
  (match r.st with | .healthy | .reserve | .bound | .dimmed => true | _ => false)

/-- A region that is not masked at its field node (R270). -/
def votes (r : Region) : Bool := match r.st with | .bound | .dimmed => true | _ => false

/-- Some tile of the wafer participates in a channel (R267): in a region that votes, or in a forced summary. -/
def hasParticipant (s : State) (ch : Nat) : Bool :=
  (s.tiles.any fun e => votes (regionOfNo s (regionOfTile e.1)) && e.2.core.beamMask.getLsbD ch)
  || s.regions.any fun e => e.2.st = .fenced && (e.2.forcedMask.getD 0).getLsbD ch

/-! What a bundle says of a tile (R307, R309). -/

/-- The task window of an extent's slot. -/
def extentWindow (g : Bundle) (e : Extent) : Option Window :=
  (progOf g e.ltile).bind fun x => x.tasks.find? fun w => w.slot = e.slot

/-- Where an extent begins in its tile's scratchpad. -/
def extentAt (g : Bundle) (e : Extent) : Nat := ((extentWindow g e).map fun w => w.base + e.dest).getD 0

/-- The blocks that lie wholly inside an extent. -/
def wholeBlocks (g : Bundle) (e : Extent) : List Nat :=
  let a := extentAt g e
  (blocksOf a e.len).filter fun b => a ≤ b * 1024 && (b + 1) * 1024 ≤ a + e.len

/-- The blocks of a logical tile that hold weights only: snapshots never copy them (R307). -/
def weightBlocks (g : Bundle) (l : Nat) : List Nat := (g.extents.filter fun e => e.ltile = l).flatMap (wholeBlocks g)

/-! Channel 30 (R321 to R323). -/

/-- The model slots of the snapshot in its first phase, with those that quiesce for a migration (R321, R331). -/
def quiescing (s : State) (m : Nat) : Bool :=
  s.recov.snapScope.contains m || s.regions.any fun e => e.2.mslot = m && e.2.migrating = 2

/-- A region holds back the release of channel 30 (R321): one of its tiles has not reached its quiesce point, or a packet lies
in it. -/
def blocksCut (s : State) (e : Nat × Region) : Bool :=
  quiescing s e.2.mslot && votes e.2
    && (((regionTiles e.1).any fun t => tileRuns s t && !(tileOf s t).snap.quiesced)
        || packetsIn s (regionTiles e.1) ≠ [])

/-- The blocks of a tile's context window (R322): 8 from its base. -/
def contextBlocks (g : Bundle) (l : Nat) : List Nat :=
  match (progOf g l).bind (·.context) with
  | some w => (List.range 8).map (w.base / 1024 + ·)
  | none => []

/-- The bundle of the model slot of a tile's region. -/
def bundleAt (s : State) (t : Nat) : Option Bundle := (modelSlot s (regionOfNo s (regionOfTile t)).mslot).bundle

/-- The records that a logical tile's log in companion memory holds. -/
def logOf (s : State) (l : Nat) : List CompRec := s.recov.compLog.filter fun r => r.ltile = l

/-- The pending set of a tile at the cut (R323, R325): its dirty blocks and the context's; with a companion destination every
0x2410.04-th record takes every block that holds no weights. -/
def pendingBlocks (s : State) (t : Nat) : List Nat :=
  let k := tileOf s t
  let m := (regionOfNo s (regionOfTile t)).mslot
  match bundleAt s t, k.core.ltile with
  | some g, some l =>
    if (modelSlot s m).shareComp && (logOf s l).length % max 1 (dnum s 0x2410 4 16) = 0 then
      (List.range 256).filter fun b => !(weightBlocks g l).contains b
    else (List.range 256).filter fun b => k.core.dirty.getLsbD b || (contextBlocks g l).contains b
  | _, _ => []

/-- Where block b of a logical tile stands in the stash window of its mirror tile: by its place among the blocks that hold no weights, as far as
the window reaches (R309; DESIGN CHOICE, log 66). -/
def stashPlace (s : State) (l b : Nat) : Option (Nat × Nat) :=
  match mirrorTile l, bundleOf s (slotOf l) with
  | some v, some g =>
    match (bundleOf s (slotOf v)).bind fun g' => (progOf g' v).bind (·.stash), carrier s v with
    | some w, some t =>
      let n := ((List.range b).filter fun x => !(weightBlocks g l).contains x).length
      if 1024 * (n + 1) ≤ w.len then some (t, w.base + 1024 * n) else none
    | _, _ => none
  | _, _ => none

/-- The staging of a logical tile applied into its stash (R324): the blocks, which also stand in the mirror tile's stash window, and the context
of the snapshot committed. -/
def applyStash (s : State) (l : Nat) : State :=
  match smGet s.recov.unapplied l with
  | none => s
  | some n =>
    let mine := s.recov.staging.filter fun e => e.1 / 256 = l
    let s := mine.foldl (fun s e => match stashPlace s l (e.1 % 256) with
      | some (t, a) => writeSpad s t a e.2
      | none => s) s
    { s with recov := { s.recov with
      unapplied := smDel s.recov.unapplied l
      staging := s.recov.staging.filter fun e => e.1 / 256 ≠ l
      stash := mine.foldl (fun m e => smSet m e.1 (n, e.2)) s.recov.stash
      stashCtx := match smGet s.recov.contexts l with
        | some k => smSet s.recov.stashCtx l (n, k)
        | none => s.recov.stashCtx } }

/-- The cut at a tile (R323): its pending set is latched and it resumes; a tile whose slot migrates stays (R331). -/
def cutTile (s : State) (t : Nat) : State :=
  let k := tileOf s t
  let m := (regionOfNo s (regionOfTile t)).mslot
  if !k.snap.quiesced || !s.recov.snapScope.contains m then s
  else
    let stays := s.regions.any fun e => e.2.mslot = m && e.2.migrating = 2
    updTile s t fun k => { k with snap := { k.snap with
      stopping := stays, quiesced := stays, copying := true, reported := false, unacked := 0
      pending := pendingBlocks s t } }

/-- Where a stream stands; one that is not admitted starts from its prompt (R332). -/
def streamCut (x : Stream) : StreamCut :=
  if x.st = .prefill || x.st = .decode then
    { st := x.st, generated := x.generated, injected := x.injected, flying := x.flying, inFlight := x.inFlight }
  else {}

/-- The cut (R323): every tile of the scope, the slots' cut TB, and where their streams stand (R332). -/
def snapshotCut (s : State) : State :=
  if s.recov.snapScope = [] then s
  else
    let scope := s.recov.snapScope
    let s := s.tiles.foldl (fun s e => cutTile s e.1) s
    let s := scope.foldl (fun s m => updModel s m fun x => { x with
      share := x.share.map fun y => (y.1, s.time.tb), cutEpoch := x.bindEpoch }) s
    { s with
      recov := { s.recov with snapScope := [], copied := 0 }
      steward := { s.steward with
        streams := s.steward.streams.map fun x =>
          if scope.contains x.slot then { x with atCut := streamCut x } else x } }

/-- A release of channel 30 ends the quiescing of the migrating slots (R331). -/
def migrationsQuiesced (s : State) : State :=
  { s with regions := s.regions.map fun e => (e.1, if e.2.migrating = 2 then { e.2 with migrating := 3 } else e.2) }

/-! Votes and releases (R266, R267). -/

/-- The AND of all tiles' votes on a channel, regions outside service masked and fenced ones forced (R267, R270, R271). -/
def localAnd (s : State) (ch : Nat) : Bool :=
  (s.tiles.all fun e => !votes (regionOfNo s (regionOfTile e.1)) || tileVote e.2.core ch)
  && (s.regions.all fun e => !(e.2.st = .fenced && (e.2.forcedMask.getD 0).getLsbD ch))
  && !(ch = 30 && s.regions.any (blocksCut s))

/-- The AND of the wafer. A release that still waits at regions whose clocks stand has not returned their votes to 0: no second one
follows it (log 40). -/
def waferAnd (s : State) (ch : Nat) : Bool :=
  localAnd s ch && !(s.regions.any fun e => e.2.relPending.any (·.1 = ch))

/-- The channel's condition on this wafer (R267): for channel 30 the tiles at a quiesce point take part whatever PART says. -/
def localUp (s : State) (ch : Nat) : Bool :=
  waferAnd s ch
  && (hasParticipant s ch || (ch = 30 && s.regions.any fun e => quiescing s e.2.mslot && votes e.2))

/-- What a release, or an event on channel 31, does to a tile's votes, flag and slots: every slot that it wakes is READY before the
core takes the lowest of them (R46, R54, R72, R267, R292). -/
def releaseCore (c : Core) (ch : Nat) (event : Bool) : Core :=
  let b := BitVec.ofNat 32 (2 ^ ch)
  let waits := c.slots.any fun k => k.st = .waiting && k.wait = .release ch
  let c1 := { c with
    votes := c.votes &&& ~~~b
    released := c.released ||| b
    slots := c.slots.map fun k =>
      if k.st = .waiting && k.wait = .release ch then { k with st := .ready, wait := .nothing } else k }
  let c2 := if event then (if c1.wakeCtl.getLsbD 10 then wakeCondition c1 3 else c1)
    else if c1.beamMask.getLsbD ch && c1.wakeCtl.getLsbD 8 then wakeCondition c1 0 else c1
  if waits then wakeCore c2 else c2

/-- A release at a tile, with the section switch it triggers (R180, R267). While SHADOW_VALID = 0 there is no TRIG_CH to name the
channel: the release is then no trigger and records no switch-without-plane event (DESIGN CHOICE, log 100). -/
def releaseTile (s : State) (t ch : Nat) (event : Bool) : State :=
  let s := updCore s t fun c => releaseCore c ch event
  let l := (tileOf s t).lat
  match l.shadow with
  | some p => if l.shadowValid && plTrig p = 1 && plTrigCh p = ch then trigger s t (plCut p) else s
  | none => s

/-- A release at a region: counted by its node, seen by Loupe and by every tile (R267, R296, R297). Where the region's clocks stand in
SAFE-HOLD it waits in the crossing until they run (R212, log 40). -/
def releaseRegion (s : State) (p ch : Nat) (ts : List Nat) (event : Bool) : State :=
  if !seesReleases (regionOfNo s p) then s
  else if (regionOfNo s p).gated then updRegion s p fun r => { r with relPending := r.relPending ++ [(ch, ts, event)] }
  else
    let s := updCtr s p fun c => { c with releases := c.releases.modify ch fun n => (n + 1) % 2 ^ 32 }
    let s := loupe s p 0xFF 0x02 ch ((regionOfNo s p).ctr.releases.getD ch 0)
    ts.foldl (fun s t => if bypassed s t then s else releaseTile s t ch event) s

/-- A release counted at the wafer root (R296). -/
def countRelease (s : State) (ch : Nat) : State :=
  { s with beam := { s.beam with releases := s.beam.releases.modify ch fun n => (n + 1) % 2 ^ 32 } }

/-- A release of the whole wafer (R267); that of channel 30 is the cut of a snapshot. -/
def releaseWafer (s : State) (ch : Nat) : State :=
  let s := countRelease s ch
  let s := s.regions.foldl (fun s e => releaseRegion s e.1 ch (regionTiles e.1) false) s
  if ch = 30 && !(s.regions.any fun e => e.2.relPending.any (·.1 = 30)) then migrationsQuiesced (snapshotCut s) else s

/-- The releases that waited for the clocks reach their regions (R212); one of channel 30 is the cut. -/
def deliverReleases (s : State) : State :=
  let cut := s.regions.any fun e => e.2.relPending.any (·.1 = 30)
  let due := s.regions.flatMap fun e => e.2.relPending.map fun x => (e.1, x)
  let s := { s with regions := s.regions.map fun e => (e.1, { e.2 with relPending := [] }) }
  let s := due.foldl (fun s e => releaseRegion s e.1 e.2.1 e.2.2.1 e.2.2.2) s
  if cut then migrationsQuiesced (snapshotCut s) else s

/-! Across devices (R273, R274, R350). -/

/-- Objects of 0x2500. -/
def systemScope (s : State) (ch : Nat) : Bool := bit (dnum s 0x2500 1 0) ch
def parentPort (s : State) : Nat := dnum s 0x2500 2 0xFF
def childPorts (s : State) : List Nat := (List.range 32).filter (bit (dnum s 0x2500 3 0))

/-- A BEAM block: up (0) or release (1), channel, count, state (R350). -/
def beamBlock (typ ch count st : Nat) : List Byte :=
  controlBlock 6 (natLe 1 typ ++ natLe 1 ch ++ natLe 1 count ++ natLe 1 st)

/-- The state that the device sends up: the AND of its own wafer, 1 where no tile of it participates (R266), and every child's, a child out
of service counting 0 (R273, R274). At a device without children its own wafer has to participate (R267; log 56). -/
def upState (s : State) (ch : Nat) : Bool :=
  (if childPorts s = [] then localUp s ch else waferAnd s ch)
  && (childPorts s).all fun p => inService s p && smGetD s.beam.childUp (p * 32 + ch) 0 = 1

/-- A release decided or received for a system-scope channel: acted on here and sent to the children (R273). -/
def releaseSystem (s : State) (ch count : Nat) : State :=
  let s := { s with beam := { s.beam with
    count := s.beam.count.set ch count, lastRelease := smSet s.beam.lastRelease ch count
    upSent := smSet s.beam.upSent ch 0, childUp := s.beam.childUp.filter fun e => e.1 % 32 ≠ ch } }
  let s := releaseWafer s ch
  ((childPorts s).filter (inService s)).foldl (fun s p => emit s (.block p (beamBlock 1 ch count 0))) s

/-- The decision on a system-scope channel: the root releases, any other device sends a changed up state to its parent. -/
def decideSystem (s : State) (ch : Nat) : State :=
  let up := upState s ch
  if parentPort s = 0xFF then
    if up then releaseSystem s ch ((s.beam.count.getD ch 0 + 1) % 256) else s
  else if b2n up ≠ smGetD s.beam.upSent ch 0 then
    emit { s with beam := { s.beam with upSent := smSet s.beam.upSent ch (b2n up) } }
      (.block (parentPort s) (beamBlock 0 ch (s.beam.count.getD ch 0) (b2n up)))
  else s

/-- The wafer roots work: they are part of the rim domain, which runs in SAFE-HOLD too (R25, R212). -/
def rootsRun (s : State) : Bool := rimRuns s

/-- Meaning of BEAM_RELEASE (R267, R273): channel 31 is never released by votes. -/
def execBeamRelease (ch : Nat) (s : State) : Res :=
  .next (if !rootsRun s || ch ≥ 31 then s
    else if systemScope s ch then decideSystem s ch
    else if localUp s ch then releaseWafer s ch
    else s)

/-- Every region of a field fenced with cause FIELD (R315). -/
def fenceField (s : State) (f : Nat) : State :=
  let s := (fieldRegions f).foldl (fun s p => regionFault s p 0x37 0 none 0) s
  let s := { s with recov := { s.recov with fieldFenced := smSet s.recov.fieldFenced f s.time.tb
                                            lastFieldFence := smSet s.recov.lastFieldFence f s.time.tb } }
  logEvent s 0x0201 2 f 0

/-- Meaning of BEAM_COPY_FAIL (R272): segment 0 to 47 joins a field node to the root, 48 + p a region to its field node. -/
def execBeamCopyFail (segment copy : Nat) (s : State) : Res :=
  .next (
    let bad := smGetD s.beam.failed segment []
    if !rimRuns s || segment ≥ 48 + regionCount || copy ≥ 3 || bad.contains copy then s
    else
      let s := { s with beam := { s.beam with
        failed := smSet s.beam.failed segment (bad ++ [copy]), copiesFailed := (s.beam.copiesFailed + 1) % 2 ^ 32 } }
      let s := logEvent s 0x0202 1 segment copy
      if bad.length ≠ 1 then s
      else if segment < 48 then fenceField s segment
      else regionFault s (segment - 48) 0x35 0 none 0)

/-- Meaning of BEAM_UP_FRAME_RX (R273): a child's up state, unless its count is one already acted on. -/
def execBeamUpFrameRx (p : Nat) (block : List Byte) (s : State) : Res :=
  .next (onBlock s p 6 block fun s =>
    let ch := fld block 2 1
    if fld block 1 1 = 0 && ch < 31 && systemScope s ch && (childPorts s).contains p
      && fld block 3 1 = s.beam.count.getD ch 0 then
      let s := { s with beam := { s.beam with childUp := smSet s.beam.childUp (p * 32 + ch) (fld block 4 1) } }
      if rootsRun s then decideSystem s ch else s
    else s)

/-- Meaning of BEAM_RELEASE_FRAME_RX (R273): the parent's release, acted on once. -/
def execBeamReleaseFrameRx (p : Nat) (block : List Byte) (s : State) : Res :=
  .next (onBlock s p 6 block fun s =>
    let ch := fld block 2 1
    if fld block 1 1 = 1 && ch < 31 && systemScope s ch && parentPort s = p && rootsRun s
      && fld block 3 1 ≠ s.beam.count.getD ch 0 then releaseSystem s ch (fld block 3 1)
    else s)

/-- Meaning of BEAM_BLOCK_REPEAT (R350): the current up block toward the parent, the last release block toward a child. -/
def execBeamBlockRepeat (p : Nat) (s : State) : Res :=
  .next (if !rimRuns s || p ≥ 32 || personality s p ≠ 1 || !inService s p then s else
    ((List.range 31).filter (systemScope s)).foldl (fun s ch =>
      let s := if parentPort s = p then
          emit s (.block p (beamBlock 0 ch (s.beam.count.getD ch 0) (smGetD s.beam.upSent ch 0)))
        else s
      match smGet s.beam.lastRelease ch with
      | some n => if (childPorts s).contains p then emit s (.block p (beamBlock 1 ch n 0)) else s
      | none => s) s)

end Sys2Proof.Machine
end

