-- ==== Sys2Proof/Machine/Functions.lean ====
section
/-! DEFINITION. The transcendental functions of Prism (R150, R151): an enclosure of the exact result in fixed point, the results
within the bound of R150, and the exact cases. Which of the results within the bound the W48 returns is a free value of the
function and its argument (log 10). -/

namespace Sys2Proof.Machine

/-- Fraction bits of the fixed-point numbers: binary64's arguments and results, and the reduction of its largest argument, need
fewer (log 10). -/
def fxBits : Nat := 1400

/-- One in fixed point. -/
def fxOne : Int := 2 ^ fxBits

/-- A product in fixed point. -/
def fxMul (a b : Int) : Int := a * b / 2 ^ fxBits

/-- A quotient in fixed point. -/
def fxDiv (a b : Int) : Int := a * 2 ^ fxBits / b

/-- e^z for |z| at most 1, by its series. -/
def fxExp (z : Int) : Int :=
  ((List.range 300).foldl (fun a k => (a.1 + a.2, fxMul a.2 z / ((k + 1 : Nat) : Int))) ((0, fxOne) : Int × Int)).1

/-- The inverse hyperbolic tangent of a y of at most 1/3, by its series. -/
def fxAtanh (y : Int) : Int :=
  ((List.range 460).foldl (fun a k => (a.1 + a.2 / ((2 * k + 1 : Nat) : Int), fxMul a.2 (fxMul y y))) ((0, y) : Int × Int)).1

/-- The natural logarithm of an m from 1 to 2. -/
def fxLn (m : Int) : Int := 2 * fxAtanh (fxDiv (m - fxOne) (m + fxOne))

/-- ln 2. -/
def fxLn2 : Int := fxLn (2 * fxOne)

/-- The arc tangent of 1/n, by its series. -/
def fxAtanInv (n : Int) : Int :=
  ((List.range 320).foldl (fun a k => (a.1 + a.2 / ((2 * k + 1 : Nat) : Int), -(a.2 / (n * n)))) ((0, fxOne / n) : Int × Int)).1

/-- Two pi. -/
def fxTwoPi : Int := 2 * (16 * fxAtanInv 5 - 4 * fxAtanInv 239)

/-- The sine (`odd`) or cosine of an r of at most pi, by its series. -/
def fxSinCos (odd : Bool) (r : Int) : Int :=
  ((List.range 340).foldl (fun a k =>
    let s := if decide (k % 2 = 1) = odd then (if k % 4 < 2 then a.2 else -a.2) else 0
    (a.1 + s, fxMul a.2 r / ((k + 1 : Nat) : Int))) ((0, fxOne) : Int × Int)).1

/-- A finite number's magnitude in fixed point, exact for every argument. -/
def fxOf (f : Fmt) (x : Nat) : Int :=
  if 0 ≤ f.exp x + fxBits then (f.man x : Int) * 2 ^ (f.exp x + fxBits).toNat else 0

/-- What the series above may be wrong by, in units of the last place. -/
def fxErr : Int := 2 ^ 40

/-- The integer part of an argument of exp2, and the enclosure of 2^(fraction); below 2^-1200 every result is 0 or the smallest
subnormal. -/
def encloseExp2 (f : Fmt) (x : Nat) : Int × Int × Int :=
  let v := if f.sign x then -fxOf f x else fxOf f x
  let n := v / fxOne
  let m := fxExp (fxMul (v % fxOne) fxLn2)
  (m - fxErr, m + fxErr, max n (-1200) - fxBits)

/-- log2 of a positive number: its exponent and the logarithm of its significand. -/
def encloseLog2 (f : Fmt) (x : Nat) : Int × Int × Int :=
  let l := (f.man x).log2
  let m := (f.man x : Int) * 2 ^ (fxBits - l)
  let v := fxDiv (fxLn m) fxLn2 + ((l : Int) + f.exp x) * fxOne
  (v - fxErr, v + fxErr, -fxBits)

/-- sin and cos of a positive number, reduced by the nearest multiple of two pi. -/
def encloseSinCos (odd : Bool) (f : Fmt) (x : Nat) : Int × Int × Int :=
  let n := (2 * fxOf f x + fxTwoPi) / (2 * fxTwoPi)
  let v := fxSinCos odd (fxOf f x - n * fxTwoPi)
  (v - fxErr * (n + 1), v + fxErr * (n + 1), -fxBits)

/-- tanh of a positive number x from w = e^(-2x): (1 - w) / (1 + w). -/
def encloseTanh (f : Fmt) (x : Nat) : Int × Int × Int :=
  let y := fxDiv (2 * fxOf f x) fxLn2
  let n := y / fxOne
  let w := if n > fxBits then 0 else fxExp (-(fxMul (y % fxOne) fxLn2)) / 2 ^ n.toNat
  let v := fxDiv (fxOne - w) (fxOne + w)
  (v - fxErr, v + fxErr, -fxBits)

/-- 1 / sqrt of a positive number. -/
def encloseRsqrt (f : Fmt) (x : Nat) : Int × Int × Int :=
  let odd := f.exp x % 2 ≠ 0
  let m := if odd then 2 * f.man x else f.man x
  let e := if odd then f.exp x - 1 else f.exp x
  let n := 2 ^ (2 * fxBits) / m
  let v : Int := (isqrt n (n.log2 / 2 + 1) 0 : Nat)
  (v - 4, v + 4, -(e / 2) - fxBits)

/-- The exact result of a TRANS function lies from the first to the second number, times 2 to the third. -/
def enclose (f : Fmt) (fn x : Nat) : Int × Int × Int :=
  match fn with
  | 0 => encloseExp2 f x
  | 1 => encloseLog2 f x
  | 2 => encloseSinCos true f x
  | 3 => encloseSinCos false f x
  | 4 => encloseTanh f x
  | _ => encloseRsqrt f x

/-- The number that a key of numKey orders. -/
def ofNumKey (f : Fmt) (k : Int) : Nat := if k < 0 then f.sbit + k.natAbs else k.toNat

/-- Keys of the least and the greatest finite number within the bound of R150, in ulps of the exact result. -/
def transRange (f : Fmt) (fn x : Nat) : Int × Int :=
  let b : Int := if fn = 2 || fn = 3 || fn = 4 then 2 else 1
  let (lo, hi, q) := enclose f fn x
  let ulp := max ((max lo.natAbs 1).log2 + q - f.mb) (f.emin - f.mb)
  let u := b * 2 ^ (ulp - q).toNat
  (max (numKey f (roundInt f 3 false (lo - u) q).1) (1 - (f.inf : Int)),
   min (numKey f (roundInt f 2 false (hi + u) q).1) (f.inf - 1))

/-- The W48's choice among the results within the bound (log 10), held between two keys. -/
def transNear (f : Fmt) (fn x : Nat) (least greatest : Int) : Nat :=
  let (a, b) := transRange f fn x
  let a := max a least
  let b := min b greatest
  ofNumKey f (a + ((Config.trans fn (decide (f = f64)) x % ((b - a + 1).toNat) : Nat) : Int))

/-- An integer as a finite float's value, when it is one. -/
def intValue (f : Fmt) (x : Nat) : Option Int :=
  let (n, inexact) := roundTo 1 (f.sign x) (f.man x) (f.exp x) 0
  if inexact then none else some (if f.sign x then -(n : Int) else n)

/-- The exponent of an exact power of two. -/
def powerOfTwo (f : Fmt) (x : Nat) : Option Int :=
  if f.isFinite x && !f.isZero x && f.man x = 2 ^ (f.man x).log2 then some ((f.man x).log2 + f.exp x) else none

/-- A function of R151 on an argument that no exact case names: a result within the bound of R150, and NX. -/
def transFree (f : Fmt) (fn x : Nat) : FR := (transNear f fn x (1 - (f.inf : Int)) (f.inf - 1), fNX)

/-- exp2 of a finite number that is no integer within the exponent range (R151): above the largest finite number, tiny, or between. -/
def exp2Free (f : Fmt) (x : Nat) : FR :=
  if numKey f (roundInt f 0 false (f.bias + 1) 0).1 ≤ numKey f x then (f.inf, fOF + fNX)
  else if numKey f x < numKey f (roundInt f 0 false f.emin 0).1 then (transNear f 0 x 0 (2 ^ f.mb - 1), fUF + fNX)
  else transFree f 0 x

/-- TRANS on a number or an infinity: the exact cases and flags of R151, else a result within the bound, under the symmetries of
R150. -/
def transNum (f : Fmt) (fn x : Nat) : FR :=
  match fn with
  | 0 =>
    if f.isInf x then (if f.sign x then 0 else f.inf, 0)
    else
      match intValue f x with
      | some n => if f.emin ≤ n && n ≤ f.bias then ((roundPack f 0 false 1 n).1, 0) else exp2Free f x
      | none => exp2Free f x
  | 1 =>
    if f.isZero x then (f.withSign true f.inf, fDZ)
    else if f.sign x then (f.dnan, fNV)
    else if f.isInf x then (x, 0)
    else match powerOfTwo f x with | some n => ((roundInt f 0 false n 0).1, 0) | none => transFree f 1 x
  | 2 =>
    if f.isInf x then (f.dnan, fNV) else if f.isZero x then (x, 0)
    else if f.sign x then (fNeg f (transFree f 2 (f.mag x)).1, fNX) else transFree f 2 x
  | 3 => if f.isInf x then (f.dnan, fNV) else if f.isZero x then (f.one, 0) else transFree f 3 (f.mag x)
  | 4 =>
    if f.isInf x then (f.withSign (f.sign x) f.one, 0) else if f.isZero x then (x, 0)
    else if f.sign x then (fNeg f (transFree f 4 (f.mag x)).1, fNX) else transFree f 4 x
  | _ =>
    if f.isZero x then (f.withSign (f.sign x) f.inf, fDZ)
    else if f.sign x then (f.dnan, fNV)
    else if f.isInf x then (0, 0)
    else match powerOfTwo f x with
      | some n => if n % 2 = 0 then ((roundPack f 0 false 1 (-(n / 2))).1, 0) else transFree f 5 x
      | none => transFree f 5 x

/-- TRANS (R150, R151). -/
def transEval (f : Fmt) (fn x : Nat) : FR :=
  match nanOf f [x] with
  | some r => r
  | none => transNum f fn x

end Sys2Proof.Machine
end

