-- ==== Sys2Proof/Machine/Matrix.lean ====
section
/-! DEFINITION. The matrix array (chapter 04): the MXD and its check, the exact sequences of R90, R108 and R125, the
folding and the cycles of R126. -/

namespace Sys2Proof.Machine

/-- Bytes of an operation's tile as the operation sees them: what an operation beside it wrote meanwhile may still be the
earlier value (R117, R142). -/
def readOp (s : State) (t : Nat) (op : EngOp) (a n : Nat) : List Byte :=
  (List.range n).map fun i => smGetD op.stale (a + i) (memRead s.mem (spad t (a + i)))

/-- Byte ranges as (start, length). -/
abbrev Range := Nat × Nat

/-- Two ranges share a byte. -/
def meets (a b : Range) : Bool := a.2 ≠ 0 && b.2 ≠ 0 && a.1 < b.1 + b.2 && b.1 < a.1 + a.2

/-- A range lies inside the bound captured at issue (R48). -/
def rangeOk (op : EngOp) (r : Range) : Bool := r.1 + r.2 ≤ op.bound && op.base + r.1 + r.2 ≤ spadBytes

/-! Fields of the MXD (R111, R112, R114). -/

def mxCtl (d : List Byte) : Nat := fld d 0 4
def mxM (d : List Byte) : Nat := fld d 4 2
def mxN (d : List Byte) : Nat := fld d 6 2
def mxK (d : List Byte) : Nat := fld d 8 2
def mxTag (d : List Byte) : Nat := fld d 0xA 2
def mxABase (d : List Byte) : Nat := fld d 0xC 4
def mxAStride (d : List Byte) : Nat := fld d 0x10 4
def mxBBase (d : List Byte) : Nat := fld d 0x14 4
def mxBStride (d : List Byte) : Nat := fld d 0x18 4
def mxCBase (d : List Byte) : Nat := fld d 0x1C 4
def mxCStride (d : List Byte) : Nat := fld d 0x20 4
def mxSaBase (d : List Byte) : Nat := fld d 0x24 4
def mxSbBase (d : List Byte) : Nat := fld d 0x28 4
def mxSaStride (d : List Byte) : Nat := fld d 0x2C 2
def mxSbStride (d : List Byte) : Nat := fld d 0x2E 2
def mxRsBase (d : List Byte) : Nat := fld d 0x30 4
def mxCsBase (d : List Byte) : Nat := fld d 0x34 4
def mxCpl (d : List Byte) : Nat := fld d 0x38 4
def mxCplCtl (d : List Byte) : Nat := fld d 0x3C 4
def mxWaitPrev (d : List Byte) : Bool := bit (mxCtl d) 31
def mxComplex (d : List Byte) : Bool := bit (mxCtl d) 30
def mxAcc (d : List Byte) : Bool := bit (mxCtl d) 29
def mxRsEn (d : List Byte) : Bool := bit (mxCtl d) 28
def mxCsEn (d : List Byte) : Bool := bit (mxCtl d) 27
def mxForm (d : List Byte) : Nat := bits (mxCtl d) 26 25
def mxRnd (d : List Byte) : Nat := bits (mxCtl d) 24 23
def mxPass (d : List Byte) : Nat := bits (mxCtl d) 22 20
def mxFmtC (d : List Byte) : Nat := bits (mxCtl d) 11 8
def mxFmtB (d : List Byte) : Nat := bits (mxCtl d) 7 4
def mxFmtA (d : List Byte) : Nat := bits (mxCtl d) 3 0
def mxCplEn (d : List Byte) : Bool := bit (mxCplCtl d) 31
def mxBeamEn (d : List Byte) : Bool := bit (mxCplCtl d) 30
def mxBeamCh (d : List Byte) : Nat := bits (mxCplCtl d) 4 0

/-- The formats agree with the mode (R92, R113). -/
def mxFormatsOk (d : List Byte) : Bool :=
  let a := mxFmtA d
  let b := mxFmtB d
  let c := mxFmtC d
  let c32 := c = 0 || c = 2 || c = 3
  match mxPass d with
  | 0 => isShort a && isShort b && pairOk a b && c32
  | 1 => a = 3 && b = 3 && c32
  | 2 => a = 2 && b = 2 && c32
  | 3 => a = 0 && b = 0 && c32
  | 4 => a = 1 && b = 1 && (c = 0 || c = 1)
  | _ => false

/-- A reserved field of the MXD is not 0 (R11, R111, R112, R114). -/
def mxReserved (d : List Byte) : Bool :=
  let high := fun n => n / 2 ^ 18 ≠ 0
  bits (mxCtl d) 19 12 ≠ 0 || bits (mxCplCtl d) 29 5 ≠ 0
  || high (mxABase d) || high (mxAStride d) || high (mxBBase d) || high (mxBStride d) || high (mxCBase d)
  || high (mxCStride d) || high (mxSaBase d) || high (mxSbBase d) || high (mxRsBase d) || high (mxCsBase d)
  || high (mxCpl d)
  || (mxPass d ≠ 0 && (mxSaBase d ≠ 0 || mxSbBase d ≠ 0 || mxSaStride d ≠ 0 || mxSbStride d ≠ 0))

/-- FIELD of R115. -/
def mxFieldBad (d : List Byte) : Bool :=
  mxReserved d || mxM d = 0 || mxN d = 0 || mxK d = 0 || !mxFormatsOk d
  || (mxPass d ≠ 0 && (mxRsEn d || mxCsEn d || mxForm d ≠ 0))
  || (mxPass d = 0 && mxComplex d)

/-- Bytes of an element, doubled for complex operands (R115). -/
def mxElem (d : List Byte) (code : Nat) : Nat := elemAlign code * (if mxComplex d then 2 else 1)

/-- Bytes of a row of A or a column of B (R115). -/
def mxRowLen (d : List Byte) (code : Nat) : Nat := rowBytes code (mxK d) * (if mxComplex d then 2 else 1)

/-- ALIGN of R115; a base that its enable leaves unused is not checked (log 30). -/
def mxAlignBad (d : List Byte) : Bool :=
  let a := mxElem d (mxFmtA d)
  let b := mxElem d (mxFmtB d)
  let c := mxElem d (mxFmtC d)
  mxABase d % a ≠ 0 || mxAStride d % a ≠ 0 || mxBBase d % b ≠ 0 || mxBStride d % b ≠ 0
  || mxCBase d % c ≠ 0 || mxCStride d % c ≠ 0
  || (mxRsEn d && mxRsBase d % 4 ≠ 0) || (mxCsEn d && mxCsBase d % 4 ≠ 0)
  || (mxCplEn d && mxCpl d % 8 ≠ 0)

/-- SHAPE of R115. -/
def mxShapeBad (d : List Byte) : Bool :=
  (mxPass d = 0 && (mxSaStride d < blocksAlong (mxK d) || mxSbStride d < blocksAlong (mxK d)))
  || (mxM d > 1 && mxCStride d < mxN d * mxElem d (mxFmtC d))

/-- The range of C (R115). -/
def mxRangeC (d : List Byte) : Range :=
  (mxCBase d, (mxM d - 1) * mxCStride d + mxN d * mxElem d (mxFmtC d))

/-- The ranges of A, B, the scale arrays and the channel-scale vectors (R115). -/
def mxReadRanges (d : List Byte) : List Range :=
  [(mxABase d, (mxM d - 1) * mxAStride d + mxRowLen d (mxFmtA d)),
   (mxBBase d, (mxN d - 1) * mxBStride d + mxRowLen d (mxFmtB d))]
  ++ (if mxPass d = 0 then
        [(mxSaBase d, (mxM d - 1) * mxSaStride d + blocksAlong (mxK d)),
         (mxSbBase d, (mxN d - 1) * mxSbStride d + blocksAlong (mxK d))] else [])
  ++ (if mxRsEn d then [(mxRsBase d, 4 * mxM d)] else [])
  ++ (if mxCsEn d then [(mxCsBase d, 4 * mxN d)] else [])

/-- The range of the completion record. -/
def mxCplRange (d : List Byte) : List Range := if mxCplEn d then [(mxCpl d, 8)] else []

/-- The status of R115: the first failure in the table's order. -/
def mxStatus (op : EngOp) : Nat :=
  let d := op.desc
  if mxFieldBad d then 1
  else if mxAlignBad d then 2
  else if mxShapeBad d then 3
  else if !(rangeOk op (mxRangeC d) && (mxReadRanges d ++ mxCplRange d).all (rangeOk op)) then 4
  else if (mxReadRanges d ++ mxCplRange d).any (meets (mxRangeC d)) then 5
  else 0

/-- The completion record can be written: enabled, and no failure in CPL_OFFSET itself (R116). The spec does not say more of that: here
it is a misaligned or out-of-bound CPL_OFFSET, whatever failure is reported first, and not an OVERLAP with the record
(DESIGN CHOICE, log 100). -/
def mxCplOk (op : EngOp) : Bool :=
  mxCplEn op.desc && mxCpl op.desc % 8 = 0 && mxCpl op.desc / 2 ^ 18 = 0 && rangeOk op (mxCpl op.desc, 8)

/-- The completion record of R116. -/
def cplRecord (cycles status tag : Nat) : Nat := min cycles 0xFFFFFFFF * 2 ^ 32 + status * 65536 + tag

/-! The arithmetic (R90, R108, R125). -/

/-- A running value and the flags so far. -/
abbrev Accum := Nat × Nat

/-- An accumulator step. -/
def accStep (f : Nat → FR) (a : Accum) : Accum :=
  let r := f a.1
  (r.1, orF a.2 r.2)

/-- acc plus the exact number v x 2^e, rounded once; an exact zero is +0 (R90). -/
def fAddExact (f : Fmt) (rnd acc : Nat) (v e : Int) : FR :=
  match nanOf f [acc] with
  | some r => r
  | none =>
    if f.isInf acc then (acc, 0)
    else
      let q := min (f.exp acc) e
      roundInt f rnd (zeroSign rnd (f.sign acc) (v < 0))
        (scaledInt (f.sign acc) (f.man acc) (f.exp acc) q + v * (2 ^ (e - q).toNat : Nat)) q

/-- The exact sum of a block: 32 products, padding zero, in units of 2^-32 (R88, R90). -/
def blockSum (rowA rowB : List Byte) (fa fb K b : Nat) : Int :=
  (List.range 32).foldl (fun z i =>
    let k := 32 * b + i
    if k < K then z + shortScaled fa (codeAt rowA fa k) * shortScaled fb (codeAt rowB fb k) else z) 0

/-- One block of R90. -/
def blockStep (rnd : Nat) (rowA rowB : List Byte) (fa fb K b sa sb : Nat) (a : Accum) : Accum :=
  if sa = 0xFF || sb = 0xFF then (f32.dnan, a.2)
  else accStep (fun x => fAddExact f32 rnd x (blockSum rowA rowB fa fb K b) ((sa : Int) + sb - 254 - 32)) a

/-- A C element as stored, converted to the accumulator's format (R90, R98, R108). -/
def loadC (acc : Fmt) (code n : Nat) : FR :=
  match longFmt code with
  | some f => loadLong f acc n
  | none => (n, 0)

/-- The accumulator converted to the format of C (R90, R99, R108). -/
def storeC (acc : Fmt) (rnd code : Nat) (a : Accum) : Accum :=
  match longFmt code with
  | some f => if f = acc then a else accStep (fun x => fConvert acc f rnd x) a
  | none => a

/-- One output of block mode (R90). -/
def blockElem (rnd : Nat) (rowA rowB sa sb : List Byte) (fa fb fc K : Nat) (rs cs : Option Nat) (c : Option Nat) : Accum :=
  let scaled := rs.isSome || cs.isSome
  let start : Accum := match c with
    | some n => if scaled then (0, 0) else loadC f32 fc n
    | none => (0, 0)
  let a := (List.range (blocksAlong K)).foldl
    (fun a b => blockStep rnd rowA rowB fa fb K b (sa.getD b 0).toNat (sb.getD b 0).toNat a) start
  let a := match rs with | some r => accStep (fun x => fMul f32 rnd x r) a | none => a
  let a := match cs with | some r => accStep (fun x => fMul f32 rnd x r) a | none => a
  let a := match c with
    | some n =>
      if scaled then
        let l := loadC f32 fc n
        accStep (fun x => fAdd f32 rnd x l.1) (a.1, orF a.2 l.2)
      else a
    | none => a
  storeC f32 rnd fc a

/-- An operand of pass mode at its entry (R98, R108). -/
def entry (acc : Fmt) (code n : Nat) : FR := loadC acc code n

/-- One fusedMultiplyAdd step of R108 with the flags of its operands' entry. -/
def fmaStep (f : Fmt) (rnd : Nat) (x y : FR) (a : Accum) : Accum :=
  accStep (fun z => fFma f rnd x.1 y.1 z) (a.1, orF a.2 (orF x.2 y.2))

/-- The chain of R108 for one real output. -/
def passElem (f : Fmt) (rnd : Nat) (rowA rowB : List Byte) (code K : Nat) (start : Accum) : Accum :=
  (List.range K).foldl
    (fun a k => fmaStep f rnd (entry f code (codeAt rowA code k)) (entry f code (codeAt rowB code k)) a) start

/-- The four steps of R125 for one k. -/
def complexStep (f : Fmt) (rnd : Nat) (ar ai br bi : FR) (a : Accum × Accum) : Accum × Accum :=
  let re := fmaStep f rnd ar br a.1
  let re := fmaStep f rnd (fNeg f ai.1, ai.2) bi re
  let im := fmaStep f rnd ar bi a.2
  let im := fmaStep f rnd ai br im
  (re, im)

/-- The chain of R125 for one complex output. -/
def complexElem (f : Fmt) (rnd : Nat) (rowA rowB : List Byte) (code K : Nat) (start : Accum × Accum) : Accum × Accum :=
  (List.range K).foldl (fun a k =>
    complexStep f rnd (entry f code (codeAt rowA code (2 * k))) (entry f code (codeAt rowA code (2 * k + 1)))
      (entry f code (codeAt rowB code (2 * k))) (entry f code (codeAt rowB code (2 * k + 1))) a) start

/-- The accumulator's format (R113). -/
def mxAccFmt (d : List Byte) : Fmt := if mxPass d = 4 then f64 else f32

/-- One element of C: its bytes and flags. -/
def mxElement (s : State) (t : Nat) (op : EngOp) (m n : Nat) : List Byte × Nat :=
  let d := op.desc
  let fc := mxFmtC d
  let size := widthOf fc / 8
  let acc := mxAccFmt d
  let rowA := readOp s t op (op.base + mxABase d + m * mxAStride d) (mxRowLen d (mxFmtA d))
  let rowB := readOp s t op (op.base + mxBBase d + n * mxBStride d) (mxRowLen d (mxFmtB d))
  let cAt := op.base + mxCBase d + m * mxCStride d + n * mxElem d fc
  let old := fun i => leNat (readOp s t op (cAt + i * size) size)
  let start := fun i => if mxAcc d then loadC acc fc (old i) else (0, 0)
  if mxPass d = 0 then
    let nb := blocksAlong (mxK d)
    let one := fun en base i => if en then some (leNat (readOp s t op (op.base + base + 4 * i) 4)) else none
    let r := blockElem (mxRnd d) rowA rowB
      (readOp s t op (op.base + mxSaBase d + m * mxSaStride d) nb)
      (readOp s t op (op.base + mxSbBase d + n * mxSbStride d) nb)
      (mxFmtA d) (mxFmtB d) fc (mxK d) (one (mxRsEn d) (mxRsBase d) m) (one (mxCsEn d) (mxCsBase d) n)
      (if mxAcc d then some (old 0) else none)
    (natLe size r.1, r.2)
  else if mxComplex d then
    let r := complexElem acc (mxRnd d) rowA rowB (mxFmtA d) (mxK d) (start 0, start 1)
    let re := storeC acc (mxRnd d) fc r.1
    let im := storeC acc (mxRnd d) fc r.2
    (natLe size re.1 ++ natLe size im.1, orF re.2 im.2)
  else
    let r := storeC acc (mxRnd d) fc (passElem acc (mxRnd d) rowA rowB (mxFmtA d) (mxK d) (start 0))
    (natLe size r.1, r.2)

/-- Row m of C: its bytes and flags. -/
def mxRow (s : State) (t : Nat) (op : EngOp) (m : Nat) : List Byte × Nat :=
  (List.range (mxN op.desc)).foldl (fun x n =>
    let e := mxElement s t op m n
    (x.1 ++ e.1, orF x.2 e.2)) ([], 0)

/-- The writes of an operation, by absolute offset, and its flags (R121: the order of the folds changes no bit). -/
def mxResult (s : State) (t : Nat) (op : EngOp) : List (Nat × List Byte) × Nat :=
  (List.range (mxM op.desc)).foldl (fun x m =>
    let r := mxRow s t op m
    (x.1 ++ [(op.base + mxCBase op.desc + m * mxCStride op.desc, r.1)], orF x.2 r.2)) ([], 0)

/-! Folding and cycles (R120, R122, R124, R126). -/

/-- Ceiling of a quotient. -/
def ceilDiv (a b : Nat) : Nat := (a + b - 1) / b

/-- Rows and columns of a form (R120); form 0 is none. -/
def formDims (form : Nat) : Nat × Nat :=
  match form with | 1 => (16, 16) | 2 => (4, 64) | _ => (1, 256)

/-- Body cycles of a fold in block mode (R122). -/
def blockBody (d : List Byte) (form : Nat) : Nat :=
  blocksAlong (mxK d) * (if form = 3 && widthOf (mxFmtB d) = 8 then 34 else 32)

/-- Folds of a form. -/
def foldsOf (d : List Byte) (r c : Nat) : Nat := ceilDiv (mxM d) r * ceilDiv (mxN d) c

/-- Cost of a form (R120). -/
def formCost (d : List Byte) (form : Nat) : Nat :=
  foldsOf d (formDims form).1 (formDims form).2 * blockBody d form

/-- The form that runs: the one forced, or the first of least cost (R120). -/
def chosenForm (d : List Byte) : Nat :=
  if mxForm d ≠ 0 then mxForm d
  else if formCost d 1 ≤ formCost d 2 && formCost d 1 ≤ formCost d 3 then 1
  else if formCost d 2 ≤ formCost d 3 then 2 else 3

/-- Slice passes of a mode (R113). -/
def passCount (pass : Nat) : Nat :=
  match pass with | 2 => 4 | 3 => 9 | 4 => 49 | _ => 1

/-- The operand buffer may be empty (R123): a stream of 8-bit B in the 1 x 256 form; no other form empties it. -/
def mxStarves (d : List Byte) : Bool := mxPass d = 0 && chosenForm d = 3 && widthOf (mxFmtB d) = 8

/-- Folds, body, fill and drain of an operation (R122, R124, R126). -/
def mxShapeOf (d : List Byte) : Nat × Nat × Nat × Nat :=
  if mxPass d = 0 then
    let form := chosenForm d
    let drains := b2n (mxRsEn d) + b2n (mxCsEn d) + b2n (mxAcc d && (mxRsEn d || mxCsEn d))
    (foldsOf d (formDims form).1 (formDims form).2, blockBody d form,
      (match form with | 1 => 18 | 2 => 12 | _ => 10), if drains = 3 then 24 else 16)
  else
    let lanes := if mxComplex d then 16 else 32
    let r := if mxM d = 1 then 1 else 2
    let p := max 8 (passCount (mxPass d))
    (foldsOf d r (lanes / r), ceilDiv (mxK d * p) (if mxComplex d then 4 else 8), 24,
      if mxFmtC d = 1 then 4 else 2)

/-- Body cycles of an operation (R129). -/
def mxBodyCycles (d : List Byte) : Nat := (mxShapeOf d).1 * (mxShapeOf d).2.1

/-- Cycles from the first fill cycle to completion, running alone without holds (R126). -/
def mxCycles (d : List Byte) : Nat :=
  let (f, b, fill, drain) := mxShapeOf d
  fill + (f - 1) * max b drain + b + drain

end Sys2Proof.Machine
end

