-- ==== Sys2Proof/Machine/Prism.lean ====
section
/-! DEFINITION. Prism and the reduction unit (chapter 05): the PZD and its check, the chain rules, and what a chain
computes row by row. -/

namespace Sys2Proof.Machine

/-! Stage words (R136, R137). -/

/-- A stage of a chain. -/
inductive Stage
  | load (fmt dest kind base : Nat)
  | convert (tfmt dest src irnd : Nat) (exact : Bool)
  | arith (op dest a b c : Nat) (pred : Bool)
  | trans (func dest src : Nat)
  | cmpsel (op dest a b : Nat) (pout : Bool) (pcomb : Nat)
  | compress (cnt : Nat)
  | expand (dest fill base : Nat)
  | rtap (op src aux : Nat) (pred : Bool) (base : Nat)
  | store (fmt src kind : Nat) (pred : Bool) (base : Nat)
  deriving DecidableEq, Repr

/-- The compute format is a float. -/
def isFloatFmt (cf : Nat) : Bool := cf = 0 || cf = 1

/-- The float format of a compute format; binary32's for the integers, where nothing uses it. -/
def cfFmt (cf : Nat) : Fmt := if cf = 1 then f64 else f32

/-- A CMPSEL predicate (R147). -/
def isPredicate (op : Nat) : Bool := op ≤ 0x20

/-- ARITH operations of the float and of the integer set (R146). -/
def arithFloat (op : Nat) : Bool := op ≤ 0x15
def arithInt (op : Nat) : Bool := op ≤ 2 || (0x16 ≤ op && op ≤ 0x1A)

/-- CMPSEL operations of the float and of the integer set (R147). -/
def cmpFloat (op : Nat) : Bool := op ≤ 0x2B
def cmpInt (op : Nat) : Bool := op ≤ 5 || op = 0x23 || op = 0x24 || op = 0x25

/-- A stage word decoded; none for a reserved encoding (R136, R137). A selector that an operation does not read is not tested (log 31).
Code 0x00 is "no stage": the spec does not say what it is below NSTAGE; it is taken as a reserved encoding there (DESIGN CHOICE,
log 100). -/
def stageOf (w : Nat) : Option Stage :=
  let ok := fun (c : Bool) (x : Stage) => if c then some x else none
  match bits w 31 27 with
  | 1 =>
    let fmt := bits w 26 23
    let dest := bits w 22 21
    let kind := bits w 20 19
    let base := bits w 17 0
    ok (!bit w 18 && fmt ≤ 0xC && !(kind = 1 && (fmt ≠ 0 || dest ≠ 0)) && !(kind = 2 && (fmt ≠ 0 || base ≠ 0)))
      (.load fmt dest kind base)
  | 2 =>
    ok (bits w 14 0 = 0 && bits w 26 23 ≤ 0xC && bits w 18 16 ≤ 4)
      (.convert (bits w 26 23) (bits w 22 21) (bits w 20 19) (bits w 18 16) (bit w 15))
  | 3 =>
    ok (bits w 9 0 = 0 && bits w 26 22 ≤ 0x1A)
      (.arith (bits w 26 22) (bits w 21 20) (bits w 19 17) (bits w 16 14) (bits w 13 11) (bit w 10))
  | 4 => ok (bits w 18 0 = 0 && bits w 26 24 ≤ 5) (.trans (bits w 26 24) (bits w 23 22) (bits w 21 19))
  | 5 =>
    ok (bits w 9 0 = 0 && bits w 26 21 ≤ 0x2B && bits w 11 10 ≠ 3 && bit w 12 = isPredicate (bits w 26 21))
      (.cmpsel (bits w 26 21) (bits w 20 19) (bits w 18 16) (bits w 15 13) (bit w 12) (bits w 11 10))
  | 6 => ok (bits w 26 18 = 0) (.compress (bits w 17 0))
  | 7 => ok (bits w 21 18 = 0) (.expand (bits w 26 25) (bits w 24 22) (bits w 17 0))
  | 8 =>
    ok (!bit w 18 && bits w 26 24 ≤ 4 && (bits w 26 24 = 4 || bits w 21 20 = 0))
      (.rtap (bits w 26 24) (bits w 23 22) (bits w 21 20) (bit w 19) (bits w 17 0))
  | 9 =>
    let kind := bits w 20 19
    ok (kind ≤ 1 && bits w 26 23 ≤ 0xC && !(kind = 1 && (bits w 26 23 ≠ 0 || bits w 22 21 ≠ 0)))
      (.store (bits w 26 23) (bits w 22 21) kind (bit w 18) (bits w 17 0))
  | _ => none

/-! Fields of the PZD (R134, R135). -/

def pzCtl (d : List Byte) : Nat := fld d 0 4
def pzLen (d : List Byte) : Nat := fld d 4 2
def pzRows (d : List Byte) : Nat := fld d 6 2
def pzTag (d : List Byte) : Nat := fld d 8 2
def pzCpl (d : List Byte) : Nat := fld d 0xA 2 * 8
def pzStride (d : List Byte) (n : Nat) : Nat := if n < 6 then fld d (0xC + 2 * n) 2 * 4 else 0
def pzSlBase (d : List Byte) : Nat := fld d 0x18 2 * 4
def pzSlStride (d : List Byte) : Nat := fld d 0x1A 2
def pzSsBase (d : List Byte) : Nat := fld d 0x1C 2 * 4
def pzSsStride (d : List Byte) : Nat := fld d 0x1E 2
def pzWord (d : List Byte) (i : Nat) : Nat := fld d (0x20 + 4 * i) 4
def pzWaitPrev (d : List Byte) : Bool := bit (pzCtl d) 31
def pzCf (d : List Byte) : Nat := bits (pzCtl d) 27 24
def pzRnd (d : List Byte) : Nat := bits (pzCtl d) 23 22
def pzNanMode (d : List Byte) : Bool := bit (pzCtl d) 21
def pzGiven (d : List Byte) : Option Nat := if bit (pzCtl d) 20 then some (bits (pzCtl d) 19 12) else none
def pzCplEn (d : List Byte) : Bool := bit (pzCtl d) 11
def pzBeamEn (d : List Byte) : Bool := bit (pzCtl d) 10
def pzBeamCh (d : List Byte) : Nat := bits (pzCtl d) 9 5
def pzN (d : List Byte) : Nat := bits (pzCtl d) 3 0

/-- Bytes of an element of the compute format. -/
def cfSize (cf : Nat) : Nat := if cf = 1 then 8 else 4

/-- Elements of a beat (R131). -/
def beatSize (cf : Nat) : Nat := if cf = 1 then 8 else 16

/-- The chain of a PZD; none where a stage word is reserved. -/
def pzChain (d : List Byte) : Option (List Stage) := (List.range (pzN d)).mapM fun i => stageOf (pzWord d i)

/-- A selector that an operation reads is reserved: 5 in binary64 (R133). -/
def badSel (cf sel : Nat) : Bool := cf = 1 && sel = 5

/-- How many of a, b, c an ARITH operation reads (R146). -/
def arithArity (op : Nat) : Nat :=
  if op = 3 then 3
  else if op ≤ 2 || op = 4 || op = 6 || op = 0x0F || op = 0x14 || (0x16 ≤ op && op ≤ 0x1A) then 2
  else if op = 0x15 then 0 else 1

/-- How many of a, b a CMPSEL operation reads (R147). -/
def cmpArity (op : Nat) : Nat :=
  if (0x16 ≤ op && op ≤ 0x1E) || op = 0x21 then 1 else if op = 0x22 then 0 else 2

/-- The selectors a stage reads. -/
def selsOf : Stage → List Nat
  | .arith op _ a b c _ => [a, b, c].take (arithArity op)
  | .trans _ _ x => [x]
  | .cmpsel op _ a b _ _ => [a, b].take (cmpArity op)
  | .expand _ f _ => [f]
  | _ => []

/-- An operation code that the compute format reserves (R146, R147). -/
def opReserved (cf : Nat) : Stage → Bool
  | .arith op .. => !(if isFloatFmt cf then arithFloat op else arithInt op)
  | .cmpsel op .. => !(if isFloatFmt cf then cmpFloat op else cmpInt op)
  | _ => false

/-- FIELD of R139. -/
def pzFieldBad (d : List Byte) : Bool :=
  bits (pzCtl d) 30 28 ≠ 0 || bit (pzCtl d) 4 || pzLen d = 0 || pzRows d = 0 || pzN d = 0 || pzN d > 8
  || ((List.range 8).any fun i => i ≥ pzN d && pzWord d i ≠ 0)
  || !(pzCf d = 0 || pzCf d = 1 || pzCf d = 0xB || pzCf d = 0xC)
  || (match pzChain d with
      | none => true
      | some c => c.any fun x => opReserved (pzCf d) x || (selsOf x).any (badSel (pzCf d)))

/-- A stage is a stream (R138 rule 1). -/
def isStream : Stage → Bool
  | .load _ _ kind _ => kind ≠ 2
  | .expand .. => true
  | .store .. => true
  | _ => false

/-- The stages with their stream numbers, those that are no stream with none (R138 rule 1). -/
def numbered : Nat → List Stage → List (Stage × Option Nat)
  | _, [] => []
  | n, x :: xs => if isStream x then (x, some n) :: numbered (n + 1) xs else (x, none) :: numbered n xs

/-- Stride of a numbered stage in bytes. -/
def strideOf (d : List Byte) (n : Option Nat) : Nat := match n with | some i => pzStride d i | none => 0

/-- Size of an RTAP result (R137). -/
def tapSize (cf op : Nat) : Nat := if op ≤ 2 then cfSize cf else 4

/-- ALIGN of R139; the base of a data STORE is a data base. -/
def pzAlignBad (d : List Byte) (c : List Stage) : Bool :=
  c.any fun x => match x with
    | .load fmt _ kind base => (kind = 0 || kind = 3) && base % elemAlign fmt ≠ 0
    | .expand _ _ base => base % cfSize (pzCf d) ≠ 0
    | .compress cnt => cnt % 4 ≠ 0
    | .rtap op _ _ _ base => base % tapSize (pzCf d) op ≠ 0
    | .store fmt _ kind _ base => kind = 0 && base % elemAlign fmt ≠ 0
    | _ => false

/-- SHAPE of R139. A scale stride is that of a short data LOAD or STORE, and that of a short broadcast LOAD too: the spec's words
name any (DESIGN CHOICE, log 100). -/
def pzShapeBad (d : List Byte) (c : List Stage) : Bool :=
  pzRows d > 1 && (numbered 0 c).any fun x => match x.1 with
    | .load fmt _ kind _ =>
      (kind = 0 && strideOf d x.2 < rowBytes fmt (pzLen d))
      || ((kind = 0 || kind = 3) && isShort fmt && pzSlStride d < blocksAlong (pzLen d))
    | .store fmt _ kind _ _ =>
      kind = 0 && (strideOf d x.2 < rowBytes fmt (pzLen d)
        || (isShort fmt && pzSsStride d < blocksAlong (pzLen d)))
    | _ => false

/-- The extent of rows of `len` bytes. -/
def extent (d : List Byte) (base stride len : Nat) : Range := (base, (pzRows d - 1) * stride + len)

/-- Bytes of a mask row (R137). -/
def maskBytes (n : Nat) : Nat := (n + 7) / 8

/-- The read ranges of a chain, with the data LOAD each belongs to (R139). Of the scale array a short broadcast LOAD is taken to read one
byte a row, that of the row's first block; the spec does not say (DESIGN CHOICE, log 100). -/
def pzReads (d : List Byte) (c : List Stage) : List (Range × Option (Nat × Nat × Nat)) :=
  (numbered 0 c).flatMap fun x =>
    let st := strideOf d x.2
    match x.1 with
    | .load fmt _ 0 base =>
      (extent d base st (rowBytes fmt (pzLen d)), some (base, st, fmt))
        :: (if isShort fmt then [(extent d (pzSlBase d) (pzSlStride d) (blocksAlong (pzLen d)), none)] else [])
    | .load _ _ 1 base => [(extent d base st (maskBytes (pzLen d)), none)]
    | .load fmt _ 3 base =>
      (extent d base st (elemAlign fmt), none)
        :: (if isShort fmt then [(extent d (pzSlBase d) (pzSlStride d) 1, none)] else [])
    | .expand _ _ base => [(extent d base st (pzLen d * cfSize (pzCf d)), none)]
    | _ => []

/-- The written ranges of a chain, with what a data STORE may coincide with (R139). -/
def pzWrites (d : List Byte) (c : List Stage) : List (Range × Option (Nat × Nat × Nat)) :=
  ((numbered 0 c).flatMap fun x =>
    let st := strideOf d x.2
    match x.1 with
    | .store fmt _ 0 _ base =>
      (extent d base st (rowBytes fmt (pzLen d)), some (base, st, fmt))
        :: (if isShort fmt then [(extent d (pzSsBase d) (pzSsStride d) (blocksAlong (pzLen d)), none)] else [])
    | .store _ _ _ _ base => [(extent d base st (maskBytes (pzLen d)), none)]
    | .compress cnt => [((cnt, 4 * pzRows d), none)]
    | .rtap op _ _ _ base => [((base, tapSize (pzCf d) op * pzRows d), none)]
    | _ => [])
  ++ (if pzCplEn d then [((pzCpl d, 8), none)] else [])

/-- OVERLAP of R139, an exactly coinciding data LOAD and STORE apart. -/
def pzOverlap (d : List Byte) (c : List Stage) : Bool :=
  let ws := pzWrites d c
  (ws.any fun w => (pzReads d c).any fun r => meets w.1 r.1 && !(w.2.isSome && w.2 = r.2))
  || (ws.zipIdx.any fun x => ws.zipIdx.any fun y => x.2 < y.2 && meets x.1.1 y.1.1)

/-- What the chain rules know after some stages: wire formats, whether P is written, what has occurred. -/
structure ChainSt where
  wires : List (Option Nat) := [none, none, none, none]
  p : Bool := false
  compress : Nat := 0
  expand : Nat := 0
  rtap : Nat := 0
  loads : Nat := 0
  stores : Nat := 0
  shortLoad : Nat := 0
  shortStore : Nat := 0
  raise : Bool := false
  ok : Bool := true
  deriving DecidableEq, Repr

/-- A selector names a written wire of the compute format, or a scalar or constant (R138 rules 3 and 4). -/
def selOk (st : ChainSt) (cf sel : Nat) : Bool := sel ≥ 4 || st.wires.getD sel none = some cf

/-- LOAD FMT follows CFMT (R138 rule 5). -/
def loadFmtOk (cf fmt : Nat) : Bool :=
  if cf = 0 then fmt = 0 || fmt = 2 || fmt = 3 || isShort fmt
  else if cf = 1 then fmt ≤ 10
  else fmt = 0xB || fmt = 0xC

/-- The conversions of R148. -/
def convertOk (cf t : Nat) : Bool := t ≠ cf && (if isFloatFmt cf then t ≤ 0xC else t = 0 || t = 1)

/-- One stage under the rules of R138. -/
def chainStep (cf : Nat) (st : ChainSt) (x : Stage) : ChainSt :=
  let need := fun (b : Bool) (s : ChainSt) => { s with ok := s.ok && b }
  let put := fun (w f : Nat) (s : ChainSt) => { s with wires := s.wires.set w (some f) }
  match x with
  | .load fmt dest kind _ =>
    let s := need (st.compress = 0) { st with loads := st.loads + b2n (decide (kind ≠ 2)) }
    let s := { s with shortLoad := s.shortLoad + b2n ((kind = 0 || kind = 3) && isShort fmt) }
    if kind = 1 then { s with p := true }
    else put dest cf (if kind = 2 then s else need (loadFmtOk cf fmt) s)
  | .convert t dest src _ _ => put dest t (need (selOk st cf src && convertOk cf t) st)
  | .arith op dest a b c pred =>
    let s := need ((if isFloatFmt cf then arithFloat op else arithInt op)
      && ([a, b, c].take (arithArity op)).all (selOk st cf) && (!pred || st.p)) st
    if op = 0x15 then { s with raise := true }
    else put dest cf s
  | .trans _ dest src => put dest cf (need (isFloatFmt cf && selOk st cf src) st)
  | .cmpsel op dest a b pout pcomb =>
    let s := need ((if isFloatFmt cf then cmpFloat op else cmpInt op)
      && ([a, b].take (cmpArity op)).all (selOk st cf)
      && (!(op = 0x23 || (pout && pcomb ≠ 0)) || st.p)) st
    if pout then { s with p := true } else put dest (if op = 0x21 || op = 0x22 then 0xB else cf) s
  | .compress _ => need (st.p && st.compress = 0) { st with compress := st.compress + 1 }
  | .expand dest f _ =>
    put dest cf (need (st.p && st.compress = 0 && st.expand = 0 && selOk st cf f)
      { st with expand := st.expand + 1, loads := st.loads + 1 })
  | .rtap op src aux pred _ =>
    need (selOk st cf src && (op ≠ 4 || selOk st cf aux) && (!pred || st.p)) { st with rtap := st.rtap + 1 }
  | .store fmt src kind pred _ =>
    let s := { st with stores := st.stores + 1 }
    if kind = 1 then need st.p s
    else need (st.wires.getD src none = some fmt && (!pred || st.p) && !(isShort fmt && pred))
      { s with shortStore := s.shortStore + b2n (isShort fmt) }

/-- A chain satisfies R138. -/
def chainOk (d : List Byte) (c : List Stage) : Bool :=
  let st := c.foldl (chainStep (pzCf d)) {}
  let n := (c.filter isStream).length
  st.ok && st.loads ≤ 4 && st.stores ≤ 2 && st.shortLoad ≤ 1 && st.shortStore ≤ 1 && st.rtap ≤ 2
  && ((List.range 6).all fun i => i < n || pzStride d i = 0)
  && (st.stores > 0 || st.rtap > 0 || st.raise)

/-- The status of R139: the first failure in the table's order. -/
def pzStatus (op : EngOp) : Nat :=
  let d := op.desc
  match pzFieldBad d, pzChain d with
  | true, _ => 1
  | _, none => 1
  | false, some c =>
    if pzAlignBad d c then 2
    else if pzShapeBad d c then 3
    else if !((pzReads d c ++ pzWrites d c).all fun r => rangeOk op r.1) then 4
    else if pzOverlap d c then 5
    else if !chainOk d c then 6
    else 0

/-- The completion record can be written: enabled, and CPL_OFFSET itself in bound; an OVERLAP with the record is not counted as a
failure in CPL_OFFSET itself (R116, R140; DESIGN CHOICE, log 100). -/
def pzCplOk (op : EngOp) : Bool := pzCplEn op.desc && rangeOk op (pzCpl op.desc, 8)

/-! Elements (R131 to R133). -/

/-- A lane: four wires, P. -/
structure Lane where
  w : List Nat := [0, 0, 0, 0]
  p : Bool := false
  deriving DecidableEq, Repr

/-- What a chain reads apart from its lanes. -/
structure PzEnv where
  cf : Nat
  rnd : Nat
  s0 : Nat
  s1 : Nat
  given : Option Nat
  nanMode : Bool
  deriving DecidableEq, Repr

/-- The value a selector names (R132, R133). -/
def selVal (v : PzEnv) (l : Lane) (sel : Nat) : Nat :=
  match sel with
  | 4 => if v.cf = 1 then v.s1 * 2 ^ 32 + v.s0 else v.s0
  | 5 => v.s1
  | 6 => 0
  | 7 => if isFloatFmt v.cf then (cfFmt v.cf).one else 1
  | n => l.w.getD n 0

/-- The signed value of a 32-bit lane. -/
def i32 (n : Nat) : Int := toSigned 32 n

/-- Integer lanes: the value that orders them (R147). -/
def intKey (cf n : Nat) : Int := if cf = 0xB then i32 n else n % 2 ^ 32

/-- ARITH on integers (R146). -/
def arithIntEval (cf op a b : Nat) : Nat :=
  match op with
  | 0 => (a + b) % 2 ^ 32
  | 1 => (a + 2 ^ 32 - b % 2 ^ 32) % 2 ^ 32
  | 2 => a * b % 2 ^ 32
  | 0x16 => a &&& b
  | 0x17 => a ||| b
  | 0x18 => a ^^^ b
  | 0x19 => a * 2 ^ (b % 32) % 2 ^ 32
  | _ => if cf = 0xB then ofSigned 32 (i32 a / (2 ^ (b % 32) : Nat)) else a / 2 ^ (b % 32)

/-- ARITH on floats (R146). -/
def arithFloatEval (f : Fmt) (rnd op a b c : Nat) : FR :=
  match op with
  | 0 => fAdd f rnd a b
  | 1 => fSub f rnd a b
  | 2 => fMul f rnd a b
  | 3 => fFma f rnd a b c
  | 4 => fDiv f rnd a b
  | 5 => fSqrt f rnd a
  | 6 => fRem f a b
  | 7 => fRoundInt f 0 false a
  | 8 => fRoundInt f 4 false a
  | 9 => fRoundInt f 1 false a
  | 0xA => fRoundInt f 3 false a
  | 0xB => fRoundInt f 2 false a
  | 0xC => fRoundInt f rnd true a
  | 0xD => fNextUp f a
  | 0xE => fNextDown f a
  | 0xF => fScaleB f rnd a (toSigned 32 b)
  | 0x10 => fLogB f a
  | 0x11 => (a, 0)
  | 0x12 => (fNeg f a, 0)
  | 0x13 => (f.mag a, 0)
  | _ => (fCopySign f a b, 0)

/-- A CMPSEL predicate on floats (R147). -/
def predFloat (f : Fmt) (op a b : Nat) : Bool × Nat :=
  if op ≤ 0x0B then (quietPred op (relOf f a b), sigFlag f [a, b])
  else if op ≤ 0x15 then
    (quietPred (signalPred (op - 0x0C)) (relOf f a b), flagIf (f.isNaN a || f.isNaN b) fNV)
  else
    (match op with
     | 0x16 => f.sign a
     | 0x17 => f.isNormal a
     | 0x18 => f.isFinite a
     | 0x19 => f.isZero a
     | 0x1A => f.isSub a
     | 0x1B => f.isInf a
     | 0x1C => f.isNaN a
     | 0x1D => f.isSig a
     | 0x1E => true
     | 0x1F => totalOrder f a b
     | _ => totalOrderMag f a b, 0)

/-- A CMPSEL predicate on integers (R147). -/
def predInt (cf op a b : Nat) : Bool :=
  let x := intKey cf a
  let y := intKey cf b
  match op with
  | 0 => x = y | 1 => x ≠ y | 2 => x > y | 3 => x ≥ y | 4 => x < y | _ => x ≤ y

/-- A CMPSEL operation that writes a wire (R147). -/
def selEval (cf op a b : Nat) (p : Bool) : FR :=
  let f := cfFmt cf
  if op = 0x23 then (if p then a else b, 0)
  else if op = 0x21 then (fClass f a, 0)
  else if op = 0x22 then (2, 0)
  else if isFloatFmt cf then fMinMax f (op - 0x24) a b
  else if op = 0x24 then (if intKey cf a ≤ intKey cf b then a else b, 0)
  else (if intKey cf b ≤ intKey cf a then a else b, 0)

/-- P combined (R137). -/
def combineP (pcomb : Nat) (p r : Bool) : Bool :=
  match pcomb with | 0 => r | 1 => p && r | _ => p || r

/-- CONVERT to a format that is not short (R148). -/
def convertEval (v : PzEnv) (t irnd : Nat) (exact : Bool) (x : Nat) : FR :=
  let rn := match irnd with | 0 => 0 | 1 => 4 | 2 => 1 | 3 => 3 | _ => 2
  if isFloatFmt v.cf then
    match longFmt t with
    | some g => fConvert (cfFmt v.cf) g v.rnd x
    | none =>
      let r := if t = 0xB then fToInt (cfFmt v.cf) rn exact (-2147483648) 2147483647 x
        else fToInt (cfFmt v.cf) rn exact 0 4294967295 x
      (ofSigned 32 r.1, r.2)
  else fFromInt (cfFmt t) v.rnd (intKey v.cf x)

/-- A lane's wire written. -/
def setW (l : Lane) (n v : Nat) : Lane := { l with w := l.w.set n v }

/-! The reduction unit (R154 to R156). -/

/-- A node of the tree: value, index, flags. -/
abbrev Node := Option (Nat × Nat)

/-- combine of R155, with the flags raised. -/
def combine (v : PzEnv) (op : Nat) (x y : Node) : Node × Nat :=
  match x, y with
  | none, _ => (y, 0)
  | _, none => (x, 0)
  | some a, some b =>
    let f := cfFmt v.cf
    match op with
    | 0 | 4 =>
      if isFloatFmt v.cf then let r := fAdd f v.rnd a.1 b.1; (some (r.1, a.2), r.2)
      else (some ((a.1 + b.1) % 2 ^ 32, a.2), 0)
    | 1 | 2 =>
      if isFloatFmt v.cf then let r := fMinMax f (2 - op) a.1 b.1; (some (r.1, a.2), r.2)
      else if op = 1 then (some (if intKey v.cf b.1 ≤ intKey v.cf a.1 then a else b), 0)
      else (some (if intKey v.cf a.1 ≤ intKey v.cf b.1 then a else b), 0)
    | _ =>
      let key := fun n => if isFloatFmt v.cf then totalKey f n else intKey v.cf n
      if key b.1 < key a.1 then (x, 0) else if key a.1 < key b.1 then (y, 0)
      else (if a.2 ≤ b.2 then x else y, 0)

/-- One level of the tree (R154). -/
def treeLevel (v : PzEnv) (op : Nat) : List Node → List Node × Nat
  | x :: y :: rest =>
    let c := combine v op x y
    let r := treeLevel v op rest
    (c.1 :: r.1, orF c.2 r.2)
  | rest => (rest, 0)

/-- The tree of a beat: four levels for 16 leaves, three for 8 (R154). -/
def tree (v : PzEnv) (op : Nat) (leaves : List Node) : Node × Nat :=
  let r := (List.range (if v.cf = 1 then 3 else 4)).foldl
    (fun x _ => let l := treeLevel v op x.1; (l.1, orF x.2 l.2)) (leaves, 0)
  (r.1.headD none, r.2)

/-- Leaves of a beat, absent ones filled up. -/
def beatLeaves (v : PzEnv) (xs : List Node) (beat : Nat) : List Node :=
  let e := beatSize v.cf
  let l := (xs.drop (beat * e)).take e
  l ++ List.replicate (e - l.length) none

/-- The reduction of a row (R154). -/
def reduceRow (v : PzEnv) (op : Nat) (xs : List Node) : Node × Nat :=
  (List.range (ceilDiv xs.length (beatSize v.cf))).foldl (fun a b =>
    let t := tree v op (beatLeaves v xs b)
    let c := combine v op a.1 t.1
    (c.1, orF a.2 (orF t.2 c.2))) (none, 0)

/-- The prefix reaches the threshold: a comparison that raises no flag (log 32). -/
def reaches (v : PzEnv) (p t : Nat) : Bool :=
  if isFloatFmt v.cf then quietPred 3 (relOf (cfFmt v.cf) p t) else intKey v.cf t ≤ intKey v.cf p

/-- The lanes of a beat added to the prefix one at a time, up to the first that reaches T (R156). -/
def scanLanes (v : PzEnv) (T : Nat) : List Node → Node × Nat → Option Nat × Nat
  | [], p => (none, p.2)
  | none :: xs, p => scanLanes v T xs p
  | some a :: xs, p =>
    let c := combine v 4 p.1 (some a)
    let fl := orF p.2 c.2
    match c.1 with
    | some s => if reaches v s.1 T then (some a.2, fl) else scanLanes v T xs (c.1, fl)
    | none => (none, fl)

/-- SCAN of a row from a beat on (R156). -/
def scanBeats (v : PzEnv) (T : Nat) (xs : List Node) : List Nat → Node × Nat → Option Nat × Nat
  | [], p => (none, p.2)
  | b :: bs, p =>
    match scanLanes v T (beatLeaves v xs b) p with
    | (some i, fl) => (some i, fl)
    | (none, fl) =>
      let t := tree v 0 (beatLeaves v xs b)
      let c := combine v 4 p.1 t.1
      scanBeats v T xs bs (c.1, orF fl (orF t.2 c.2))

/-- Result of a row with no contribution (R155). -/
def emptyTap (cf op : Nat) : Nat :=
  match op with
  | 0 => 0
  | 1 => if isFloatFmt cf then (cfFmt cf).withSign true (cfFmt cf).inf else if cf = 0xB then 0x80000000 else 0
  | 2 => if isFloatFmt cf then (cfFmt cf).inf else if cf = 0xB then 0x7FFFFFFF else 0xFFFFFFFF
  | _ => 0xFFFFFFFF

/-- A tap's result for a row: the value and the flags (R154 to R156). The first contributing element of a SCAN is the prefix as it is,
with no addition and no flag: the spec does not say what the prefix is before it (DESIGN CHOICE, log 108). -/
def tapRow (v : PzEnv) (op src aux : Nat) (pred : Bool) (lanes : List Lane) : Nat × Nat :=
  let f := cfFmt v.cf
  let xs : List Node := lanes.zipIdx.map fun l =>
    let x := l.1.w.getD src 0
    if (pred && !l.1.p) || (op = 3 && isFloatFmt v.cf && f.isNaN x) then none else some (x, l.2)
  match op with
  | 4 =>
    match lanes.find? fun l => !pred || l.p with
    | none => (emptyTap v.cf 4, 0)
    | some l0 =>
      let r := scanBeats v (l0.w.getD aux 0) xs (List.range (ceilDiv xs.length (beatSize v.cf))) (none, 0)
      let last := (xs.reverse.findSome? id).map (·.2)
      (r.1.getD (last.getD 0xFFFFFFFF), r.2)
  | _ =>
    match reduceRow v op xs with
    | (some a, fl) => (if op = 3 then a.2 else a.1, fl)
    | (none, fl) => (emptyTap v.cf op, fl)

/-! A chain on a row. -/

/-- A row in a chain: its lanes, the scale bytes of short wires, the writes made, the flags. -/
structure RowSt where
  lanes : List Lane
  scales : List (List Nat) := [[], [], [], []]
  writes : List (Nat × List Byte) := []
  flags : Nat := 0
  deriving DecidableEq, Repr

/-- Every lane through a function that also raises flags. -/
def mapLanes (r : RowSt) (g : Nat → Lane → Lane × Nat) : RowSt :=
  let xs := r.lanes.zipIdx.map fun l => g l.2 l.1
  { r with
    lanes := xs.map (·.1)
    flags := (xs.map (·.2)).foldl orF r.flags }

/-- A stored element as a compute-format value (R93, R98, R149). -/
def loadElem (v : PzEnv) (fmt n scale : Nat) : FR :=
  if isShort fmt then loadShort (cfFmt v.cf) v.rnd fmt n scale
  else match longFmt fmt with
    | some f => loadLong f (cfFmt v.cf) n
    | none => (n, 0)

/-- Blocks of 32 of a list. -/
def chunks32 (n : Nat) (xs : List Nat) : List (List Nat) := (List.range n).map fun b => (xs.drop (32 * b)).take 32

/-- A wire converted to a short format, blocks of 32 along the row (R148). -/
def convertRowShort (v : PzEnv) (r : RowSt) (t dest src : Nat) : RowSt :=
  let xs := r.lanes.map fun l => l.w.getD src 0
  let bs := (chunks32 (blocksAlong xs.length) xs).map fun b => convertBlock (cfFmt v.cf) t v.given v.nanMode b
  let codes := bs.flatMap (·.codes)
  { r with
    lanes := r.lanes.zipIdx.map fun l => setW l.1 dest (codes.getD l.2 0)
    scales := r.scales.set dest (bs.map (·.scale))
    flags := (bs.map (·.flags)).foldl orF r.flags }

/-- The writes of a STORE (R84, R88, R137, R152). `old` reads memory for a mask's untouched bits. Behind a COMPRESS a short STORE fills
the last block with code 0, and where the CONVERT stood before it the scale bytes are those of the blocks as converted, beside the
repacked codes: the spec settles neither (DESIGN CHOICE, log 108). -/
def storeWrites (d : List Byte) (old : Nat → Nat → List Byte) (row : Nat) (r : RowSt) (fmt src kind : Nat)
    (pred : Bool) (at_ : Nat) (ssAt : Nat) : List (Nat × List Byte) :=
  let n := r.lanes.length
  if kind = 1 then
    let was := leNat (old at_ (maskBytes n))
    let v := r.lanes.zipIdx.foldl (fun w l =>
      if pred && !l.1.p then w
      else w - (if bit w l.2 then 2 ^ l.2 else 0) + (if l.1.p then 2 ^ l.2 else 0)) was
    [(at_, natLe (maskBytes n) v)]
  else if isShort fmt then
    let codes := r.lanes.map fun l => l.w.getD src 0
    [(at_, packCodes (widthOf fmt) (codes ++ List.replicate (blocksAlong n * 32 - n) 0)),
     (ssAt + row * pzSsStride d, (r.scales.getD src []).map fun e => BitVec.ofNat 8 e)]
  else
    let size := widthOf fmt / 8
    if pred then
      (r.lanes.zipIdx.filter fun l => l.1.p).map fun l => (at_ + l.2 * size, natLe size (l.1.w.getD src 0))
    else [(at_, r.lanes.flatMap fun l => natLe size (l.w.getD src 0))]

/-- EXPAND: lanes with P = 1 take the packed elements in order, the others FILL (R153). -/
def expandLanes (v : PzEnv) (dest fill : Nat) : List Nat → List Lane → List Lane
  | _, [] => []
  | xs, l :: ls =>
    if l.p then setW l dest (xs.headD 0) :: expandLanes v dest fill (xs.drop 1) ls
    else setW l dest (selVal v l fill) :: expandLanes v dest fill xs ls

/-- One stage on a row. `rd` reads scratchpad at a task-relative offset. raiseFlags, which is made once and writes no wire, raises its
flags whatever P holds: the spec gives PRED no meaning there (DESIGN CHOICE, log 108). -/
def runStage (d : List Byte) (v : PzEnv) (rd : Nat → Nat → List Byte) (row : Nat) (r : RowSt)
    (x : Stage × Option Nat) : RowSt :=
  let at_ := fun base => base + row * strideOf d x.2
  match x.1 with
  | .load fmt dest 0 base =>
    let bs := rd (at_ base) (rowBytes fmt (pzLen d))
    let sc := if isShort fmt then rd (pzSlBase d + row * pzSlStride d) (blocksAlong (pzLen d)) else []
    mapLanes r fun i l =>
      let e := loadElem v fmt (codeAt bs fmt i) (sc.getD (i / 32) 0).toNat
      (setW l dest e.1, e.2)
  | .load _ _ 1 base =>
    let m := leNat (rd (at_ base) (maskBytes (pzLen d)))
    mapLanes r fun i l => ({ l with p := bit m i }, 0)
  | .load _ dest 2 _ =>
    mapLanes r fun i l => (setW l dest (if isFloatFmt v.cf then (fFromInt (cfFmt v.cf) 0 i).1 else i), 0)
  | .load fmt dest _ base =>
    let bs := rd (at_ base) (elemAlign fmt)
    let sc := if isShort fmt then rd (pzSlBase d + row * pzSlStride d) 1 else []
    let e := loadElem v fmt (codeAt bs fmt 0) (sc.getD 0 0).toNat
    mapLanes r fun _ l => (setW l dest e.1, e.2)
  | .convert t dest src irnd exact =>
    if isShort t then convertRowShort v r t dest src
    else mapLanes r fun _ l => let e := convertEval v t irnd exact (l.w.getD src 0); (setW l dest e.1, e.2)
  | .arith op dest a b c pred =>
    if op = 0x15 then { r with flags := orF r.flags (v.s0 % 32) }
    else mapLanes r fun _ l =>
      if pred && !l.p then (setW l dest (selVal v l a), 0)
      else if isFloatFmt v.cf then
        let e := arithFloatEval (cfFmt v.cf) v.rnd op (selVal v l a) (selVal v l b) (selVal v l c)
        (setW l dest e.1, e.2)
      else (setW l dest (arithIntEval v.cf op (selVal v l a) (selVal v l b)), 0)
  | .trans fn dest src =>
    mapLanes r fun _ l => let e := transEval (cfFmt v.cf) fn (selVal v l src); (setW l dest e.1, e.2)
  | .cmpsel op dest a b pout pcomb =>
    mapLanes r fun _ l =>
      if pout then
        let e := if isFloatFmt v.cf then predFloat (cfFmt v.cf) op (selVal v l a) (selVal v l b)
          else (predInt v.cf op (selVal v l a) (selVal v l b), 0)
        ({ l with p := combineP pcomb l.p e.1 }, e.2)
      else
        let e := selEval v.cf op (selVal v l a) (selVal v l b) l.p
        (setW l dest e.1, e.2)
  | .compress cnt =>
    let ls := r.lanes.filter (·.p)
    { r with lanes := ls, writes := r.writes ++ [(cnt + 4 * row, natLe 4 ls.length)] }
  | .expand dest fill base =>
    let size := cfSize v.cf
    let n := (r.lanes.filter (·.p)).length
    let bs := rd (at_ base) (n * size)
    { r with lanes := expandLanes v dest fill ((List.range n).map fun i => fld bs (i * size) size) r.lanes }
  | .rtap op src aux pred base =>
    let e := tapRow v op src aux pred r.lanes
    let size := tapSize v.cf op
    { r with writes := r.writes ++ [(base + row * size, natLe size e.1)], flags := orF r.flags e.2 }
  | .store fmt src kind pred base =>
    { r with writes := r.writes ++ storeWrites d rd row r fmt src kind pred (at_ base) (pzSsBase d) }

/-- The environment of an operation (R133, R135). -/
def pzEnv (op : EngOp) : PzEnv :=
  { cf := pzCf op.desc, rnd := pzRnd op.desc, s0 := op.s0.toNat, s1 := op.s1.toNat
    given := pzGiven op.desc, nanMode := pzNanMode op.desc }

/-- A row through the whole chain. -/
def pzRow (s : State) (t : Nat) (op : EngOp) (chain : List Stage) (row : Nat) : RowSt :=
  (numbered 0 chain).foldl
    (fun r x => runStage op.desc (pzEnv op) (fun a n => readOp s t op (op.base + a) n) row r x)
    { lanes := List.replicate (pzLen op.desc) {} }

/-- The writes of an operation, by absolute offset, and its flags. -/
def pzResult (s : State) (t : Nat) (op : EngOp) : List (Nat × List Byte) × Nat :=
  match pzChain op.desc with
  | none => ([], 0)
  | some chain =>
    (List.range (pzRows op.desc)).foldl (fun x row =>
      let r := pzRow s t op chain row
      (x.1 ++ r.writes.map fun w => (op.base + w.1, w.2), orF x.2 r.flags)) ([], 0)

/-! Cycles (R143). -/

/-- Fill latency of a stage. -/
def fillOf : Stage → Nat
  | .load .. => 4
  | .convert t .. => if isShort t then 6 else 2
  | .arith op .. => if op = 4 || op = 5 then 10 else if op = 6 then 20 else 4
  | .trans fn .. => if fn = 2 || fn = 3 then 10 else 8
  | .cmpsel .. => 2
  | .compress .. => 2
  | .expand .. => 4
  | .store .. => 2
  | .rtap .. => 0

/-- Compute cost of a stage per beat. -/
def costOf (cf : Nat) : Stage → Nat
  | .arith op .. => if op = 4 || op = 5 then 4 else if op = 6 then (if cf = 1 then 40 else 12) else 1
  | .trans fn .. => (if fn = 2 || fn = 3 then 3 else 2) * (if cf = 1 then 2 else 1)
  | _ => 0

/-- Quarter bytes a stage's stream moves per beat. -/
def quartersOf (cf : Nat) (x : Stage) : Nat :=
  let e := beatSize cf
  let dataOf := fun fmt => e * widthOf fmt / 2 + (if isShort fmt then e / 8 else 0)
  match x with
  | .load fmt _ 0 _ => dataOf fmt
  | .load _ _ 1 _ => e / 2
  | .expand .. => e * cfSize cf * 4
  | .store fmt _ kind _ _ => if kind = 0 then dataOf fmt else e / 2
  | _ => 0

/-- Fill F of a chain (R143). -/
def pzFill (c : List Stage) : Nat :=
  2 + (c.map fillOf).foldl (· + ·) 0
    + (if c.any fun x => match x with | .rtap .. => true | _ => false then 6 else 0)

/-- Cycles per beat c of a chain (R143). -/
def pzCost (cf : Nat) (c : List Stage) : Nat :=
  max 1 (max ((c.map (costOf cf)).foldl (· + ·) 0) (ceilDiv ((c.map (quartersOf cf)).foldl (· + ·) 0) 256))

/-- Beats of an operation (R131). -/
def pzBeats (d : List Byte) : Nat := pzRows d * ceilDiv (pzLen d) (beatSize (pzCf d))

/-- Cycles of an operation running alone without holds (R143). -/
def pzCycles (d : List Byte) : Nat :=
  match pzChain d with
  | some c => pzFill c + pzBeats d * pzCost (pzCf d) c
  | none => 0

end Sys2Proof.Machine
end

