-- ==== Sys2Proof/Machine/Engines.lean ====
section
/-! DEFINITION. The commands of the engines: the descriptor checks, the completions, the residue faults (chapters 04 and
05). -/

namespace Sys2Proof.Machine

/-- An engine's queue. -/
def queueOf (k : Tile) (prism : Bool) : List EngOp := if prism then k.pzQ else k.mxQ

/-- An engine's queue replaced. -/
def setQueue (k : Tile) (prism : Bool) (q : List EngOp) : Tile := if prism then { k with pzQ := q } else { k with mxQ := q }

/-- WAIT_PREV of an operation. -/
def waitPrev (prism : Bool) (op : EngOp) : Bool := if prism then pzWaitPrev op.desc else mxWaitPrev op.desc

/-- The operation the engine's check looks at: the first of the queue, or the one behind a started operation, whose check runs during
the body ahead whatever its WAIT_PREV (R115, R139). None starts while the tile stops for a snapshot (R321). -/
def checkPlace (k : Tile) (prism : Bool) : Option Nat :=
  if k.snap.stopping then none else
  match queueOf k prism with
  | [] => none
  | [a] => if a.started then none else some 0
  | a :: b :: _ =>
    if !a.started then some 0 else if !b.started && !b.checked then some 1 else none

/-- Cycles of an operation that runs alone without holds (R126, R143). -/
def opCycles (prism : Bool) (op : EngOp) : Nat := if prism then pzCycles op.desc else mxCycles op.desc

/-- The last cycles of the operation ahead that the fill of the next one overlaps (R117, R126, R143): its drain in the array, the
next one's fill in Prism. -/
def opOverlap (prism : Bool) (head next : EngOp) : Nat :=
  if prism then (match pzChain next.desc with | some c => pzFill c | none => 0)
  else (mxShapeOf head.desc).2.2.2

/-- The steps an operation takes to its completion when it starts now at place n of its queue, known where a section is active and
what runs ahead is known (R126, R143, R172). The step that issued it is its first. -/
def stepsAtStart (k : Tile) (prism : Bool) (n : Nat) (op : EngOp) : Option Nat :=
  if !k.lat.running then none
  else if n = 0 then some (opCycles prism op - b2n (decide (op.issuedAt = some k.core.stepCnt)))
  else (queueOf k prism).head?.bind fun h => h.left.map fun l => (l - opOverlap prism h op) + opCycles prism op

/-- The operation at place n of a queue starts (R117). -/
def startOp (k : Tile) (prism : Bool) (n : Nat) : Tile :=
  setQueue k prism ((queueOf k prism).modify n fun o => { o with
    started := true, checked := true, left := stepsAtStart k prism n o, total := opCycles prism o })

/-- The operation that now heads its queue starts at once where its check has passed (R117, R321). -/
def startNext (k : Tile) (prism : Bool) : Tile :=
  match queueOf k prism with
  | op :: _ => if op.checked && !op.started && !k.snap.stopping then startOp k prism 0 else k
  | [] => k

/-- Counters of a completion (R129, R158). -/
def countEngine (s : State) (t : Nat) (prism ok : Bool) (busy displaced : Nat) : State :=
  updCtr s (regionOfTile t) fun r =>
    if prism then
      if ok then { r with
        pzOk := (r.pzOk + 1) % 2 ^ 64, pzBusy := (r.pzBusy + busy) % 2 ^ 64, pzDisp := (r.pzDisp + displaced) % 2 ^ 64 }
      else { r with pzErr := (r.pzErr + 1) % 2 ^ 32 }
    else
      if ok then { r with
        mxOk := (r.mxOk + 1) % 2 ^ 64, mxBody := (r.mxBody + busy) % 2 ^ 64, mxDisp := (r.mxDisp + displaced) % 2 ^ 64 }
      else { r with mxErr := (r.mxErr + 1) % 2 ^ 32 }

/-- Whether and where an operation's record is written, and its beam channel (R114, R135). -/
def cplOf (prism : Bool) (op : EngOp) : Option Nat :=
  if prism then (if pzCplOk op then some (op.base + pzCpl op.desc) else none)
  else (if mxCplOk op then some (op.base + mxCpl op.desc) else none)

def beamOf (prism : Bool) (op : EngOp) : Option Nat :=
  if prism then (if pzBeamEn op.desc then some (pzBeamCh op.desc) else none)
  else (if mxBeamEn op.desc then some (mxBeamCh op.desc) else none)

/-- Completion: the record, then the beam arrival (R116, R140). -/
def completeOp (s : State) (t : Nat) (prism : Bool) (op : EngOp) (cycles status : Nat) : State :=
  let tag := if prism then pzTag op.desc else mxTag op.desc
  let s := match cplOf prism op with
    | some a => writeNum s t a 8 (cplRecord cycles status tag)
    | none => s
  match beamOf prism op with
  | some ch => arriveTile s t ch
  | none => s

/-- An operation's check (R115, R139): one that passes starts, or waits for the operation ahead where WAIT_PREV = 1; one that fails
completes with its status, and a BOUND failure raises ENG_BOUND against the issuing slot (R77). -/
def checkOp (s : State) (t : Nat) (prism : Bool) : State :=
  match checkPlace (tileOf s t) prism with
  | none => s
  | some n =>
    match (queueOf (tileOf s t) prism)[n]? with
    | none => s
    | some op =>
      let status := if prism then pzStatus op else mxStatus op
      if status = 0 then
        updTile s t fun k =>
          if n = 0 || !waitPrev prism op then startOp k prism n
          else setQueue k prism ((queueOf k prism).modify n fun o => { o with checked := true })
      else
        let s := updTile s t fun k => setQueue k prism ((queueOf k prism).eraseIdx n)
        let s := countEngine (completeOp s t prism op 0 status) t prism false 0 0
        if status = 4 then tileFault s t op.slot 0x07 (BitVec.ofNat 32 op.off) false else s

/-- The engines of a tile advance in this cycle: outside a section in every one, in a section in the cycle of a step (R172). -/
def enginesGo (s : State) (t : Nat) : Bool := tileActs s t && (!(tileOf s t).lat.running || (tileOf s t).lat.holdRun = 0)

/-- The lines that the check's completion record covers in part (R66). -/
def checkLines (s : State) (t : Nat) (prism : Bool) : List (Nat × Nat) :=
  match (checkPlace (tileOf s t) prism).bind fun n => (queueOf (tileOf s t) prism)[n]? with
  | some op => if (if prism then pzStatus op else mxStatus op) = 0 then []
    else ((cplOf prism op).map fun a => partLines a 8).getD []
  | none => []

/-- Meaning of MXD_CHECK (R67, R115 to R117, R172). -/
def execMxdCheck (t : Nat) (errs : LineErrors) (s : State) : Res :=
  .next (if enginesGo s t then onLines s t (checkLines s t false) errs fun s => checkOp s t false else s)

/-- Meaning of PZD_CHECK (R67, R139 to R141, R172). -/
def execPzdCheck (t : Nat) (errs : LineErrors) (s : State) : Res :=
  .next (if enginesGo s t then onLines s t (checkLines s t true) errs fun s => checkOp s t true else s)

/-- A started operation beside writes of another: each byte written may have been read before (R117, R142); the bits of
`pick` choose. -/
def keepStale (m : Memory) (t : Nat) (writes : List (Nat × List Byte)) (pick j : Nat) (op : EngOp) : EngOp :=
  if !op.started then op else
  let cells := writes.flatMap fun w => (List.range w.2.length).map (w.1 + ·)
  { op with
    stale := cells.zipIdx.foldl (fun st c =>
      if bit pick (c.2 * 8 + j) && (smGet st c.1).isNone then smSet st c.1 (memRead m (spad t c.1)) else st) op.stale }

/-- A completing operation beside others of the other engine that are under way: of each byte they write it may have read the new value
already (R142); the bits of `pick` choose. -/
def readAhead (s : State) (t : Nat) (prism : Bool) (op : EngOp) : EngOp × State :=
  let others := (queueOf (tileOf s t) !prism).filter (·.started)
  if others = [] then (op, s)
  else
    let (pick, s) := fresh s
    let cells := others.flatMap fun o =>
      (if prism then mxResult s t o else pzResult s t o).1.flatMap fun w => w.2.zipIdx.map fun b => (w.1 + b.2, b.1)
    ({ op with
      stale := cells.zipIdx.foldl (fun st c =>
        if bit pick c.2 && (smGet st c.1.1).isNone then smSet st c.1.1 c.1.2 else st) op.stale }, s)

/-- The completing operation's writes, with the views of the operations beside it. -/
def engineWrites (s : State) (t : Nat) (writes : List (Nat × List Byte)) : State :=
  let (pick, s) := fresh s
  let m := s.mem
  let s := updTile s t fun k => { k with
    mxQ := k.mxQ.zipIdx.map fun o => keepStale m t writes pick o.2 o.1
    pzQ := k.pzQ.zipIdx.map fun o => keepStale m t writes pick (o.2 + 4) o.1 }
  writes.foldl (fun s w => writeSpad s t w.1 w.2) s

/-- An operation may complete now (R172): outside a section in any cycle; in one, in the cycle of a step, and where its steps are
counted, of its last. -/
def mayFinish (k : Tile) (op : EngOp) : Bool :=
  op.started && (!k.lat.running || (k.lat.holdRun = 0 && (op.left = none || op.left = some 0)))

/-- The cycles that displaced lines added outside a section: those in one are holds counted as they pass (R123, R144). -/
def addedCycles (prism : Bool) (op : EngOp) (extra : Nat) : Nat :=
  if op.left.isSome || !(prism || mxStarves op.desc) then 0 else extra

/-- The ranges an operation reads, and those it writes, by absolute offset. -/
def opLines (prism : Bool) (op : EngOp) : List (Nat × Nat) :=
  let rs := if prism then (match pzChain op.desc with
      | some c => (pzReads op.desc c ++ pzWrites op.desc c).map (·.1)
      | none => [])
    else mxRangeC op.desc :: (mxReadRanges op.desc ++ mxCplRange op.desc)
  rs.map fun r => (op.base + r.1, r.2)

/-- The executing operation's effect (R116, R140): its writes, whose waits it counts (R323), its flags, its record, its beam arrival,
its counters; the next operation starts if it waited for it. -/
def finishOp (s : State) (t : Nat) (prism : Bool) (op : EngOp) (extra : Nat) : State :=
  let (op, s) := readAhead s t prism op
  let res := if prism then pzResult s t op else mxResult s t op
  let (waits, s) := copyWaits s t res.1
  let s := addFlags (engineWrites s t res.1) t res.2
  let holds := (((queueOf (tileOf s t) prism).head?).map (·.holds)).getD op.holds
  let cycles := opCycles prism op + holds + extra + waits
  let s := updTile s t fun k => startNext (setQueue k prism ((queueOf k prism).drop 1)) prism
  countEngine (completeOp s t prism op cycles 0) t prism true (if prism then cycles else mxBodyCycles op.desc) (extra + waits)

/-- The completion of the operation at the head of its queue, with what the checks of the lines it used find (R67). -/
def finishHead (s : State) (t : Nat) (prism : Bool) (extra : Nat) (errs : LineErrors) : State :=
  match (queueOf (tileOf s t) prism).head? with
  | some op =>
    if mayFinish (tileOf s t) op then
      onLines s t (opLines prism op) errs fun s => finishOp s t prism op (addedCycles prism op extra)
    else s
  | none => s

/-- Meaning of MATRIX_COMPLETION (R90, R108, R116, R125, R126). `extra`: the cycles added under R123. -/
def execMatrixCompletion (t extra : Nat) (errs : LineErrors) (s : State) : Res :=
  .next (if tileActs s t then finishHead s t false extra errs else s)

/-- Meaning of PRISM_COMPLETION (R131 to R156). `extra`: the cycles added under R144. -/
def execPrismCompletion (t extra : Nat) (errs : LineErrors) (s : State) : Res :=
  .next (if tileActs s t then finishHead s t true extra errs else s)

/-- A residue mismatch of the operation that the computation belongs to, the executing one or, once its fill has begun, the one behind
it: the region fault with its offset and slot; nothing further is written (R128, R157). -/
def residueFault (s : State) (t : Nat) (prism behind : Bool) (code : Nat) : State :=
  match (queueOf (tileOf s t) prism)[b2n behind]? with
  | some op =>
    if !begun op then s else
    let s := updCtr s (regionOfTile t) fun r =>
      if prism then { r with pzResidue := (r.pzResidue + 1) % 2 ^ 32 } else { r with mxResidue := (r.mxResidue + 1) % 2 ^ 32 }
    regionFault s (regionOfTile t) code op.off (some t) op.slot
  | none => s

/-- Meaning of RESIDUE_MX (R128). `behind`: the computation belongs to the operation behind the executing one. -/
def execResidueMx (t : Nat) (behind : Bool) (s : State) : Res :=
  .next (if tileActs s t then residueFault s t false behind 0x21 else s)

/-- The first reduction packet in a tile's message engine (R242). -/
def reductionAtFront (s : State) (t : Nat) : Option Reduction := (tileOf s t).msg.arrived.findSome? (·.red)

/-- Meaning of RESIDUE_PZ (R157): of a Prism operation, the executing one or the one behind it, or of the combine of an arriving
reduction packet, which reports slot 0 and the offset of its destination record. -/
def execResiduePz (t : Nat) (inReduction behind : Bool) (s : State) : Res :=
  .next (if !tileActs s t then s else
    if inReduction then
      match reductionAtFront s t with
      | some r =>
        let s := updCtr s (regionOfTile t) fun c => { c with pzResidue := (c.pzResidue + 1) % 2 ^ 32 }
        regionFault s (regionOfTile t) 0x22 (saOffset r.dest) (some t) 0
      | none => s
    else residueFault s t true behind 0x22)

end Sys2Proof.Machine
end

