-- ==== Sys2Proof/Machine/Lattice.lean ====
section
/-! DEFINITION. The commands of the static lattice: a cycle of a section, routed forwarding, token arrivals, pairing, stalls
and plane swaps (chapter 06). -/

namespace Sys2Proof.Machine

/-! Queues and generations (R177). -/

/-- A token of generation g is older than active generation a (R177). -/
def older (g a : Nat) : Bool := genDiff g a ≥ 8

/-- A queue without the older tokens at its head, and how many went (R177; all of them at once, log 27). -/
def dropOld (a : Nat) : List Token → Nat × List Token
  | [] => (0, [])
  | k :: q => if older k.gen a then let r := dropOld a q; (r.1 + 1, r.2) else (0, k :: q)

/-- GEN_DISCARD, which saturates, with n more. -/
def addDiscards (c : Core) (n : Nat) : Core := { c with genDiscard := min 0xFFFFFFFF (c.genDiscard + n) }

/-- The heads of all token queues compared with ACTIVE_GEN; nothing is older while the active plane is empty (R177). -/
def settle (k : Tile) : Tile :=
  match k.lat.active with
  | none => k
  | some _ =>
    let qs := k.lat.inq.map fun e => (e.1, dropOld k.lat.activeGen e.2)
    let n := (qs.map fun e => e.2.1).foldl (· + ·) 0
    { k with
      lat := { k.lat with inq := qs.map fun e => (e.1, e.2.2) }
      core := addDiscards k.core n }

/-- The usable tokens at the front of an input (R177). -/
def usable (l : Lattice) (i : Nat) : List Token :=
  match l.active with
  | none => []
  | some _ => (latQ l.inq i).takeWhile fun k => k.gen = l.activeGen

/-! Sections of a region (R187). -/

/-- Step and hold increase of a tile since its swap into the section. -/
def sectSteps (k : Tile) : Nat := (k.core.stepCnt - k.lat.startStep).toNat
def sectHolds (k : Tile) : Nat := (k.core.holdCnt - k.lat.startHold).toNat

/-- A section measurement closed for a tile that reached END or was cut out. -/
def closeTile (m : SectMeas) (t steps holds stretch : Nat) (cut : Bool) : SectMeas :=
  { m with
    cut := m.cut || cut, steps := max m.steps steps, holds := m.holds + holds
    stretches := ((stretch : Int) - m.startStretch).toNat, openTiles := m.openTiles.filter (· ≠ t) }

/-- Completed sections moved into the last complete place, the newest standing (R187). -/
def settleSects (r : Region) : Region :=
  match r.sects.find? fun m => m.openTiles.isEmpty with
  | some m => { r with lastSect := some m, sects := r.sects.filter fun m => !m.openTiles.isEmpty }
  | none => r

/-- A tile's END or cut entered into its region's measurements (R187). -/
def noteEnd (s : State) (t : Nat) (cut : Bool) : State :=
  let k := tileOf s t
  updRegion s (regionOfTile t) fun r =>
    settleSects { r with
      sects := r.sects.map fun m =>
        if m.gen = k.lat.activeGen && m.openTiles.contains t
          then closeTile m t (sectSteps k) (sectHolds k) r.stretch cut else m }

/-- A tile is past generation g: it has activated a newer one (R177, R187). -/
def pastGen (s : State) (g x : Nat) : Bool :=
  let l := (tileOf s x).lat
  l.active.isSome && l.activeGen ≠ g && older g l.activeGen

/-- The sections of a region, newest first, after a tile's swap into generation g: those that are newer stand, its own opens at its
first tile for every tile that is not past it, and the older ones are done with the tile (R187). -/
def sectsAfter (t g stretch : Nat) (tiles : List Nat) : List SectMeas → List SectMeas
  | [] => [{ gen := g, cut := false, steps := 0, holds := 0, stretches := 0, openTiles := tiles, startStretch := stretch }]
  | m :: ms =>
    let without := fun (l : List SectMeas) => l.map fun x => { x with openTiles := x.openTiles.filter (· ≠ t) }
    if m.gen = g && m.openTiles.contains t then m :: without ms
    else if m.gen ≠ g && older g m.gen then m :: sectsAfter t g stretch tiles ms
    else
      { gen := g, cut := false, steps := 0, holds := 0, stretches := 0, openTiles := tiles, startStretch := stretch }
        :: without (m :: ms)

/-- A tile's swap into generation g entered into its region's measurements (R187). -/
def noteSwap (s : State) (t g : Nat) : State :=
  let p := regionOfTile t
  let tiles := (regionTiles p).filter fun x => !bypassed s x && (x = t || !pastGen s g x)
  updRegion s p fun r => settleSects { r with sects := sectsAfter t g r.stretch tiles r.sects }

/-- A tile in a section that a rollback brought back enters its region's measurements: that of its generation if it stands open, or a
new one (R187, log 105). -/
def joinSection (s : State) (t : Nat) : State :=
  let l := (tileOf s t).lat
  let ms := (regionOfNo s (regionOfTile t)).sects
  if !l.running || ms.any (fun m => m.gen = l.activeGen && m.openTiles.contains t) then s
  else if ms.any fun m => m.gen = l.activeGen then
    updRegion s (regionOfTile t) fun r => { r with
      sects := r.sects.map fun m => if m.gen = l.activeGen then { m with openTiles := m.openTiles ++ [t] } else m }
  else noteSwap s t l.activeGen

/-! A cycle of a section (R169 to R176, R179). -/

/-- The steering choice for the n-th pair: the data token, its action byte (R179). -/
def steerPair (l : Lattice) (p : Plane) (n : Nat) : Option (Token × Nat) :=
  match l.pairData[n]?, l.pairCtl[n]? with
  | some d, some c => some (d, (p.steerAct.getD (c.val.toNat % 16) 0).toNat)
  | _, _ => none

/-- The lattice outputs a step drives: SEND ports, and the lattice outputs the due STEERs choose (R174, R179). -/
def stepOuts (l : Lattice) (p : Plane) (due : List (DWord × Nat)) : List Nat :=
  let sends := (due.filter fun x => eOp x.1 = 2).map fun x => latIndex (eNet x.1) (ePort x.1)
  let nst := (due.filter fun x => eOp x.1 = 4).length
  sends ++ (List.range nst).filterMap fun n =>
    match steerPair l p n with
    | some (_, a) => if bit a 7 && outKind p (a % 4) = 1 then some (latIndex (steerNet p) (outPort p (a % 4))) else none
    | none => none

/-- Lattice-port lines of an action: 1 for a scalar or control token, 2 for a vector token (R171). -/
def tokenLines (net : Nat) : Nat := if net = 1 then 2 else 1

/-- Lines that the writes of a step need: its RECVs and its steered scratchpad tokens (R171). -/
def writeLines (l : Lattice) (p : Plane) (due : List (DWord × Nat)) : Nat :=
  let nst := (due.filter fun x => eOp x.1 = 4).length
  ((due.filter fun x => eOp x.1 = 3).map fun x => tokenLines (eNet x.1)).foldl (· + ·) 0
    + ((List.range nst).map fun n =>
        match steerPair l p n with
        | some (_, a) => if bit a 7 && outKind p (a % 4) = 2 then tokenLines (steerNet p) else 0
        | none => 0).foldl (· + ·) 0

/-- Word address of the k-th action of a SEND or RECV (R171). -/
def actWord (e : DWord) (k : Nat) : Nat := ((eAddr e : Int) + (k : Int) * eStride e).toNat

/-- The line reads of a step's SENDs, in entry order: absolute offset and bytes (R171). The copy of an MX or PZ descriptor and its
SADDR words takes no lattice-port line here: the spec counts lines for scalar and vector actions only (DESIGN CHOICE, log 100). -/
def sendReads (p : Plane) (due : List (DWord × Nat)) : List (Nat × Nat) :=
  (due.filter fun x => eOp x.1 = 2).flatMap fun x =>
    let a := p.base + actWord x.1 x.2 * 4
    if eNet x.1 = 1 then [(a, 16), (a + 16, 16)] else [(a, 4)]

/-- The tokens of a step's SENDs from the lines read, in entry order: network, port, payload (R171). -/
def sendTokens : List (DWord × Nat) → List Nat → List (Nat × Nat × Nat)
  | [], _ => []
  | x :: due, vs =>
    if eOp x.1 ≠ 2 then sendTokens due vs
    else if eNet x.1 = 1 then
      (1, ePort x.1, vs.getD 0 0 + vs.getD 1 0 * 2 ^ 128) :: sendTokens due (vs.drop 2)
    else
      (eNet x.1, ePort x.1, if eNet x.1 = 2 then vs.getD 0 0 % 16 else vs.getD 0 0) :: sendTokens due (vs.drop 1)

/-- A WAIT's condition (R173). -/
def waitMet (k : Tile) (e : DWord) : Bool :=
  if eKind e = 0 then k.core.released.getLsbD (eSel e)
  else (ringAt k (eSel e)).head ≠ (ringAt k (eSel e)).tail

/-- The cause of a hold apart from the lattice port's lines, the lowest code that applies; 0 for none (R174, R176). Two
tokens on one output cannot both go in one cycle (R161), so such a step holds (log 28). -/
def holdCauseOf (s : State) (t : Nat) (p : Plane) (due : List (DWord × Nat)) : Nat :=
  let k := tileOf s t
  let recvs := (due.filter fun x => eOp x.1 = 3).map fun x => latIndex (eNet x.1) (ePort x.1)
  let nst := (due.filter fun x => eOp x.1 = 4).length
  let outs := stepOuts k.lat p due
  if recvs.any fun i => (usable k.lat i).length < recvs.count i then 1
  else if outs.any (fun o => !outRoom s t (o / 8) (o % 8)) || !decide outs.Nodup then 2
  else if nst > min k.lat.pairData.length k.lat.pairCtl.length then 3
  else if k.mxQ.length + (due.filter fun x => eOp x.1 = 5).length > 4
    || k.pzQ.length + (due.filter fun x => eOp x.1 = 6).length > 4 then 4
  else if due.any fun x => eOp x.1 = 8 && !waitMet k x.1 then 6
  else 0


/-- A step advances the operations under way (R172). -/
def steppedOp (o : EngOp) : EngOp := { o with left := o.left.map (· - 1) }

/-- A hold: it is counted, the run grows (R174, R176). -/
def holdCycle (s : State) (t cause : Nat) : State :=
  updLat (addHolds s t 1) t fun l => { l with holdRun := l.holdRun + 1, holdCause := cause }

/-- A RECV: the head popped and written (R169, R171). -/
def doRecv (s : State) (t : Nat) (p : Plane) (e : DWord) (k : Nat) : State :=
  let i := latIndex (eNet e) (ePort e)
  match latQ (tileOf s t).lat.inq i with
  | [] => s
  | tok :: q =>
    let s := updLat s t fun l => { l with inq := smSet l.inq i q }
    writeNum s t (p.base + actWord e k * 4) (tokenWords (eNet e) * 4) tok.val.toNat

/-- A STEER that fires (R179): the pair is popped; the data token is dropped, sent, or written at the output's running
pointer; a write outside the captured bound is not made and raises ENG_BOUND. -/
def doSteer (s : State) (t : Nat) (p : Plane) : State :=
  match steerPair (tileOf s t).lat p 0 with
  | none => s
  | some (d, a) =>
    let s := updLat s t fun l => { l with pairData := l.pairData.drop 1, pairCtl := l.pairCtl.drop 1 }
    let o := a % 4
    let drop := fun s => updLat s t fun l => { l with steerDrops := l.steerDrops + 1 }
    if !bit a 7 then drop s
    else if outKind p o = 1 then emitToken s t (steerNet p) (outPort p o) { d with gen := plGen p }
    else
      let w := (tileOf s t).lat.steerPtr.getD o 0
      let n := tokenWords (steerNet p)
      if inBound p.base p.bound (w * 4) (n * 4) then
        let s := updLat s t fun l => { l with steerPtr := l.steerPtr.set o (w + n) }
        writeNum s t (p.base + w * 4) (n * 4) d.val.toNat
      else tileFault (drop s) t (plTask p) 0x07 (w32 (w * 4)) false

/-- A scheduled issue: the descriptor copied with the plane's base and bound (R166, R172). -/
def engOpOf (s : State) (t : Nat) (p : Plane) (a : Nat) (s0 s1 : Word) : EngOp :=
  { desc := readSpad s t (p.base + a * 4) 64, base := p.base, bound := p.bound, slot := plTask p, off := a * 4
    s0 := s0, s1 := s1, started := false, issuedAt := some ((tileOf s t).core.stepCnt + 1) }

/-- The descriptors a step issues, read before any write of the step (R171, R172). -/
def stepIssues (s : State) (t : Nat) (p : Plane) (due : List (DWord × Nat)) : List (Bool × EngOp) :=
  due.filterMap fun x =>
    if eOp x.1 = 5 then some (true, engOpOf s t p (eAddr x.1) 0 0)
    else if eOp x.1 = 6 then
      let w := fun n => w32 (readNum s t (p.base + (eSaddr x.1 + n) * 4) 4)
      some (false, engOpOf s t p (eAddr x.1) (w 0) (w 1))
    else none

/-- One action of a step in entry order, apart from SEND and the issues. -/
def doAct (s : State) (t : Nat) (p : Plane) (x : DWord × Nat) : State :=
  match eOp x.1 with
  | 3 => doRecv s t p x.1 x.2
  | 4 => doSteer s t p
  | 7 => arriveTile s t (eCh x.1)
  | _ => s

/-- The section ends in the tile (R170): its engines advance every cycle from here (R172). -/
def sectionEnd (s : State) (t : Nat) : State :=
  let s := noteEnd s t false
  updTile s t fun k => { k with
    mxQ := k.mxQ.map fun o => { o with left := none }
    pzQ := k.pzQ.map fun o => { o with left := none }
    lat := { k.lat with running := false } }

/-- A step taken: every action of it, STEP_CNT, the next step number; END ends the section (R169 to R174). -/
def takeStep (s : State) (t : Nat) (p : Plane) (due : List (DWord × Nat)) (vals : List Nat) : State :=
  let g := plGen p
  let issues := stepIssues s t p due
  let s := (sendTokens due vals).foldl
    (fun s x => emitToken s t x.1 x.2.1 { gen := g, val := BitVec.ofNat 256 x.2.2 }) s
  let s := due.foldl (fun s x => doAct s t p x) s
  let s := updTile s t fun k => { k with mxQ := k.mxQ.map steppedOp, pzQ := k.pzQ.map steppedOp }
  let s := issues.foldl (fun s x => updTile s t fun k =>
    if x.1 then { k with mxQ := k.mxQ ++ [x.2] } else { k with pzQ := k.pzQ ++ [x.2] }) s
  let s := updTile s t fun k => settle { k with
    core := { k.core with stepCnt := k.core.stepCnt + 1 }
    lat := { k.lat with stepNo := k.lat.stepNo + 1, lines := [], reserved := false, holdRun := 0, holdCause := 0, stallDone := false } }
  if (tileOf s t).lat.stepNo ≥ planeEnd p then sectionEnd s t else s

/-- The ranges that a step's issues copy (R171, R172). -/
def issueLines (p : Plane) (due : List (DWord × Nat)) : List (Nat × Nat) :=
  due.flatMap fun x =>
    if eOp x.1 = 5 then [(p.base + eAddr x.1 * 4, 64)]
    else if eOp x.1 = 6 then [(p.base + eAddr x.1 * 4, 64), (p.base + eSaddr x.1 * 4, 8)]
    else []

/-- A displaced line costs an engine a cycle now (R123, R144): an operation is under way, the executing one or the one whose fill and
body overlap its drain, and the array's buffer may be empty. -/
def canDisplace (k : Tile) (prism : Bool) : Bool :=
  (queueOf k prism).any fun o => begun o && (prism || mxStarves o.desc)

/-- A cycle that a displaced line adds to an engine's operation under a schedule: a hold of the tile with no step, among the region's
displaced cycles (R123, R144). R176 gives it no cause code: 0 stands for none (log 101). -/
def displacedCycle (s : State) (t : Nat) (prism : Bool) : State :=
  holdCycle (updCtr s (regionOfTile t) fun r =>
    if prism then { r with pzDisp := (r.pzDisp + 1) % 2 ^ 64 } else { r with mxDisp := (r.mxDisp + 1) % 2 ^ 64 }) t 0

/-- The scratchpad ranges that the writes of a step's RECVs and steered tokens cover (R171, R179). -/
def stepWrites (l : Lattice) (p : Plane) (due : List (DWord × Nat)) : List (Nat × Nat) :=
  let nst := (due.filter fun x => eOp x.1 = 4).length
  ((due.filter fun x => eOp x.1 = 3).map fun x => (p.base + actWord x.1 x.2 * 4, tokenWords (eNet x.1) * 4))
    ++ (List.range nst).filterMap fun n =>
      match steerPair l p n with
      | some (_, a) => if bit a 7 && outKind p (a % 4) = 2
        then some (p.base + l.steerPtr.getD (a % 4) 0 * 4, tokenWords (steerNet p) * 4) else none
      | none => none

/-- The lines of the present step that a cycle grants: the lattice port asks for the first two that are not granted yet, and a bank
denies those whose bit in `denied` is set (R65, R171). -/
def grantedLines (need denied : Nat) (lines : SMap Nat) : List Nat :=
  ((((List.range need).filter fun i => (smGet lines i).isNone).take 2).zipIdx.filter fun x => !bit denied x.2).map (·.1)

/-- One cycle of a running section (R174): a step, or a hold. The lattice port takes 2 lines a cycle once every other condition has
held, from when on what the step found stays reserved for it; each read returns what its line holds in the cycle of its grant (R171). -/
def sectionCycle (s : State) (t : Nat) (p : Plane) (denied : Nat) (displaced : Option Bool) (errs : LineErrors) : State :=
  let l := (tileOf s t).lat
  let due := dueAt p l.stepNo
  let cause := if l.reserved then 0 else holdCauseOf s t p due
  if cause ≠ 0 then holdCycle s t cause
  else
    let reads := sendReads p due
    let need := reads.length + writeLines l p due
    let granted := grantedLines need denied l.lines
    let whole := decide (l.lines.length + granted.length ≥ need)
    let parts := (stepWrites l p due).flatMap fun w => partLines w.1 w.2
    onLines s t (granted.filterMap (reads[·]?) ++ (if whole then issueLines p due ++ parts else [])) errs fun s =>
      let got := granted.foldl (fun m i =>
        smSet m i (match reads[i]? with | some r => readNum s t r.1 r.2 | none => 0)) l.lines
      let held := updLat s t fun l => { l with lines := got, reserved := true }
      if !whole then holdCycle held t 5
      else match displaced with
        | some prism =>
          if canDisplace (tileOf s t) prism then displacedCycle held t prism else takeStep s t p due (got.map (·.2))
        | none => takeStep s t p due (got.map (·.2))

/-- A tile in a section. -/
def inSection (s : State) (t : Nat) : Option Plane :=
  if tileActs s t && (tileOf s t).lat.running then (tileOf s t).lat.active else none

/-- Places of an engine's queue kept for the step whose other conditions have held (R171). -/
def reservedPlaces (s : State) (t : Nat) (prism : Bool) : Nat :=
  let l := (tileOf s t).lat
  match inSection s t with
  | some p => if !l.reserved then 0
    else ((dueAt p l.stepNo).filter fun x => eOp x.1 = if prism then 6 else 5).length
  | none => 0

/-- An engine's operation has had its last step: its completion belongs to that step and comes before the next one (R116, R172,
log 101). -/
def engineDue (k : Tile) : Bool :=
  (k.mxQ.head?.toList ++ k.pzQ.head?.toList).any fun o => o.started && o.left = some 0

/-- Meaning of STEP: one cycle of the tile's active section (R174). `planeUe`: a double-bit error in the active plane is the
region fault CFG_UE (R164). `denied`: which of the lattice port's lines of this cycle a bank denies, a bit each (R65). `displaced`: a
line of the array (false) or of Prism (true) is displaced where the engine needs it (R123, R144). -/
def execStep (t denied : Nat) (planeUe : Bool) (displaced : Option Bool) (errs : LineErrors) (s : State) : Res :=
  .next (match inSection s t with
    | none => s
    | some p =>
      if planeUe then regionFault s (regionOfTile t) 0x25 0 (some t) 0
      else if engineDue (tileOf s t) then s
      else sectionCycle s t p denied displaced errs)

/-- Meaning of STALL_EVENT: a run of holds that has reached STALL_LIMIT x 256 cycles is recorded once (R176). -/
def execStallEvent (t : Nat) (s : State) : Res :=
  .next (match inSection s t with
    | none => s
    | some p =>
      let k := tileOf s t
      if p.stallLimit ≠ 0 && k.lat.holdRun ≥ p.stallLimit.toNat * 256 && !k.lat.stallDone then
        let l := k.core.ltile.getD 0
        let s := updLat s t fun l => { l with stallDone := true }
        let s := logRegion s (regionOfTile t) 0x0302 1 l k.lat.holdCause
        loupeTile s t 0x04 k.lat.holdCause l
      else s)

/-- Meaning of LATTICE_TOKEN_ARRIVAL: the first token on the link enters the input's queue, or the crossing's queue
where the link passes one (R160, R177, R202). -/
def execLatticeTokenArrival (t inp : Nat) (s : State) : Res :=
  .next (if !tileRuns s t then s else
    match latQ (tileOf s t).lat.flight inp with
    | [] => s
    | k :: q =>
      let crossing := match linkTile s t (inp % 8) with | some t' => viaCrossing t t' | none => false
      updTile s t fun x =>
        let l := { x.lat with flight := smSet x.lat.flight inp q }
        if crossing then { x with lat := { l with xq := smSet l.xq inp (latQ l.xq inp ++ [k]) } }
        else settle { x with lat := { l with inq := smSet l.inq inp (latQ l.inq inp ++ [k]) } })

/-- Meaning of ROUTED_FORWARD: the head token of an input goes to every output its route words drive, if all have room
(R163). -/
def execRoutedForward (t inp : Nat) (s : State) : Res :=
  .next (if !tileRuns s t then s else
    match (tileOf s t).lat.active, usable (tileOf s t).lat inp with
    | some p, k :: _ =>
      let outs := (p.routes.filter fun w => latIndex (rtNet w) (rtIn w) = inp).map fun w => (rtNet w, rtOut w)
      if !outs.isEmpty && outs.all fun o => outRoom s t o.1 o.2 then
        let s := outs.foldl (fun s o => emitToken s t o.1 o.2 k) s
        updTile s t fun x => settle { x with lat := { x.lat with inq := smSet x.lat.inq inp ((latQ x.lat.inq inp).drop 1) } }
      else s
    | _, _ => s)

/-- Meaning of PAIRING_QUEUE_MOVE: a usable token at the steering unit's data or control input moves into its pairing
queue, if that has room (R179). -/
def execPairingQueueMove (t : Nat) (control : Bool) (s : State) : Res :=
  .next (if !tileRuns s t then s else
    match (tileOf s t).lat.active with
    | none => s
    | some p =>
      let i := if control then latIndex 2 (steerCin p) else latIndex (steerNet p) (steerDin p)
      let l := (tileOf s t).lat
      match usable l i with
      | [] => s
      | k :: _ =>
        if steerEn p && (if control then l.pairCtl else l.pairData).length < 4 then
          updTile s t fun x =>
            let l := { x.lat with inq := smSet x.lat.inq i ((latQ x.lat.inq i).drop 1) }
            settle { x with lat :=
              if control then { l with pairCtl := l.pairCtl ++ [k] } else { l with pairData := l.pairData ++ [k] } }
        else s)

/-- No input and no pairing queue holds a token of the active or an older generation (R181). -/
def drained (l : Lattice) : Bool :=
  let old := fun (k : Token) => genDiff k.gen l.activeGen = 0 || older k.gen l.activeGen
  (match l.active with
   | none => true
   | some _ => !(l.inq.any fun e => e.2.any old) && !(l.pairData.any old) && !(l.pairCtl.any old))

/-- The swap (R181): the shadow becomes active at step 0; the old section is cut if it runs; older tokens go (R177); the
steering pointers are reset (R179). -/
def swapPlane (s : State) (t : Nat) (p : Plane) (cut : Bool) : State :=
  let k := tileOf s t
  let g := k.lat.shadowGen
  let ended := sectSteps k
  let s := if k.lat.running then noteEnd s t true else s
  let s := noteSwap s t g
  let s := updTile s t fun k =>
    let oldD := (k.lat.pairData.filter fun x => x.gen ≠ g).length
    let oldC := (k.lat.pairCtl.filter fun x => x.gen ≠ g).length
    settle { k with
      core := addDiscards k.core (oldD + oldC)
      lat := { k.lat with
        active := some p, shadow := none, shadowValid := false, pend := none, activeGen := g, running := true
        stepNo := 0, lines := [], reserved := false, holdRun := 0, holdCause := 0, stallDone := false
        pairData := k.lat.pairData.filter fun x => x.gen = g
        pairCtl := k.lat.pairCtl.filter fun x => x.gen = g
        steerPtr := (List.range 4).map (outBase p)
        startStep := k.core.stepCnt, startHold := k.core.holdCnt } }
  let s := loupeTile s t 0x03 (g + b2n cut * 16) ended
  if planeEnd p = 0 then sectionEnd s t else s

/-- Meaning of PLANE_SWAP: the pending swap's mode takes effect (R181): a cut at once, a drain once the tile has reached END
and its queues are drained. -/
def execPlaneSwap (t : Nat) (s : State) : Res :=
  .next (if !tileActs s t then s else
    let l := (tileOf s t).lat
    match l.pend, l.shadow with
    | some cut, some p => if cut || (!l.running && drained l) then swapPlane s t p cut else s
    | _, _ => s)

end Sys2Proof.Machine
end

