-- ==== Sys2Proof/Machine/ObjectTable.lean ====
section
/-! DEFINITION. The object table of the dictionary (R405, R421 and the tables it names): type, access and default of every
object, and the range its Meaning column gives. -/

namespace Sys2Proof.Machine

/-- Access codes (R12). -/
inductive AccKind
  | ro | rw | rws | wo | w1c | konst
  deriving DecidableEq, Repr

/-- An object's type code (R405), access and default. -/
structure ObjDef where
  typ : Nat
  acc : AccKind
  dflt : Nat := 0
  deriving DecidableEq, Repr

/-- Type codes (R405). -/
def tBool : Nat := 1
def tU8 : Nat := 2
def tU16 : Nat := 3
def tU32 : Nat := 4
def tU64 : Nat := 5
def tI16 : Nat := 7
def tI64 : Nat := 9
def tString : Nat := 0xC
def tDomain : Nat := 0xD

/-- Bytes of a value of a numeric type (R405). -/
def typeBytes (t : Nat) : Nat :=
  match t with
  | 1 | 2 | 6 => 1
  | 3 | 7 => 2
  | 4 | 8 | 0xA => 4
  | 5 | 9 | 0xB => 8
  | _ => 0

/-- Status codes (R409). -/
def stOk : Nat := 0
def stNoObject : Nat := 1
def stAccess : Nat := 2
def stRange : Nat := 3
def stType : Nat := 4
def stState : Nat := 5
def stLocked : Nat := 6
def stBusy : Nat := 7
def stSequence : Nat := 8
def stCrc : Nat := 9
def stStore : Nat := 0xA
def stReserved : Nat := 0xB
def stNoSession : Nat := 0xC
def stIncomplete : Nat := 0xD

/-- Row of a table. -/
abbrev Row := Nat × ObjDef

/-- A row of a table. -/
def row (sub typ : Nat) (acc : AccKind) (d : Nat := 0) : Row := (sub, { typ := typ, acc := acc, dflt := d })

/-- The rows of an index in 0x1000 to 0x20FF (R418, R353, R354, R419, R217, R281). -/
def rowsLow (i : Nat) : List Row :=
  match i with
  | 0x1008 => [row 1 tString .konst]
  | 0x100A => [row 1 tString .ro]
  | 0x1010 => [row 1 tU8 .rws 3, row 2 tU8 .rws 1, row 3 tU16 .rws 1000, row 4 tU8 .ro, row 5 tU32 .ro, row 6 tU32 .ro]
  | 0x1011 => [row 1 tU8 .rws 3, row 2 tU16 .rws 20055, row 3 tDomain .rws, row 4 tDomain .konst]
  | 0x1012 => [row 1 tU32 .rws 10000, row 2 tU32 .ro, row 3 tU32 .ro, row 4 tU8 .rws 0x1E]
  | 0x1018 => [row 1 tU32 .konst, row 2 tU32 .konst, row 3 tU32 .konst, row 4 tU32 .konst]
  | 0x1020 => [row 1 tU8 .wo, row 2 tU32 .ro, row 3 tU32 .ro, row 4 tU32 .ro, row 5 tU32 .ro]
  | 0x1030 => [row 1 tU16 .rws 0xFFFF]
  | 0x1031 => [row 1 tU16 .rw, row 2 tU64 .rws, row 3 tU8 .wo, row 4 tU32 .ro, row 5 tDomain .rws, row 6 tU16 .ro]
  | 0x2000 => [row 1 tU8 .ro, row 2 tU8 .ro, row 3 tU64 .ro, row 4 tU8 .wo, row 5 tU16 .rws 4544, row 6 tU32 .w1c]
  | 0x2010 => [row 1 tU8 .ro, row 2 tU8 .ro, row 3 tU8 .ro, row 4 tU32 .rws 60, row 5 tU32 .ro, row 6 tU64 .ro,
      row 7 tBool .rws 1, row 8 tU32 .ro, row 9 tU32 .ro, row 0xA tU8 .ro]
  | 0x2020 => [row 1 tU8 .rws, row 2 tU64 .ro, row 3 tU64 .wo, row 4 tU8 .ro, row 5 tU8 .rws 0xFF, row 6 tU8 .rws,
      row 7 tU8 .rws, row 8 tBool .rws, row 9 tI64 .ro, row 0xA tU32 .ro]
  | _ => []

/-- The rows of an index in 0x2100 to 0x23FF (R478, R479, R461, R462). -/
def rowsPowerBoot (i : Nat) : List Row :=
  match i with
  | 0x2100 => [row 1 tU32 .ro, row 2 tU32 .ro, row 3 tU32 .ro, row 4 tU32 .ro, row 5 tU64 .ro, row 6 tU8 .ro, row 7 tU8 .wo]
  | 0x2110 => [row 1 tU32 .ro, row 2 tU32 .ro, row 3 tU8 .ro, row 4 tU32 .ro, row 5 tU16 .ro, row 6 tU32 .ro]
  | 0x2200 => [row 1 tI16 .ro, row 2 tI16 .ro, row 3 tI16 .ro, row 4 tU16 .ro, row 5 tU16 .ro, row 6 tI16 .ro, row 7 tU16 .ro,
      row 8 tU16 .ro, row 9 tU16 .ro, row 0xA tU32 .ro, row 0xB tI16 .rws 300, row 0xC tU16 .rws 250,
      row 0x10 tI16 .konst, row 0x11 tI16 .konst, row 0x12 tI16 .konst, row 0x13 tI16 .konst]
  | 0x2300 => [row 1 tU8 .ro, row 2 tU8 .ro, row 3 tU8 .ro, row 4 tU8 .ro, row 5 tU8 .ro, row 6 tU32 .ro, row 7 tU8 .ro,
      row 8 tU8 .ro, row 9 tU8 .ro, row 0xA tU64 .ro, row 0xB tU8 .ro, row 0xC tU16 .ro, row 0xD tU8 .rws, row 0xE tU8 .ro]
  | 0x2310 => [row 1 tDomain .konst, row 2 tDomain .konst, row 3 tU8 .wo, row 4 tU8 .ro]
  | 0x2320 => [row 1 tU8 .wo, row 2 tU32 .rw, row 3 tDomain .wo, row 4 tU64 .rw, row 5 tU32 .rw, row 6 tU8 .ro, row 7 tU8 .ro]
  | 0x2330 => [row 1 tDomain .wo, row 2 tDomain .ro, row 3 tU8 .ro]
  | 0x2340 => [row 1 tDomain .ro, row 2 tDomain .wo, row 3 tU32 .ro, row 4 tU8 .wo]
  | _ =>
    if 0x2350 ≤ i ∧ i < 0x2358 then [row 1 tDomain .ro, row 2 tDomain .wo, row 3 tBool .ro, row 4 tU8 .wo]
    else if i = 0x2360 ∨ i = 0x2361 then [row 1 tU32 .ro, row 2 tU64 .wo, row 3 tU8 .ro]
    else []

/-- The rows of an index in 0x2400 to 0x27FF (R336, R296, R289, R285, R291, R295, R403, R382). -/
def rowsRun (i : Nat) : List Row :=
  match i with
  | 0x2400 => [row 1 tU16 .ro, row 2 tU16 .ro, row 3 tU16 .ro, row 4 tU16 .ro, row 5 tU16 .ro, row 6 tU32 .ro, row 7 tU32 .ro]
  | 0x2410 => [row 1 tU32 .rws 200, row 2 tU8 .rws, row 3 tU32 .rws 1000, row 4 tU8 .rws 16, row 5 tU64 .rws, row 6 tU64 .rws,
      row 7 tU32 .ro, row 8 tU64 .ro, row 9 tU32 .ro, row 0xA tU32 .ro, row 0xB tU64 .ro]
  | 0x2420 => [row 1 tU32 .ro, row 2 tU32 .ro, row 3 tU8 .ro, row 4 tU64 .ro, row 5 tU64 .ro, row 6 tU16 .rws 100,
      row 7 tU16 .rws 24, row 8 tU16 .wo, row 9 tU16 .wo]
  | 0x2500 => [row 1 tU32 .rws, row 2 tU8 .rws 0xFF, row 3 tU32 .rws, row 4 tU32 .ro]
  | 0x2501 => (List.range 32).map fun k => row (k + 1) tU32 .ro
  | 0x2508 => [row 1 tU32 .rws 100, row 2 tU32 .ro]
  | 0x2580 => [row 1 tU8 .rws 3, row 2 tDomain .rws, row 3 tU16 .rws 20056, row 4 tU8 .rws, row 5 tU32 .ro]
  | 0x2600 => [row 1 tU16 .rws 20057, row 2 tU16 .rws 1024, row 3 tU16 .rws 500, row 4 tU16 .rws 10, row 5 tU16 .ro,
      row 6 tU64 .ro, row 7 tU64 .ro, row 8 tU32 .ro, row 9 tU32 .ro]
  | _ =>
    if 0x2510 ≤ i ∧ i < 0x2550 then [row 1 tU64 .rw, row 2 tU64 .rw, row 3 tU8 .wo, row 4 tU8 .ro, row 5 tU8 .ro, row 6 tU64 .ro]
    else if 0x2560 ≤ i ∧ i < 0x2580 then [row 1 tU64 .rws, row 2 tU32 .wo, row 3 tU32 .ro, row 4 tU64 .ro, row 5 tU32 .ro]
    else if 0x2700 ≤ i ∧ i < 0x2708 then
      [row 1 tU8 .ro, row 2 tU8 .wo, row 3 tU8 .rws, row 4 tU64 .rws, row 5 tDomain .wo, row 6 tU16 .ro, row 7 tU32 .ro,
        row 8 tDomain .ro, row 9 tDomain .ro, row 0xA tDomain .ro, row 0xB tBool .rws, row 0xC tU16 .ro, row 0xD tU16 .ro]
    else []

/-- The rows of an index from 0x3000 on (R341, R376, R422, R423, R431, R298). -/
def rowsHigh (i : Nat) : List Row :=
  if 0x3000 ≤ i ∧ i < 0x3020 then
    [row 1 tU8 .rws, row 2 tU8 .rws 3, row 3 tU8 .rws 1, row 4 tBool .rws, row 5 tU8 .ro, row 6 tU32 .ro, row 7 tU32 .ro,
      row 8 tU32 .ro, row 9 tBool .rws, row 0xA tU8 .rws, row 0xB tU64 .rws, row 0xC tU64 .rws, row 0xD tU8 .rws 1,
      row 0xE tU8 .rws, row 0xF tU16 .rws 0xFFFF, row 0x10 tU32 .rw 0x7FFFF, row 0x11 tU16 .rw, row 0x12 tDomain .rws,
      row 0x13 tDomain .konst]
  else if 0x3100 ≤ i ∧ i < 0x3120 then
    ((List.range 5).map fun k => row (k + 1) tU64 .ro) ++ ((List.range 14).map fun k => row (k + 6) tU32 .ro)
      ++ [row 0x14 tDomain .ro]
  else if 0x4000 ≤ i ∧ i < 0x5200 then
    [row 1 tU8 .ro, row 2 tU16 .ro, row 3 tU8 .ro, row 4 tI16 .ro, row 5 tU16 .ro, row 6 tU16 .ro, row 7 tU8 .ro, row 8 tU32 .ro,
      row 9 tU64 .ro, row 0xA tU64 .ro, row 0xB tU8 .ro, row 0xC tU8 .ro, row 0xD tU32 .ro, row 0xE tU32 .ro, row 0xF tU64 .ro,
      row 0x10 tBool .ro, row 0x11 tDomain .ro, row 0x12 tU32 .ro, row 0x13 tU32 .ro, row 0x14 tU8 .ro, row 0x15 tU64 .ro,
      row 0x16 tU64 .ro, row 0x17 tU64 .ro, row 0x18 tDomain .ro, row 0x19 tU8 .wo, row 0x1A tU32 .ro]
      ++ [row 0x20 tU64 .ro, row 0x21 tU32 .ro, row 0x22 tU64 .ro, row 0x23 tU64 .ro, row 0x24 tU32 .ro,
        row 0x28 tU64 .ro, row 0x29 tU32 .ro, row 0x2A tU64 .ro, row 0x2B tU64 .ro, row 0x2C tU32 .ro, row 0x30 tU64 .ro]
      ++ ((List.range 7).map fun k => row (0x31 + k) tU32 .ro) ++ ((List.range 6).map fun k => row (0x38 + k) tU32 .ro)
      ++ [row 0x3E tU64 .ro, row 0x40 tDomain .ro] ++ ((List.range 7).map fun k => row (0x41 + k) tU32 .ro)
      ++ [row 0x48 tU32 .ro, row 0x49 tDomain .ro, row 0x4A tU32 .ro, row 0x4B tU8 .ro, row 0x4C tU32 .ro, row 0x4D tU32 .ro,
        row 0x4E tU8 .ro, row 0x4F tU64 .ro, row 0x50 tU64 .ro, row 0x51 tU64 .ro]
  else if 0x5800 ≤ i ∧ i < 0x5830 then
    [row 1 tU8 .ro, row 2 tU8 .ro, row 3 tU8 .ro, row 4 tU8 .ro, row 5 tU8 .ro, row 6 tI16 .ro, row 7 tU8 .ro, row 8 tU64 .ro]
  else if i = 0x6000 then
    [row 1 tU32 .ro, row 2 tU32 .ro, row 3 tU32 .rw, row 4 tDomain .ro, row 5 tU32 .ro, row 6 tU8 .rws 2, row 7 tU8 .wo]
  else if i = 0x6100 then
    [row 1 tU32 .rws 0x118, row 2 tU8 .rws, row 3 tU8 .wo, row 0x10 tU16 .rw, row 0x11 tDomain .ro, row 0x12 tU32 .ro]
  else []

/-- The definition of an object; none where the index and subindex hold no object (R406, R421, R426). -/
def objDef (i sub : Nat) : Option ObjDef :=
  let look := fun (rs : List Row) => (rs.find? fun r => r.1 = sub).map (·.2)
  if i < 0x1F00 then look (rowsLow i)
  else if i = 0x1F00 then if sub < 17 then some { typ := tU64, acc := .konst } else none
  else if i < 0x2000 then none
  else if i < 0x2100 then look (rowsLow i)
  else if i < 0x2400 then look (rowsPowerBoot i)
  else if i < 0x3000 then look (rowsRun i)
  else look (rowsHigh i)

/-- An object is a STRING or DOMAIN (R408). -/
def isLong (d : ObjDef) : Bool := d.typ = tString || d.typ = tDomain

/-- The default of a number object (R405). -/
def defaultOf (i sub : Nat) : Nat := ((objDef i sub).map (·.dflt)).getD 0

/-- An object keeps its value in the configuration store (R12). -/
def isRws (i sub : Nat) : Bool := ((objDef i sub).map (·.acc)) = some AccKind.rws

/-- A value in a closed range, else RANGE. -/
def within (v lo hi : Nat) : Nat := if lo ≤ v ∧ v ≤ hi then stOk else stRange

/-- A value without bits outside a mask, else RESERVED (R11). -/
def masked (v mask : Nat) : Nat := if v &&& mask = v then stOk else stReserved

/-- A value of a list, else RANGE. -/
def oneOf (v : Nat) (l : List Nat) : Nat := if l.contains v then stOk else stRange

/-- An event object's configuration (R291). -/
def eventConfigStatus (v : Nat) : Nat :=
  let kind := bits v 63 62
  let scope := bits v 61 60
  let target := bits v 50 32
  if bits v 59 51 ≠ 0 || bits v 31 16 ≠ 0 || scope = 3 then stReserved
  else if kind ≥ 2 && scope ≠ 0 then stRange
  else if (scope = 0 && target ≥ ltileCount) || (scope = 1 && target ≥ 4608) || (scope = 2 && target ≥ 8) then stRange
  else stOk

/-- The status that an object's own range gives a number (R406, R11). -/
def rangeStatus (i sub v : Nat) : Nat :=
  if 0x2510 ≤ i ∧ i < 0x2550 then (if sub = 3 then within v 0 1 else stOk)
  else if 0x2560 ≤ i ∧ i < 0x2580 then (if sub = 1 then eventConfigStatus v else stOk)
  else if 0x2700 ≤ i ∧ i < 0x2708 then
    (match sub with
     | 2 => within v 1 4
     | 3 => within v 0 1
     | 4 => if v % 4096 = 0 ∧ v < 2 ^ 46 then stOk else stRange
     | 0xB => within v 0 1
     | _ => stOk)
  else if 0x3000 ≤ i ∧ i < 0x3020 then
    (match sub with
     | 1 => within v 0 3
     | 2 => within v 1 3
     | 3 | 0xD => oneOf v [1, 2, 4, 8]
     | 4 | 9 => within v 0 1
     | 0xA => within v 0 15
     | 0xB | 0xC => if v % 2 ^ 30 = 0 ∧ v ≤ 2 ^ 46 then stOk else stRange
     | 0xE => within v 0 8
     | 0x10 => masked v 0x7FFFF
     | _ => stOk)
  else if 0x4000 ≤ i ∧ i < 0x5200 then within v 1 1
  else if 0x2350 ≤ i ∧ i < 0x2358 then within v 1 1
  else match i, sub with
  | 0x1010, 1 | 0x1011, 1 => masked v 3
  | 0x1010, 2 => within v 1 4
  | 0x1010, 3 => if v = 0 then stOk else within v 100 10000
  | 0x1012, 1 => within v 100 600000
  | 0x1012, 4 => masked v 0x1E
  | 0x1020, 1 | 0x1031, 3 | 0x2100, 7 | 0x2340, 4 | 0x6000, 7 => within v 1 1
  | 0x1031, 1 => within v 0 32767
  | 0x2000, 4 | 0x6100, 3 => within v 1 2
  | 0x2000, 5 => within v 64 4608
  | 0x2000, 6 => masked v 0x1FF
  | 0x2010, 4 => within v 1 86400
  | 0x2010, 7 | 0x2020, 8 => within v 0 1
  | 0x2020, 1 => within v 0 3
  | 0x2020, 5 | 0x2500, 2 => if v = 0xFF then stOk else within v 0 31
  | 0x2020, 6 | 0x2580, 4 | 0x6100, 2 => within v 0 1
  | 0x2020, 7 => within v 0 127
  | 0x2200, 0xB => within v 150 450
  | 0x2200, 0xC => within v 100 600
  | 0x2310, 3 => within v 0 3
  | 0x2320, 1 => within v 1 6
  | 0x2410, 1 => if v = 0 then stOk else within v 20 60000
  | 0x2410, 2 => within v 0 2
  | 0x2410, 3 => within v 100 100000
  | 0x2410, 4 => within v 1 255
  | 0x2410, 5 => if v % 4096 = 0 then stOk else stRange
  | 0x2420, 6 => within v 10 1000
  | 0x2420, 7 => within v 1 720
  | 0x2420, 8 | 0x2420, 9 | 0x6100, 0x10 => within v 0 4607
  | 0x2500, 1 => masked v 0x40FFFFFF
  | 0x2508, 1 => within v 10 100000
  | 0x2580, 1 => masked v 7
  | 0x2600, 2 => within v 1 16384
  | 0x2600, 3 => within v 0 60000
  | 0x2600, 4 => within v 1 1000
  | 0x6000, 6 => within v 0 4
  | 0x6100, 1 => masked v 0x7FE
  | _, _ => stOk

end Sys2Proof.Machine
end

