-- ==== Sys2Proof/Machine/Store.lean ====
section
/-! DEFINITION. The configuration store in module flash (R427 to R430): a journal of records, its scan at entry to AUX, its
compaction, and the failure of a write. -/

namespace Sys2Proof.Machine

/-- TYPE of a restore-defaults record (R427). -/
def tRestore : Nat := 0xF0

/-- The bytes of a value. -/
def valData (typ : Nat) (v : Val) : List Byte :=
  match v with
  | .num n => natLe (typeBytes typ) n
  | .bytes b => b

/-- Erased flash, as a word of 8 bytes (R427). -/
def blankWord : Nat := 0xFFFFFFFFFFFFFFFF

/-- A commit word (R427): its mark, then a number; a record's is its SEQ, a bank header's its generation (DESIGN CHOICE, log 8). -/
def commitWord (n : Nat) : Nat := 0x434D4954 * 2 ^ 32 + n % 2 ^ 32

/-- The bytes of a record before its CRC: header and padded payload (R427). -/
def recBody (r : StoreRec) : List Byte :=
  let b := valData r.typ r.val
  natLe 2 r.magic ++ natLe 1 r.typ ++ natLe 1 r.sub ++ natLe 2 r.index ++ natLe 2 0 ++ natLe 4 r.seq ++ natLe 4 b.length
    ++ padTo ((b.length + 7) / 8 * 8) b

/-- The bytes of a record in the journal (R427). -/
def recData (r : StoreRec) : List Byte := recBody r ++ natLe 4 r.crc ++ natLe 4 0 ++ natLe 8 r.commit

/-- A record that the scan takes: MAGIC, CRC and COMMIT are valid (R428). -/
def recValid (r : StoreRec) : Bool := r.magic = 0x5352 && r.crc = crc32 (recBody r) && r.commit = commitWord r.seq

/-- A record written whole (R427, R428). -/
def sealRec (typ index sub seq : Nat) (v : Val) : StoreRec :=
  let r : StoreRec := {
    typ := typ, index := index, sub := sub, seq := seq, val := v, magic := 0x5352, crc := 0, commit := commitWord seq }
  { r with crc := crc32 (recBody r) }

/-- Bytes of a record in the journal: header, payload padded to 8, CRC, reserved word and COMMIT (R427). -/
def recBytes (r : StoreRec) : Nat := 32 + ((valData r.typ r.val).length + 7) / 8 * 8

/-- Bytes of a bank (R427). -/
def bankBytes : Nat := 8 * 2 ^ 20

/-- A bank whose header carries a valid commit word (R427, R428). -/
def bankValid (b : Bank) : Bool := b.commit = commitWord b.generation

/-- The bank selected (R428): of those with a valid commit word the one with the higher generation; 0 or 1. -/
def activeBank (s : State) : Nat :=
  if bankValid s.store.bank1 && (!bankValid s.store.bank0 || s.store.bank1.generation > s.store.bank0.generation) then 1 else 0

/-- The active bank. -/
def theBank (s : State) : Bank := if activeBank s = 1 then s.store.bank1 else s.store.bank0

/-- A bank replaced. -/
def setBank (s : State) (n : Nat) (b : Bank) : State :=
  { s with store := if n = 1 then { s.store with bank1 := b } else { s.store with bank0 := b } }

/-- Bytes used in a bank, its header included (0x1020.03). -/
def usedBytes (b : List StoreRec) : Nat := 64 + (b.map recBytes).foldl (· + ·) 0

/-- The stored values that a scan of records finds (R428, R430): it ends at the first record that is not valid, and a
restore-defaults record drops what precedes it. -/
def scanRecs : List StoreRec → SMap Val → SMap Val
  | [], m => m
  | r :: rs, m =>
    if !recValid r then m
    else if r.typ = tRestore then scanRecs rs []
    else scanRecs rs (smSet m (objKey r.index r.sub) r.val)

/-- The values that the next scan finds. -/
def storedVals (s : State) : SMap Val := scanRecs (theBank s).recs []

/-- A value equals its object's default; the DOMAINs of 0x1011.03, 0x1031.05 and 0x3000 + p.12 are zeros by default, and 0x2580.02 is empty. -/
def isDefault (k : Nat) (v : Val) : Bool :=
  match v with
  | .num n => n = defaultOf (k / 256) (k % 256)
  | .bytes b => b.isEmpty || (k / 256 ≠ 0x2580 && b.all (· = 0))

/-- A record for an object. -/
def recordOf (k seq : Nat) (v : Val) : StoreRec :=
  sealRec (((objDef (k / 256) (k % 256)).map (·.typ)).getD 0) (k / 256) (k % 256) seq v

/-- The records that a compaction writes (R429): the stored values that differ from their defaults. -/
def compactRecs (s : State) : List StoreRec :=
  ((storedVals s).filter fun e => !isDefault e.1 e.2).zipIdx.map fun e => recordOf e.1.1 (s.store.seq + e.2) e.1.2

/-- A flash write that fails (R429): the counter, the alert, the event, and none in answer. -/
def storeFails (s : State) (index sub : Nat) : State :=
  let s := { s with store := { s.store with failures := (s.store.failures + 1) % 2 ^ 32 } }
  setAlert (logEvent s 0x0500 2 index sub) 5

/-- Compaction (R429): the other bank takes the stored values that differ from their defaults, and becomes active with the next
generation. A flash that cannot be written leaves the old bank in force, and the failure is counted (log 8). -/
def compact (s : State) : State :=
  if s.store.broken then storeFails s 0 0
  else
    let recs := compactRecs s
    let g := ((theBank s).generation + 1) % 2 ^ 32
    let s := setBank s (1 - activeBank s) { generation := g, commit := commitWord g, recs := recs }
    { s with store := { s.store with
      seq := (s.store.seq + recs.length) % 2 ^ 32, compactions := (s.store.compactions + 1) % 2 ^ 32 } }

/-- The active bank takes one more record. -/
def hasRoom (s : State) (r : StoreRec) : Bool := usedBytes (theBank s).recs + recBytes r ≤ bankBytes

/-- A record appended, after a compaction if the bank cannot take it (R428, R429). Without room after that, or with a flash that fails,
the write fails. -/
def appendRec (s : State) (r : StoreRec) : State × Bool :=
  let put := fun (s : State) =>
    let b := theBank s
    let s := setBank s (activeBank s) { b with recs := b.recs ++ [sealRec r.typ r.index r.sub s.store.seq r.val] }
    { s with store := { s.store with seq := (s.store.seq + 1) % 2 ^ 32 } }
  if s.store.broken then (storeFails s r.index r.sub, false)
  else if hasRoom s r then (put s, true)
  else
    let s := compact s
    if hasRoom s r then (put s, true) else (storeFails s r.index r.sub, false)

/-- A write of the configuration store that a loss of power cuts short (R428, R429): a record without its COMMIT, or a compaction
without its header. -/
def tearStore (s : State) (x : Torn) : State :=
  match x with
  | .record index sub v =>
    let b := theBank s
    let typ := ((objDef index sub).map (·.typ)).getD 0
    let r := { sealRec typ index sub s.store.seq (if typ = tString || typ = tDomain then .bytes v else .num (leNat v)) with commit := blankWord }
    if isRws index sub && hasRoom s r then setBank s (activeBank s) { b with recs := b.recs ++ [r] } else s
  | .compaction n => setBank s (1 - activeBank s) { recs := (compactRecs s).take n }
  | _ => s

/-- The key of 0x1011.02 or .03 as in force at a management port (R418). -/
def mgmtKey (sub port : Nat) : Nat := objKey 0x1011 sub + 2 ^ 24 * (port + 1)

/-- A management port takes the stored values of 0x1011.02 and .03 (R418). -/
def mgmtTakes (s : State) (port : Nat) : State :=
  let take := fun (m : SMap Val) (sub : Nat) => match smGet s.dict.vals (objKey 0x1011 sub) with
    | some v => smSet m (mgmtKey sub port) v
    | none => smDel m (mgmtKey sub port)
  { s with dict := { s.dict with inForce := take (take s.dict.inForce 2) 3 } }

/-- The scan at entry to AUX (R428): every RWS object has its stored value or its default; objects that are not stored keep
what they hold. -/
def scanStore (s : State) : State :=
  let keep := s.dict.vals.filter fun e => !isRws (e.1 / 256) (e.1 % 256)
  let vals := (storedVals s).foldl (fun m e => smSet m e.1 e.2) keep
  mgmtTakes (mgmtTakes { s with dict := { s.dict with
    vals := vals
    inForce := vals.filter fun e => e.1 = objKey 0x1010 2 } } 0) 1

end Sys2Proof.Machine
end

