-- ==== Sys2Proof/Machine/Messages.lean ====
section
/-! DEFINITION. The commands of the message engine (chapter 09): validation, injection, tracking, arrivals and receive rings,
NAKs, remote writes and reads. -/

namespace Sys2Proof.Machine

/-! Fields of a message header (R247) and of a body descriptor (R248). -/

def hClass (h : List Byte) : Nat := fld h 0 1 % 4
def hPri (h : List Byte) : Nat := fld h 0 1 / 4 % 4
def hAck (h : List Byte) : Bool := bit (fld h 0 1) 4
def hFence (h : List Byte) : Bool := bit (fld h 0 1) 5
def hOp (h : List Byte) : Nat := fld h 1 1
def hEpoch (h : List Byte) : Nat := fld h 2 1
def hTag (h : List Byte) : Nat := fld h 4 2
def hSeq (h : List Byte) : Nat := fld h 6 2
def hDstDev (h : List Byte) : Nat := fld h 8 2
def hBody (h : List Byte) : Nat := fld h 0xA 2
def hDstLtile (h : List Byte) : Nat := fld h 0xC 4
def hCpl (h : List Byte) : Nat := fld h 0x10 4
def hCplCtl (h : List Byte) : Nat := fld h 0x14 4
def hCplEn (h : List Byte) : Bool := bit (hCplCtl h) 31
def hBeamEn (h : List Byte) : Bool := bit (hCplCtl h) 30
def hTimeout (h : List Byte) : Nat := if fld h 0x18 2 = 0 then 65536 else fld h 0x18 2 * 1024

def dAddr (d : List Byte) : Nat := fld d 0 8
def dLocal (d : List Byte) : Nat := fld d 8 4
def dLen (d : List Byte) : Nat := fld d 0xC 4
def dRStride (d : List Byte) : Nat := fld d 0x10 4
def dLStride (d : List Byte) : Nat := fld d 0x14 4
def dCount (d : List Byte) : Nat := fld d 0x18 2
def dFmt (d : List Byte) : Nat := fld d 0x1A 1
def dBulk (d : List Byte) : Bool := bit (fld d 0x1B 1) 0

/-- The descriptors of a PUT or GET body. -/
def descsOf (m : SendMsg) : List (List Byte) := (List.range (m.body.length / 32)).map fun i => slice m.body (32 * i) 32

/-- A descriptor's DEVICE is broadcast. -/
def dBroadcast (d : List Byte) : Bool := saDevice (dAddr d) = 0xFFFF

/-- The message is a MSG, a PUT, a GET, a reduction. -/
def isMsg (m : SendMsg) : Bool := hClass m.hdr ≠ 2 && hOp m.hdr = 0
def isPutGet (m : SendMsg) : Bool := hClass m.hdr ≠ 2 && hOp m.hdr ≠ 0

/-! Validation (R249). -/

/-- FIELD of a descriptor. -/
def descFieldBad (d : List Byte) : Bool :=
  dLen d = 0 || dCount d = 0 || dFmt d / 16 ≠ 0 || dFmt d % 16 > 0xC || fld d 0x1B 1 / 2 ≠ 0
  || fld d 0x1E 2 ≠ 0
  || (saSpace (dAddr d) = 2 && ((dLen d ≠ 4 && dLen d ≠ 8) || dCount d ≠ 1))

/-- FIELD of a header that is not a reduction's. -/
def headerFieldBad (m : SendMsg) : Bool :=
  let h := m.hdr
  hClass h = 3 || fld h 0 1 / 64 ≠ 0 || hOp h > 2 || fld h 3 1 ≠ 0 || fld h 0x1A 6 ≠ 0 || bits (hCplCtl h) 29 5 ≠ 0
  || (if hOp h = 0 then
        hBody h % 16 ≠ 0 || hBody h > (if hClass h = 0 then 32 else 256) || hDstLtile h / 2 ^ 19 ≠ 0
        || (hAck h && !hCplEn h && !hBeamEn h)
      else
        hBody h % 32 ≠ 0 || hBody h < 32 || hBody h > 256 || hDstDev h ≠ 0 || hDstLtile h ≠ 0 || hClass h ≠ 1
        || hAck h || (descsOf m).any descFieldBad)

/-- FIELD of a reduction header (R237). -/
def redFieldBad (h : List Byte) : Bool :=
  let rop := fld h 1 1
  fld h 0 1 / 16 ≠ 0 || rop % 16 > 7 || bits rop 7 6 > 1 || (bits rop 7 6 = 1 && rop % 16 > 1)
  || fld h 4 2 = 0 || fld h 6 1 = 0 || fld h 6 1 > 16 || (rop % 16 ≠ 0 && fld h 7 1 ≠ 0) || fld h 0x10 16 ≠ 0

/-- The status of a reduction header (R237, R249, log 34). -/
def redStatus (h : List Byte) : Nat :=
  let dest := fld h 8 8
  if redFieldBad h then 1
  else if dest % 16 ≠ 0 then 2
  else if saSpace dest ≠ 0 || saDevice dest = 0xFFFF || addressBad dest (16 + 16 * fld h 6 1) true then 6
  else 0

/-- ALIGN of a descriptor. -/
def descAlignBad (d : List Byte) : Bool :=
  dAddr d % 4 ≠ 0 || dLocal d % 4 ≠ 0 || dLen d % 4 ≠ 0 || dRStride d % 4 ≠ 0 || dLStride d % 4 ≠ 0

/-- A task-relative range lies inside the bound captured at issue. -/
def localOk (m : SendMsg) (off len : Nat) : Bool := off + len ≤ m.bound && m.base + off + len ≤ spadBytes

/-- The completion record can be written. -/
def msgCplOk (m : SendMsg) : Bool := hCplEn m.hdr && hCpl m.hdr % 8 = 0 && localOk m (hCpl m.hdr) 8

/-- A local row of a GET meets the completion record. -/
def rowsMeetCpl (m : SendMsg) (d : List Byte) : Bool :=
  (List.range (dCount d)).any fun r =>
    let a := dLocal d + r * dLStride d
    a < hCpl m.hdr + 8 && hCpl m.hdr < a + dLen d

/-- The status of R249: the first failure in the table's order. -/
def msgStatus (m : SendMsg) : Nat :=
  let h := m.hdr
  if hClass h = 2 then redStatus h
  else if headerFieldBad m then 1
  else
    let ds := if hOp h = 0 then [] else descsOf m
    if (hCplEn h && hCpl h % 8 ≠ 0) || ds.any descAlignBad then 2
    else if ds.any fun d => dCount d > 1 && (if hOp h = 2 then dLStride d < dLen d else dRStride d < dLen d) then 3
    else if (hCplEn h && !localOk m (hCpl h) 8)
      || ds.any (fun d => !localOk m (dLocal d) ((dCount d - 1) * dLStride d + dLen d)) then 4
    else if hOp h = 2 && hCplEn h && ds.any (rowsMeetCpl m) then 5
    else if ds.any (fun d => addressBad (dAddr d) ((dCount d - 1) * dRStride d + dLen d) (hOp h = 1))
      || (hOp h = 0 && (hDstDev h = 0xFFFF || hDstLtile h ≥ ltileCount)) then 6
    else 0

/-- A failed message's end (R249): its record, if that can be written, and its beam arrival. -/
def msgFail (s : State) (t : Nat) (m : SendMsg) (status : Nat) : State :=
  if hClass m.hdr = 2 then s
  else if hCplEn m.hdr && !msgCplOk m then
    (if hBeamEn m.hdr then arriveTile s t (hCplCtl m.hdr % 32) else s)
  else msgDone s t m status 0

/-- The lines that a failed message's record covers in part (R66, R249). -/
def failLines (m : SendMsg) : List (Nat × Nat) := if hClass m.hdr ≠ 2 && msgCplOk m then msgLines m else []

/-- Meaning of SEND_QUEUE_VALIDATE (R67, R249): a failing message leaves the queue with its error completion; BOUND raises
ENG_BOUND (R77). `errs`: what the checks of the record's lines find. -/
def execSendQueueValidate (t : Nat) (errs : LineErrors) (s : State) : Res :=
  .next (if !tileActs s t then s else
    match (tileOf s t).msg.sendQ with
    | [] => s
    | m :: rest =>
      if m.validated then s else
      let status := msgStatus m
      if status = 0 then updMsg s t fun e => { e with sendQ := { m with validated := true } :: rest }
      else
        let s := updMsg s t fun e => { e with sendQ := rest }
        let s := updCtr s (regionOfTile t) fun c => { c with sendErr := (c.sendErr + 1) % 2 ^ 32 }
        onLines s t (failLines m) errs fun s =>
          let s := msgFail s t m status
          if status = 4 then tileFault s t m.slot 0x07 (BitVec.ofNat 32 m.off) false else s)

/-! Injection (R239, R250, R253, R255). -/

/-- A lane at entry and the flags it sets (R238, R239). -/
def entryLane (rop win x : Nat) : Option (BitVec 128) × Nat :=
  match rop % 16 with
  | 0 =>
    if f32.isNaN x then (some 0, 4)
    else if f32.isInf x then (some 0, if f32.sign x then 16 else 8)
    else
      let (n, inexact) := roundTo 0 (f32.sign x) (f32.man x) (f32.exp x) ((win : Int) - 160)
      let top := 2 ^ 110 - 1
      let m := min n top
      let v : Int := if f32.sign x then -(m : Int) else m
      (some (BitVec.ofInt 128 v), (if inexact then rNX else 0) + (if n > top then rSAT else 0))
  | 1 => (some (BitVec.ofInt 128 (toSigned 32 x)), 0)
  | 2 | 3 => if f32.isNaN x then (none, 4) else (some (BitVec.ofNat 128 x), 0)
  | _ => (some (BitVec.ofNat 128 x), 0)

/-- The packet of a contribution (R237). -/
def redPacket (s : State) (t : Nat) (m : SendMsg) : Packet :=
  let h := m.hdr
  let rop := fld h 1 1
  let n := fld h 6 1
  let win := fld h 7 1
  let dest := fld h 8 8
  let es := (List.range n).map fun i => entryLane rop win (fld m.body (4 * i) 4)
  let r : Reduction := {
    rop := rop, cid := fld h 2 2, contrib := fld h 4 2, n := n, win := win, dest := dest
    flags := (es.map (·.2)).foldl orF 0, lanes := es.map (·.1) }
  { mkPacket .data 2 7 (hPri h) (saDevice dest) (saTile dest) s.fabric.devId ((tileOf s t).core.ltile.getD 0) [] with
    flits := 1 + (n + 3) / 4, red := some r }

/-- The packet of a MSG (R255). -/
def msgPacket (s : State) (t : Nat) (m : SendMsg) (txid : Nat) : Packet :=
  let h := m.hdr
  let payload := h.take 16 ++ natLe 1 txid ++ List.replicate 15 0 ++ m.body
  let own := (tileOf s t).core.ltile.getD 0
  if hClass h = 0 then mkPacket .control 0 0 (hPri h) (hDstDev h) (hDstLtile h) s.fabric.devId own payload
  else mkPacket .data 0 1 (hPri h) (hDstDev h) (hDstLtile h) s.fabric.devId own payload

/-- The pieces of a descriptor: remote address, absolute local offset, bytes (R253). -/
def piecesOf (m : SendMsg) (d : List Byte) : List (Nat × Nat × Nat) :=
  (List.range (dCount d)).flatMap fun r =>
    (List.range ((dLen d + 255) / 256)).map fun i =>
      (dAddr d + r * dRStride d + 256 * i, m.base + dLocal d + r * dLStride d + 256 * i, min 256 (dLen d - 256 * i))

/-- The packet of one piece (R253, R255). -/
def piecePacket (s : State) (t : Nat) (m : SendMsg) (d : List Byte) (txid : Nat) (x : Nat × Nat × Nat) : Packet :=
  let (a, loc, len) := x
  let own := (tileOf s t).core.ltile.getD 0
  let pri := hPri m.hdr
  let put := hOp m.hdr = 1
  if saSpace a = 2 then
    mkPacket .control 0 0xA pri (saDevice a) 0 s.fabric.devId own
      (natLe 8 a ++ (if put then natLe 8 (readNum s t loc len) else List.replicate 8 0)
        ++ natLe 1 (b2n put) ++ natLe 1 len ++ natLe 1 txid ++ List.replicate 5 0)
  else if put then
    mkPacket .data (if dBulk d then 3 else 0) 2 pri (saDevice a) (saTile a) s.fabric.devId own
      (natLe 8 a ++ natLe 2 len ++ natLe 1 txid ++ natLe 1 (b2n (dBroadcast d)) ++ List.replicate 4 0
        ++ readSpad s t loc len)
  else
    mkPacket .data 0 3 pri (saDevice a) (saTile a) s.fabric.devId own
      (natLe 8 a ++ natLe 2 len ++ natLe 1 txid ++ natLe 1 (b2n (dBulk d)) ++ natLe 4 loc)

/-- The packets of a PUT or GET in order; a broadcast write also goes to this device's own tile (R37, R253, R360). -/
def putGetPackets (s : State) (t : Nat) (m : SendMsg) (txid : Nat) : List Packet :=
  (descsOf m).flatMap fun d => (piecesOf m d).flatMap fun x =>
    let k := piecePacket s t m d txid x
    if dBroadcast d && saSpace x.1 = 0 then [{ k with dstDev := s.fabric.devId }, k] else [k]

/-- The message is tracked (R250). -/
def isTracked (m : SendMsg) : Bool :=
  if isMsg m then hAck m.hdr
  else isPutGet m && (hOp m.hdr = 2 || !((descsOf m).all dBroadcast))

/-- Packets queued, the last one carrying the completion of an untracked message (R251). -/
def queuePackets (s : State) (t : Nat) (ks : List Packet) (cpl : Option SendMsg) : State :=
  let n := ks.length
  updMsg s t fun e => { e with
    outPk := e.outPk ++ ks.zipIdx.map fun k => { pkt := k.1, cpl := if k.2 + 1 = n then cpl else none, start := cyclesNow s t } }

/-- The next reuse count of a tracking entry (R251); entry 0 skips 0, since a TXID of 0 says untracked (R255, log 35). -/
def nextReuse (e r : Nat) : Nat := if e = 0 && (r + 1) % 16 = 0 then 1 else (r + 1) % 16

/-- A tracking entry taken for a message (R250, R251). -/
def takeTrack (s : State) (t e : Nat) (m : SendMsg) : State × Nat :=
  let r := nextReuse e ((tileOf s t).msg.reuse.getD e 0)
  let txid := e + 16 * r
  let pieces := (descsOf m).flatMap fun d => if dBroadcast d then [] else (piecesOf m d).map fun x => (d, x)
  let tr : Track := {
    txid := txid, op := hOp m.hdr, cls := fld m.hdr 0 1, tag := hTag m.hdr, seq := hSeq m.hdr
    cpl := if hCplEn m.hdr then some (m.base + hCpl m.hdr) else none
    beam := if hBeamEn m.hdr then some (hCplCtl m.hdr % 32) else none
    timeout := hTimeout m.hdr, start := cyclesNow s t, waiting := if isMsg m then 1 else pieces.length, slot := m.slot
    ctl := (pieces.filter fun p => saSpace p.2.1 = 2).map fun p => (p.2.1, p.2.2.1) }
  (updMsg s t fun x => { x with track := x.track.set e (some tr), reuse := x.reuse.set e r }, txid)

/-- The head of the send queue injected (R250): tracked operations take an entry, FENCE waits for the earlier ones. A MSG to the
sending tile itself passes inside the engine (R247). -/
def injectHead (s : State) (t : Nat) (m : SendMsg) (rest : List SendMsg) (errs : LineErrors) : State :=
  let e := (tileOf s t).msg
  if hClass m.hdr ≠ 2 && hFence m.hdr && e.track.any (·.isSome) then s
  else
    let s := updMsg s t fun x => { x with sendQ := rest }
    if hClass m.hdr = 2 then queuePackets s t [redPacket s t m] none
    else
      let (s, txid) := match isTracked m, e.track.findIdx? (·.isNone) with
        | true, some n => takeTrack s t n m
        | _, _ => (s, 0)
      let cpl := if isTracked m then none else some m
      if isMsg m then
        let k := msgPacket s t m txid
        if k.dstDev = s.fabric.devId && (tileOf s t).core.ltile = some k.dstLtile then
          cplDone (arriveAt s t k) t { pkt := k, cpl := cpl, start := cyclesNow s t } 0 errs
        else queuePackets s t [k] cpl
      else queuePackets s t (putGetPackets s t m txid) cpl

/-- The packet of a notify record, on CVC0 at priority 1 (R294, log 63). -/
def notifyPacket (s : State) (t : Nat) (r : NotifyRec) : Packet :=
  mkPacket .control 0 0xB 1 s.fabric.devId 0x7FFFF s.fabric.devId ((tileOf s t).core.ltile.getD 0)
    (natLe 8 r.stamp ++ natLe 4 r.source ++ natLe 4 r.ltile ++ natLe 4 r.payload ++ List.replicate 4 0)

/-- A notify record is on its way from the engine. -/
def notifyLeaves (m : MsgEngine) : Bool := m.outPk.any fun o => o.pkt.kind = 0xB

/-- The local rows that a PUT reads, absolute (R248, R253). -/
def putRows (m : SendMsg) : List (Nat × Nat) :=
  if isPutGet m && hOp m.hdr = 1 then (descsOf m).flatMap fun d => (piecesOf m d).map fun x => x.2 else []

/-- Meaning of MSG_INJECTION (R67, R250, R253, R294): a notify record goes first; nothing is injected from the send queue while the
tile stops for a snapshot (R321). `errs`: what the checks of the lines that a PUT reads, or a record covers in part, find. -/
def execMsgInjection (t : Nat) (errs : LineErrors) (s : State) : Res :=
  .next (if !tileActs s t then s else
    match (tileOf s t).msg.notify with
    | r :: rs =>
      if notifyLeaves (tileOf s t).msg then s
      else queuePackets (updMsg s t fun m => { m with notify := rs }) t [notifyPacket s t r] none
    | [] =>
    if (tileOf s t).snap.stopping then s else
    match (tileOf s t).msg.sendQ with
    | [] => s
    | m :: rest =>
      if !m.validated then s
      else if isTracked m && (tileOf s t).msg.track.all (·.isSome) then s
      else onLines s t (putRows m) errs fun s => injectHead s t m rest errs)

/-! Completion of tracked operations (R251, R252). -/

/-- The entry that a TXID names, if its reuse count agrees. -/
def trackOf (s : State) (t txid : Nat) : Option (Nat × Track) :=
  match (tileOf s t).msg.track.getD (txid % 16) none with
  | some x => if x.txid = txid then some (txid % 16, x) else none
  | none => none

/-- A tracked operation's end: the entry freed, the record written in the next cycle with CYCLES from the first injection cycle, the
beam arrival (R251). -/
def trackDone (s : State) (t e : Nat) (x : Track) (status : Nat) : State :=
  let n := min (cyclesSince s t x.start + 1) 0xFFFFFFFF
  let s := updMsg s t fun m => { m with track := m.track.set e none }
  let s := match x.cpl with
    | some a => writeNum s t a 8 (n * 2 ^ 32 + status * 65536 + x.tag)
    | none => s
  match x.beam with
  | some ch => arriveTile s t ch
  | none => s

/-- The lines that the record of a tracked operation covers in part (R66, R251). -/
def trackLines (x : Track) : List (Nat × Nat) := (x.cpl.map fun a => partLines a 8).getD []

/-- The same where a response is the last one. -/
def lastLines (x : Track) : List (Nat × Nat) := if x.waiting ≤ 1 then trackLines x else []

/-- One response of an operation counted in; the last completes it. -/
def responseIn (s : State) (t e : Nat) (x : Track) : State :=
  if x.waiting ≤ 1 then trackDone s t e x 0
  else updMsg s t fun m => { m with track := m.track.set e (some { x with waiting := x.waiting - 1 }) }

/-- A late response discarded (R252). -/
def countLate (s : State) (t : Nat) : State :=
  updCtr s (regionOfTile t) fun c => { c with late := (c.late + 1) % 2 ^ 32 }

/-- A control-space reply, and whether it belongs to a GET. -/
def isCtlReply (k : Packet) : Bool := k.kind = 0xA && fld k.payload 0x10 1 = 2
def ctlOfGet (s : State) (t : Nat) (k : Packet) : Bool :=
  match trackOf s t (pkTxid k) with
  | some (_, x) => x.op = 2
  | none => false

/-- A control-space reply taken in: a refused one ends the operation with REFUSED (R254); a read's data are written, the replies to
accesses of one address to their descriptors in order (R253). -/
def ctlReply (s : State) (t : Nat) (k : Packet) (errs : LineErrors) : State :=
  match trackOf s t (pkTxid k) with
  | none => countLate s t
  | some (e, x) =>
    if fld k.payload 0x13 1 ≠ 0 then onLines s t (trackLines x) errs fun s => trackDone s t e x 0x07
    else
      let n := fld k.payload 0x11 1
      let dest := if x.op = 2 then x.ctl.find? fun c => c.1 = pkAddr k else none
      onLines s t ((dest.map fun c => partLines c.2 n).getD [] ++ lastLines x) errs fun s =>
        let s := match dest with
          | some c => writeSpad s t c.2 (slice k.payload 8 n)
          | none => s
        responseIn s t e { x with ctl := x.ctl.eraseP fun c => c.1 = pkAddr k }

/-- A response to one of the engine's own remote writes, which carry TXID 0 (R324). -/
def ofEngine (s : State) (t : Nat) (k : Packet) : Bool := pkTxid k = 0 && (tileOf s t).snap.unacked ≠ 0

/-- One of the engine's own remote writes is answered (R324). -/
def copyAnswered (s : State) (t : Nat) : State :=
  updTile s t fun k => { k with snap := { k.snap with unacked := k.snap.unacked - 1 } }

/-- Meaning of ACK_ARRIVAL (R67, R251, R252): an acknowledgement, or the reply to a control-space write. `errs`: what the checks of
the lines that a write covers in part find; so in the commands that follow. -/
def execAckArrival (t : Nat) (errs : LineErrors) (s : State) : Res :=
  .next (if !tileRuns s t then s else
    match takeArrived s t (fun k => k.kind = 5 || (isCtlReply k && !ctlOfGet s t k)) with
    | none => s
    | some (k, s) =>
      if k.kind = 5 then
        match trackOf s t (pkTxid k) with
        | some (e, x) => onLines s t (lastLines x) errs fun s => responseIn s t e x
        | none => if ofEngine s t k then copyAnswered s t else countLate s t
      else ctlReply s t k errs)

/-- Meaning of READ_REPLY_ARRIVAL (R67, R251, R252): a late reply writes nothing. -/
def execReadReplyArrival (t : Nat) (errs : LineErrors) (s : State) : Res :=
  .next (if !tileRuns s t then s else
    match takeArrived s t (fun k => k.kind = 4 || (isCtlReply k && ctlOfGet s t k)) with
    | none => s
    | some (k, s) =>
      if k.kind = 4 then
        match trackOf s t (pkTxid k) with
        | some (e, x) =>
          let a := fld k.payload 0 4
          let n := fld k.payload 4 2
          onLines s t (partLines a n ++ lastLines x) errs fun s => responseIn (writeSpad s t a (slice k.payload 16 n)) t e x
        | none => countLate s t
      else ctlReply s t k errs)

/-- Meaning of SENDER_TIMEOUT (R67, R252). -/
def execSenderTimeout (t entry : Nat) (errs : LineErrors) (s : State) : Res :=
  .next (if !tileRuns s t then s else
    match (tileOf s t).msg.track.getD entry none with
    | some x =>
      let s := updCtr s (regionOfTile t) fun c => { c with timeouts := (c.timeouts + 1) % 2 ^ 32 }
      onLines s t (trackLines x) errs fun s => trackDone s t entry x 0x20
    | none => s)

/-! Receive rings (R256 to R263). -/

/-- The ring a tag selects (R60). -/
def tagRing (c : Core) (tag : Nat) : Option Nat :=
  (c.tagm.find? fun w => bit w.toNat 31 && (bit w.toNat 30 || bits w.toNat 15 0 = tag)).map fun w => bits w.toNat 17 16

/-- Where an entry of length e goes: its place, and the skip marker before it (R258). -/
def placeEntry (r : Ring) (e : Nat) : Option (Nat × Option (Nat × Nat)) :=
  if r.tail ≥ r.head then
    if r.tail + e < r.size || (r.tail + e = r.size && r.head ≠ 0) then some (r.tail, none)
    else if e < r.head then some (0, some (r.tail, r.size - r.tail))
    else none
  else if r.tail + e < r.head then some (r.tail, none) else none

/-- The checks of R256 on a message. -/
inductive Check
  | accept (ring place : Nat) (skip : Option (Nat × Nat))
  | nak (reason : Nat) (ring : Option Nat)
  | noRoom (ring : Nat)
  deriving DecidableEq, Repr

/-- R256, in its order. -/
def checkMsg (k : Tile) (p : Packet) : Check :=
  match tagRing k.core (fld p.payload 4 2) with
  | none => .nak 4 none
  | some n =>
    let r := ringAt k n
    let e := 32 + fld p.payload 0xA 2
    if !r.isOpen then .nak 2 (some n)
    else if fld p.payload 2 1 ≠ 0 && fld p.payload 2 1 ≠ r.epoch then .nak 3 (some n)
    else if e + 16 > r.size then .nak 5 (some n)
    else match placeEntry r e with
      | some (place, skip) => .accept n place skip
      | none => .noRoom n

/-- A ring entry with STAMP still 0 (R257). -/
def entryBytes (len ekind cls tag seq srcDev body srcLtile epoch reason op txid : Nat) (data : List Byte) : List Byte :=
  natLe 2 len ++ natLe 1 ekind ++ natLe 1 cls ++ natLe 2 tag ++ natLe 2 seq ++ natLe 2 srcDev ++ natLe 2 body
    ++ natLe 4 srcLtile ++ List.replicate 8 0 ++ natLe 1 epoch ++ natLe 1 reason ++ natLe 1 op ++ natLe 1 txid
    ++ List.replicate 4 0 ++ data

/-- The entry of a message (R257). -/
def msgEntry (k : Packet) : List Byte :=
  let f := fun off len => fld k.payload off len
  entryBytes (32 + f 0xA 2) 1 (f 0 1) (f 4 2) (f 6 2) k.srcDev (f 0xA 2) k.srcLtile (f 2 1) 0 0 0
    (slice k.payload 0x20 (f 0xA 2))

/-- An acknowledgement of a message or a remote write, on the network of what it answers (R254, R261). Its priority, and that of a
read reply, is that of the packet answered: the spec gives none (DESIGN CHOICE, log 100). -/
def ackPacket (k : Packet) : Packet :=
  mkPacket k.net 1 5 k.pri k.srcDev k.srcLtile k.dstDev k.dstLtile (natLe 1 (pkTxid k) ++ List.replicate 15 0)

/-- A message accepted: it waits for its TAIL update (R261). -/
def acceptMsg (s : State) (t : Nat) (k : Packet) (ring place : Nat) (skip : Option (Nat × Nat)) : State :=
  let e := msgEntry k
  let p : RingPend := {
    ring := ring, place := place, len := e.length, skip := skip, entry := e, pkt := k, isNak := false }
  updMsg s t fun m => { m with ringPend := some p }

/-- A NAK of this engine: seen by Loupe, counted by reason, the ring marked for checks 2 to 5, sent to the source (R256, R262, R264,
R297). -/
def refuseMsg (s : State) (t : Nat) (k : Packet) (reason : Nat) (ring : Option Nat) : State :=
  let s := loupeNak s t k reason
  let s := updCtr s (regionOfTile t) fun c => { c with naks := c.naks.modify (reason - 1) fun n => (n + 1) % 2 ^ 32 }
  let s := match ring with
    | some n => updTile s t fun x => { x with rings := x.rings.modify n fun r => { r with naked := true } }
    | none => s
  queueOut s t (mkNak k reason)

/-- A message came from this tile itself. -/
def isLocalMsg (s : State) (t : Nat) (k : Packet) : Bool :=
  k.srcDev = s.fabric.devId && (tileOf s t).core.ltile = some k.srcLtile

/-- The message the engine tests next: of the control network, the data network and the local side, control class first,
then the lower SRC_LTILE, then the lower SRC_DEV (R260). Data messages wait while one is held (R259). -/
def nextMsg (s : State) (t : Nat) : Option Packet :=
  let l := (tileOf s t).msg.arrived
  let held := (tileOf s t).msg.hold.isSome
  let ready := fun (k : Packet) => k.kind = 0 || (k.kind = 1 && !held)
  let cs := [l.find? fun k => k.kind = 0 && !isLocalMsg s t k, l.find? fun k => k.kind = 1 && !isLocalMsg s t k && ready k,
    l.find? fun k => k.kind ≤ 1 && isLocalMsg s t k && ready k].filterMap id
  let key := fun (k : Packet) => (k.kind * 2 ^ 19 + k.srcLtile) * 65536 + k.srcDev
  match cs with
  | [] => none
  | c :: rest => some (rest.foldl (fun a b => if key b < key a then b else a) c)

/-- Meaning of MSG_ARRIVAL (R256, R259, R260). -/
def execMsgArrival (t : Nat) (s : State) : Res :=
  .next (if !tileRuns s t || (tileOf s t).msg.ringPend.isSome then s else
    match nextMsg s t with
    | none => s
    | some k =>
      let s := updMsg s t fun m => { m with arrived := m.arrived.erase k }
      match checkMsg (tileOf s t) k with
      | .accept ring place skip => acceptMsg s t k ring place skip
      | .nak reason ring => refuseMsg s t k reason ring
      | .noRoom ring =>
        if k.kind = 0 || (tileOf s t).core.holdWindow = 0 then refuseMsg s t k 1 (some ring)
        else
          let s := updCtr s (regionOfTile t) fun c => { c with holds := (c.holds + 1) % 2 ^ 32 }
          updMsg s t fun m => { m with hold := some (k, 0, (tileOf s t).core.holdWindow) })

/-- Meaning of HOLD_REGISTER_RETRY: a cycle of the hold, with checks 1 to 5 repeated (R259). -/
def execHoldRegisterRetry (t : Nat) (s : State) : Res :=
  .next (if !tileRuns s t then s else
    match (tileOf s t).msg.hold with
    | none => s
    | some (k, n, window) =>
      let s := updCtr s (regionOfTile t) fun c => { c with holdCycles := (c.holdCycles + 1) % 2 ^ 32 }
      let clear := fun s => updMsg s t fun m => { m with hold := none }
      let stay := updMsg s t fun m => { m with hold := some (k, n + 1, window) }
      match checkMsg (tileOf s t) k with
      | .nak reason ring => refuseMsg (clear s) t k reason ring
      | .accept ring place skip =>
        if (tileOf s t).msg.ringPend.isSome then stay else acceptMsg (clear s) t k ring place skip
      | .noRoom _ => stay)

/-- Meaning of HOLD_TIMEOUT: a hold of as many cycles as HOLD_WINDOW held at its start is refused (R57, R259). -/
def execHoldTimeout (t : Nat) (s : State) : Res :=
  .next (if !tileRuns s t then s else
    match (tileOf s t).msg.hold with
    | none => s
    | some (k, n, window) =>
      if n ≥ window then
        refuseMsg (updMsg s t fun m => { m with hold := none }) t k 7 (tagRing (tileOf s t).core (fld k.payload 4 2))
      else s)

/-- A NAK entry discarded (R262). -/
def countLostNak (s : State) (t : Nat) : State :=
  updCtr s (regionOfTile t) fun c => { c with lostNaks := (c.lostNaks + 1) % 2 ^ 32 }

/-- The skip marker: the first 16 bytes of an entry header with EKIND 0 (R257, R258). -/
def skipMarker (len : Nat) : List Byte := natLe 2 len ++ List.replicate 14 0

/-- The lines that an accepted entry and its skip marker cover in part (R66, R258, R261). -/
def entryLines (r : Ring) (p : RingPend) : List (Nat × Nat) :=
  (p.skip.map fun x => partLines (r.base + x.1) 16).getD [] ++ partLines (r.base + p.place) p.entry.length

/-- A segment that reaches the ring of the runtime's ingress tile (R39, R373, R377, R378): the datagram whose last one it is waits for the
runtime. -/
def noteSegment (s : State) (t : Nat) (k : Packet) : State :=
  if carrier s 364150 ≠ some t || fld k.payload 4 2 ≠ 0x4752 || k.kind ≠ 1 then s
  else
    let b := k.payload.drop 0x20
    let c : Client := {
      ip := beNat (slice b 0 16), udpPort := fld b 0x10 2, port := fld b 0x14 1 % 32, iface := fld b 0x14 1 / 32 }
    let same := fun (x : GrpPart) => x.client = c && x.seq = fld k.payload 6 2
    let x := (s.steward.parts.find? same).getD {
      client := c, seq := fld k.payload 6 2, len := fld b 0x12 2, nseg := fld b 0x16 1, segs := [] }
    let x := { x with segs := smSet x.segs (fld b 0x15 1) (b.drop 0x20) }
    let rest := s.steward.parts.filter fun y => !same y
    if (List.range x.nseg).all fun j => (smGet x.segs j).isSome then
      let data := ((List.range x.nseg).flatMap fun j => smGetD x.segs j []).take x.len
      { s with steward := { s.steward with parts := rest, inbox := s.steward.inbox ++ [(c, data)] } }
    else { s with steward := { s.steward with parts := rest ++ [x] } }

/-- Meaning of RING_TAIL_UPDATE (R67, R261): the entry is in memory with its STAMP, TAIL moves, a watched ring wakes the tile, the
acknowledgement starts. A ring closed meanwhile refuses the message with NAK RING_CLOSED, and loses a NAK entry (R262, R263; for an
entry already accepted the spec does not say: DESIGN CHOICE, log 35). -/
def execRingTailUpdate (t : Nat) (errs : LineErrors) (s : State) : Res :=
  .next (if !tileRuns s t then s else
    match (tileOf s t).msg.ringPend with
    | none => s
    | some p =>
      let s := updMsg s t fun m => { m with ringPend := none }
      let r := ringAt (tileOf s t) p.ring
      if p.closed then (if p.isNak then countLostNak s t else refuseMsg s t p.pkt 2 (some p.ring))
      else onLines s t (entryLines r p) errs fun s =>
        let s := match p.skip with
          | some (a, len) => writeSpad s t (r.base + a) (skipMarker len)
          | none => s
        let s := writeSpad s t (r.base + p.place) (setFld p.entry 0x10 8 (tileTb s t))
        let s := updTile s t fun x => { x with
          rings := x.rings.modify p.ring fun r => { r with tail := (p.place + p.len) % r.size } }
        let s := updCore s t fun c => if c.wakeCtl.getLsbD p.ring then wakeCondition c 1 else c
        let s := if p.isNak then s
          else noteSegment (updCtr s (regionOfTile t) fun c => { c with delivered := (c.delivered + 1) % 2 ^ 32 }) t p.pkt
        if !p.isNak && bit (fld p.pkt.payload 0 1) 4 then queueOut s t (ackPacket p.pkt) else s)

/-- The NAK entry for ring 0, or its loss (R262). -/
def nakEntry (s : State) (t : Nat) (k : Packet) (tag seq : Nat) : State :=
  let f := fun off => fld k.payload off 1
  let e := entryBytes 32 2 (f 3) tag seq k.srcDev 0 k.srcLtile (f 8) (f 0) (f 2) (f 1) []
  let r := ringAt (tileOf s t) 0
  match (if r.isOpen then placeEntry r 32 else none) with
  | some (place, skip) =>
    let p : RingPend := { ring := 0, place := place, len := 32, skip := skip, entry := e, pkt := k, isNak := true }
    updMsg s t fun m => { m with ringPend := some p }
  | none => countLostNak s t

/-- A snapshot write refused: the share that it belongs to fails, that of the tile's slot, or at the steward's tile those whose commit record
is being written (R324, R325; the spec names no other end: log 66). -/
def copyFailed (s : State) (t : Nat) : State :=
  let m := (regionOfNo s (regionOfTile t)).mslot
  let s := copyAnswered s t
  let fails := fun (e : Nat × ModelSlot) => e.2.share.isSome && (e.1 = m || (carrier s 364150 = some t && e.2.cmtRound = 4))
  { s with steward := { s.steward with
    slots := s.steward.slots.map fun e => (e.1, if fails e then { e.2 with logFail := true } else e.2) } }

/-- Meaning of NAK_ARRIVAL (R67, R262): the tracked operation completes with 0x10 + reason, and ring 0 takes a NAK entry; a NAK for a
freed entry is late (R252). -/
def execNakArrival (t : Nat) (errs : LineErrors) (s : State) : Res :=
  .next (if !tileRuns s t || (tileOf s t).msg.ringPend.isSome then s else
    match takeArrived s t (fun k => k.kind = 6) with
    | none => s
    | some (k, s) =>
      if ofEngine s t k && fld k.payload 2 1 = 1 then copyFailed s t
      else if pkTxid k = 0 then nakEntry s t k (fld k.payload 4 2) (fld k.payload 6 2)
      else match trackOf s t (pkTxid k) with
        | some (e, x) => onLines s t (trackLines x) errs fun s =>
          nakEntry (trackDone s t e x (0x10 + fld k.payload 0 1)) t k x.tag x.seq
        | none => countLate s t)

/-! Remote writes and reads (R254). -/

/-- A piece performed (R264). -/
def countServed (s : State) (t : Nat) : State :=
  updCtr s (regionOfTile t) fun c => { c with served := (c.served + 1) % 2 ^ 32 }

/-- Meaning of REMOTE_WRITE (R67, R254): the monitor area is refused with NAK BOUND; a broadcast is never answered. -/
def execRemoteWrite (t : Nat) (errs : LineErrors) (s : State) : Res :=
  .next (if !tileRuns s t then s else
    match takeArrived s t (fun k => k.kind = 2) with
    | none => s
    | some (k, s) =>
      let off := saOffset (pkAddr k)
      let len := fld k.payload 8 2
      let broadcast := isBroadcastWrite k
      if off < 0x2000 && len > 0 then
        (if broadcast then countDiscard s (regionOfTile t) else refuseMsg s t k 5 none)
      else onLines s t (partLines off len) errs fun s =>
        let s := countServed (writeSpad s t off (slice k.payload 16 len)) t
        if broadcast then s else queueOut s t (ackPacket k))

/-- The reply to a remote read (R253, R255). -/
def readReply (s : State) (t : Nat) (k : Packet) : Packet :=
  let len := fld k.payload 8 2
  let vc := if bit (fld k.payload 0xB 1) 0 then 3 else 1
  mkPacket .data vc 4 k.pri k.srcDev k.srcLtile k.dstDev k.dstLtile
    (slice k.payload 0xC 4 ++ natLe 2 len ++ natLe 1 (pkTxid k) ++ List.replicate 9 0
      ++ readSpad s t (saOffset (pkAddr k)) len)

/-- Meaning of REMOTE_READ (R67, R254). `errs`: what the checks of the lines read find. -/
def execRemoteRead (t : Nat) (errs : LineErrors) (s : State) : Res :=
  .next (if !tileRuns s t then s else
    match takeArrived s t (fun k => k.kind = 3) with
    | none => s
    | some (k, s) =>
      if saOffset (pkAddr k) < 0x2000 && fld k.payload 8 2 > 0 then refuseMsg s t k 5 none
      else onLines s t [(saOffset (pkAddr k), fld k.payload 8 2)] errs fun s => countServed (queueOut s t (readReply s t k)) t)

end Sys2Proof.Machine
end

