-- ==== Sys2Proof/Machine/Ethernet.lean ====
section
/-! DEFINITION. The commands of the Ethernet interfaces (R370 to R374). -/

namespace Sys2Proof.Machine

/-- Numbers of the frames an interface sends besides datagrams: ARP reply, neighbour advertisement, echo reply, ARP request,
neighbour solicitation. -/
def frArpReply : Nat := 0
def frAdvert : Nat := 1
def frEcho : Nat := 2
def frArpAsk : Nat := 3
def frSolicit : Nat := 4

/-- The record of an interface (R372). -/
def ifaceRec (s : State) (p i : Nat) : List Byte := slice (padTo 512 (dbytes s (0x3000 + p) 0x12 [])) (64 * i) 64

/-- Its fields: VLAN, IPv4 address and gateway, IPv6 address and gateway; addresses are in network order. -/
def ifVlan (r : List Byte) : Nat := fld r 0 2
def ifIp4 (r : List Byte) : Nat := beNat (slice r 4 4)
def ifGw4 (r : List Byte) : Nat := beNat (slice r 8 4)
def ifIp6 (r : List Byte) : Nat := beNat (slice r 0x10 16)
def ifGw6 (r : List Byte) : Nat := beNat (slice r 0x20 16)

/-- The check of a value for interface records (R372): 0 OK, else the status of the refusal. -/
def ifaceRecordsStatus (b : List Byte) : Nat :=
  let rs := (List.range (b.length / 64)).map fun i => slice b (64 * i) 64
  if rs.any fun r => fld r 0xC 4 ≠ 0 || (slice r 0x30 16).any (· ≠ 0) then 0x0B
  else if rs.any fun r => fld r 2 1 > 32 || fld r 3 1 > 128 || ifVlan r = 4095 then 0x03
  else 0

/-- The MAC address of interface i of port p (R490). -/
def ifaceMac (p i : Nat) : Nat := Config.macBase + 2 + 8 * p + i

/-- A frame sent by an interface, counted with the bytes it carries behind its Ethernet header, at least 46 (R376, log 39). -/
def ethSend (s : State) (p : Nat) (bytes : Nat) (x : Out) : State :=
  emit (updPortCtr s p fun c => { c with framesTx := c.framesTx + 1, bytesTx := c.bytesTx + max 46 bytes }) x

/-- Bytes of an IP header (published protocols, R10). -/
def ipHead (v6 : Bool) : Nat := if v6 then 40 else 20

/-- A frame counted as discarded (R372). -/
def ethDiscard (s : State) (p : Nat) : State :=
  updPortCtr s p fun c => { c with ethDiscards := (c.ethDiscards + 1) % 2 ^ 32 }

/-- A working interface's event. -/
def onIface (s : State) (p i : Nat) (f : State → State) : State :=
  if rimRuns s && p < 32 && ifaceUp s p i then f s else s

/-- A frame that the MAC accepts, of the interface's VLAN (R371, R372). -/
def ethGood (s : State) (p i : Nat) (e : EthHead) : Bool :=
  e.fcsGood && 64 ≤ e.size && e.size ≤ 9216 && e.vlan = ifVlan (ifaceRec s p i)

/-- A frame at a working interface: one that it does not accept is discarded and counted; one that the MAC accepts counts as received, with
the bytes behind its Ethernet header (R376, log 39). -/
def onFrame (s : State) (p i : Nat) (e : EthHead) (f : State → State) : State :=
  onIface s p i fun s =>
    if ethGood s p i e then
      f (updPortCtr s p fun c => { c with
        framesRx := c.framesRx + 1, bytesRx := c.bytesRx + (e.size - 18 - if e.vlan = 0 then 0 else 4) })
    else ethDiscard s p

/-- Meaning of ARP_REQUEST (R372). -/
def execArpRequest (p i : Nat) (eth : EthHead) (askMac askIp targetIp : Nat) (s : State) : Res :=
  .next (onFrame s p i eth fun s =>
    let own := ifIp4 (ifaceRec s p i)
    if targetIp = own && own ≠ 0 then
      ethSend s p 28 (.ethernet p i (ifVlan (ifaceRec s p i)) askMac frArpReply
        (natBe 6 (ifaceMac p i) ++ natBe 4 own ++ natBe 6 askMac ++ natBe 4 askIp))
    else ethDiscard s p)

/-- Meaning of NEIGHBOUR_SOLICITATION (R372). -/
def execNeighbourSolicitation (p i : Nat) (eth : EthHead) (askMac askIp targetIp : Nat) (s : State) : Res :=
  .next (onFrame s p i eth fun s =>
    let own := ifIp6 (ifaceRec s p i)
    if targetIp = own && own ≠ 0 then
      ethSend s p 72 (.ethernet p i (ifVlan (ifaceRec s p i)) askMac frAdvert (natBe 16 own ++ natBe 6 (ifaceMac p i) ++ natBe 16 askIp))
    else ethDiscard s p)

/-- Meaning of ICMP_ECHO_REQUEST (R372): answered up to 1,500 bytes. -/
def execIcmpEchoRequest (p i : Nat) (eth : EthHead) (v6 : Bool) (askMac askIp targetIp : Nat) (data : List Byte) (s : State) : Res :=
  .next (onFrame s p i eth fun s =>
    let r := ifaceRec s p i
    let own := if v6 then ifIp6 r else ifIp4 r
    let n := if v6 then 16 else 4
    if targetIp = own && own ≠ 0 && data.length ≤ 1500 then
      ethSend s p (ipHead v6 + 8 + data.length) (.ethernet p i (ifVlan r) askMac frEcho (natBe n own ++ natBe n askIp ++ data))
    else ethDiscard s p)

/-- Meaning of ETH_FRAME_DISCARD (R372). -/
def execEthFrameDiscard (p i : Nat) (s : State) : Res := .next (onIface s p i fun s => ethDiscard s p)

/-- Meaning of GATEWAY_RESOLVE (R372): a request for each gateway set. -/
def execGatewayResolve (p i : Nat) (s : State) : Res :=
  .next (onIface s p i fun s =>
    let r := ifaceRec s p i
    let s := if ifGw4 r ≠ 0 then
        ethSend s p 28 (.ethernet p i (ifVlan r) 0xFFFFFFFFFFFF frArpAsk
          (natBe 6 (ifaceMac p i) ++ natBe 4 (ifIp4 r) ++ natBe 4 (ifGw4 r)))
      else s
    if ifGw6 r ≠ 0 then
      ethSend s p 72 (.ethernet p i (ifVlan r) (0x3333FF000000 + ifGw6 r % 2 ^ 24) frSolicit
        (natBe 16 (ifIp6 r) ++ natBe 16 (ifGw6 r) ++ natBe 6 (ifaceMac p i)))
    else s)

/-- Meaning of GATEWAY_RESOLUTION_REPLY (R372): the gateway's MAC address is taken. -/
def execGatewayResolutionReply (p i : Nat) (eth : EthHead) (v6 : Bool) (ip mac : Nat) (s : State) : Res :=
  .next (onFrame s p i eth fun s =>
    let r := ifaceRec s p i
    let gw := if v6 then ifGw6 r else ifGw4 r
    if ip = gw && gw ≠ 0 then updPort s p fun x => { x with gateways := smSet x.gateways (2 * i + b2n v6) mac }
    else ethDiscard s p)

/-! Ingress (R373). -/

/-- A datagram that the bridge accepts (R372). -/
def datagramOk (s : State) (p i : Nat) (g : Datagram) : Bool :=
  let r := ifaceRec s p i
  g.dstIp = (if g.v6 then ifIp6 r else ifIp4 r) && g.dstIp ≠ 0 && g.dstPort = (portOf s p).udpPort
  && !g.optionsOrFragment && (if g.v6 then g.checksumGood else g.checksumZero || g.checksumGood) && g.payload.length ≤ 8952

/-- The 16 bytes of an address (R373). -/
def ipBytes (v6 : Bool) (ip : Nat) : List Byte :=
  if v6 then natBe 16 ip else List.replicate 10 0 ++ [0xFF, 0xFF] ++ natBe 4 ip

/-- The segment messages of a datagram (R373). -/
def ingressSegments (s : State) (p i seq : Nat) (g : Datagram) : List Packet :=
  let len := g.payload.length
  let n := max 1 ((len + 223) / 224)
  (List.range n).map fun k =>
    let part := slice g.payload (224 * k) 224
    let body := ipBytes g.v6 g.srcIp ++ natLe 2 g.srcPort ++ natLe 2 len ++ natLe 1 (p + 32 * i) ++ natLe 1 k ++ natLe 1 n
      ++ natLe 1 0 ++ natLe 8 s.time.tb ++ padTo ((part.length + 15) / 16 * 16) part
    let head := natLe 1 5 ++ natLe 1 0 ++ natLe 1 0 ++ natLe 1 0 ++ natLe 2 ((portOf s p).ingressTag) ++ natLe 2 seq
      ++ natLe 2 s.fabric.devId ++ natLe 2 body.length ++ natLe 4 ((portOf s p).ingress) ++ List.replicate 16 0
    { mkPacket .data 0 1 1 s.fabric.devId ((portOf s p).ingress) (egressId s p) 0 (head ++ body) with bridge := true }

/-- An ingress datagram dropped (R373). -/
def ingressDrop (s : State) (p : Nat) : State :=
  updPortCtr s p fun c => { c with ingressDrops := (c.ingressDrops + 1) % 2 ^ 32 }

/-- Meaning of UDP_DATAGRAM_RX (R372, R373). -/
def execUdpDatagramRx (p i : Nat) (eth : EthHead) (g : Datagram) (s : State) : Res :=
  .next (onFrame s p i eth fun s =>
    if !datagramOk s p i g then ethDiscard s p
    else
      let n := smGetD (portOf s p).datagrams i 0
      let s := updPort s p fun x => { x with
        datagrams := smSet x.datagrams i (n + 1)
        forwarded := x.forwarded.filter fun e => !(e.1 = i && e.2.1 = n % 65536) }
      if (portOf s p).ingress = 0x7FFFF then ingressDrop s p
      else updPort s p fun x => { x with
        toMesh := x.toMesh ++ ingressSegments s p i (n % 65536) g
        forwarded := x.forwarded ++ [(i, n % 65536, false)] })

/-! Egress (R374). -/

/-- A NAK of the bridge for an egress message. -/
def egressNak (s : State) (p : Nat) (k : Packet) (reason : Nat) : State := bridgeSend s p (mkNak k reason)

/-- A partial datagram's place. -/
def samePartial (x y : Partial) : Bool := x.srcDev = y.srcDev && x.srcLtile = y.srcLtile && x.seq = y.seq

/-- A datagram sent from the serving port to the gateway; without a resolved gateway it is discarded (log 39). -/
def sendDatagram (s : State) (p : Nat) (x : Partial) : State :=
  let data := ((List.range x.nseg).flatMap fun k => smGetD x.segs k []).take x.udpLen
  let v6 := decide (x.ip / 2 ^ 32 ≠ 0xFFFF)
  match smGet (portOf s p).gateways (2 * x.iface + b2n v6) with
  | some mac => ethSend s p (ipHead v6 + 8 + data.length) (.datagram p x.iface (ifVlan (ifaceRec s p x.iface)) mac x.ip x.udpPort (portOf s p).udpPort data)
  | none => updPortCtr s p fun c => { c with egressDrops := (c.egressDrops + 1) % 2 ^ 32 }

/-- An egress segment taken: acknowledged if it asks, and the datagram sent once it is whole. -/
def takeSegment (s : State) (p : Nat) (k : Packet) (x : Partial) (seg : Nat) (data : List Byte) : State :=
  let s := if bit (fld k.payload 0 1) 4 then bridgeSend s p (ackPacket k) else s
  let x := { x with segs := smSet x.segs seg data }
  let rest := (portOf s p).partials.filter fun y => !samePartial x y
  if (List.range x.nseg).all fun j => (smGet x.segs j).isSome then
    sendDatagram (updPort s p fun y => { y with partials := rest }) p x
  else updPort s p fun y => { y with partials := rest ++ [x] }

/-- A data-class message at an Ethernet port (R374). -/
def egressMessage (s : State) (p : Nat) (k : Packet) : State :=
  let body := k.payload.drop 0x20
  let iface := fld body 0x14 1 / 32
  let x : Partial := {
    srcDev := k.srcDev, srcLtile := k.srcLtile, seq := fld k.payload 6 2, iface := iface, ip := beNat (slice body 0 16)
    udpPort := fld body 0x10 2, udpLen := fld body 0x12 2, nseg := fld body 0x16 1, segs := [] }
  if !ifaceUp s p iface then egressNak s p k 6
  else match (portOf s p).partials.find? (samePartial x) with
    | some y => takeSegment s p k y (fld body 0x15 1) (body.drop 0x20)
    | none =>
      if (portOf s p).partials.length ≥ 64 then egressNak s p k 1
      else takeSegment s p k x (fld body 0x15 1) (body.drop 0x20)

/-- A NAK for an ingress segment (R373): its datagram is dropped, and counted once. A NAK carries SEQ and no interface: of two interfaces'
datagrams with that SEQ the one forwarded last is meant (DESIGN CHOICE, log 39). -/
def ingressNak (s : State) (p : Nat) (k : Packet) : State :=
  let seq := fld k.payload 6 2
  match (portOf s p).forwarded.reverse.find? fun e => e.2.1 = seq with
  | none => s
  | some (i, _, gone) =>
    if gone then s
    else ingressDrop (updPort s p fun x => { x with
      toMesh := x.toMesh.filter fun y =>
        !(y.kind = 1 && y.srcDev = egressId s p && fld y.payload 6 2 = seq && fld y.payload 0x34 1 / 32 = i)
      forwarded := x.forwarded.map fun e => if e.1 = i && e.2.1 = seq then (i, seq, true) else e }) p

/-- Meaning of EGRESS_SEGMENT (R374): the first message at the port. A kind that no bridge takes is refused as R357 does, or
discarded and counted in the region beside the bridge (R224, R246). -/
def execEgressSegment (p : Nat) (s : State) : Res :=
  .next (if !rimRuns s || p ≥ 32 then s else
    match (portOf s p).egress with
    | [] => s
    | k :: rest =>
      let s := updPort s p fun x => { x with egress := rest }
      if k.kind = 1 then egressMessage s p k
      else if k.kind = 6 then ingressNak s p k
      else if nakKind k.kind then egressNak s p k 6
      else countDiscard s (regionOfTile (injTile s p 0)))

/-- Meaning of EGRESS_REASSEMBLY_TIMEOUT (R374): the n-th partial datagram is discarded and counted. -/
def execEgressReassemblyTimeout (p n : Nat) (s : State) : Res :=
  .next (if rimRuns s && p < 32 && n < (portOf s p).partials.length then
      let s := updPort s p fun x => { x with partials := x.partials.eraseIdx n }
      updPortCtr s p fun c => { c with egressDrops := (c.egressDrops + 1) % 2 ^ 32 }
    else s)

end Sys2Proof.Machine
end

