-- ==== Sys2Proof/Machine/Timebase.lean ====
section
/-! DEFINITION. The timebase and its references (R275 to R281, R349), and the timed-action slots up to their distribution
(R284 to R289). -/

namespace Sys2Proof.Machine

/-- Ticks in a second. -/
def second : Nat := 2500000000

/-- A model slot serves (R276). -/
def someServing (s : State) : Bool := s.steward.slots.any fun e => e.2.st = 3 || e.2.st = 4

/-- TB stepped to a new value, with its record (R276, R433). The period of the HEARTBEAT and the window of the records held go on in wall
time (R434). -/
def stepTb (s : State) (new : Nat) : State :=
  let old := s.time.tb
  let by_ := (new : Int) - old
  logEvent { s with
    time := { s.time with tb := new, stepped := true, steps := (s.time.steps + 1) % 2 ^ 32, slew := 0 }
    dict := { s.dict with nextBeat := s.dict.nextBeat.map fun t => ((t : Int) + by_).toNat }
    sig := { s.sig with
      notifyIn := s.sig.notifyIn.map fun r => { r with moved := r.moved + by_ }
      notifyQ := s.sig.notifyQ.map fun r => { r with moved := r.moved + by_ }
      eventQ := s.sig.eventQ.map fun r => { r with moved := r.moved + by_ } }
    regions := s.regions.map fun e => (e.1, { markCycles old e.2 with tbFloor := 0, cycTb := new }) } 0x0110 1 0 old

/-- Holdover left, with its record (R280). -/
def leaveHoldover (s : State) : State :=
  if s.time.holdover then logEvent { s with time := { s.time with holdover := false } } 0x0111 1 0 0 else s

/-- One reference measurement, the reference minus TB in ticks: the lock count (R280), then a step or a slew (R276). -/
def discipline (s : State) (offset : Int) : State :=
  let s := leaveHoldover s
  let good := if offset.natAbs ≤ 50 then min 10 (s.time.good + 1) else 0
  let s := { s with time := { s.time with offset := offset, good := good, locked := decide (good = 10) } }
  if offset.natAbs > 2500 && (s.dev.st = .bringup || s.dev.st = .ready) && !someServing s then
    stepTb s ((s.time.tb : Int) + offset).toNat
  else { s with time := { s.time with slew := offset } }

/-- Reference code in force (R277). -/
def tbReference (s : State) : Nat := dnum s 0x2020 1 0

/-- Meaning of TB_RESYNC (R275, R276): a region copy stands within 2 ticks of the master. -/
def execTbResync (p : Nat) (skew : Int) (s : State) : Res :=
  .next (if p < regionCount && clocksRun (regionOfNo s p) && skew.natAbs ≤ 2 then
      updRegion s p (syncCopy (someServing s) s.time.tb skew)
    else s)

/-- Meaning of TB_REFERENCE_MEASURE (R276, R280). -/
def execTbReferenceMeasure (offset : Int) (s : State) : Res :=
  .next (if rimRuns s && tbReference s ≠ 0 then discipline s offset else s)

/-- Meaning of TB_HOLDOVER (R280): the reference fails. -/
def execTbHoldover (s : State) : Res :=
  .next (if rimRuns s && tbReference s ≠ 0 && !s.time.holdover then
      setAlert (logEvent { s with time := { s.time with holdover := true, locked := false, good := 0 } } 0x0111 1 1 0) 6
    else s)

/-- Meaning of PPS_EDGE (R278): a whole second, by the value written between 900 ms and 100 ms before, else in phase only. -/
def execPpsEdge (s : State) : Res :=
  .next (if !rimRuns s || tbReference s ≠ 1 then s else
    let tb := s.time.tb
    let r := tb % second
    let phase : Int := if r ≤ second / 2 then -(r : Int) else (second - r : Nat)
    let offset := match s.time.ppsNext with
      | some (v, w) => if w + 250000000 ≤ tb && tb ≤ w + 2250000000 then (v : Int) - tb else phase
      | none => phase
    discipline { s with time := { s.time with ppsNext := none, ppsLast := tb } } offset)

/-- A Sync whose time is known: the delay request-response mechanism answers it with a Delay_Req (R279, log 98). -/
def ptpSynced (s : State) (port t1 t2 : Nat) : State :=
  let q := s.time.ptpSeq
  emit { s with time := { s.time with
    ptpWait := none, ptpSync := some (t1, t2), ptpReq := some (q, s.time.tb), ptpSeq := (q + 1) % 2 ^ 16 } } (.ptp port q)

/-- A message's time with its correction, in ticks. -/
def ptpTime (m : PtpMsg) (sign : Int) : Nat := ((m.time : Int) + sign * m.correction).toNat

/-- Meaning of PTP_MESSAGE (R279): an ordinary clock, slave only, in the delay request-response profile over UDP, on the selected port
and domain: a Sync, of one step or two, is answered by a Delay_Req, and the Delay_Resp to it gives the offset. -/
def execPtpMessage (port : Nat) (m : PtpMsg) (s : State) : Res :=
  .next (if !(eyepieceRuns s && tbReference s = 2 && m.udp && port = dnum s 0x2020 6 0 && m.domain = dnum s 0x2020 7 0) then s
    else match m.kind with
    | 0 =>
      if m.twoStep then { s with time := { s.time with ptpWait := some (m.seq, s.time.tb) } }
      else ptpSynced s port (ptpTime m 1) s.time.tb
    | 8 =>
      match s.time.ptpWait with
      | some (q, t2) => if q = m.seq then ptpSynced s port (ptpTime m 1) t2 else s
      | none => s
    | 9 =>
      match s.time.ptpSync, s.time.ptpReq with
      | some (t1, t2), some (q, t3) =>
        if q = m.seq then
          discipline { s with time := { s.time with ptpReq := none } }
            ((((t1 : Int) - t2) + ((ptpTime m (-1) : Int) - t3)) / 2)
        else s
      | _, _ => s
    | _ => s)

/-- Meaning of PPS_OUT_PULSE (R281): at a multiple of a second, within 2 ns (a tick that the slew doubles may pass the multiple). -/
def execPpsOutPulse (s : State) : Res :=
  .next (if rimRuns s && dnum s 0x2020 8 0 = 1 && s.time.tb % second ≤ 5 && (s.time.locked || s.time.holdover) then
      { s with time := { s.time with ppsOut := true } }
    else s)

/-- Meaning of TIME_BLOCK_TX (R349): in a trunk the base member carries the exchange. -/
def execTimeBlockTx (p : Nat) (s : State) : Res :=
  .next (if !rimRuns s || p ≥ 32 || personality s p ≠ 1 || !inService s p || p ≠ trunkBase s p then s else
    let e := (portOf s p).timeRx.getD (0, 0)
    emit s (.block p (controlBlock 5 (natLe 8 s.time.tb ++ natLe 8 e.1 ++ natLe 8 e.2
      ++ natLe 1 (b2n (s.time.locked || s.time.holdover))))))

/-- Meaning of TIME_BLOCK_RX (R349): kept for the echo; under reference code 3 the upstream port's offset disciplines TB. -/
def execTimeBlockRx (p : Nat) (block : List Byte) (s : State) : Res :=
  .next (onBlock s p 5 block fun s =>
    let t1 := fld block 9 8
    let t2 := fld block 17 8
    let t3 := fld block 1 8
    let t4 := s.time.tb
    let s := updPort s p fun x => { x with timeRx := some (t3, t4) }
    if tbReference s = 3 && dnum s 0x2020 5 0xFF = p && t1 ≠ 0 then
      discipline s ((((t2 : Int) - t1) - ((t4 : Int) - t3)) / 2)
    else s)

/-- One tick of the master (R275, R276, R281): it slews by omitting or doubling one tick in 2,000, and TB_PPS_OUT falls after
1 ms. Both rim rings move on (R26, R27), and a port whose injection points come or go begins or ends its
borrowing (R31). Loupe, actions and timers see TB through their own commands. -/
def tick (s : State) : State :=
  if !rimRuns s then s
  else
    let s := rimMove ((List.range 32).foldl (settleBorrow (lenders s)) s)
    let t := s.time
    let due := t.slew ≠ 0 && t.slewAge + 1 ≥ 2000
    let inc := if !due then 1 else if t.slew > 0 then 2 else 0
    let tb := (t.tb + inc) % 2 ^ 64
    { s with time := { t with
      tb := tb
      slew := if !due then t.slew else if t.slew > 0 then t.slew - 1 else t.slew + 1
      slewAge := if due then 0 else min 2000 (t.slewAge + 1)
      ppsOut := t.ppsOut && tb % second < 2500000 && (t.locked || t.holdover) } }

/-! Timed-action slots (R284 to R287). -/

/-- Fields of an operation word (R285). -/
def taCode (op : Nat) : Nat := bits op 63 60
def taScope (op : Nat) : Nat := bits op 59 58
def taTarget (op : Nat) : Nat := bits op 47 32
def taArg (op : Nat) : Nat := bits op 31 0

/-- A slot: 0 to 63 of the Eyepiece, 256 up its internal actions (R320, R328). -/
def timedSlot (s : State) (n : Nat) : TimedSlot := smGetD s.sig.timed n {}
def updTimed (s : State) (n : Nat) (f : TimedSlot → TimedSlot) : State :=
  { s with sig := { s.sig with timed := smUpd s.sig.timed n {} f } }

/-- The regions of an action's scope (R285). -/
def scopeRegions (s : State) (op : Nat) : List Nat :=
  match taScope op with
  | 0 => s.regions.map (·.1)
  | 1 => (boundRegion s (taTarget op)).toList
  | 2 => (s.regions.filter fun e => e.2.mslot = taTarget op && e.2.binding < 4608).map (·.1)
  | _ => [taTarget op]

/-- An action that regions perform. -/
def regional (op : Nat) : Bool := taCode op ≤ 4

/-- A reserved encoding, or a scope that does not fit the action (R284, R286). -/
def taFieldBad (op : Nat) : Bool :=
  taCode op = 0 || taCode op > 6 || bits op 57 48 ≠ 0
  || (taScope op = 1 && taTarget op ≥ 4608) || (taScope op = 2 && taTarget op ≥ 8) || (taScope op = 3 && taTarget op ≥ 4608)
  || (!regional op && taScope op ≠ 0)
  || (match taCode op with
      | 3 | 6 => taArg op ≠ 0
      | 4 => taArg op ≥ 31
      | 5 => taArg op % 256 ≥ 32 || taArg op ≥ 512
      | _ => false)

/-- Actions pending at a region: armed or distributed ones whose scope holds it (R286). -/
def pendingActions (s : State) (p : Nat) : Nat :=
  (s.sig.timed.filter fun e =>
    (e.2.status = 1 || e.2.status = 2) && regional e.2.armOp && (scopeRegions s e.2.armOp).contains p).length

/-- The lead in ticks (R289). -/
def leadTicks (s : State) : Nat := dnum s 0x2508 1 100 * 2500

/-- The reason for which arming is refused, 0 none (R286, R335). -/
def armRefusal (s : State) (t op : Nat) : Nat :=
  if taFieldBad op then 3
  else if t < s.time.tb + leadTicks s then 1
  else if regional op && (scopeRegions s op).any fun p => pendingActions s p ≥ 4 then 2
  else if (s.dev.st = .safeHold && taCode op ≤ 3) || (s.dev.st = .keepAlive && regional op) then 4
  else 0

/-- 1 written to .03 by a source (R283, R286): a slot that is armed or distributed is not armed again. -/
def armSlot (s : State) (src n : Nat) : State :=
  let x := timedSlot s n
  if x.status = 1 || x.status = 2 then s
  else
    let why := armRefusal s x.t x.op
    let k := s.sig.armCount
    updTimed { s with sig := { s.sig with armCount := k + 1 } } n fun x => { x with
      armT := x.t, armOp := x.op, status := if why = 0 then 1 else 5, reason := why, late := false, armSrc := src, armSeq := k
      begun := false }

/-- Writing 0 to .03 (R286): accepted only while the slot is armed. -/
def cancelSlot (s : State) (n : Nat) : State :=
  if (timedSlot s n).status = 1 then updTimed s n fun x => { x with status := 6 } else s

/-- A slot's action distributed to those of some regions that have clocks (R287). -/
def giveAction (s : State) (n : Nat) (ps : List Nat) : State :=
  let x := timedSlot s n
  let s := (ps.filter fun p => clocksRun (regionOfNo s p)).foldl (fun s p => updRegion s p fun r => { r with
    actions := r.actions ++ [{ code := taCode x.armOp, at_ := x.armT, arg := taArg x.armOp, owner := n }] }) s
  updTimed (eyepieceBroadcast s) n fun y => { y with status := 2, late := decide (s.time.tb > x.armT) }

/-- An internal action of the Eyepiece, armed and distributed to some regions (R320, R328, R331). -/
def armInternal (s : State) (n t op : Nat) (ps : List Nat) : State :=
  giveAction (updTimed s n fun _ => { t := t, op := op, armT := t, armOp := op, status := 1 }) n ps

/-- Meaning of TIMED_ACTION_DISTRIBUTE (R287): from T minus the lead, the regions of the scope that have clocks get the action. -/
def execTimedActionDistribute (slot : Nat) (s : State) : Res :=
  .next (
    let x := timedSlot s slot
    if eyepieceRuns s && x.status = 1 && regional x.armOp && x.armT ≤ s.time.tb + leadTicks s && s.dev.st ≠ .safeHold then
      giveAction s slot (scopeRegions s x.armOp)
    else s)

end Sys2Proof.Machine
end

