-- ==== Sys2Proof/Machine/Streams.lean ====
section
/-! DEFINITION. The Godosel Request Protocol and the stream table of the resident runtime (R385 to R397). -/

namespace Sys2Proof.Machine

/-! Bundles as the runtime reads them (R380). -/

def bhId (h : List Byte) : Nat := fld h 8 4
def bhFlags (h : List Byte) : Nat := fld h 0xC 4
def bhLength (h : List Byte) : Nat := fld h 0x10 8
def bhMinReserve (h : List Byte) : Nat := fld h 0x18 2
def bhKvLanes (h : List Byte) : Nat := fld h 0x1A 2
def bhContext (h : List Byte) : Nat := fld h 0x1C 4
def bhVocab (h : List Byte) : Nat := fld h 0x20 4
def bhNinst (h : List Byte) : Nat := fld h 0x24 1
def bhNdev (h : List Byte) : Nat := fld h 0x25 1
def bhStage (h : List Byte) : Nat := fld h 0x26 1
def bhInstLimit (h : List Byte) : Nat := fld h 0x28 2
def bhNlogit (h : List Byte) : Nat := fld h 0x2A 2

/-- Header of the bundle in a slot, empty without one. -/
def slotHeader (s : State) (m : Nat) : List Byte := ((modelSlot s m).bundle.map (·.header)).getD []

/-- Runtime objects (R403). -/
def queueLimit (s : State) : Nat := dnum s 0x2600 2 1024
def ageingMs (s : State) : Nat := dnum s 0x2600 3 500
def promptMs (s : State) : Nat := dnum s 0x2600 4 10

/-- Ticks in a millisecond. -/
def msTicks : Nat := 2500000

/-! Frames to clients (R386). -/

/-- A GRP frame with its header. -/
def grpFrame (typ reqId : Nat) (body : List Byte) : List Byte :=
  natLe 2 0x5247 ++ natLe 1 1 ++ natLe 1 typ ++ natLe 2 (16 + body.length) ++ natLe 2 0 ++ natLe 8 reqId ++ body

/-- The messages of a frame that the runtime sends to a client (R39, R374): data-class MSGs of its tile to the port's egress ID, a segment
of up to 224 bytes each behind the egress header. -/
def grpSegments (s : State) (c : Client) (frame : List Byte) : List Packet :=
  let n := max 1 ((frame.length + 223) / 224)
  (List.range n).map fun k =>
    let part := slice frame (224 * k) 224
    let body := natBe 16 c.ip ++ natLe 2 c.udpPort ++ natLe 2 frame.length ++ natLe 1 (32 * c.iface) ++ natLe 1 k ++ natLe 1 n
      ++ natLe 9 0 ++ padTo ((part.length + 15) / 16 * 16) part
    let head := natLe 4 5 ++ natLe 2 0 ++ natLe 2 s.steward.grpSeq ++ natLe 2 (egressId s c.port) ++ natLe 2 body.length
      ++ List.replicate 20 0
    mkPacket .data 0 1 1 (egressId s c.port) 0 s.fabric.devId 364150 (head ++ body)

/-- A frame of the runtime sent to a client, by the message engine of its tile. -/
def grpSend (s : State) (c : Client) (frame : List Byte) : State :=
  match carrier s 364150 with
  | some t => (grpSegments s c frame).foldl (fun s k => queueOut s t k)
      { s with steward := { s.steward with grpSeq := (s.steward.grpSeq + 1) % 65536 } }
  | none => s

/-- An ERROR frame (R386, R389): stream 0xFFFFFFFF if none. -/
def errorFrame (s : State) (reqId code stream sent : Nat) : List Byte :=
  grpFrame 0x84 reqId
    (natLe 2 code ++ natLe 2 0 ++ natLe 4 stream ++ natLe 4 sent ++ natLe 4 0 ++ natLe 8 s.time.tb)

/-- ERROR frames counted (R403). -/
def countError (s : State) : State :=
  { s with steward := { s.steward with errors := (s.steward.errors + 1) % 2 ^ 32 } }

/-- ERROR of the runtime, and of the Eyepiece, which sends through the bridge itself (R395). -/
def sendError (s : State) (c : Client) (reqId code stream sent : Nat) : State :=
  countError (grpSend s c (errorFrame s reqId code stream sent))
def eyepieceError (s : State) (c : Client) (reqId code stream sent : Nat) : State :=
  countError (emit s (.grp c (errorFrame s reqId code stream sent)))

/-- ACCEPT (R386). -/
def sendAccept (s : State) (x : Stream) (qpos : Nat) : State :=
  grpSend s x.client (grpFrame 0x81 x.reqId (natLe 4 x.id ++ natLe 4 qpos ++ natLe 8 x.rxTb))

/-- TOKEN (R386, R403). -/
def sendToken (s : State) (x : Stream) (index token reason stamp : Nat) : State :=
  let s := grpSend s x.client (grpFrame 0x82 x.reqId
    (natLe 4 x.id ++ natLe 4 index ++ natLe 4 token ++ natLe 1 reason ++ natLe 3 0 ++ natLe 8 stamp))
  { s with steward := { s.steward with tokens := s.steward.tokens + 1 } }

/-- A frame discarded (R378, R388, R403). -/
def discardFrame (s : State) : State :=
  { s with steward := { s.steward with discarded := (s.steward.discarded + 1) % 2 ^ 32 } }

/-! The stream table (R391). -/

/-- Streams of a slot in a state. -/
def streamsIn (s : State) (m : Nat) (st : StreamState) : List Stream :=
  s.steward.streams.filter fun x => x.slot = m && x.st = st

/-- Active streams of a slot: those admitted. -/
def activeStreams (s : State) (m : Nat) : List Stream :=
  s.steward.streams.filter fun x => x.slot = m && (x.st = .prefill || x.st = .decode)

/-- A stream by its identity (R385). -/
def streamOf (s : State) (c : Client) (reqId : Nat) : Option Stream :=
  s.steward.streams.find? fun x => x.client.ip = c.ip && x.client.udpPort = c.udpPort && x.reqId = reqId

/-- A stream changed; the standby is told of it (R299, R308). -/
def updStream (s : State) (id : Nat) (f : Stream → Stream) : State :=
  let s := tellStandby s
  { s with steward := { s.steward with streams := s.steward.streams.map fun x => if x.id = id then f x else x } }

/-- Device states that follow the serving slots (R5): READY and SERVING. -/
def settleServing (s : State) : State :=
  if s.dev.st = .ready && someServing s then enterState s .serving
  else if s.dev.st = .serving && !someServing s then enterState s .ready
  else s

/-- A stopping slot whose streams have all ended is LOADED (R384). -/
def settleStopping (s : State) (m : Nat) : State :=
  if (modelSlot s m).st = 4 && !(s.steward.streams.any fun x => x.slot = m) then
    settleServing (updModel s m fun x => { x with st := 2 })
  else s

/-- A stream leaves the table; its lane frees and its Eyepiece record goes (R308, R391, R395). -/
def endStream (s : State) (x : Stream) : State :=
  let s := tellStandby s
  settleStopping { s with steward := { s.steward with
    streams := s.steward.streams.filter fun y => y.id ≠ x.id
    recorded := s.steward.recorded.filter fun y => y.1 ≠ x.id } } x.slot

/-- A stream ended with a terminal error. -/
def failStream (s : State) (x : Stream) (code : Nat) : State :=
  endStream (sendError s x.client x.reqId code x.id x.sent) x

/-- Every stream of a slot ended with an error; a prompt not yet complete gets none from the Eyepiece (R396). -/
def failSlot (s : State) (m code : Nat) : State :=
  (s.steward.streams.filter fun x => x.slot = m).foldl (fun s x => failStream s x code) s

/-- The Eyepiece's frame to every recorded stream (R395, R396), and an empty table. -/
def failRecorded (s : State) (code : Nat) : State :=
  let s := s.steward.recorded.foldl (fun s r =>
    let sent := match s.steward.streams.find? fun x => x.id = r.1 with | some x => x.sent | none => 0
    eyepieceError s r.2.1 r.2.2.1 code r.1 sent) s
  { s with steward := { s.steward with streams := [], recorded := [] } }

/-! Checks (R388). -/

/-- The runtime works: Periscope and it run, in a primary region that is not fenced, and regions are in service (R301, R377). -/
def runtimeRuns (s : State) : Bool :=
  s.steward.running && !faultMapBit (regionOfNo s s.steward.primary)
  && (s.dev.st = .ready || s.dev.st = .serving || s.dev.st = .recovering)

/-- Length and reserved fields of a frame by its type (R386, R387). -/
def grpShapeOk (f : List Byte) : Bool :=
  let n := f.length
  fld f 4 2 = n && fld f 6 2 = 0 && (match fld f 3 1 with
    | 1 => n ≥ 112 && n = 112 + 4 * fld f 0x2E 2 && fld f 0x2D 1 = 0
    | 2 => n ≥ 24 && n = 24 + 4 * fld f 0x14 2 && fld f 0x16 2 = 0
    | 3 => n = 16
    | 4 => n = 20
    | 5 => n = 24 && fld f 0x11 7 = 0
    | _ => false)

/-- REQ_ID of a frame. -/
def grpReqId (f : List Byte) : Nat := fld f 8 8

/-- The runtime takes a datagram from its ring (R39). -/
def takeInbox (s : State) (c : Client) (f : List Byte) : State :=
  { s with steward := { s.steward with inbox := s.steward.inbox.erase (c, f) } }

/-- A datagram of the runtime's ring (R39): the check of R378 and the first three of R388, then a frame of the expected type. -/
def onGrp (s : State) (c : Client) (f : List Byte) (typ : Nat) (ok : State → State) : State :=
  if !runtimeRuns s || !s.steward.inbox.contains (c, f) || (grpShapeOk f && fld f 3 1 ≠ typ) then s
  else
  let s := takeInbox s c f
  if egressId s c.port = 0xFFFF then discardFrame s
  else if f.length < 16 || fld f 0 2 ≠ 0x5247 then discardFrame s
  else if fld f 2 1 ≠ 1 then sendError s c (grpReqId f) 0xD 0xFFFFFFFF 0
  else if !grpShapeOk f then sendError s c (grpReqId f) 1 0xFFFFFFFF 0
  else ok s

/-- The tokens of a frame. -/
def grpTokens (f : List Byte) (off n : Nat) : List Nat := (List.range n).map fun i => fld f (off + 4 * i) 4

/-- Check 6 of R388 for a REQUEST: every field as R387 gives, tokens below VOCAB. -/
def requestParamsOk (f : List Byte) (vocab : Nat) : Bool :=
  let mode := fld f 0x12 1
  let k := fld f 0x13 1
  let temp := fld f 0x14 4
  let p := fld f 0x18 4
  let nstop := fld f 0x2C 1
  fld f 0x11 1 ≤ 3 && mode ≤ 4
  && (if mode = 2 || mode = 4 then 1 ≤ k && k ≤ 64 else k = 0)
  && (mode = 0 || (0 < temp && temp < f32.inf))
  && (if mode = 3 || mode = 4 then 0 < p && p ≤ f32.one else p = 0)
  && fld f 0x1C 4 ≥ 1 && fld f 0x28 4 ≥ 1 && nstop ≤ 16
  && ((List.range 16).all fun i => i < nstop || fld f (0x30 + 4 * i) 4 = 0)
  && (grpTokens f 0x70 (fld f 0x2E 2)).all (· < vocab)

/-! Admission order (R392). -/

/-- Effective priority: raised by 1 for each ageing interval of waiting, up to 3. -/
def effectivePriority (s : State) (x : Stream) : Nat :=
  if ageingMs s = 0 then x.priority else min 3 (x.priority + (s.time.tb - x.rxTb) / (ageingMs s * msTicks))

/-- One queued request is admitted before another. -/
def admitsBefore (s : State) (a b : Stream) : Bool :=
  let pa := effectivePriority s a
  let pb := effectivePriority s b
  if pa ≠ pb then pa > pb
  else if a.rxTb ≠ b.rxTb then a.rxTb < b.rxTb
  else if a.client.port ≠ b.client.port then a.client.port < b.client.port
  else if a.client.iface ≠ b.client.iface then a.client.iface < b.client.iface
  else a.arrival < b.arrival

/-- Requests ahead of a queued one. -/
def queuePos (s : State) (x : Stream) : Nat :=
  ((streamsIn s x.slot .queued).filter fun y => y.id ≠ x.id && admitsBefore s y x).length

/-- The current ACCEPT of a stream whose prompt is complete (R388). -/
def currentAccept (s : State) (x : Stream) : State :=
  sendAccept s x (if x.st = .queued then queuePos s x else 0)

/-- A prompt complete: QUEUED, ACCEPT sent, the record made (R391, R395, R403). -/
def queueStream (s : State) (x : Stream) : State :=
  let y := { x with st := .queued, rxTb := s.time.tb, arrival := s.steward.arrivals }
  let s := tellStandby s
  let s := { s with steward := { s.steward with
    arrivals := s.steward.arrivals + 1, accepted := s.steward.accepted + 1
    streams := (s.steward.streams.filter fun z => z.id ≠ x.id) ++ [y]
    recorded := s.steward.recorded ++ [(y.id, y.client, y.reqId, y.client.port)] } }
  currentAccept s y

/-- A slot takes requests (R388, R395, R399): it serves or is RECOVERING, and its bundle is stage 0, which owns every stream; of a request at
another stage the spec says nothing (DESIGN CHOICE, log 42). -/
def takesRequests (s : State) (m : Nat) : Bool :=
  ((modelSlot s m).st = 3 || (modelSlot s m).st = 5) && bhStage (slotHeader s m) = 0

/-- Meaning of GRP_REQUEST (R387, R388, R391, R399). -/
def execGrpRequest (c : Client) (frame : List Byte) (s : State) : Res :=
  .next (onGrp s c frame 1 fun s =>
    let id := grpReqId frame
    let m := fld frame 0x10 1
    let h := slotHeader s m
    let plen := fld frame 0x28 4
    let part := fld frame 0x2E 2
    let err := fun code => sendError s c id code 0xFFFFFFFF 0
    match streamOf s c id with
    | some x => if x.st = .partPrompt then discardFrame s else currentAccept s x
    | none =>
      if !takesRequests s m then err 2
      else if plen ≥ bhContext h || part > plen then err 3
      else if !requestParamsOk frame (bhVocab h) then err 4
      else if (streamsIn s m .queued).length ≥ queueLimit s then err 5
      else
        let x : Stream := {
          id := s.steward.nextStream, slot := m, client := c, reqId := id, st := .partPrompt
          priority := fld frame 0x11 1, mode := fld frame 0x12 1, topK := fld frame 0x13 1, temp := fld frame 0x14 4
          topP := fld frame 0x18 4, maxNew := fld frame 0x1C 4, seed := fld frame 0x20 8, promptLen := plen
          stops := (List.range (fld frame 0x2C 1)).map fun i => fld frame (0x30 + 4 * i) 4
          prompt := (grpTokens frame 0x70 part).zipIdx.map fun e => (e.2, e.1)
          rxTb := 0, arrival := 0, startTb := s.time.tb, inst := 0, lane := 0, injected := 0, flying := []
          inFlight := false, generated := 0, sent := 0, kept := [], paused := false }
        let s := { s with steward := { s.steward with
          nextStream := (s.steward.nextStream + 1) % 0xFFFFFFFF, streams := s.steward.streams ++ [x] } }
        if part = plen then queueStream s x else s)

/-- Meaning of GRP_PROMPT_MORE (R386, R388). -/
def execGrpPromptMore (c : Client) (frame : List Byte) (s : State) : Res :=
  .next (onGrp s c frame 2 fun s =>
    let off := fld frame 0x10 4
    let n := fld frame 0x14 2
    match streamOf s c (grpReqId frame) with
    | none => discardFrame s
    | some x =>
      if x.st ≠ .partPrompt then discardFrame s
      else if off + n > x.promptLen then sendError s c x.reqId 3 0xFFFFFFFF 0
      else if !(grpTokens frame 0x18 n).all (· < bhVocab (slotHeader s x.slot)) then sendError s c x.reqId 4 0xFFFFFFFF 0
      else if (List.range n).all fun i => (smGet x.prompt (off + i)).isSome then discardFrame s
      else
        let p := (grpTokens frame 0x18 n).zipIdx.foldl (fun p e => smSet p (off + e.2) e.1) x.prompt
        let y := { x with prompt := p }
        let s := updStream s x.id fun _ => y
        if p.length = x.promptLen then queueStream s y else s)

/-- Meaning of GRP_CANCEL (R394). -/
def execGrpCancel (c : Client) (frame : List Byte) (s : State) : Res :=
  .next (onGrp s c frame 3 fun s =>
    match streamOf s c (grpReqId frame) with
    | some x => failStream s x 7
    | none => sendError s c (grpReqId frame) 0xC 0xFFFFFFFF 0)

/-- Meaning of GRP_RESEND (R390). -/
def execGrpResend (c : Client) (frame : List Byte) (s : State) : Res :=
  .next (onGrp s c frame 4 fun s =>
    let from_ := fld frame 0x10 4
    match streamOf s c (grpReqId frame) with
    | none => sendError s c (grpReqId frame) 0xC 0xFFFFFFFF 0
    | some x =>
      let ks := x.kept.filter fun k => k.1 < x.sent
      let gone := match ks with | k :: _ => decide (from_ < k.1) | [] => false
      let s := if gone then sendError s c x.reqId 0xB x.id x.sent else s
      (ks.filter fun k => from_ ≤ k.1).foldl (fun s k => sendToken s x k.1 k.2.1 k.2.2.1 k.2.2.2) s)

/-- Meaning of GRP_PING (R386, R390): a slot number above 7 is a field outside R386 (log 42). -/
def execGrpPing (c : Client) (frame : List Byte) (s : State) : Res :=
  .next (onGrp s c frame 5 fun s =>
    let m := fld frame 0x10 1
    if m > 7 then sendError s c (grpReqId frame) 4 0xFFFFFFFF 0
    else grpSend s c (grpFrame 0x85 (grpReqId frame) (natLe 1 (devCode s.dev.st) ++ natLe 1 (modelSlot s m).st
      ++ natLe 2 (activeStreams s m).length ++ natLe 4 (streamsIn s m .queued).length ++ natLe 8 s.time.tb)))

/-- Meaning of PROMPT_TIMEOUT (R389): a prompt still incomplete at the limit. -/
def execPromptTimeout (stream : Nat) (s : State) : Res :=
  .next (match s.steward.streams.find? fun x => x.id = stream with
    | some x =>
      if runtimeRuns s && x.st = .partPrompt && s.time.tb ≥ x.startTb + promptMs s * msTicks then failStream s x 6 else s
    | none => s)

/-- Streams of an instance of a slot. -/
def instStreams (s : State) (m inst : Nat) : List Stream := (activeStreams s m).filter fun x => x.inst = inst

/-- The slot's streams run: SERVING or STOPPING (R384). -/
def slotRuns (s : State) (m : Nat) : Bool := runtimeRuns s && ((modelSlot s m).st = 3 || (modelSlot s m).st = 4)

/-- A control-class message of the runtime to the entry tile of a slot's instance (R39); its contents are open: free bytes. -/
def startMessage (s : State) (m inst : Nat) : State :=
  match (modelSlot s m).bundle.bind fun g => g.runtime[inst]?, carrier s 364150 with
  | some i, some t => noteTo s t 364150 s.fabric.devId i.entry
  | _, _ => s

/-- Meaning of STREAM_ADMIT (R39, R308, R392). -/
def execStreamAdmit (m : Nat) (s : State) : Res :=
  .next (if !slotRuns s m then s else
    let h := slotHeader s m
    let lane := (List.range (bhKvLanes h)).find? fun l => !(activeStreams s m).any fun x => x.lane = l
    let insts := (List.range (bhNinst h)).filter fun i => (instStreams s m i).length < bhInstLimit h
    match streamsIn s m .queued, lane, insts with
    | q :: qs, some l, i :: is =>
      let x := qs.foldl (fun a b => if admitsBefore s b a then b else a) q
      let n := fun j => (instStreams s m j).length
      let best := is.foldl (fun a b => if n b < n a then b else a) i
      let y := { x with st := .prefill, inst := best, lane := l }
      startMessage (sendAccept (updStream s x.id fun _ => y) y 0) m best
    | _, _, _ => s)

/-- The chunks in flight of an instance up to a number have passed the last stage (R391, R393): a stream whose last one has is in DECODE. -/
def chunksPass (s : State) (m inst n : Nat) : State :=
  let pass := fun (x : Stream) =>
    let l := x.flying.filter (n < ·)
    if x.flying ≠ [] && l = [] && x.injected ≥ x.promptLen then { x with flying := [], st := .decode, inFlight := true }
    else { x with flying := l }
  let s := tellStandby s
  { s with steward := { s.steward with
    streams := s.steward.streams.map fun x =>
      if x.slot = m && x.inst = inst && (x.st = .prefill || x.st = .decode) then pass x else x } }

/-- The oldest chunk in flight of an instance has passed the last stage (R391, R393). -/
def chunkPasses (s : State) (m inst : Nat) : State :=
  match (instStreams s m inst).flatMap (·.flying) with
  | [] => s
  | n :: ns => chunksPass s m inst (ns.foldl min n)

/-- Meaning of PREFILL_CHUNK_INJECT (R393): no chunk while a decode token waits; with two in flight the oldest passes first. -/
def execPrefillChunkInject (m inst : Nat) (s : State) : Res :=
  .next (if !slotRuns s m then s else
    let xs := instStreams s m inst
    if xs.any fun x => x.st = .decode && !x.inFlight && !x.paused then s
    else match xs.find? fun x => x.st = .prefill && x.injected < x.promptLen && !x.paused with
      | none => s
      | some x =>
        let s := if (xs.flatMap (·.flying)).length ≥ 2 then chunkPasses s m inst else s
        let n := s.steward.chunkNo
        updStream { s with steward := { s.steward with chunkNo := n + 1 } } x.id fun y => { y with
          injected := min y.promptLen (y.injected + 32), flying := y.flying ++ [n] })

/-- Meaning of DECODE_TOKEN_INJECT (R39, R393): the waiting stream with the higher PRIORITY, then the longer wait; its token goes to the
entry tile as a control-class message. -/
def execDecodeTokenInject (m inst : Nat) (s : State) : Res :=
  .next (if !slotRuns s m then s else
    match (instStreams s m inst).filter fun x => x.st = .decode && !x.inFlight && !x.paused with
    | [] => s
    | x :: xs =>
      let y := xs.foldl (fun a b =>
        if b.priority > a.priority || (b.priority = a.priority && b.waitTb < a.waitTb) then b else a) x
      startMessage (updStream s y.id fun z => { z with inFlight := true }) m inst)

/-! Sampling (R397). -/

/-- The integer whose product with 2^-24 is the variate u. -/
def variate (seed index : Nat) : Nat :=
  let m := 2 ^ 64
  let x := ((seed ^^^ index) + 0x9E3779B97F4A7C15) % m
  let x := ((x ^^^ (x >>> 30)) * 0xBF58476D1CE4E5B9) % m
  let x := ((x ^^^ (x >>> 27)) * 0x94D049BB133111EB) % m
  (x ^^^ (x >>> 31)) >>> 40

/-- u as binary32, exact. -/
def variate32 (seed index : Nat) : Nat := (roundPack f32 0 false (variate seed index) (-24)).1

/-- Order of binary32 encodings under totalOrder, as a number. -/
def orderKey (x : Nat) : Nat := if f32.sign x then 0x7FFFFFFF - f32.mag x else 0x80000000 + f32.mag x

/-- The greedy order of candidates (token, logit): larger logit first, on equal values the lower token. -/
def greedyBefore (a b : Nat × Nat) : Bool :=
  if orderKey a.2 ≠ orderKey b.2 then orderKey a.2 > orderKey b.2 else a.1 < b.1

/-- A chain of the steward: binary32, rounded to nearest, no scalars. -/
def stewardChain : PzEnv := { cf := 0, rnd := 0, s0 := 0, s1 := 0, given := none, nanMode := false }

/-- The elements of a row as a tap sees them. -/
def rowNodes (l : List Nat) : List Node := l.zipIdx.map some

/-- A row summed by one reduction chain (R154, R397). -/
def sum32 (l : List Nat) : Nat := ((reduceRow stewardChain 0 (rowNodes l)).1.map (·.1)).getD 0

/-- The index at which a SCAN of weights reaches T, else the last one (R156, R397). -/
def reachIndex (t : Nat) (ws : List Nat) : Nat :=
  ((scanBeats stewardChain t (rowNodes ws) (List.range (ceilDiv ws.length (beatSize 0))) (none, 0)).1).getD (ws.length - 1)

/-- The weight of a candidate, by the stages of the temperature chain of chapter 05: sub, mul by log2(e) / T, exp2 (R397; that quotient as
the binary32 nearest to log2(e) divided by T: DEDUCED, log 41). -/
def sampleWeight (logit best temp : Nat) : Nat :=
  let scale := (fDiv f32 0 0x3FB8AA3B temp).1
  (transEval f32 0 (fMul f32 0 (fSub f32 0 logit best).1 scale).1).1

/-- A token drawn from candidates with weights by the variate. -/
def drawFrom (u : Nat) (cs : List (Nat × Nat)) (ws : List Nat) : Nat :=
  let t := (fMul f32 0 u (sum32 ws)).1
  (cs.getD (reachIndex t ws) (0, 0)).1

/-- The token of R397 for a stream's parameters and its tiles' results. -/
def sampleToken (x : Stream) (tiles : List TileSample) : Nat :=
  let u := variate32 x.seed x.generated
  let all := (tiles.flatMap (·.cands)).mergeSort greedyBefore
  let best := (all.headD (0, 0))
  let weigh := fun (cs : List (Nat × Nat)) => cs.map fun c => sampleWeight c.2 best.2 x.temp
  match x.mode with
  | 0 => best.1
  | 1 =>
    let zs := tiles.map (·.z)
    let t := (fMul f32 0 u (sum32 zs)).1
    ((tiles[reachIndex t zs]?).map (·.scan)).getD 0
  | 2 => let cs := all.take x.topK; drawFrom u cs (weigh cs)
  | _ =>
    let cs := all.take (if x.mode = 3 then 64 else x.topK)
    let ws := weigh cs
    let n := reachIndex (fMul f32 0 x.topP (sum32 ws)).1 ws + 1
    drawFrom u (cs.take n) (ws.take n)

/-- REASON of the token with an index (R394). -/
def tokenReason (s : State) (x : Stream) (token : Nat) : Nat :=
  if x.stops.contains token then 1
  else if x.generated + 1 ≥ x.maxNew then 2
  else if x.promptLen + x.generated + 1 ≥ bhContext (slotHeader s x.slot) then 3
  else 0

/-- The tokens kept of a stream after one more (R390, R395): one that a replay makes again keeps its stamp. -/
def keepToken (x : Stream) (k : Nat × Nat × Nat × Nat) : List (Nat × Nat × Nat × Nat) :=
  if k.1 < x.sent then x.kept else (x.kept ++ [k]).drop (x.kept.length + 1 - 256)

/-- A token of a stream (R391, R394): the chunks before it have passed; one at or below the last one sent is not sent again (R332). -/
def streamToken (s : State) (x : Stream) (token : Nat) : State :=
  let s := match x.flying.getLast? with
    | some n => chunksPass s x.slot x.inst n
    | none => s
  let reason := tokenReason s x token
  let y := { x with
    st := .decode, flying := [], inFlight := false, waitTb := s.time.tb, generated := x.generated + 1
    sent := max x.sent (x.generated + 1), kept := keepToken x (x.generated, token, reason, s.time.tb) }
  let s := updStream s x.id fun _ => y
  let s := if x.generated ≥ x.sent then sendToken s x x.generated token reason s.time.tb else s
  if reason ≠ 0 then endStream s y else s

/-- A token ID sent by the last stage of a pipeline to the ingress tile of stage 0, as a control-class message (R399); its contents are open:
free bytes. -/
def tokenMessage (s : State) (g : Bundle) : State :=
  match (g.runtime.head?).bind fun i => i.peers.head?, carrier s 364150 with
  | some dev, some t => noteTo s t 364150 dev 364150
  | _, _ => s

/-- Where the tokens of a slot come from (R399): sampled here, with none of them owned here, or from the last stage. -/
def isLastStage (h : List Byte) : Bool := bhNdev h > 1 && bhStage h ≠ 0 && bhStage h + 1 = bhNdev h

/-- Meaning of TOKEN_SAMPLED (R39, R391, R394, R397, R399, R400): a token sampled from the logits tiles, or one that the last stage of a
pipeline sent; the last stage itself passes it on to stage 0, which holds token output until every stage has resumed. -/
def execTokenSampled (m stream : Nat) (source : TokenSource) (s : State) : Res :=
  .next (if !slotRuns s m then s else
    let h := slotHeader s m
    if isLastStage h then
      (match source, (modelSlot s m).bundle with
       | .tiles _, some g => tokenMessage s g
       | _, _ => s)
    else match s.steward.streams.find? fun x => x.id = stream && x.slot = m with
    | none => s
    | some x =>
      let ready := (x.st = .decode && x.inFlight) || (x.st = .prefill && x.injected ≥ x.promptLen && x.flying ≠ [])
      if !ready || x.paused then s
      else match source with
        | .tiles l => if bhNdev h ≤ 1 then streamToken s x (sampleToken x l) else s
        | .lastStage token resumed => if bhNdev h > 1 && resumed then streamToken s x token else s)

end Sys2Proof.Machine
end

