-- ==== Sys2Proof/Machine/Transitions.lean ====
section
/-! DEFINITION. The device transitions of R5: what entering AUX, BRINGUP, KEEP-ALIVE and FAULT does, the decision of R6, and
the acceptance of a reset (R436, R437). -/

namespace Sys2Proof.Machine

/-- A model slot EMPTY (R384, R396); its last load status stays. -/
def emptySlot (x : ModelSlot) : ModelSlot := { code := x.code, detail := x.detail }

/-- The runtime and Periscope stopped: every slot EMPTY, no stream, no binding, no region action (R384, R396). -/
def stopRuntime (s : State) : State :=
  { s with
    steward := { s.steward with
      primary := 0xFFFF, standby := 0xFFFF, running := false, streams := [], recorded := [], inbox := [], parts := []
      commits := [], standbyCommits := []
      slots := s.steward.slots.map fun e => (e.1, emptySlot e.2) }
    regions := s.regions.map fun e => (e.1, { e.2 with binding := 0xFFFF, mslot := 0xFF, migrating := 0, actions := [] }) }

/-- A recovery and a snapshot in progress end without completion (R330, R475). -/
def dropRecovery (s : State) : State :=
  { s with
    sig := { s.sig with timed := s.sig.timed.filter fun e => e.1 < 256 }
    tiles := s.tiles.map fun e => (e.1, { e.2 with snap := {} })
    recov := { s.recov with
      snapScope := [], contexts := [], staging := [], stash := [], stashCtx := [], unapplied := [], step := 0, scope := []
      lost := [], rolledBack := false, rebound := false, rebuilt := false, prepared := false, restored := false, armed := false, moved := []
      replaced := [], migMoves := [] } }

/-- The ERROR frames that the Eyepiece owes since it entered KEEP-ALIVE without a reference (R395). -/
def sendOwed (s : State) : State :=
  let s := s.steward.owed.foldl (fun s r => eyepieceError s r.2.1 r.2.2.1 r.2.2.2.1 r.1 r.2.2.2.2) s
  { s with steward := { s.steward with owed := [] } }

/-- The frames of an entry to KEEP-ALIVE or FAULT (R384, R395): at once, or owed while the ports have no reference. -/
def announceDown (s : State) : State :=
  if !eyepieceRuns s then { s with steward := { s.steward with streams := [], recorded := [] } }
  else if s.clock.locked then failRecorded s 9
  else { s with steward := { s.steward with
    owed := s.steward.owed ++ s.steward.recorded.map fun r =>
      let sent := match s.steward.streams.find? fun x => x.id = r.1 with | some x => x.sent | none => 0
      (r.1, r.2.1, r.2.2.1, 9, sent)
    streams := [], recorded := [] } }

/-- Ports set to Chadon Stream or Ethernet go to electrical idle (R335). -/
def idlePorts (s : State) : State :=
  (List.range 32).foldl (fun s p =>
    if (personality s p = 2 || personality s p = 3) && 2 ≤ (portOf s p).st && (portOf s p).st ≤ 5 then setPort s p 1 0 else s) s

/-- Every lane to electrical idle (R212). -/
def idleLanes (s : State) : State :=
  (List.range 32).foldl (fun s p => if 2 ≤ (portOf s p).st && (portOf s p).st ≤ 4 then setPort s p 1 0 else s) s

/-- Enabled ports that are out of service train, FAILED ones too (R212, R215, R339, R438). -/
def trainPorts (s : State) : State :=
  (List.range 32).foldl (fun s p =>
    if portEnabled s p && personality s p ≠ 0 && ((portOf s p).st ≤ 1 || (portOf s p).st = 5) then startTraining s p else s) s

/-- A TB hot spell closed, for 0x2200.0A (R479). -/
def closeHot (s : State) : State :=
  match s.power.hotSince with
  | none => s
  | some t => { s with
    store := { s.store with hotTicks := s.store.hotTicks + (s.time.tb - t) }
    power := { s.power with hotSince := none } }

/-- Every region stage off, with what depends on the regions. -/
def allOff (s : State) : State := closeHot (stagesOff (dropRecovery (stopRuntime s)))

/-- The end of a loss's sequence: the duration of a SAFE-HOLD that ends, counted from the loss of its step 1 (0x2010.06, log 96),
and the pins no longer forced. -/
def endHold (s : State) : State :=
  { s with
    clock := { s.clock with
      holdStep := 0, lastHold := if s.dev.st = .safeHold then s.time.tb - s.clock.lossTb else s.clock.lastHold }
    dev := { s.dev with forcedSafe := false } }

/-- KEEP-ALIVE entered (R4, R215, R335, R384, R395). -/
def enterKeepAlive (s : State) : State := idlePorts (enterState (allOff (announceDown (endHold s))) .keepAlive)

/-- FAULT entered: the power supervision turns every stage off whether or not a pair survives (R318, R384, R404). -/
def enterFault (s : State) : State := enterState (allOff (announceDown (endHold s))) .fault

/-- Both steward regions are fenced: the primary, with no standby that could take over (R301, R316). -/
def stewardsLost (s : State) : Bool :=
  s.steward.running && faultMapBit (regionOfNo s s.steward.primary)
  && (s.steward.standby = 0xFFFF || faultMapBit (regionOfNo s s.steward.standby))

/-- A cause of R316 that outlasts the regions: both pairs lost, fewer than 24 converters, a rim segment with both rings unusable. -/
def rimLost (s : State) : Bool :=
  !s.dev.pairs.any id
  || ((List.range 26).filter fun n => s.power.converters.getLsbD n).length < 24
  || s.fabric.rimDown.any fun e => e.1 = 0 && s.fabric.rimDown.contains (1, e.2)

/-- A cause of R316 that stands. -/
def unrecoverable (s : State) : Bool := rimLost s || stewardsLost s

/-- The stored route table (R354, R428): 0x1031.05 holds it whole. -/
def readRoutes (s : State) : State :=
  { s with fabric := { s.fabric with routes := routesOf (dbytes s 0x1031 5 []) } }

/-- What the boot ROM does at each entry to AUX (R428, R434, R452): the identity keys, the scan, the period of the heartbeat. -/
def auxScan (s : State) : State :=
  let s := { s with boot := { s.boot with identity := Config.identityKeys Config.identitySeed } }
  let s := readRoutes (scanStore (if (theBank s).recs.all recValid then s else compact s))
  { s with dict := { s.dict with
    serving := true
    nextBeat := if s.dict.nextBeat.isSome then s.dict.nextBeat
      else if dnum s 0x1010 3 1000 = 0 then none else some s.time.tb } }

/-! What a BRINGUP ends of an update and of a debug unlock (R455, R459). -/

/-- States of 0x2320.06. -/
def upIdle : Nat := 0
def upErasing : Nat := 1
def upReceiving : Nat := 2
def upVerifying : Nat := 3
def upVerified : Nat := 4
def upFailed : Nat := 5
def upActivated : Nat := 6

/-- The flash an update targets: the one not booted when it begins; while none is booted, the one not preferred (log 70). -/
def updateTarget (s : State) : Nat :=
  if s.boot.update ≠ upIdle then s.boot.target else if s.boot.booted = 0 then 1 - s.boot.preferred else 2 - s.boot.booted

/-- The update in a new state, with its record (R463). -/
def setUpdate (s : State) (n reason : Nat) : State :=
  let s := { s with boot := { s.boot with update := n, owner := if n = upIdle then none else s.boot.owner } }
  logEvent s 0x080A (if n = upFailed then 2 else 0) n reason

/-- A flash's image partition erased (R459). -/
def eraseImage (s : State) (f : Nat) : State :=
  let g : ImagePart := { erased := true }
  { s with boot := if f = 0 then { s.boot with imageA := g } else { s.boot with imageB := g } }

/-- An update not yet activated ends at a BRINGUP, its target left invalid (R459): erased (log 70). -/
def dropUpdate (s : State) : State :=
  if s.boot.update = upIdle || s.boot.update = upActivated then s else setUpdate (eraseImage s (updateTarget s)) upIdle 0

/-- A debug unlock ends, with its record (R455, R463). -/
def endUnlock (s : State) : State :=
  if s.boot.perms = 0 then s
  else logEvent { s with boot := { s.boot with perms := 0 } } 0x0807 1 s.boot.perms.toNat 0

/-- The conditions that a change to AUX or BRINGUP leaves reported (R6): FAULT, while a cause of it stands. A loss of reference is
over by then, and no region is left to recover or to keep alive. -/
def standing (s : State) : List Condition :=
  if s.dev.conditions.contains .toFault && rimLost s then [.toFault] else []

/-- CLKSEL and NODE_ID sampled at an entry to AUX (R190, R435): another source starts from the trimmed oscillator (R191); a strapped
node ID of 0 is recorded (R412, R433). -/
def sampleStraps (s : State) (x : Straps) : State :=
  let s := if x.clksel = s.dev.clksel then s else { s with
    clock := { s.clock with
      source := 1, present := x.sourcePresent, locked := false, qualified := false, lost := false, lastWindow := 0, agree := 0 } }
  let s := { s with dev := { s.dev with clksel := x.clksel, nodeId := x.nodeId % 128 } }
  if s.dev.nodeId = 0 then logEvent s 0x0501 1 0 0 else s

/-- AUX entered because VIN_54 left its range (R5, R475): region power goes, and all that needs it ends; the straps are sampled. -/
def enterAux (s : State) (x : Straps) : State :=
  let s := endHold { s with
    power := { s.power with breaker := false, bus := 0 }
    dev := { s.dev with
      conditions := standing s, heldReset := none, bringupStep := 0, stagesOffWait := false }
    steward := { s.steward with owed := [] } }
  let s := enterState (allOff s) .aux
  sampleStraps (auxScan (idlePorts s)) x

/-- OFF: nothing is powered (R4). What module flash, fuses and the companions hold stays; so does what has left the module. -/
def toOff (s : State) : State :=
  let s := closeHot s
  { store := s.store
    log := { flash := s.log.flash, seq := (s.log.flash.map fun r => r.seq + 1).foldl max 0 }
    boot := {
      preferred := s.boot.preferred, counter := s.boot.counter, trial := s.boot.trial
      trainA := s.boot.trainA, trainB := s.boot.trainB, imgRevoked := s.boot.imgRevoked
      bundleKeys := s.boot.bundleKeys, bdlRevoked := s.boot.bdlRevoked
      update := s.boot.update, owner := s.boot.owner, target := s.boot.target, oldPreferred := s.boot.oldPreferred
      imageA := s.boot.imageA, imageB := s.boot.imageB
      flashBundle := s.boot.flashBundle }
    recov := { compLog := s.recov.compLog }
    dev := { rstHigh := s.dev.rstHigh }
    out := s.out
    free := s.free
    pending := s.pending }

/-- What a FENCED region whose stage does not stay on leaves for at a warm restart: DEAD or OFF_THERMAL by its cause (R313, R318). -/
def settleFenced (s : State) : State :=
  s.regions.foldl (fun s e =>
    if deadDue e.2 then markDead (dropRegion s e.1) e.1
    else if e.2.st = .fenced && !e.2.stageOn then updRegion (dropRegion s e.1) e.1 fun r => { r with st := .offThermal, temp := e.2.temp }
    else s) s

/-- Ports whose use needs a device ID go DOWN with cause 5 where the value that takes effect is not set (R353). -/
def dropUnnamed (s : State) : State :=
  (List.range 32).foldl (fun s p =>
    if 2 ≤ (portOf s p).st && (portOf s p).st ≤ 5 && localCause s p = 5 then setPort s p 1 5 else s) s

/-- Entry to BRINGUP (R61, R353, R355, R396, R436, R438, R455, R459, R474): the breaker closes and the 12 V bus starts; what takes effect at a
BRINGUP does; the stages are off, or stay on for a warm restart. -/
def beginBringup (s : State) (k : ResetKind) : State :=
  let code := match k with | .cold => 1 | .rstN => 2 | .warm => 3 | .full => 4
  let cold := k = .cold || k = .rstN
  let s := endUnlock (dropUpdate (dropRecovery (stopRuntime s)))
  let s := if cold then closeHot (stagesOff s) else settleFenced s
  let s := enterState s .bringup
  let s := idlePorts s
  dropUnnamed <| compileRoutes { s with
    free := s.free + 32
    power := { s.power with breaker := true, bus := 12000 }
    clock := { s.clock with spread := dnum s 0x2010 7 1 = 1, holdStep := 0 }
    dev := { s.dev with
      conditions := standing s, heldReset := none, startKind := code, bringupTb := s.time.tb, bringupStep := 1, forcedSafe := false
      stagesOffWait := decide (k = .rstN), fullTraining := decide (k = .full), retrainUsed := false, nextGroup := 0
      nextCal := 0 }
    boot := { s.boot with challenge := freshBytes s.free 32 }
    regions := s.regions.map fun e => (e.1, { e.2 with
      held := false, trainedFull := false, shortPassed := false, lostInKat := false, defect := [] })
    fabric := { s.fabric with
      devId := dnum s 0x1030 1 0xFFFF
      ports := s.fabric.ports.map fun e =>
        (e.1, { e.2 with ctr := {}, ingress := if personality s e.1 = 3 then 0x7FFFF else e.2.ingress }) } }

/-- A reset performed (R396, R436): the frames to the recorded streams first, then BRINGUP. -/
def performReset (s : State) (k : ResetKind) : State := beginBringup (failRecorded s 0xE) k

/-- A reset that is accepted (R192, R436, R437): performed; held while no reference is locked, and in SAFE-HOLD; a further one while
one is held adds nothing. Between a loss and the entry to SAFE-HOLD it waits for SAFE-HOLD, which it then ends (R5, log 96). In AUX
only RST_N is taken, and BRINGUP then starts with its kind. -/
def acceptReset (s : State) (k : ResetKind) : State :=
  let hold := { s with dev := { s.dev with heldReset := if s.dev.heldReset.isSome then s.dev.heldReset else some k } }
  match s.dev.st with
  | .off => s
  | .aux => if k = .rstN then hold else s
  | .bringup => if k ≠ .rstN then s else if s.clock.locked then performReset s k else hold
  | .safeHold => hold
  | .ready | .serving | .recovering | .keepAlive | .fault => if s.clock.locked then performReset s k else hold

/-! The decision of R6. -/

/-- SAFE-HOLD entered, step 4 of R212: the record with the stamp of step 1, SRAM at retention voltage, the timeout taken (R215).
Where the source is still present, or present again, step 5 begins at once. -/
def enterSafeHold (s : State) : State :=
  let old := s.dev.st
  let s := logAt s s.clock.lossTb 0 0x0101 2 s.clock.lossMonitor 0 false
  let s := enterState s .safeHold
  { s with
    dev := { s.dev with beforeHold := old }
    clock := { s.clock with holdStep := if s.clock.present then 5 else 4, holdTimeout := dnum s 0x2010 4 60 }
    regions := s.regions.map fun e => (e.1, if e.2.stageOn then { e.2 with sramMv := 550 } else e.2) }

/-- RECOVERING entered (R5). -/
def enterRecovering (s : State) : State :=
  let old := s.dev.st
  let s := enterState s .recovering
  { s with dev := { s.dev with beforeRecovery := old } }

/-- The transition that a condition asks for may be taken in the present state (R5). -/
def mayTake (s : State) (c : Condition) : Bool :=
  match c, s.dev.st with
  | .toFault, .off | .toFault, .aux | .toFault, .fault => false
  | .toFault, _ => true
  | .toSafeHold, .bringup | .toSafeHold, .ready | .toSafeHold, .serving | .toSafeHold, .recovering => true
  | .toKeepAlive, .recovering => true
  | .toRecovering, .ready | .toRecovering, .serving => true
  | _, _ => false

/-- One condition taken. -/
def takeCondition (s : State) (c : Condition) : State :=
  let s := { s with dev := { s.dev with conditions := s.dev.conditions.filter (· ≠ c) } }
  match c with
  | .toFault => enterFault s
  | .toSafeHold => enterSafeHold s
  | .toKeepAlive => enterKeepAlive s
  | .toRecovering => enterRecovering s

/-- A condition that ranks before KEEP-ALIVE waits for this decision cycle (R6). -/
def outranked (s : State) : Bool :=
  [Condition.toFault, .toSafeHold].any fun c => s.dev.conditions.contains c && mayTake s c

/-- The decision of R6: of the conditions reported that R5 lets the present state take, the first of FAULT, SAFE-HOLD,
KEEP-ALIVE, RECOVERING; the others stay. -/
def decideState (s : State) : State :=
  match ([Condition.toFault, .toSafeHold, .toKeepAlive, .toRecovering]).find? fun c =>
      s.dev.conditions.contains c && mayTake s c with
  | some c => takeCondition s c
  | none => s

end Sys2Proof.Machine
end

