-- ==== Sys2Proof/Machine/Power.lean ====
section
/-! DEFINITION. The power supervision, cooling, resets and the decision cycle (R6, R312, R435 to R437, R464 to R480). -/

namespace Sys2Proof.Machine

/-- Some region is at or above 95 degrees, or the like. -/
def someRegionAt (s : State) (t : Int) : Bool := s.regions.any fun e => e.2.stageOn && e.2.temp ≥ t

/-- Meaning of AUX_SUPPLY_IN_RANGE (R191, R435, R438, R468): step 1. The straps are sampled, the PLL runs from the trimmed
oscillator, the store is scanned, the transition from OFF is recorded (R431). -/
def execAuxSupplyInRange (straps : Straps) (vin : Nat) (s : State) : Res :=
  .next (if s.dev.st ≠ .off || vin < 32000 then s else
    let s := { s with
      dev := { s.dev with pairs := [true, true] }
      power := { s.power with vin := vin, vinOk := false }
      clock := { s.clock with source := 1, present := straps.sourcePresent, locked := false, qualified := false }
      time := { s.time with tb := 0 } }
    sampleStraps (setAlert (auxScan (enterState s .aux)) 0) straps)

/-- A write of flash that the loss of power cuts short (R428, R429, R447): of the training record the copy that it was to replace is left
invalid. -/
def tearFlash (s : State) (x : Torn) : State :=
  match x with
  | .training =>
    (match newerRecord s with
     | some (0, _) => { s with boot := { s.boot with trainB := s.boot.trainB.map fun r => { r with valid := false } } }
     | _ => { s with boot := { s.boot with trainA := s.boot.trainA.map fun r => { r with valid := false } } })
  | x => tearStore s x

/-- Meaning of AUX_SUPPLY_LOST (R5, R428, R429, R468); `torn`: a write of flash in progress. -/
def execAuxSupplyLost (vin : Nat) (torn : Torn) (s : State) : Res :=
  .next (if s.dev.st ≠ .off && vin < 28000 then toOff (if eyepieceRuns s then tearFlash s torn else s) else s)

/-- The breaker opens on a trip (R470). -/
def tripBreaker (s : State) (why current : Nat) : State :=
  if !s.power.breaker then s
  else logEvent { s with power := { s.power with breaker := false, tripped := true, bus := 0 } } 0x0702 2 why current

/-- VIN_54 is out of its range from here on (R468, R475). -/
def vinLeaves (s : State) (why : Nat) (straps : Straps) : State :=
  if !s.power.vinOk then s
  else
    let s := logEvent { s with power := { s.power with vinOk := false } } 0x0700 2 why s.power.vin
    if s.dev.st = .aux then { s with power := { s.power with breaker := false, bus := 0 } } else enterAux s straps

/-- Meaning of VIN_54_OUT_OF_RANGE (R468, R470, R475): above 63 V the breaker trips as well. -/
def execVin54OutOfRange (vin : Nat) (straps : Straps) (s : State) : Res :=
  .next (if !rimRuns s || (45000 ≤ vin && vin ≤ 61000) then s else
    let s := { s with power := { s.power with vin := vin } }
    let s := if vin > 63000 then tripBreaker s 2 s.power.iin else s
    vinLeaves s (if vin < 45000 then 1 else 2) straps)

/-- Meaning of VIN_54_BACK_IN_RANGE (R468). -/
def execVin54BackInRange (vin : Nat) (s : State) : Res :=
  .next (if !rimRuns s || vin < 46000 || vin > 60000 || s.power.tripped then s else
    let s := { s with power := { s.power with vin := vin } }
    if s.power.vinOk then s else logEvent { s with power := { s.power with vinOk := true } } 0x0701 0 0 vin)

/-- Meaning of RST_N_FALL (R404, R436, R437, R470): one reset a fall; it permits the breaker to close, and it restarts both
Eyepiece pairs from the boot ROM where both are lost. -/
def execRstNFall (s : State) : Res :=
  .next (if !s.dev.rstHigh then s else
    let s := { s with dev := { s.dev with rstHigh := false } }
    if s.dev.st = .off then s
    else
      let s := { s with power := { s.power with tripped := false } }
      let s := if s.dev.pairs.any id then s else auxScan { s with dev := { s.dev with pairs := [true, true] } }
      acceptReset s .rstN)

/-- Meaning of RST_N_RELEASE (R436). -/
def execRstNRelease (s : State) : Res := .next { s with dev := { s.dev with rstHigh := true } }

/-- Meaning of RESET_STAGES_OFF_EXPIRY (R436). -/
def execResetStagesOffExpiry (s : State) : Res :=
  .next (if s.dev.stagesOffWait then { s with dev := { s.dev with stagesOffWait := false } } else s)

/-- Meaning of EYEPIECE_PAIR_LOST (R312, R404): with both lost, the supervisor of the rim holds FAULT; from AUX too. -/
def execEyepiecePairLost (pair : Nat) (s : State) : Res :=
  .next (if !rimRuns s || !(s.dev.pairs.getD pair false) then s else
    let s := { s with dev := { s.dev with pairs := s.dev.pairs.set pair false } }
    if s.dev.pairs.any id then s
    else enterFault { s with dict := { s.dict with serving := false, nextBeat := none } })

/-- Meaning of DECISION_CYCLE (R6). -/
def execDecisionCycle (s : State) : Res := .next (if eyepieceRuns s then decideState s else s)

/-- Meaning of BREAKER_TRIP (R470, R475). -/
def execBreakerTrip (byVoltage : Bool) (current : Nat) (straps : Straps) (s : State) : Res :=
  .next (if !rimRuns s || !s.power.breaker then s else
    vinLeaves (tripBreaker { s with power := { s.power with iin := current } } (if byVoltage then 2 else 1) current) 3 straps)

/-- 1 written to 0x2100.07 (R470). -/
def permitBreaker (s : State) : State := { s with power := { s.power with tripped := false } }

/-- Working converters. -/
def convertersUp (s : State) : Nat := ((List.range 26).filter fun n => s.power.converters.getLsbD n).length

/-- Meaning of CONVERTER_LOST (R316, R469). -/
def execConverterLost (n : Nat) (s : State) : Res :=
  .next (if !rimRuns s || n ≥ 26 || !s.power.converters.getLsbD n then s else
    let s := { s with power := { s.power with converters := s.power.converters &&& ~~~(BitVec.twoPow 26 n) } }
    let k := convertersUp s
    let s := setAlert (logEvent s 0x0703 (if k < 24 then 3 else 1) n k) 2
    if k < 24 then report s .toFault else s)

/-- Meaning of PHASE_LOST (R472): the second loss is the region fault POWER_PHASE. -/
def execPhaseLost (p phase : Nat) (s : State) : Res :=
  .next (
    let r := regionOfNo s p
    if p ≥ regionCount || phase ≥ 3 || !r.stageOn || r.phases.contains phase then s
    else
      let s := updRegion s p fun r => { r with phases := r.phases ++ [phase] }
      if r.phases = [] then logEvent s 0x0704 1 p phase
      else if r.phases.length = 1 then regionFault s p 0x31 0 none 0
      else s)

/-- A stage that turns off at once, with its region's Loupe buffer (R298, R314). -/
def cutStage (s : State) (p : Nat) : State :=
  updRegion s p fun r => { r with stageOn := false, coreMv := 0, sramMv := 0, loupe := [] }

/-- Meaning of POWER_FUSE_TRIP (R473): counted only while the 12 V bus is above 10.8 V. -/
def execPowerFuseTrip (p : Nat) (s : State) : Res :=
  .next (
    let r := regionOfNo s p
    if p ≥ regionCount || !r.stageOn || r.fuse || s.power.bus ≤ 10800 then s
    else
      let s := { s with power := { s.power with fuseTrips := (s.power.fuseTrips + 1) % 2 ^ 32 } }
      let s := updRegion s p fun r => { r with fuse := true }
      cutStage (regionFault s p 0x30 0 none 0) p)

/-- Meaning of VOLTAGE_FAULT (R313, R471). -/
def execVoltageFault (p : Nat) (s : State) : Res :=
  .next (if p < regionCount && (regionOfNo s p).stageOn then regionFault s p 0x32 0 none 0 else s)

/-- Meaning of THERMAL_COMPARATOR (R313, R331, R476): the stage turns off at once. -/
def execThermalComparator (p : Nat) (s : State) : Res :=
  .next (if p < regionCount && (regionOfNo s p).stageOn then cutStage (regionFault s p 0x36 0 none 0) p else s)

/-- Meaning of POWER_AVERAGE_REFRESH (R466, R478): the 10 ms average, and the 1 s average over its last hundred. -/
def execPowerAverageRefresh (vin iin power rimPower : Nat) (s : State) : Res :=
  .next (if !rimRuns s then s else
    let last := (s.power.lastSecond ++ [power]).drop (s.power.lastSecond.length - 99)
    let sum := last.foldl (· + ·) 0
    let s := { s with power := { s.power with
      vin := vin, iin := iin, avg := power, peak := max s.power.peak power, lastSecond := last
      energy := s.power.energy + power * 10, rim := rimPower } }
    let s := if last.length = 100 && sum > 3000000 then setAlert (logEvent s 0x0705 1 1 (sum / 100)) 2 else s
    if power > 34000 then setAlert (logEvent s 0x0705 1 2 power) 2 else s)

/-- Samples in a row past a threshold; the tenth makes 1 s (R477). -/
def overRun (past : Bool) (n : Nat) : Nat := if past then min 11 (n + 1) else 0

/-- Meaning of COOLANT_SAMPLE (R477): an event when a value has been past its threshold for 1 s. -/
def execCoolantSample (inlet outA outB : Int) (flowA flowB : Nat) (s : State) : Res :=
  .next (if !rimRuns s then s else
    let w := s.power
    let i := overRun (inlet > (toSigned 16 (dnum s 0x2200 0xB 300))) w.inletRun
    let a := overRun (flowA < dnum s 0x2200 0xC 250) w.flowARun
    let b := overRun (flowB < dnum s 0x2200 0xC 250) w.flowBRun
    let s := { s with power := { w with
      inlet := inlet, outA := outA, outB := outB, flowA := flowA, flowB := flowB, inletRun := i, flowARun := a, flowBRun := b } }
    let s := if i = 10 then logEvent s 0x0706 1 1 (ofSigned 64 inlet) else s
    let s := if a = 10 then logEvent s 0x0706 1 2 flowA else s
    let s := if b = 10 then logEvent s 0x0706 1 3 flowB else s
    if i ≥ 10 || a ≥ 10 || b ≥ 10 then setAlert s 2 else s)

end Sys2Proof.Machine
end

