-- ==== Sys2Proof/Machine/Clock.lean ====
section
/-! DEFINITION. The reference clock, the sequence of SAFE-HOLD, the region generators, crossings and dimming (R190 to R216). -/

namespace Sys2Proof.Machine

/-! Qualification (R191, R192). -/

/-- Source code of the selected source once the PLL runs from it (R217). -/
def selectedSource (s : State) : Nat := if s.dev.clksel then 3 else 2

/-- The rim requalifies its source: it is present, and neither qualified nor locked. After a loss, step 5 of R212 follows step 4. -/
def qualifying (s : State) : Bool :=
  rimRuns s && s.clock.present && !s.clock.qualified && !s.clock.locked && s.clock.holdStep ≠ 1

/-- The selected source is qualified and the PLL moves to it (R191); after a loss the PLL counts as running from the trimmed
oscillator until it relocks (0x2010.02). -/
def qualify (s : State) : State :=
  { s with clock := { s.clock with
    qualified := true, source := if s.clock.lost then s.clock.source else selectedSource s } }

/-- Meaning of CRYSTAL_QUAL_WINDOW_END (R191): two windows in a row whose counts agree to within 0.1%. -/
def execCrystalQualWindowEnd (count : Nat) (s : State) : Res :=
  .next (if !qualifying s || s.dev.clksel then s else
    let last := s.clock.lastWindow
    let agree := last ≠ 0 && (count - last + (last - count)) * 1000 ≤ last
    let s := { s with clock := { s.clock with lastWindow := count, agree := if agree then s.clock.agree + 1 else 0 } }
    if agree then qualify s else s)

/-- Meaning of CRYSTAL_NOT_STABLE (R191, R192): the event, and the W48 keeps trying. -/
def execCrystalNotStable (s : State) : Res :=
  .next (if rimRuns s && !s.dev.clksel && !s.clock.qualified && !s.clock.locked then
      setAlert (logEvent s 0x0100 1 s.clock.source 0) 0
    else s)

/-- Meaning of REFCLK_QUALIFIED (R191). -/
def execRefclkQualified (s : State) : Res := .next (if qualifying s && s.dev.clksel then qualify s else s)

/-- Free-running on the distributed reference, TB leaves holdover as the reference returns (R280). -/
def endHoldover (s : State) : State := if dnum s 0x2020 1 0 = 0 then leaveHoldover s else s

/-- The reference is back in KEEP-ALIVE or FAULT (R215, R395, R437): the lanes retrain, the frames owed leave, and a held reset is
performed. -/
def referenceBack (s : State) : State :=
  let s := { s with dev := { s.dev with forcedSafe := false } }
  let s := endHoldover (logEvent s 0x0102 0 0 s.clock.lastHold)
  let s := sendOwed (trainPorts s)
  match s.dev.heldReset with
  | some k => performReset s k
  | none => s

/-- Meaning of PLL_LOCKED (R191, R192, R212): in SAFE-HOLD it begins step 6. -/
def execPllLocked (s : State) : Res :=
  .next (if !rimRuns s || !s.clock.qualified || s.clock.locked then s else
    let s := { s with clock := { s.clock with locked := true, lost := false, source := selectedSource s } }
    match s.dev.st with
    | .aux => endHoldover s
    | .safeHold => { s with clock := { s.clock with holdStep := if s.clock.holdStep = 5 then 6 else s.clock.holdStep } }
    | .keepAlive | .fault => referenceBack s
    | _ => s)

/-! Loss of reference (R211 to R216). -/

/-- The reference is lost: the PLL falls back to the trimmed oscillator, TB is in holdover (R191, R211, R214). -/
def dropReference (s : State) (monitor : Nat) : State :=
  let s := if s.time.holdover then s else logEvent s 0x0111 1 1 0
  let s := setAlert (setAlert s 0) 6
  { s with
    time := { s.time with holdover := true, locked := false, good := 0 }
    clock := { s.clock with
      source := 1, locked := false, qualified := false, lost := true, present := s.clock.present && monitor ≠ 0, lastWindow := 0, agree := 0
      losses := (s.clock.losses + 1) % 2 ^ 32 } }

/-- Every region that has clocks gates at its next core edge (R212, R213). -/
def gateRegions (s : State) : State :=
  { s with regions := s.regions.map fun e => (e.1, if e.2.stageOn then { markCycles s.time.tb e.2 with gated := true } else e.2) }

/-- Meaning of REFERENCE_LOST (R211, R212, R216): steps 1 to 3; before step 8 of a SAFE-HOLD the sequence restarts at step 4. -/
def execReferenceLost (monitor : Nat) (s : State) : Res :=
  .next (
    let known := monitor = 0 || (0x1000 ≤ monitor && monitor < 0x1000 + regionCount)
    let requal := match s.dev.st with
      | .safeHold => decide (s.clock.holdStep = 5)
      | .aux | .keepAlive | .fault => s.clock.present || s.clock.qualified
      | _ => false
    if !rimRuns s || !known then s
    else if !(s.clock.locked || requal) then
      (if monitor = 0 && s.clock.holdStep = 1 then { s with clock := { s.clock with present := false } } else s)
    else
      let s := dropReference s monitor
      match s.dev.st with
      | .bringup | .ready | .serving | .recovering =>
        let s := gateRegions (idleLanes s)
        report { s with
          clock := { s.clock with holdStep := 1, lossTb := s.time.tb, lossMonitor := monitor }
          dev := { s.dev with forcedSafe := true } } .toSafeHold
      | .safeHold =>
        let s := gateRegions (idleLanes s)
        let s := logEvent s 0x0101 2 monitor 0
        { s with
          clock := { s.clock with holdStep := if s.clock.present then 5 else 4 }
          dev := { s.dev with forcedSafe := true }
          regions := s.regions.map fun e => (e.1, if e.2.stageOn then { e.2 with sramMv := 550 } else e.2) }
      | .keepAlive | .fault => idleLanes { s with dev := { s.dev with forcedSafe := true } }
      | .off | .aux => s)

/-- Meaning of SAFE_HOLD_ENTRY (R6, R212): step 4, as the Eyepiece decides. -/
def execSafeHoldEntry (s : State) : Res := .next (if eyepieceRuns s && s.clock.holdStep = 1 then decideState s else s)

/-- Meaning of REFERENCE_RETURNED (R191, R212): the source is present and is qualified anew; step 5 of SAFE-HOLD. -/
def execReferenceReturned (s : State) : Res :=
  .next (if !rimRuns s || s.clock.locked || s.clock.qualified then s else
    { s with clock := { s.clock with
      present := true, lastWindow := 0, agree := 0
      holdStep := if s.dev.st = .safeHold && s.clock.holdStep = 4 then 5 else s.clock.holdStep } })

/-- A crossing measured for the first time since its region was powered (R207): L, or failed where d + 1 exceeds 10 or the writes
arrive out of order or corrupted. `realign`: the realignments it has counted. L takes values up to 10, and the spec gives a failed
crossing none: it keeps d + 1 cut to 10 (DESIGN CHOICE, log 106). -/
def setCrossing (s : State) (c : CrossingCal) (lat realign : Nat) : State :=
  let x : Crossing := {
    src := c.src, side := c.side, pos := c.pos, net := c.net, lat := min 10 lat, failed := c.delay + 1 > 10 || !c.clean
    realign := realign, lag := 0 }
  updRegion s c.region fun r => { r with
    crossings := (r.crossings.filter fun y => !(y.src = c.src && y.side = c.side && y.pos = c.pos && y.net = c.net)) ++ [x] }

/-- The droop monitor of a region calibrated, unless a saved calibration stands (R199, R447); the spec does not say what the
calibration is: a free value (log 9). -/
def calibrateDroop (s : State) (p : Nat) : State :=
  if (regionOfNo s p).droop.isSome then s
  else
    let (v, s) := fresh s
    updRegion s p fun r => { r with droop := some v }

/-- A calibration result applied to a crossing of its consumer region: the larger of the kept and the new L (R209), a failed one
marked, the lag zero (R204), and drift recorded when L has grown. -/
def recalibrate (s : State) (c : CrossingCal) : State :=
  let r := regionOfNo s c.region
  match r.crossings.find? fun x => x.src = c.src && x.side = c.side && x.pos = c.pos && x.net = c.net with
  | none => s
  | some x =>
    let new := max x.lat (c.delay + 1)
    let bad := c.delay + 1 > 10 || !c.clean
    let s := updRegion s c.region fun r => { r with
      crossings := r.crossings.map fun y => if y = x then { y with lat := min 10 new, failed := bad } else y }
    if new > x.lat && !bad then
      logRegion (updCtr s c.region fun k => { k with drift := (k.drift + 1) % 2 ^ 32 }) c.region 0x0104 1 c.region
        (x.lat * 256 + new + c.side * 65536)
    else s

/-- Meaning of SAFE_HOLD_UNGATE (R204, R209, R212): steps 6 and 7. Operating voltage, the recalibrated crossings, every lag zero,
TB copies at the master, clocks on with the releases that waited for them, lanes retraining. -/
def execSafeHoldUngate (result : List CrossingCal) (s : State) : Res :=
  .next (if !rimRuns s || s.dev.st ≠ .safeHold || s.clock.holdStep ≠ 6 then s else
    let s := result.foldl recalibrate s
    let s := { s with
      clock := { s.clock with holdStep := 7 }
      regions := s.regions.map fun e => (e.1, { syncCopy (someServing s) s.time.tb 0 (markCycles s.time.tb e.2) with
        gated := false, sramMv := if e.2.stageOn then 750 else e.2.sramMv
        crossings := e.2.crossings.map fun x => { x with lag := 0 } }) }
    trainPorts (deliverReleases s))

/-- Timed actions whose time fell inside a SAFE-HOLD are late (R214). -/
def lateTimed (s : State) : State :=
  { s with sig := { s.sig with timed := s.sig.timed.map fun e =>
    (e.1, if (e.2.status = 1 || e.2.status = 2) && e.2.armT ≤ s.time.tb then { e.2 with late := true } else e.2) } }


/-- Meaning of SAFE_HOLD_TIMEOUT (R6, R215): KEEP-ALIVE, unless a cause of FAULT waits for the same decision. A held reset stays held;
where the PLL has relocked already the reference counts as back (log 96). -/
def execSafeHoldTimeout (s : State) : Res :=
  .next (if !eyepieceRuns s || s.dev.st ≠ .safeHold || s.time.tb < s.dev.transTb + s.clock.holdTimeout * second then s else
    if outranked s then decideState s
    else
      let s := enterKeepAlive (lateTimed s)
      if s.clock.locked then referenceBack s else s)

/-! Generators, stretches, crossings (R197 to R206). -/

/-- The core period of a region in ns (R195). -/
def period (r : Region) : Rat := (4 : Rat) / 5 * 32 / (max 1 r.dim : Nat)

/-- A crossing's lag after a stretch of its producer: one realignment for each period reached (R204). Extensions are at most
half a period of the producer, itself at most twice the consumer's, so one is enough unless dimming differs. -/
def addLag (per ext : Rat) (x : Crossing) : Crossing :=
  let c := x.lag + ext
  if c ≥ per then { x with lag := c - per * ((c / per).floor : Int), realign := (x.realign + (c / per).floor.toNat) % 2 ^ 32 }
  else { x with lag := c }

/-- Crossings into a region gain an extension; those that reach its period are realigned, counted and seen by Loupe (R204, R297). -/
def lagWhere (s : State) (q : Nat) (sel : Crossing → Bool) (ext : Rat) : State :=
  let r := regionOfNo s q
  let per := period r
  let hit := r.crossings.filter fun x => sel x && x.lag + ext ≥ per
  let s := updRegion s q fun r => { r with crossings := r.crossings.map fun x => if sel x then addLag per ext x else x }
  hit.foldl (fun s x =>
    let n := (regionOfNo s q).realign + ((x.lag + ext) / per).floor.toNat
    let s := updRegion s q fun r => { r with realign := n % 2 ^ 32 }
    loupe s q 0xFF 0x0A x.side (n % 2 ^ 32)) s

/-- The crossings that a region produces into another, after a stretch of the producer. -/
def lagInto (s : State) (p q : Nat) (ext : Rat) : State := lagWhere s q (fun x => x.src = p) ext

/-- A stretched period of a region, longer by e/16 (R199, R204): every tile and the region count it, the cycle count lacks the
extension; outbound crossings gain it, inbound ones lose it. -/
def stretchRegion (s : State) (p e : Nat) : State :=
  let ext := period (regionOfNo s p) * e / 16
  let s := (regionTiles p).foldl (fun s t => updCore s t fun c => { c with stretchCnt := c.stretchCnt + 1 }) s
  let s := updRegion s p fun r => { r with
    stretch := r.stretch + 1, cyc := cyclesAt s.time.tb r - 4 * e, cycTb := s.time.tb
    crossings := r.crossings.map fun x => { x with lag := max 0 (x.lag - ext) } }
  (s.regions.map (·.1)).foldl (fun s q => if q = p then s else lagInto s p q ext) s

/-- Meaning of DROOP_STRETCH (R199): the extension is e/16 of the period. -/
def execDroopStretch (p e : Nat) (s : State) : Res :=
  .next (if p < regionCount && clocksRun (regionOfNo s p) && 1 ≤ e && e ≤ 8 then
      stretchRegion s p e
    else s)

/-- Meaning of GENERATOR_SWITCHOVER (R198): the period of the switch counts as a stretch; its extension, at most half a period, is
a free value. -/
def execGeneratorSwitchover (p : Nat) (s : State) : Res :=
  .next (if p < regionCount && clocksRun (regionOfNo s p) && !(regionOfNo s p).standbyLost then
      let (n, s) := fresh s
      let s := stretchRegion s p (n % 9)
      let s := updRegion s p fun r => { r with onStandby := true, standbyLost := true }
      logRegion { s with clock := { s.clock with switchovers := (s.clock.switchovers + 1) % 2 ^ 32 } } p 0x0103 1 p 0
    else s)

/-- Meaning of CLOCK_GENERATOR_FAIL (R198): the remaining generator fails. -/
def execClockGeneratorFail (p : Nat) (s : State) : Res :=
  .next (if p < regionCount && clocksRun (regionOfNo s p) && (regionOfNo s p).standbyLost then regionFault s p 0x33 0 none 0
    else s)

/-- Meaning of CROSSING_TOKEN_RELEASE (R202, R203): the crossing's oldest token is presented at the input. -/
def execCrossingTokenRelease (t inp : Nat) (s : State) : Res :=
  .next (if !tileRuns s t then s else
    match latQ (tileOf s t).lat.xq inp with
    | [] => s
    | k :: q =>
      if (latQ (tileOf s t).lat.inq inp).length ≥ 4 then s
      else updTile s t fun x => settle { x with lat := { x.lat with
        xq := smSet x.lat.xq inp q, inq := smSet x.lat.inq inp (latQ x.lat.inq inp ++ [k]) } })

/-! Temperature (R200, R331, R476). -/

/-- A region switched off for heat: its stage is off, its contents are gone, its last sample stays (R318, R331). -/
def switchOffHeat (s : State) (p : Nat) : State :=
  let temp := (regionOfNo s p).temp
  updRegion (dropRegion s p) p fun r => { r with st := .offThermal, temp := temp }

/-- Step 1 of a thermal migration (R331): the slot's streams pause. -/
def noticeHeat (s : State) (p : Nat) : State :=
  let m := (regionOfNo s p).mslot
  let s := updRegion s p fun r => { r with migrating := 1, migTb := s.time.tb }
  { s with steward := { s.steward with
    streams := s.steward.streams.map fun x => if x.slot = m then { x with paused := true } else x } }

/-- The hot spell of the wafer opens or closes with a sample (R479). -/
def trackHot (s : State) : State :=
  let hot := s.regions.any fun e => e.2.temp > 1050
  match s.power.hotSince with
  | none => if hot then { s with power := { s.power with hotSince := some s.time.tb } } else s
  | some _ => if hot then s else closeHot s

/-- A region at a new dimming level (R200): DIMMED below 32, its role again at 32. A lag that the shorter period no longer exceeds is
realigned (R203, R204). -/
def setDim (s : State) (p k : Nat) (temp : Int) : State :=
  let r := regionOfNo s p
  if r.dim = k then s
  else
    let s := updRegion s p fun r => { markCycles s.time.tb r with
      dim := k
      role := if r.st = .healthy || r.st = .reserve || r.st = .bound then r.st else r.role
      st := if k < 32 && (r.st = .healthy || r.st = .reserve || r.st = .bound) then .dimmed
        else if k = 32 && r.st = .dimmed then r.role else r.st }
    lagWhere (loupe s p 0xFF 0x09 k (ofSigned 32 temp)) p (fun _ => true) 0

/-- Meaning of TEMPERATURE_SAMPLE (R200, R318, R331, R476). -/
def execTemperatureSample (p : Nat) (temp : Int) (s : State) : Res :=
  .next (
    let r := regionOfNo s p
    if p ≥ regionCount || r.gated || !(r.stageOn || r.st = .offThermal) then s
    else
      let s := updRegion s p fun r => { r with temp := temp }
      let s := if temp > 1050 && r.temp ≤ 1050 then logRegion s p 0x0707 1 p (ofSigned 64 temp) else s
      let s := trackHot (if temp ≥ 950 then setAlert s 1 else s)
      match r.st with
      | .healthy | .reserve | .bound | .dimmed =>
        if temp ≥ 1100 then
          if roleOf r = .bound then (if r.migrating = 0 then noticeHeat s p else s) else mapBroadcast (switchOffHeat (clampRegion s p) p)
        else if temp ≥ 950 then setDim s p (max 16 (r.dim - 1)) temp
        else if temp > 900 then s
        else setDim s p (min 32 (r.dim + 1)) temp
      | _ => s)

end Sys2Proof.Machine
end

