-- ==== Sys2Proof/Machine/Crypto.lean ====
section
/-! DEFINITION. The hashes and signature checks that R440, R441 and R456 name: SHA-384, RSASSA-PSS with SHA-384 (PKCS#1 v2.2) and
SLH-DSA-SHA2-192s (FIPS 205), from the published standards (R10; log 11). -/

namespace Sys2Proof.Machine

/-! SHA-2. -/

/-- The first 80 primes, from which the constants of SHA-2 are taken. -/
def shaPrimes : List Nat :=
  [2, 3, 5, 7, 11, 13, 17, 19, 23, 29, 31, 37, 41, 43, 47, 53, 59, 61, 67, 71, 73, 79, 83, 89, 97, 101, 103, 107, 109, 113, 127, 131]
  ++ [137, 139, 149, 151, 157, 163, 167, 173, 179, 181, 191, 193, 197, 199, 211, 223, 227, 229, 233, 239, 241, 251, 257, 263, 269, 271]
  ++ [277, 281, 283, 293, 307, 311, 313, 317, 331, 337, 347, 349, 353, 359, 367, 373, 379, 383, 389, 397, 401, 409]

/-- The first `w` bits of the fractional part of the k-th root of a number below 2 ^ 10. -/
def fracRoot (w k p : Nat) : BitVec w :=
  BitVec.ofNat w ((List.range (w + 5)).reverse.foldl (fun r i => if (r + 2 ^ i) ^ k ≤ p * 2 ^ (k * w) then r + 2 ^ i else r) 0)

/-- What tells SHA-256 from SHA-384 and SHA-512: word width, rotations of the four sigma functions, rounds. -/
structure ShaKind where
  w : Nat
  big0 : Nat × Nat × Nat
  big1 : Nat × Nat × Nat
  small0 : Nat × Nat × Nat
  small1 : Nat × Nat × Nat
  rounds : Nat

/-- 32-bit words. -/
def sha32 : ShaKind := ⟨32, (2, 13, 22), (6, 11, 25), (7, 18, 3), (17, 19, 10), 64⟩

/-- 64-bit words. -/
def sha64 : ShaKind := ⟨64, (28, 34, 39), (14, 18, 41), (1, 8, 7), (19, 61, 6), 80⟩

/-- Three rotations, exclusive or. -/
def bigSigma {w : Nat} (r : Nat × Nat × Nat) (x : BitVec w) : BitVec w :=
  x.rotateRight r.1 ^^^ x.rotateRight r.2.1 ^^^ x.rotateRight r.2.2

/-- Two rotations and a shift, exclusive or. -/
def smallSigma {w : Nat} (r : Nat × Nat × Nat) (x : BitVec w) : BitVec w :=
  x.rotateRight r.1 ^^^ x.rotateRight r.2.1 ^^^ (x >>> r.2.2)

/-- The message schedule of a block, newest word first: `n` words are added to those of the block. -/
def shaSchedule (k : ShaKind) : Nat → List (BitVec k.w) → List (BitVec k.w)
  | 0, ws => ws
  | n + 1, ws => shaSchedule k n
      ((smallSigma k.small1 (ws.getD 1 0) + ws.getD 6 0 + smallSigma k.small0 (ws.getD 14 0) + ws.getD 15 0) :: ws)

/-- One round on the working variables a to h: `x` is the round's constant plus its schedule word. -/
def shaRound (k : ShaKind) (v : List (BitVec k.w)) (x : BitVec k.w) : List (BitVec k.w) :=
  match v with
  | [a, b, c, d, e, f, g, h] =>
    let t1 := h + bigSigma k.big1 e + ((e &&& f) ^^^ (~~~e &&& g)) + x
    [t1 + bigSigma k.big0 a + ((a &&& b) ^^^ (a &&& c) ^^^ (b &&& c)), a, b, c, d + t1, e, f, g]
  | v => v

/-- A block taken into the hash value. -/
def shaBlock (k : ShaKind) (consts hash : List (BitVec k.w)) (block : List Byte) : List (BitVec k.w) :=
  let first := (List.range 16).map fun i => BitVec.ofNat k.w (beNat (slice block (i * (k.w / 8)) (k.w / 8)))
  let ws := (shaSchedule k (k.rounds - 16) first.reverse).reverse
  List.zipWith (· + ·) hash ((List.zipWith (· + ·) consts ws).foldl (shaRound k) hash)

/-- A message with its padding: a 1 bit, zeros, the length in bits. -/
def shaPad (k : ShaKind) (m : List Byte) : List Byte :=
  let block := 2 * k.w
  let tail := k.w / 4
  m ++ [0x80] ++ List.replicate ((block - (m.length + 1 + tail) % block) % block) 0 ++ natBe tail (8 * m.length)

/-- A hash of a byte string from an initial value, as bytes. -/
def sha2 (k : ShaKind) (iv : List (BitVec k.w)) (m : List Byte) : List Byte :=
  let p := shaPad k m
  let consts := (shaPrimes.take k.rounds).map (fracRoot k.w 3)
  let h := (List.range (p.length / (2 * k.w))).foldl (fun h n => shaBlock k consts h (slice p (n * (2 * k.w)) (2 * k.w))) iv
  h.flatMap fun x => natBe (k.w / 8) x.toNat

/-- SHA-256. -/
def sha256 (m : List Byte) : List Byte := sha2 sha32 ((shaPrimes.take 8).map (fracRoot 32 2)) m

/-- SHA-512. -/
def sha512 (m : List Byte) : List Byte := sha2 sha64 ((shaPrimes.take 8).map (fracRoot 64 2)) m

/-- SHA-384: SHA-512 from its own initial value, cut to 48 bytes. -/
def sha384 (m : List Byte) : List Byte := (sha2 sha64 (((shaPrimes.drop 8).take 8).map (fracRoot 64 2)) m).take 48

/-- The mask generation function MGF1 over a hash of `h` bytes. -/
def mgf1 (hash : List Byte → List Byte) (h : Nat) (seed : List Byte) (len : Nat) : List Byte :=
  ((List.range ((len + h - 1) / h)).flatMap fun c => hash (seed ++ natBe 4 c)).take len

/-! RSASSA-PSS (R441). -/

/-- b ^ e mod n, over the low `k` bits of e. -/
def powMod (n : Nat) : (k b e : Nat) → Nat
  | 0, _, _ => 1 % n
  | k + 1, b, e => (if e % 2 = 1 then b * powMod n k (b * b % n) (e / 2) else powMod n k (b * b % n) (e / 2)) % n

/-- EMSA-PSS verification of an encoded message of `bits` bits: SHA-384, MGF1 with SHA-384, a salt of 48 bytes. -/
def pssGood (msg em : List Byte) (bits : Nat) : Bool :=
  let n := em.length
  let db := slice em 0 (n - 49)
  let h := slice em (n - 49) 48
  let top := 8 * n - bits
  let open_ := List.zipWith (· ^^^ ·) db (mgf1 sha384 48 h (n - 49))
  let clear := match open_ with | [] => [] | x :: xs => BitVec.ofNat 8 (x.toNat % 2 ^ (8 - top)) :: xs
  98 ≤ n && em.getLast? = some 0xBC && top ≤ 8 && (db.getD 0 0).toNat < 2 ^ (8 - top)
  && (clear.take (n - 98)).all (· = 0) && clear.getD (n - 98) 0 = 1
  && sha384 (List.replicate 8 0 ++ sha384 msg ++ clear.drop (n - 97)) = h

/-- An RSA-PSS signature verifies: `key` is RSA_N, big-endian, then RSA_E (R440, R441). -/
def rsaVerifies (key msg sig : List Byte) : Bool :=
  let n := beNat (slice key 0 384)
  let s := beNat sig
  let bits := Nat.log2 n
  sig.length = 384 && s < n && pssGood msg (natBe ((bits + 7) / 8) (powMod n 32 s (fld key 384 4))) bits

/-! SLH-DSA-SHA2-192s (R440, R441): hashes of 24 bytes, a hypertree of 7 layers of height 9, 17 FORS trees of height 14, 51 chains
of 16. -/

/-- An address of a hash (FIPS 205): layer, tree, type, then three words by type. -/
structure SlhAdrs where
  layer : Nat := 0
  tree : Nat := 0
  type : Nat := 0
  pair : Nat := 0
  height : Nat := 0
  index : Nat := 0

/-- The compressed address of the SHA-2 sets, 22 bytes. -/
def adrsBytes (a : SlhAdrs) : List Byte :=
  natBe 1 a.layer ++ natBe 8 a.tree ++ natBe 1 a.type ++ natBe 4 a.pair ++ natBe 4 a.height ++ natBe 4 a.index

/-- F: SHA-256 over the padded seed, the address and one value. -/
def slhF (seed : List Byte) (a : SlhAdrs) (x : List Byte) : List Byte :=
  (sha256 (seed ++ List.replicate 40 0 ++ adrsBytes a ++ x)).take 24

/-- H and T: SHA-512 over the padded seed, the address and several values. -/
def slhH (seed : List Byte) (a : SlhAdrs) (x : List Byte) : List Byte :=
  (sha512 (seed ++ List.replicate 104 0 ++ adrsBytes a ++ x)).take 24

/-- The first `count` digits of `b` bits of a byte string, most significant first. -/
def digitsOf (b count : Nat) (x : List Byte) : List Nat :=
  let v := beNat x
  (List.range count).map fun i => v / 2 ^ (8 * x.length - b * (i + 1)) % 2 ^ b

/-- `n` steps of a chain from step `i`. -/
def slhChain (seed : List Byte) (a : SlhAdrs) : (n i : Nat) → List Byte → List Byte
  | 0, _, x => x
  | n + 1, i, x => slhChain seed a n (i + 1) (slhF seed { a with index := i } x)

/-- A leaf and its path of 24-byte siblings: the root above it. -/
def slhClimb (seed : List Byte) (a : SlhAdrs) : (level idx : Nat) → List Byte → List (List Byte) → List Byte
  | _, _, node, [] => node
  | level, idx, node, x :: xs =>
    let a1 := { a with height := level + 1, index := idx / 2 }
    slhClimb seed a level.succ (idx / 2) (slhH seed a1 (if idx % 2 = 0 then node ++ x else x ++ node)) xs

/-- A byte string in values of 24 bytes. -/
def slhWords (x : List Byte) (n : Nat) : List (List Byte) := (List.range n).map fun i => slice x (24 * i) 24

/-- The WOTS+ public key of a signature of a 24-byte value. -/
def slhWots (seed : List Byte) (a : SlhAdrs) (sig m : List Byte) : List Byte :=
  let d := digitsOf 4 48 m
  let sum := (d.map fun x => 15 - x).foldl (· + ·) 0
  let d := d ++ digitsOf 4 3 (natBe 2 (sum * 16))
  let ends := d.zipIdx.flatMap fun e => slhChain seed { a with height := e.2 } (15 - e.1) e.1 (slice sig (24 * e.2) 24)
  slhH seed { a with type := 1 } ends

/-- The layers of the hypertree from `layer` on, each a signature of the root below it: the last root. -/
def slhTree (seed : List Byte) : (n layer tree leaf : Nat) → (sig node : List Byte) → List Byte
  | 0, _, _, _, _, node => node
  | n + 1, layer, tree, leaf, sig, node =>
    let a : SlhAdrs := { layer := layer, tree := tree, pair := leaf }
    let pk := slhWots seed a (sig.take 1224) node
    let root := slhClimb seed { layer := layer, tree := tree, type := 2 } 0 leaf pk (slhWords (slice sig 1224 216) 9)
    slhTree seed n (layer + 1) (tree / 512) (tree % 512) (sig.drop 1440) root

/-- The FORS public key of a signature of 30 bytes of digest. -/
def slhFors (seed : List Byte) (a : SlhAdrs) (sig md : List Byte) : List Byte :=
  let roots := (digitsOf 14 17 md).zipIdx.flatMap fun e =>
    let own := slice sig (360 * e.2) 360
    let at_ := e.2 * 2 ^ 14 + e.1
    slhClimb seed a 0 at_ (slhF seed { a with index := at_ } (own.take 24)) (slhWords (own.drop 24) 14)
  slhH seed { a with type := 4 } roots

/-- A pure SLH-DSA signature with an empty context verifies: `key` is the public seed and the root (R441). -/
def slhVerifies (key msg sig : List Byte) : Bool :=
  let seed := slice key 0 24
  let root := slice key 24 24
  let r := sig.take 24
  let digest := mgf1 sha512 64 (r ++ seed ++ sha512 (r ++ seed ++ root ++ [0, 0] ++ msg)) 39
  let tree := beNat (slice digest 30 7) % 2 ^ 54
  let leaf := beNat (slice digest 37 2) % 2 ^ 9
  let pk := slhFors seed { tree := tree, type := 3, pair := leaf } (slice sig 24 6120) (digest.take 30)
  sig.length = 16224 && key.length = 48 && slhTree seed 7 0 tree leaf (sig.drop 6144) pk = root

end Sys2Proof.Machine
end

