-- ==== Sys2Proof/Machine/Paths.lean ====
section
/-! DEFINITION. What Periscope computes at a binding: the lattice paths between regions (R304), the planes with their
recomputed steps (R184), and the binding report (R186). -/

namespace Sys2Proof.Machine

/-! Lattice paths (R160, R304). -/

/-- Position of a place along the side by which a port's link reaches it (R422). -/
def sidePos (s : State) (x : Place) (port : Nat) : Nat :=
  if port % 2 = 1 then x.r else physPos ((regionOfNo s x.region).repair.getD x.r 10) x.j

/-- L of the crossing into region q from region p, the nominal 7 (R183) where none is calibrated. -/
def crossingLat (s : State) (p q pos net : Nat) : Nat :=
  (((regionOfNo s q).crossings.find? fun c => c.src = p && c.pos = pos && c.net = net).map (·.lat)).getD 7

/-- The logical tile at a place under a binding. -/
def placeTile (b : Binding) (x : Place) : Option Nat := (slotOn b x.region).map fun n => ltileAt n x.j x.r

/-- The place of a logical tile under a binding. -/
def tilePlace (b : Binding) (l : Nat) : Option Place :=
  (regionFor b (slotOf l)).map fun p => { region := p, j := lcol l % 10, r := lrow l % 8 }

/-- The planes of a tile in a section. -/
def tilePlanes (g : Bundle) (l sect : Nat) : List Plane :=
  (g.planes.filter fun x => x.ltile = l && x.section_ = sect).map fun x => planeOf x.image 0 0

/-- A plane drives an output, or uses an input, of a network by index (R162). -/
def drivesOut (p : Plane) (i : Nat) : Bool :=
  (p.routes.any fun w => latIndex (rtNet w) (rtOut w) = i) || ((entriesOf p 2).any fun e => latIndex (eNet e) (ePort e) = i)
  || (steerOuts p).contains i
def usesIn (p : Plane) (i : Nat) : Bool :=
  (p.routes.any fun w => latIndex (rtNet w) (rtIn w) = i) || ((entriesOf p 3).any fun e => latIndex (eNet e) (ePort e) = i)
  || (steerIns p).contains i

/-- The sections in which a link is live: a plane of its source drives it. -/
def liveSects (g : Bundle) (u : LinkUse) : List Nat :=
  ((g.planes.filter fun x => x.ltile = u.srcTile && drivesOut (planeOf x.image 0 0) (latIndex u.net u.outPort)).map (·.section_)).dedup

/-- A segment may pass a tile from an input to an output: in every section in which the link is live the tile has a plane to hold the
route word, and each such plane has one free; neither input nor output is used there, by a plane or a path placed before (R304). -/
def mayPass (g : Bundle) (placed : List PathHop) (h : PathHop) : Bool :=
  let hs := placed.filter fun x => x.ltile = h.ltile
  let i := latIndex h.net h.inp
  let o := latIndex h.net h.out
  h.sects.all fun k =>
    let ps := tilePlanes g h.ltile k
    let xs := hs.filter fun x => x.sects.contains k
    ps ≠ [] && (ps.all fun p => !drivesOut p o && !usesIn p i && p.routes.length + xs.length < 20)
    && xs.all fun x => latIndex x.net x.out ≠ o && latIndex x.net x.inp ≠ i

/-- A path under construction: where it has come to, the port it came by, its latency, crossings and route words, the regions
passed. -/
structure Trail where
  at_ : Place
  port : Nat
  lat : Nat
  xings : List PathXing
  hops : List PathHop
  regs : List Nat
  deriving DecidableEq, Repr

/-- A list of numbers before another, by the first difference. -/
def lexBefore : List Nat → List Nat → Bool
  | [], b => !b.isEmpty
  | _ :: _, [] => false
  | x :: xs, y :: ys => if x = y then lexBefore xs ys else x < y

/-- The preference of R304: less latency, then fewer regions, then lower region numbers in path order. -/
def trailBefore (a b : Trail) : Bool :=
  if a.lat ≠ b.lat then a.lat < b.lat
  else if a.regs.length ≠ b.regs.length then a.regs.length < b.regs.length
  else lexBefore a.regs b.regs

/-- A trail taken over one more link (R160). -/
def trailStep (s : State) (net : Nat) (t : Trail) (port : Nat) : Option Trail :=
  (placeNext t.at_ port).map fun x =>
    let base := if port < 4 then 2 else 3
    if x.region = t.at_.region then { t with at_ := x, port := port, lat := t.lat + base }
    else
      let pos := sidePos s x port
      let l := crossingLat s t.at_.region x.region pos net
      { t with
        at_ := x, port := port, lat := t.lat + base + l
        xings := t.xings ++ [{ src := t.at_.region, dst := x.region, outPort := port, pos := pos, lat := l }]
        regs := t.regs ++ [x.region] }

/-- Key of a place. -/
def placeKey (x : Place) : Nat := x.region * 80 + x.r * 10 + x.j

/-- The trails that go on from one, through its tile by a route word. -/
def trailOn (s : State) (g : Bundle) (b : Binding) (placed : List PathHop) (u : LinkUse) (sects : List Nat) (t : Trail) :
    List Trail :=
  match placeTile b t.at_ with
  | none => []
  | some l =>
    (List.range (if u.net = 2 then 4 else 8)).filterMap fun port =>
      let h : PathHop := { ltile := l, net := u.net, inp := facing t.port, out := port, sects := sects }
      if mayPass g (placed ++ t.hops) h then (trailStep s u.net t port).map fun t' => { t' with hops := t.hops ++ [h] } else none

/-- Key of where a trail has come to: the place, and the port it came by, whose input its next route word uses. -/
def trailKey (t : Trail) : Nat := placeKey t.at_ * 8 + t.port

/-- The better of two trails to one place by one port kept. -/
def keepTrail (m : SMap Trail) (t : Trail) : SMap Trail :=
  match smGet m (trailKey t) with
  | some o => if trailBefore t o then smSet m (trailKey t) t else m
  | none => smSet m (trailKey t) t

/-- Rounds of extension: the best trail to each place by each port, and the best that has reached the end by the use's own port. -/
def searchTrails (s : State) (g : Bundle) (b : Binding) (placed : List PathHop) (u : LinkUse) (sects : List Nat) (dst : Place) :
    Nat → SMap Trail → Option Trail → Option Trail
  | 0, _, best => best
  | n + 1, m, best =>
    let new := m.flatMap fun e => trailOn s g b placed u sects e.2
    let done := new.filter fun t => t.at_ = dst && t.port = u.outPort
    let best := done.foldl (fun a t => match a with
      | some o => if trailBefore t o then some t else a
      | none => some t) best
    let m' := (new.filter fun t => t.at_ ≠ dst).foldl keepTrail m
    if m' = m then best else searchTrails s g b placed u sects dst n m' best

/-- The path of a link under a binding (R24, R304): the crossing where its regions touch, else the best chain of segments. -/
def placePath (s : State) (g : Bundle) (b : Binding) (placed : List PathHop) (u : LinkUse) : Option LatPath :=
  match tilePlace b u.srcTile, (portTarget u.srcTile u.outPort).bind (tilePlace b) with
  | some x, some y =>
    let start : Trail := { at_ := x, port := u.outPort, lat := 0, xings := [], hops := [], regs := [] }
    (trailStep s u.net start u.outPort).bind fun t =>
      let found := if t.at_ = y then some t
        else if (slotOn b t.at_.region).isNone then none
        else searchTrails s g b placed u (liveSects g u) y (640 * b.length) [(trailKey t, t)] none
      found.map fun t => { use := u, lat := t.lat, xings := t.xings, hops := t.hops }
  | _, _ => none

/-- The links of the graph that lead from one slot to another, each once, in the graph's order. -/
def graphLinks (g : Bundle) : List LinkUse :=
  (g.graph.flatMap (·.via)).foldl (fun a u => if a.contains u then a else a ++ [u]) []

/-- The paths of some links, one after another; none where one cannot be placed. -/
def placeAll (s : State) (g : Bundle) (b : Binding) (us : List LinkUse) : Option (List LatPath) :=
  us.foldl (fun acc u => acc.bind fun ps =>
    (placePath s g b (ps.flatMap (·.hops)) u).map fun p => ps ++ [p]) (some [])

/-- The links whose two ends a binding binds. -/
def boundLinks (g : Bundle) (b : Binding) : List LinkUse :=
  (graphLinks g).filter fun u =>
    (tilePlace b u.srcTile).isSome && ((portTarget u.srcTile u.outPort).bind (tilePlace b)).isSome

/-! Recomputed planes (R184). -/

/-- The start steps of entries with their DELTAs (R170); `fr` the open loops with start and count. -/
def entryStarts : List (DWord × Nat) → Nat → List (Nat × Nat) → List Nat
  | [], _, _ => []
  | (e, d) :: rest, cur, fr =>
    let a := cur + d
    if eOp e = 9 then a :: entryStarts rest a ((a, eLoopN e) :: fr)
    else if eOp e = 0xA then
      match fr with
      | (b, n) :: fr' => a :: entryStarts rest (b + n * (a - b)) fr'
      | [] => a :: entryStarts rest a []
    else a :: entryStarts rest a fr

/-- DELTAs that bring entries to target start steps; an entry without one keeps its own. -/
def retime (target : Nat → Option Nat) : List (DWord × Nat) → Nat → Nat → List (Nat × Nat) → List Nat
  | [], _, _, _ => []
  | (e, d) :: rest, i, cur, fr =>
    let d' := match target i with | some v => v - cur | none => d
    let a := cur + d'
    d' :: (if eOp e = 9 then retime target rest (i + 1) a ((a, eLoopN e) :: fr)
      else if eOp e = 0xA then
        match fr with
        | (b, n) :: fr' => retime target rest (i + 1) (b + n * (a - b)) fr'
        | [] => retime target rest (i + 1) a []
      else retime target rest (i + 1) a fr)

/-- A plane being recomputed: tile, section, its entries with their DELTAs. -/
structure Timed where
  ltile : Nat
  sect : Nat
  rows : List (DWord × Nat)
  deriving DecidableEq, Repr

/-- The start of an entry of a tile in a section. -/
def startIn (ts : List Timed) (l sect i : Nat) : Nat :=
  match ts.find? fun t => t.ltile = l && t.sect = sect with
  | some t => (entryStarts t.rows 0 []).getD i 0
  | none => 0

/-- Latency of a placed link. -/
def useLat (ps : List LatPath) (u : LinkUse) : Nat := ((ps.find? fun p => p.use = u).map (·.lat)).getD 0

/-- The step that an edge gives its later entry. -/
def edgeEnd (ps : List LatPath) (ts : List Timed) (e : GraphEdge) : Nat :=
  startIn ts e.srcTile e.sect e.srcEntry + e.steps + (e.via.map (useLat ps)).foldl (· + ·) 0

/-- One pass of the longest-path rule over the graph (R183). -/
def relaxPlanes (g : Bundle) (ps : List LatPath) (ts : List Timed) : List Timed :=
  ts.map fun t =>
    let target := fun i =>
      match (g.graph.filter fun e => e.sect = t.sect && e.dstTile = t.ltile && e.dstEntry = i).map (edgeEnd ps ts) with
      | [] => none
      | x :: xs => some (xs.foldl max x)
    { t with rows := (t.rows.map (·.1)).zip (retime target t.rows 0 0 []) }

/-- Passes until every edge has had its turn. -/
def longestPaths (g : Bundle) (ps : List LatPath) : Nat → List Timed → List Timed
  | 0, ts => ts
  | n + 1, ts =>
    let ts' := relaxPlanes g ps ts
    if ts' = ts then ts else longestPaths g ps n ts'

/-- An entry with its DELTA, after the NOPs that a DELTA above 4,095 needs (R169, R184). -/
def rowsOf (e : DWord) (d : Nat) : List Nat :=
  let nop := 2 ^ 60 + 4095 * 2 ^ 48
  let k := (d - 1) / 4095
  let k := if d ≤ 4095 then 0 else k
  List.replicate k nop ++ [e.toNat / 2 ^ 60 * 2 ^ 60 + (d - 4095 * k) * 2 ^ 48 + e.toNat % 2 ^ 48]

/-- The planes of a bundle before recomputation. -/
def timedPlanes (g : Bundle) : List Timed :=
  g.planes.map fun x =>
    { ltile := x.ltile, sect := x.section_, rows := (planeOf x.image 0 0).entries.map fun e => (e, eDelta e) }

/-- The planes with every step recomputed for the placed paths. -/
def recomputed (g : Bundle) (ps : List LatPath) : List Timed := longestPaths g ps (g.graph.length + 1) (timedPlanes g)

/-- The route words that placed paths add to a tile in a section. -/
def addedRoutes (ps : List LatPath) (l sect : Nat) : List Nat :=
  ((ps.flatMap (·.hops)).filter fun h => h.ltile = l && h.sects.contains sect).map fun h =>
    h.net * 2 ^ 30 + h.out * 2 ^ 27 + h.inp * 2 ^ 24

/-- A plane image with new route words and entries (R165). -/
def rebuildImage (img : List Byte) (routes entries : List Nat) : List Byte :=
  let h := setFld (setFld (slice img 0 64) 4 2 routes.length) 6 2 entries.length
  h ++ routes.flatMap (natLe 4) ++ (if routes.length % 2 = 1 then natLe 4 0 else []) ++ entries.flatMap (natLe 8)

/-- The planes of a bundle for its placed paths (R184). -/
def newPlanes (g : Bundle) (ps : List LatPath) : List PlaneSeg :=
  (g.planes.zip (recomputed g ps)).map fun x =>
    let routes := (planeOf x.1.image 0 0).routes.map (·.toNat) ++ addedRoutes ps x.1.ltile x.1.section_
    { x.1 with image := rebuildImage x.1.image routes (x.2.rows.flatMap fun r => rowsOf r.1 r.2) }

/-- A plane keeps the limits of R165. -/
def planeFits (x : PlaneSeg) : Bool :=
  fld x.image 4 2 ≤ 20 && fld x.image 6 2 ≤ 494 && planeLen (fld x.image 4 2) (fld x.image 6 2) ≤ 4096

/-! The binding report (R186). -/

/-- Steps of the WAITs of a schedule, each BUDGET + 1 once per pass of the loops around it (R170, R173). -/
def waitSteps : List DWord → List Nat → Nat
  | [], _ => 0
  | e :: es, loops =>
    if eOp e = 9 then waitSteps es (eLoopN e :: loops)
    else if eOp e = 0xA then waitSteps es (loops.drop 1)
    else (if eOp e = 8 then (eBudget e + 1) * loops.foldl (· * ·) 1 else 0) + waitSteps es loops

/-- END of a plane's schedule. -/
def endOf (t : Timed) : Nat := ((entryStarts t.rows 0 []).getLast?).getD 0

/-- END_MAX of a logical region in a section. -/
def endMax (ts : List Timed) (sect n : Nat) : Nat :=
  ((ts.filter fun t => t.sect = sect && slotOf t.ltile = n).map endOf).foldl max 0

/-- The sections of a bundle, ascending. -/
def sections (g : Bundle) : List Nat := ((g.planes.map (·.section_)).dedup).mergeSort (· ≤ ·)

/-- The tile whose END is the largest of a section, the first in the order of the planes on a tie. -/
def critical (ts : List Timed) (sect : Nat) : Option Timed :=
  match ts.filter fun t => t.sect = sect with
  | [] => none
  | t :: rest => some (rest.foldl (fun a b => if endOf b > endOf a then b else a) t)

/-- Crossing traversals on the longest path that ends at an entry. -/
def traversals (g : Bundle) (ps : List LatPath) (ts : List Timed) (sect : Nat) : Nat → Nat → Nat → Nat
  | 0, _, _ => 0
  | n + 1, l, i =>
    match g.graph.filter fun e => e.sect = sect && e.dstTile = l && e.dstEntry = i with
    | [] => if i = 0 then 0 else traversals g ps ts sect n l (i - 1)
    | e :: es =>
      let m := es.foldl (fun a b => if edgeEnd ps ts b > edgeEnd ps ts a then b else a) e
      (m.via.map fun u => ((ps.find? fun p => p.use = u).map (·.xings.length)).getD 0).foldl (· + ·) 0
        + traversals g ps ts sect n m.srcTile m.srcEntry

/-- A section record (R186): what the manual gives no rule for is the predicted report's. -/
def sectRecord (g : Bundle) (ps : List LatPath) (ts : List Timed) (k sect regtab : Nat) : List Byte :=
  let old := slice g.report (64 + 32 * k) 32
  let gen := ((g.planes.find? fun x => x.section_ = sect).map fun x => fld x.image 0 1 % 16).getD 0
  match critical ts sect with
  | none => natLe 2 sect ++ natLe 30 0
  | some t =>
    natLe 2 sect ++ natLe 1 gen ++ natLe 1 (fld old 3 1) ++ natLe 4 (endOf t) ++ natLe 4 (slotOf t.ltile)
      ++ natLe 4 (waitSteps (t.rows.map (·.1)) [])
      ++ natLe 4 (traversals g ps ts sect (g.graph.length + t.rows.length + 1) t.ltile (t.rows.length - 1))
      ++ natLe 4 (fld old 0x14 4) ++ natLe 4 regtab ++ natLe 4 0

/-- A crossing record (R186). -/
def xingRecord (b : Binding) (net uses : Nat) (x : PathXing) : List Byte :=
  natLe 2 ((slotOn b x.src).getD 0xFFFF) ++ natLe 2 ((slotOn b x.dst).getD 0xFFFF) ++ natLe 1 (net + 4 * x.outPort)
    ++ natLe 1 x.lat ++ natLe 2 0 ++ natLe 2 x.src ++ natLe 2 x.dst ++ natLe 4 uses

/-- The binding report of a bundle for a binding, its paths, an epoch and a TB (R186). Of the crossing records the spec gives neither the
order nor what becomes of a crossing that two paths share: they stand path by path in the order of placement, one for each path and
crossing (DESIGN CHOICE, log 106). -/
def bindingReport (g : Bundle) (b : Binding) (ps : List LatPath) (epoch tb : Nat) : List Byte :=
  let ts := recomputed g ps
  let ss := sections g
  let regs := g.slots
  let tab := fun k => 64 + 32 * ss.length + k * 8 * regs.length
  let xs := ps.flatMap fun p => p.xings.map fun x =>
    xingRecord b p.use.net ((g.graph.filter fun e => e.via.contains p.use).length) x
  natLe 1 1 ++ natLe 1 1 ++ natLe 2 0 ++ natLe 4 (bhId g.header) ++ natLe 4 ss.length ++ natLe 4 xs.length
    ++ natLe 4 regs.length ++ natLe 4 epoch ++ natLe 8 tb ++ natLe 1 7 ++ natLe 31 0
    ++ (ss.zipIdx.flatMap fun e => sectRecord g ps ts e.2 e.1 (tab e.2))
    ++ (ss.flatMap fun k => regs.flatMap fun n => natLe 2 n ++ natLe 2 0 ++ natLe 4 (endMax ts k n))
    ++ xs.flatMap id

end Sys2Proof.Machine
end

