-- ==== Sys2Proof/Machine/Placement.lean ====
section
/-! DEFINITION. How Periscope binds a bundle and places it (R299 to R309): the tests of R305, the procedure of R303, the
tiles of a bound region, weights and their sources. -/

namespace Sys2Proof.Machine

/-- A region is not healthy whatever its tests say: a failed crossing on any of its sides (R207), a reserved repair pointer (R19). -/
def sidesBad (s : State) (p : Nat) : Bool :=
  (regionOfNo s p).crossings.any (·.failed)
  || s.regions.any (fun e => e.2.crossings.any fun x => x.src = p && x.failed)
  || (regionOfNo s p).repair.any (· > 10)

/-- The regions that forward traffic, ascending (R227). -/
def openRegions (s : State) : List Nat := (s.regions.filter fun e => !faultMapBit e.2).map (·.1)

/-- The connected set of a list of regions that holds a seed, grown round by round (R227). -/
def connected (ps : List Nat) : Nat → List Nat → List Nat
  | 0, set => set
  | n + 1, set =>
    let more := ps.filter fun p => !set.contains p && set.any fun q => hops (gx p) (gy p) (gx q) (gy q) = 1
    if more = [] then set else connected ps n (set ++ more)

/-- The connected sets of a list of regions, each named by its lowest region first. -/
def connectedSets (ps : List Nat) : Nat → List Nat → List (List Nat)
  | 0, _ => []
  | n + 1, rest =>
    match rest with
    | [] => []
    | p :: _ =>
      let set := connected ps ps.length [p]
      set :: connectedSets ps n (rest.filter fun q => !set.contains q)

/-- The largest connected set of the regions without a fault-map bit (R227); of sets of one size the one with the lowest region
(DESIGN CHOICE, log 100). -/
def mainSet (s : State) : List Nat :=
  (connectedSets (openRegions s) (openRegions s).length (openRegions s)).foldl (fun a b => if b.length > a.length then b else a) []

/-- A region is free for a binding: in RESERVE, or DIMMED with that role (R303), no failed crossing on a side of it (R207), not cut
off from the largest connected set (R227). -/
def freeRegion (s : State) (main : List Nat) (p : Nat) : Bool :=
  let r := regionOfNo s p
  r.binding = 0xFFFF && (r.st = .reserve || (r.st = .dimmed && r.role = .reserve)) && !sidesBad s p && main.contains p

/-- The free regions, ascending. -/
def freeRegions (s : State) : List Nat := (s.regions.map (·.1)).filter (freeRegion s (mainSet s))

/-- The home of a slot (R302). -/
def home (n : Nat) : Nat := regionAt (slotX n) (slotY n)

/-- Two byte ranges share a byte. -/
def overlaps (a n b m : Nat) : Bool := n ≠ 0 && m ≠ 0 && a < b + m && b < a + n

/-- Detail 5 (R265): a plane names a beam channel from 24 to 31. -/
def detail5 (g : Bundle) : Bool :=
  g.planes.any fun x =>
    let p := planeOf x.image 0 0
    (plTrig p = 1 && plTrigCh p ≥ 24)
    || p.entries.any fun e => (eOp e = 7 && eCh e ≥ 24) || (eOp e = 8 && eKind e = 0 && eSel e ≥ 24)

/-- A context window keeps the conditions of R322. -/
def contextOk (x : TileProg) : Bool :=
  match x.context with
  | none => false
  | some w =>
    w.len = 8192 && w.base % 1024 = 0 && w.base ≥ 0x2000 && w.base + w.len ≤ spadBytes
    && (x.tasks ++ x.rings ++ x.kv.toList ++ x.stash.toList ++ x.staging.toList).all fun v =>
      !overlaps w.base w.len v.base v.len

/-- Detail 6 (R70, R307, R322). -/
def detail6 (g : Bundle) : Bool :=
  (g.programs.any fun x => (x.tasks ++ x.rings ++ x.context.toList).any fun w => w.base < 0x2000 && w.len ≠ 0)
  || ((g.slots.flatMap slotTiles).any fun l => match progOf g l with
      | some x => !contextOk x
      | none => true)
  || (g.extents.any fun e => match extentWindow g e with
      | some w => e.dest + e.len > w.len
      | none => true)
  || (g.extents.zipIdx.any fun a => g.extents.zipIdx.any fun b =>
      a.2 < b.2 && a.1.ltile = b.1.ltile && overlaps (extentAt g a.1) a.1.len (extentAt g b.1) b.1.len)

/-- Detail 7: slots in rows 70 and 71 with snapshots to mirrors only. -/
def detail7 (s : State) (g : Bundle) : Bool := snapDest s = 0 && g.slots.any (· ≥ 4480)

/-- The peer instance of R307: another model slot with the bundle placed. -/
def peerSlot (s : State) (m id : Nat) : Option Nat :=
  (s.steward.slots.find? fun e =>
    e.1 ≠ m && e.2.placed && (match e.2.bundle with | some b => bhId b.header = id | none => false)).map (·.1)

/-- A copy of the bundle in module flash (R307, R458). -/
def flashCopy (s : State) (id : Nat) : Option Bundle :=
  s.boot.flashBundle.findSome? fun b => b.bind fun g => if bhId g.header = id then some g else none

/-- Detail 8: the bundle has no recovery source. -/
def detail8 (s : State) (m : Nat) (g : Bundle) (comp : Bool) : Bool :=
  (peerSlot s m (bhId g.header)).isNone && !comp && (flashCopy s (bhId g.header)).isNone

/-- A slot that a load may not take: the steward's, or another model slot's (R303, R377). -/
def slotTaken (s : State) (m n : Nat) : Bool :=
  n = 4606 || n = 4607 || s.steward.slots.any fun e =>
    e.1 ≠ m && e.2.st ≠ 0 && (match e.2.bundle with | some b => b.slots.contains n | none => false)

/-! The procedure of R303. -/

/-- Distance of a region from a slot's home. -/
def homeDistance (n p : Nat) : Nat := hops (gx p) (gy p) (slotX n) (slotY n)

/-- The region bound to a slot's mirror, under the binding being made or that of another model slot (R303, R309). -/
def mirrorRegion (s : State) (b : Binding) (n : Nat) : Option Nat :=
  (mirrorSlot n).bind fun v => match regionFor b v with | some q => some q | none => boundRegion s v

/-- A candidate stands in the field of the region bound to the slot's mirror. -/
def inMirrorField (s : State) (b : Binding) (n p : Nat) : Bool :=
  mirrorsOn s && (match mirrorRegion s b n with | some q => fieldOf q = fieldOf p | none => false)

/-- One candidate comes before another (R303). -/
def candidateBefore (s : State) (b : Binding) (n p q : Nat) : Bool :=
  let f := fun x => b2n (inMirrorField s b n x)
  if f p ≠ f q then f p < f q
  else if homeDistance n p ≠ homeDistance n q then homeDistance n p < homeDistance n q
  else p ≤ q

/-- The links of a slot that a binding binds at both ends. -/
def slotLinks (g : Bundle) (b : Binding) (n : Nat) : List LinkUse :=
  (boundLinks g b).filter fun u => slotOf u.srcTile = n || (portTarget u.srcTile u.outPort).any fun l => slotOf l = n

/-- choose() of R303: the first candidate for which every lattice path of the slot can be placed. -/
def chooseRegion (s : State) (g : Bundle) (b : Binding) (free : List Nat) (n : Nat) : Option Nat :=
  (free.mergeSort (candidateBefore s b n)).find? fun p =>
    let b' := b ++ [(n, p)]
    (placeAll s g b' (slotLinks g b' n)).isSome

/-- Slots bound to their homes while those are free; the rest stays. -/
def bindHomes : List Nat → Binding → List Nat → Binding × List Nat
  | [], b, free => (b, free)
  | n :: ns, b, free =>
    if free.contains (home n) then bindHomes ns (b ++ [(n, home n)]) (free.filter (· ≠ home n)) else bindHomes ns b free

/-- Slots bound one after another with choose(); none where one has no candidate. -/
def bindChosen (s : State) (g : Bundle) : List Nat → Binding → List Nat → Option (Binding × List Nat)
  | [], b, free => some (b, free)
  | n :: ns, b, free =>
    (chooseRegion s g b free n).bind fun p => bindChosen s g ns (b ++ [(n, p)]) (free.filter (· ≠ p))

/-- The paths and planes of a binding (R184, R304); else the detail of the refusal. -/
def planPaths (s : State) (g : Bundle) (b : Binding) : Sum Nat (List LatPath × List PlaneSeg) :=
  match placeAll s g b (boundLinks g b) with
  | none => .inl 4
  | some ps =>
    let pl := newPlanes g ps
    if pl.all planeFits then .inr (ps, pl) else .inl 3

/-- The outcome of R303 for a bundle at load: code and detail of R305, or the binding with its paths and planes. -/
def planBinding (s : State) (m : Nat) (g : Bundle) (comp : Bool) : Sum (Nat × Nat) (Binding × List LatPath × List PlaneSeg) :=
  let free := freeRegions s
  if detail5 g then .inl (1, 5)
  else if detail6 g then .inl (1, 6)
  else if detail7 s g then .inl (1, 7)
  else if detail8 s m g comp then .inl (1, 8)
  else if g.slots.any (slotTaken s m) then .inl (2, 0)
  else if g.slots.length > free.length then .inl (1, 1)
  else if free.length < g.slots.length + bhMinReserve g.header then .inl (1, 2)
  else
    let (b, free) := bindHomes g.slots [] free
    match bindChosen s g (g.slots.filter fun n => (regionFor b n).isNone) b free with
    | none => .inl (1, 4)
    | some (b, _) =>
      let b := b.mergeSort fun x y => x.1 ≤ y.1
      match planPaths s g b with
      | .inl d => .inl (1, d)
      | .inr (ps, pl) => .inr (b, ps, pl)

/-! Binding and unbinding (R306). -/

/-- A binding written into the table (steps 1 and 2 of R306): regions, paths, planes, the report with its epoch. -/
def writeBinding (s : State) (m : Nat) (g : Bundle) (b : Binding) (ps : List LatPath) (pl : List PlaneSeg) (epoch : Nat) : State :=
  let s := b.foldl (fun s e => updRegion s e.2 fun r => { r with binding := e.1, mslot := m }) s
  let s := updModel s m fun x => { x with
    binding := b, paths := ps, planes := pl, bindEpoch := epoch, oldReport := if epoch = 1 then [] else x.report
    report := bindingReport g b ps epoch s.time.tb }
  stewardBroadcast { s with steward := { s.steward with bindings := (s.steward.bindings + 1) % 2 ^ 32 } }

/-- A region enters BOUND from RESERVE; a DIMMED one takes the role; no other state leads to BOUND (R303, R318). -/
def enterBound (s : State) (p : Nat) : State :=
  updRegion s p fun r => match r.st with
    | .reserve | .bound => { r with st := .bound, role := .bound }
    | .dimmed => { r with role := .bound }
    | _ => r

/-- A tile whose region is unbound: its tasks end, and it has no logical tile. Its scratchpad stays (R306). -/
def parkTile (k : Tile) : Tile :=
  let c := { k.core with
    ltile := none
    slots := k.core.slots.zipIdx.map fun e => if e.2 = 0 then e.1 else { e.1 with st := .idle, wait := .nothing } }
  { k with core := if c.cur = 0 then c else switchSlot { c with cur := 0 }, snap := {} }

/-- A region leaves a binding and returns to RESERVE (R306, R318). -/
def unbindRegion (s : State) (p : Nat) : State :=
  let s := updRegion s p fun r => { r with
    binding := 0xFFFF, mslot := 0xFF, migrating := 0
    st := if r.st = .bound then .reserve else r.st
    role := if r.st = .bound || r.st = .dimmed then .reserve else r.role }
  { s with tiles := s.tiles.map fun e => if regionOfTile e.1 = p then (e.1, parkTile e.2) else e }

/-- Every region of a model slot is unbound, and the binding table written anew (R222). -/
def unbindSlot (s : State) (m : Nat) : State :=
  match s.regions.filter fun e => e.2.mslot = m with
  | [] => s
  | es => stewardBroadcast (es.foldl (fun s e => unbindRegion s e.1) s)

/-! Tiles (R48, R58, R166, R306, R307). -/

/-- A logical tile's windows, rings, start PCs and images set up in the tile that carries it (R381). -/
def setupTile (s : State) (x : TileProg) : State :=
  match carrier s x.ltile with
  | none => s
  | some t =>
    let s := updTile s t fun k => { k with
      core := { k.core with
        ltile := some x.ltile
        slots := k.core.slots.zipIdx.map fun e =>
          match x.tasks.find? fun w => w.slot = e.2 && e.2 ≠ 0 with
          | some w => { e.1 with
              st := .idle, wait := .nothing, base := w.base, bound := w.len
              pc := BitVec.ofNat 32 (((x.startPcs.find? fun y => y.1 = e.2).map (·.2)).getD 0) }
          | none => e.1 }
      rings := k.rings.zipIdx.map fun e => match x.rings.find? fun w => w.slot = e.2 with
        | some w => { e.1 with base := w.base, size := w.len }
        | none => e.1 }
    x.images.foldl (fun s i => writeSpad s t i.1 i.2) s

/-- The plane images of a tile put in its scratchpad where the bundle has a place for them, from which lt.ldcfg loads them section
by section (R189; which images the bundle places, and where, is the bundle's, log 14). -/
def placePlanes (s : State) (m : Nat) (l : Nat) : State :=
  match carrier s l with
  | none => s
  | some t => ((modelSlot s m).planes.filter fun x => x.ltile = l).foldl (fun s x =>
      match x.dest with
      | some off => writeSpad s t off x.image
      | none => s) s

/-- T0 of a tile takes the plane of its first section (R189, R306). -/
def firstPlane (s : State) (m : Nat) (l : Nat) : State :=
  let s := placePlanes s m l
  match carrier s l, (modelSlot s m).planes.find? fun x => x.ltile = l with
  | some t, some x => takePlane s t x.image.length x.image
  | _, _ => s

/-- The bytes of an extent in a bundle. -/
def extentBytes (g : Bundle) (e : Extent) : List Byte := padTo e.len (slice g.weights e.imgOff e.len)

/-- The extents of some logical tiles written into the tiles that carry them (R307). -/
def writeExtents (s : State) (g : Bundle) (ls : List Nat) : State :=
  (g.extents.filter fun e => ls.contains e.ltile).foldl (fun s e =>
    match carrier s e.ltile with
    | some t => writeSpad s t (extentAt g e) (extentBytes g e)
    | none => s) s

/-- An extent's bytes match its CRC (R383). -/
def extentGood (g : Bundle) (e : Extent) : Bool := crc32 (extentBytes g e) = e.crc

/-- Write-tracking bits of weight blocks cleared after each tile has verified its image (R307). -/
def clearWeightBits (s : State) (g : Bundle) (ls : List Nat) : State :=
  ls.foldl (fun s l => match carrier s l with
    | some t => updCore s t fun c => { c with
        dirty := (weightBlocks g l).foldl (fun d b => d &&& ~~~(BitVec.twoPow 256 b)) c.dirty }
    | none => s) s

/-- Write-tracking bits of every block that holds no weights set (R330). -/
def dirtyAll (s : State) (g : Bundle) (l : Nat) : State :=
  match carrier s l with
  | some t => updCore s t fun c => { c with
      dirty := (weightBlocks g l).foldl (fun d b => d &&& ~~~(BitVec.twoPow 256 b)) (BitVec.allOnes 256) }
  | none => s

/-- OFFSET of a segment in the bundle image (R380, R381). -/
def segmentAt (g : Bundle) (kind : Nat) : Nat :=
  (((List.range (fld g.header 6 2)).find? fun i => fld g.directory (24 * i) 2 = kind).map fun i =>
    fld g.directory (24 * i + 8) 8).getD 0

/-- The STRM requests that stream some tiles' extents from the companion window, a page each, put before the bridges that map
them (R364, R368). -/
def streamExtents (s : State) (g : Bundle) (base : Nat) (ls : List Nat) : State :=
  (g.extents.filter fun e => ls.contains e.ltile).foldl (fun s e =>
    let lo := base + segmentAt g 6 + e.imgOff
    (List.range ((lo + e.len + 4095) / 4096 - lo / 4096)).foldl (fun s k =>
      let page := (lo / 4096 + k) * 4096
      let a := max page lo
      let z := min (page + 4096) (lo + e.len)
      match compPort s page with
      | some (p, box) =>
        updPort s p fun x => { x with csOut := x.csOut ++
          [(.stream [(a, z - a, e.ltile, extentAt g e + (a - lo))], csRequest 3 4096 box [])] }
      | none => s) s) s

end Sys2Proof.Machine
end

