-- ==== Sys2Proof/Machine/Snapshot.lean ====
section
/-! DEFINITION. Snapshots (R320 to R326): shares, quiesce points, block copies, commits, the companion log and the stash. -/

namespace Sys2Proof.Machine

/-- The tiles that carry a model slot's logical tiles. -/
def modelTiles (s : State) (m : Nat) : List Nat :=
  ((modelSlot s m).binding.flatMap fun e => slotTiles e.1).filterMap (carrier s)

/-- A model slot holds a loaded bundle (R320). -/
def holdsBundle (x : ModelSlot) : Bool := 2 ≤ x.st && x.st ≤ 5 && x.bundle.isSome

/-- The event and alert of a share that is aborted (1) or skipped (2) (R433). -/
def shareEvent (s : State) (m n why : Nat) : State := setAlert (logEvent s 0x0220 1 n (m + 256 * why)) 7

/-- A slot in the scope of snapshot n that does not commit it: 0x2410.07 does not advance to n (R336). -/
def missed (s : State) (n : Nat) : State :=
  { s with recov := { s.recov with missedNos := if s.recov.missedNos.contains n then s.recov.missedNos else s.recov.missedNos ++ [n] } }

/-- A share given up (R321, R324, R325, R330): what it copied counts as written since the cut before, so that the next snapshot
holds it (log 60). -/
def abortShare (s : State) (m : Nat) : State :=
  match (modelSlot s m).share with
  | none => s
  | some (n, _) =>
    let ts := modelTiles s m
    let s := ts.foldl (fun s t =>
      let k := tileOf s t
      let l := k.core.ltile.getD 0
      let mine := if (smGet s.recov.unapplied l).isSome then []
        else (s.recov.staging.filter fun e => e.1 / 256 = l).map fun e => e.1 % 256
      let stays := k.snap.stopping && (s.regions.any fun e => e.2.mslot = m && e.2.migrating = 2)
      let logged := (s.recov.compLog.filter fun r => r.ltile = l && r.snap = n).flatMap fun r => r.blocks.map (·.1)
      let s := updTile s t fun k => { k with
        core := { k.core with dirty := markDirty k.core.dirty (mine ++ logged) }
        snap := { k.snap with
          stopping := stays, quiesced := stays && k.snap.quiesced, copying := false, pending := [], reported := false
          unacked := 0 } }
      { s with recov := { s.recov with
        staging := s.recov.staging.filter fun e => e.1 / 256 ≠ l || !mine.contains (e.1 % 256)
        compLog := s.recov.compLog.filter fun r => r.ltile ≠ l || r.snap ≠ n } }) s
    let s := updModel s m fun x => { x with
      share := none, shareComp := false, cmtWait := [], logFail := false, cmtRound := 0 }
    let s := { s with recov := { s.recov with
      snapScope := s.recov.snapScope.filter (· ≠ m), aborted := (s.recov.aborted + 1) % 2 ^ 32 } }
    missed (shareEvent s m n 1) n

/-! The first phase (R320, R321). -/

/-- A tile stops starting operations and injecting; a held message is refused (R321). -/
def stopTile (s : State) (t : Nat) : State :=
  let s := updTile s t fun k => { k with snap := { k.snap with stopping := true } }
  match (tileOf s t).msg.hold with
  | none => s
  | some (k, _, _) =>
    refuseMsg (updMsg s t fun m => { m with hold := none }) t k 7 (tagRing (tileOf s t).core (fld k.payload 4 2))

/-- Some regions stop for snapshot n, in the slots whose share has begun (R287, R321). -/
def stopRegions (s : State) (n : Nat) (ps : List Nat) : State :=
  (s.recov.snapScope.filter fun m => (modelSlot s m).share.map (·.1) = some n).foldl (fun s m =>
    ((modelTiles s m).filter fun t => ps.contains (regionOfTile t)).foldl stopTile s) s

/-- A slot's share of snapshot n begins, or is skipped: its recovery runs, which leaves it out of the scope, or its share of the one
before has not committed (R320). -/
def beginShare (s : State) (n m : Nat) : State :=
  let x := modelSlot s m
  if !holdsBundle x then s
  else if x.st = 5 || x.share.isSome then
    let s := shareEvent { s with recov := { s.recov with skipped := (s.recov.skipped + 1) % 2 ^ 32 } } m n 2
    if x.st = 5 then s else missed s n
  else
    let s := updModel s m fun x => { x with share := some (n, s.time.tb), shareComp := decide (snapDest s = 1) }
    { s with recov := { s.recov with snapScope := s.recov.snapScope ++ [m] } }

/-- Snapshot n over some model slots. -/
def beginSnapshot (s : State) (n : Nat) (ms : List Nat) : State :=
  ms.foldl (fun s m => beginShare s n m)
    { s with recov := { s.recov with missedNos := s.recov.missedNos.filter (· ≠ n) } }

/-- Number of the Eyepiece's internal snapshot action. -/
def snapAction : Nat := 256

/-- Meaning of SNAPSHOT_INTERVAL_TICK (R320): the internal action is armed, for every region, at a multiple of the interval. -/
def execSnapshotIntervalTick (s : State) : Res :=
  .next (
    let ms := dnum s 0x2410 1 200
    let busy := (timedSlot s snapAction).status = 2
    if !eyepieceRuns s || !s.steward.running || ms = 0 || s.time.tb % (ms * msTicks) ≠ 0 || busy then s
    else
      let n := s.recov.snapNo + 1
      armInternal { s with recov := { s.recov with snapNo := n } } snapAction s.time.tb (2 * 2 ^ 60 + n) (s.regions.map (·.1)))

/-- A tile has met the conditions of its quiesce point (R321). -/
def atQuiesce (k : Tile) : Bool :=
  k.snap.stopping && !k.snap.quiesced && !(k.mxQ.any (·.started)) && !(k.pzQ.any (·.started)) && k.msg.track.all (·.isNone)

/-- The context window of a tile. -/
def contextWindow (s : State) (t : Nat) : Option Window :=
  match bundleAt s t, (tileOf s t).core.ltile with
  | some g, some l => (progOf g l).bind (·.context)
  | _, _ => none

/-- Meaning of QUIESCE_POINT (R321, R322): the tile holds, writes its context and arrives on channel 30. The layout of the context
is not given, so its 8 KiB are free bytes and the context itself stands in State (log 14). -/
def execQuiescePoint (t : Nat) (s : State) : Res :=
  .next (if !tileActs s t || !atQuiesce (tileOf s t) then s else
    let m := (regionOfNo s (regionOfTile t)).mslot
    let s := match (tileOf s t).core.ltile with
      | some l =>
        let s := applyStash s l
        if s.recov.snapScope.contains m then
          { s with recov := { s.recov with contexts := smSet s.recov.contexts l (tileOf s t) } }
        else s
      | none => s
    let s := match contextWindow s t with
      | some w => writeSpad { s with free := s.free + w.len } t w.base (freshBytes s.free w.len)
      | none => s
    let s := updTile s t fun k => { k with snap := { k.snap with quiesced := true } }
    arriveTile s t 30)

/-- Meaning of SNAPSHOT_ABORT (R321): the quiesce limit has passed without the release. -/
def execSnapshotAbort (s : State) : Res :=
  .next (
    let late := s.recov.snapScope.any fun m => match (modelSlot s m).share with
      | some (_, t0) => decide (t0 + dnum s 0x2410 3 1000 * 2500 ≤ s.time.tb)
      | none => false
    if eyepieceRuns s && s.dev.st ≠ .safeHold && late then s.recov.snapScope.foldl abortShare s else s)

/-! The second phase (R323 to R325). -/

/-- The staging of a tile no longer fits the staging window of its mirror (R324). -/
def stagingFull (s : State) (t : Nat) : Bool :=
  match bundleAt s t, (tileOf s t).core.ltile with
  | some _, some l =>
    let used := (s.recov.staging.filter fun e => e.1 / 256 = l).length * 1024
    let room := ((stagingOf s l).bind fun x => (carrier s x.1).map fun _ => x.2.len).getD 0
    decide (used > room)
  | _, _ => false

/-- An overflow of staging aborts the share, or under destination 2 turns it to companion memory (R324). -/
def checkStaging (s : State) (t : Nat) : State :=
  let m := (regionOfNo s (regionOfTile t)).mslot
  if (modelSlot s m).shareComp || !stagingFull s t then s
  else if snapDest s = 2 then updModel s m fun x => { x with shareComp := true }
  else abortShare s m

/-- Meaning of SNAPSHOT_BLOCK_COPY (R67, R323, R324). `errs`: what the checks of the block's lines find. -/
def execSnapshotBlockCopy (t block : Nat) (errs : LineErrors) (s : State) : Res :=
  .next (if tileRuns s t && (tileOf s t).snap.copying && (tileOf s t).snap.pending.contains block then
      onLines s t [(block * 1024, 1024)] errs fun s => checkStaging (copyBlock s t block) t
    else s)

/-- Meaning of SNAPSHOT_TILE_DONE (R324): the tile reports to the primary steward that its last block is written. -/
def execSnapshotTileDone (t : Nat) (s : State) : Res :=
  .next (
    let k := tileOf s t
    if tileRuns s t && k.snap.copying && k.snap.pending = [] && k.snap.unacked = 0 && !k.snap.reported then
      let s := noteTo s t (k.core.ltile.getD 0) s.fabric.devId 364150
      checkStaging (updTile s t fun k => { k with snap := { k.snap with reported := true } }) t
    else s)

/-- Bytes of a tile record (R325). -/
def compRecBytes (r : CompRec) : Nat := 32 + (r.blocks.length + 63) / 64 * 64 + 1024 * r.blocks.length + 16

/-- The bytes of a tile record before its COMMIT word, and that word (R325). -/
def recordBody (r : CompRec) : List Byte :=
  let n := r.blocks.length
  let b := natLe 4 r.snap ++ natLe 4 r.ltile ++ natLe 4 r.epoch ++ natLe 2 n ++ natLe 1 r.kind ++ natLe 1 0 ++ natLe 8 r.cutTb
    ++ natLe 8 0 ++ padTo ((n + 63) / 64 * 64) (r.blocks.flatMap fun e => natLe 1 e.1) ++ r.blocks.flatMap (·.2)
  b ++ natLe 4 (crc32 b) ++ natLe 4 0
def recordCommit (r : CompRec) : List Byte := natLe 4 r.snap ++ natLe 4 0x434D4954

/-- The record of a tile for the share in progress (R325). -/
def compRecord (s : State) (m t n cut : Nat) : CompRec :=
  let l := (tileOf s t).core.ltile.getD 0
  let bs := (s.recov.staging.filter fun e => e.1 / 256 = l).map fun e => (e.1 % 256, e.2)
  let whole := match bundleAt s t with
    | some g => (List.range 256).all fun b => (weightBlocks g l).contains b || (smGet bs b).isSome
    | none => false
  { snap := n, ltile := l, epoch := (modelSlot s m).cutEpoch, kind := if whole then 0 else 1, cutTb := cut
    blocks := bs, ctx := smGet s.recov.contexts l }

/-- The logical tiles that share the snapshot area: those of every bundle, by model slot (R325). -/
def logTiles (s : State) : List Nat :=
  s.steward.slots.flatMap fun e => match e.2.bundle with | some g => g.slots.flatMap slotTiles | none => []

/-- The equal log of a tile in the snapshot area, whose last 512 bytes hold the commit records of the 8 model slots, 64 bytes each
(R325; the places are the model's: log 61). -/
def logRoom (s : State) : Nat := (dnum s 0x2410 6 0 - 512) / max 1 (logTiles s).length / 64 * 64
def logBase (s : State) (l : Nat) : Nat := dnum s 0x2410 5 0 + ((logTiles s).findIdx fun x => x = l) * logRoom s
def commitAt (s : State) (m : Nat) : Nat := dnum s 0x2410 5 0 + dnum s 0x2410 6 0 - 512 + 64 * m

/-- A free place for a record among those a log keeps. -/
def logPlace (base room len : Nat) (old : List CompRec) : Option Nat :=
  (base :: old.map fun x => x.at_ + compRecBytes x).find? fun a =>
    a + len ≤ base + room && old.all fun x => a + len ≤ x.at_ || x.at_ + compRecBytes x ≤ a

/-- A record with its place in its tile's log; none without room (R325). -/
def withRecord (s : State) (r : CompRec) : Option CompRec :=
  (logPlace (logBase s r.ltile) (logRoom s) (compRecBytes r) (logOf s r.ltile)).map fun a => { r with at_ := a }

/-- The records of every tile of a slot, appended; none where a log has no room. -/
def appendRecords (s : State) (m n cut : Nat) : Option State :=
  (modelTiles s m).foldl (fun acc t => acc.bind fun s =>
    (withRecord s (compRecord s m t n cut)).map fun r => { s with recov := { s.recov with
      compLog := s.recov.compLog ++ [r]
      staging := s.recov.staging.filter fun e => e.1 / 256 ≠ r.ltile } }) (some s)

/-- A range cut at multiples of 256 bytes: offset and length of each piece (R365). -/
def winPieces (off n : Nat) : List (Nat × Nat) :=
  (List.range ((off + n + 255) / 256 - off / 256)).map fun k =>
    let lo := max off ((off / 256 + k) * 256)
    (lo, min (off + n) ((off / 256 + k + 1) * 256) - lo)

/-- Bytes written into companion memory by a tile's engine, by remote writes on VC3 (R253, R323, R366, R367); none where no set in service
maps one. -/
def logWrite (t : Nat) (s : State) (off : Nat) (bs : List Byte) : Option State :=
  (winPieces off bs.length).foldl (fun acc x => acc.bind fun s => (compPort s x.1).map fun _ =>
    bulkWrite s t (s.fabric.devId * 2 ^ 48 + 2 ^ 46 + x.1) (slice bs (x.1 - off) x.2)) (some s)

/-- Some bytes of every record of snapshot n of a slot written, each by its tile. -/
def writeRecords (s : State) (m n : Nat) (f : CompRec → Nat × List Byte) : Option State :=
  (modelTiles s m).foldl (fun acc t => acc.bind fun s =>
    (s.recov.compLog.filter fun r => r.snap = n && (tileOf s t).core.ltile = some r.ltile).foldl
      (fun acc r => acc.bind fun s => logWrite t s (f r).1 (f r).2) (some s)) (some s)

/-- A slot's writes are not all answered (R367): those of its tiles, or of the steward's tile. -/
def writesOpen (s : State) (m : Nat) : Bool :=
  (modelTiles s m ++ (carrier s 364150).toList).any fun t => (tileOf s t).snap.unacked ≠ 0

/-- The members of the set that holds the snapshot area. -/
def areaMembers (s : State) : List Nat :=
  match compPlace s (dnum s 0x2410 5 0) with
  | some (ms, _) => if ms.all (inService s) then ms else []
  | none => []

/-- A CMT on every member of the set that holds the area; none while no such set is in service (R367). -/
def commitRound (s : State) (m : Nat) : Option State :=
  match areaMembers s with
  | [] => none
  | ps => some (updModel (ps.foldl (fun s p =>
      updPort s p fun x => { x with csOut := x.csOut ++ [(.commit m, csRequest 4 0 0 [])] }) s) m fun x => { x with cmtWait := ps })

/-- The slot's commit record: SNAP, CUT_TB and 52 free bytes, its layout being open (log 61). -/
def commitRecord (s : State) (n cut : Nat) : List Byte := natLe 4 n ++ natLe 8 cut ++ freshBytes s.free 52

/-- What a share to companion memory begins after `round` (R367): the records but for their COMMIT words, those words, a CMT, the commit
record, which Periscope writes, a CMT; none where it cannot. -/
def nextRound (s : State) (m n cut round : Nat) : Option State :=
  match round with
  | 0 => (appendRecords s m n cut).bind fun s => writeRecords s m n fun r => (r.at_, recordBody r)
  | 1 => writeRecords s m n fun r => (r.at_ + compRecBytes r - 8, recordCommit r)
  | 2 | 4 => commitRound s m
  | _ => (carrier s 364150).bind fun t => logWrite t { s with free := s.free + 52 } (commitAt s m) (commitRecord s n cut)

/-- The records that stay once the last one of tile l counts: from its last full image on, and for a pipeline over several devices, which may
go back further (R400), from the one before that (R325, R326; log 61). -/
def fromFullImage (log : List CompRec) (piped : Bool) (l : Nat) : List CompRec :=
  let mine := log.filter fun r => r.ltile = l
  match mine.getLast? with
  | some r =>
    if r.kind ≠ 0 then log
    else
      let old := mine.dropLast.reverse
      let keep := if piped then (old.take (old.findIdx (·.kind = 0) + 1)).reverse else []
      (log.filter fun r => r.ltile ≠ l) ++ keep ++ [r]
  | none => log

/-- A slot's commit record, in both steward regions (R324). -/
def setCommit (s : State) (m n cut : Nat) : State :=
  let s := tellStandby s
  { s with steward := { s.steward with
    commits := smSet s.steward.commits m (n, cut)
    standbyCommits := if s.steward.standby = 0xFFFF then s.steward.standbyCommits else smSet s.steward.standbyCommits m (n, cut) } }

/-- The slot is a stage of a pipeline over several devices (R399). -/
def piped (s : State) (m : Nat) : Bool := bhNdev (slotHeader s m) > 1

/-- Snapshot n committed for a slot (R324, R336): its stash becomes due, or its records count; 0x2410.07 advances when no slot of
its scope is outstanding or missed. -/
def commitShare (s : State) (m n cut : Nat) : State :=
  let comp := (modelSlot s m).shareComp
  let ts := modelTiles s m
  let several := piped s m
  let s := updModel (setCommit s m n cut) m fun x => { x with
    committed := n, cutTb := cut, share := none, shareComp := false, cmtWait := [], logFail := false, cmtRound := 0 }
  let s := ts.foldl (fun s t =>
    let l := (tileOf s t).core.ltile.getD 0
    let s := if comp then { s with recov := { s.recov with compLog := fromFullImage s.recov.compLog several l } }
      else { s with recov := { s.recov with unapplied := smSet s.recov.unapplied l n } }
    updTile s t fun k => { k with snap := { k.snap with copying := false, reported := false } }) s
  let s := { s with steward := { s.steward with
    streams := s.steward.streams.map fun x =>
      if x.slot = m then { x with atCommit := x.atCut, cuts := if several then smSet x.cuts cut x.atCut else x.cuts } else x } }
  let open_ := s.steward.slots.any fun e => (e.2.share.map (·.1)) = some n
  if open_ || s.recov.missedNos.contains n then s
  else { s with recov := { s.recov with lastAll := n, lastCut := cut, missedNos := s.recov.missedNos.filter (n < ·) } }

/-- Every tile of a slot has reported (R324). -/
def allReported (s : State) (m : Nat) : Bool := (modelTiles s m).all fun t => (tileOf s t).snap.reported

/-- Meaning of SNAPSHOT_COMMIT (R324, R325, R367): with mirrors at once; with companion memory the next of its rounds once what the one
before asked for is answered. A refused write, or an area that no set in service maps, aborts the share. -/
def execSnapshotCommit (m : Nat) (s : State) : Res :=
  .next (
    let x := modelSlot s m
    match x.share with
    | none => s
    | some (n, cut) =>
      if !s.steward.running || s.dev.st = .safeHold || s.recov.snapScope.contains m || x.st = 5 || !allReported s m then s
      else if x.logFail then abortShare s m
      else if !x.shareComp then commitShare s m n cut
      else if x.cmtWait ≠ [] || writesOpen s m then s
      else if x.cmtRound ≥ 5 then commitShare s m n cut
      else match nextRound s m n cut x.cmtRound with
        | some s' => updModel s' m fun y => { y with cmtRound := x.cmtRound + 1 }
        | none => abortShare s m)

/-- Meaning of STASH_APPLY (R324): a mirror tile applies its staging into its stash. -/
def execStashApply (t : Nat) (s : State) : Res :=
  .next (match (tileOf s t).core.ltile with
    | some v => if tileRuns s t then (match mirrorTile v with | some l => applyStash s l | none => s) else s
    | none => s)

/-! What a rollback reads (R326). -/

/-- A block of a logical tile as snapshot n of its slot holds it: the newest version up to n, of the stash and the log. -/
def blockAt (s : State) (l b n : Nat) : Option (List Byte) :=
  let a := match smGet s.recov.stash (l * 256 + b) with
    | some (k, v) => if k ≤ n then [(k, v)] else []
    | none => []
  let c := (logOf s l).filterMap fun r => if r.snap ≤ n then (smGet r.blocks b).map fun v => (r.snap, v) else none
  ((a ++ c).foldl (fun o e => match o with
    | some (k, v) => if e.1 ≥ k then some e else some (k, v)
    | none => some e) none).map (·.2)

/-- The context of a logical tile in snapshot n. -/
def contextAt (s : State) (l n : Nat) : Option Tile :=
  let a := match smGet s.recov.stashCtx l with
    | some (k, v) => if k = n then some v else none
    | none => none
  match a with
  | some v => some v
  | none => ((logOf s l).find? fun r => r.snap = n).bind (·.ctx)

/-- Records that do not read back, by snapshot number and logical tile: their CRC or COMMIT word is wrong, and they do not count (R325). -/
def dropRecords (s : State) (bad : List (Nat × Nat)) : State :=
  { s with recov := { s.recov with compLog := s.recov.compLog.filter fun r => !bad.contains (r.snap, r.ltile) } }

/-- A slot's snapshot holds every tile of it; otherwise the slot is loaded anew (R330, log 62). -/
def restorable (s : State) (m : Nat) : Bool :=
  let x := modelSlot s m
  x.committed ≠ 0 && (match x.bundle with
    | some g => (g.slots.flatMap slotTiles).all fun l => (contextAt s l x.committed).isSome
    | none => false)

/-- The core registers of a tile whose content comes from elsewhere: the counters of R61, CORR and the spare rows stay the tile's own
(R67, R68, R322). -/
def keepCounters (own c : Core) : Core :=
  { c with
    stepCnt := own.stepCnt, holdCnt := own.holdCnt, stretchCnt := own.stretchCnt, genDiscard := own.genDiscard
    mcycle := own.mcycle, minstret := own.minstret, eccCorr := own.eccCorr, spareRows := own.spareRows, fetchBuf := [] }

/-- A section in progress measured by the counters of the tile that it comes to: its increases so far stay (R61, R185, R187). -/
def rebaseLat (own c : Core) (l : Lattice) : Lattice :=
  { l with startStep := own.stepCnt - (c.stepCnt - l.startStep), startHold := own.holdCnt - (c.holdCnt - l.startHold) }
def rebaseOp (own c : Core) (o : EngOp) : EngOp := { o with issuedAt := o.issuedAt.map fun v => own.stepCnt - (c.stepCnt - v) }

/-- A tile with the context of a snapshot (R322, R328): the counters of R61 go on, every queue that is not held in it is empty,
the router is the tile's own. -/
def withContext (k c : Tile) : Tile :=
  { k with
    core := { keepCounters k.core c.core with dirty := k.core.dirty, ltile := k.core.ltile }
    rings := c.rings
    mxQ := (c.mxQ.filter fun o => !o.started).map (rebaseOp k.core c.core)
    pzQ := (c.pzQ.filter fun o => !o.started).map (rebaseOp k.core c.core)
    msg := { sendQ := c.msg.sendQ, track := c.msg.track, reuse := c.msg.reuse, notify := c.msg.notify }
    lat := rebaseLat k.core c.core c.lat
    redEmpty := c.redEmpty
    redDone := c.redDone }

/-- The blocks of a list rewritten from snapshot n. -/
def restoreBlocks (s : State) (t l n : Nat) (bs : List Nat) : State :=
  bs.foldl (fun s b => match blockAt s l b n with
    | some v => writeSpad s t (b * 1024) v
    | none => s) s

/-- A tile brought back to snapshot n: the blocks given, then its context. The measurements of its region's sections in progress stay as
they stand: the spec is silent (DESIGN CHOICE, log 105). -/
def restoreTile (s : State) (t l n : Nat) (bs : List Nat) : State :=
  let s := restoreBlocks s t l n bs
  match contextAt s l n with
  | some c => updTile s t fun k => withContext k c
  | none => s

/-- What is kept of earlier snapshots of some logical tiles, gone: their slot is loaded anew or unloaded. -/
def forgetTiles (s : State) (ls : List Nat) : State :=
  { s with recov := { s.recov with
    contexts := s.recov.contexts.filter fun e => !ls.contains e.1
    staging := s.recov.staging.filter fun e => !ls.contains (e.1 / 256)
    stash := s.recov.stash.filter fun e => !ls.contains (e.1 / 256)
    stashCtx := s.recov.stashCtx.filter fun e => !ls.contains e.1
    unapplied := s.recov.unapplied.filter fun e => !ls.contains e.1
    compLog := s.recov.compLog.filter fun r => !ls.contains r.ltile } }

end Sys2Proof.Machine
end

