-- ==== Sys2Proof/Machine/Slots.lean ====
section
/-! DEFINITION. The model slots: load, serve, stop and unload (R380 to R384, R400, R456). -/

namespace Sys2Proof.Machine

/-! Step 1 of R383. -/

/-- The directory entries (R380): kind, offset, length, and whether the reserved bytes are 0. -/
def dirEntries (g : Bundle) : List (Nat × Nat × Nat × Bool) :=
  (List.range (fld g.header 6 2)).map fun i =>
    let e := slice g.directory (24 * i) 24
    (fld e 0 2, fld e 8 8, fld e 0x10 8, decide (fld e 2 6 = 0))

/-- Numbers strictly ascending. -/
def ascending : List Nat → Bool
  | x :: y :: l => x < y && ascending (y :: l)
  | _ => true

/-- The header fields keep their ranges, reserved bytes are 0 (R380). -/
def headerOk (h : List Byte) : Bool :=
  h.length = 64 && fld h 0 4 = 0x4C444E42 && fld h 4 2 = 1 && 8 ≤ fld h 6 2 && fld h 6 2 ≤ 32 && bhFlags h < 4
  && 1 ≤ bhKvLanes h && bhKvLanes h ≤ 4096 && 2 ≤ bhVocab h && bhVocab h ≤ 16777216 && 1 ≤ bhNinst h && bhNinst h ≤ 8
  && 1 ≤ bhNdev h && bhStage h < bhNdev h && fld h 0x27 1 = 0 && 1 ≤ bhInstLimit h && bhInstLimit h ≤ 4096
  && 1 ≤ bhNlogit h && bhNlogit h ≤ 256 && fld h 0x2C 16 = 0

/-- The directory holds the segments of R381, each inside LENGTH. -/
def directoryOk (g : Bundle) : Bool :=
  let es := dirEntries g
  let kinds := es.map (·.1)
  ((List.range 8).all fun k => kinds.count (k + 1) = 1)
  && (if bit (bhFlags g.header) 0 then kinds.count 9 = 1 else kinds.count 9 = 0)
  && es.all fun e => 1 ≤ e.1 && e.1 ≤ 9 && e.2.2.2 && e.2.1 % 4096 = 0 && e.2.1 + e.2.2.1 ≤ bhLength g.header

/-- Segments stand in ascending order of KIND, as a management write needs them (R383). -/
def kindOrder (g : Bundle) : Bool :=
  ascending ((dirEntries g).map (·.1)) && ascending ((dirEntries g).map (·.2.1))

/-- Step 1 of R383. -/
def formatOk (g : Bundle) : Bool :=
  headerOk g.header && g.directory.length = 24 * fld g.header 6 2
  && fld g.header 0x3C 4 = crc32 (g.header.take 0x3C ++ g.directory)
  && directoryOk g && ascending g.slots && g.slots.all (· < 4608)

/-! Step 2 (R456). -/

/-- The hash of the public keys in the arrangement of image bytes 0x200 to 0x3BF (R441): modulus, exponent, SLH-DSA key. -/
def keyHash (keys : List Byte) : List Byte := sha384 (slice keys 0 388 ++ slice keys 0x190 48)

/-- The hash in a bundle key slot, if it is programmed (R452). -/
def bundleKey (s : State) (k : Nat) : Option (List Byte) := s.boot.bundleKeys.getD k none

/-- Both signatures over a message verify under the keys (R441, R442). -/
def bothVerify (keys msg rsaSig slhSig : List Byte) : Bool :=
  rsaVerifies (slice keys 0 388) msg rsaSig && slhVerifies (slice keys 0x190 48) msg slhSig

/-- The hash of a segment: the SHA-384 of those of its 64 MiB chunks (R456). -/
def segmentHash (x : List Byte) : List Byte :=
  sha384 ((List.range ((x.length + 2 ^ 26 - 1) / 2 ^ 26)).flatMap fun n => sha384 (slice x (n * 2 ^ 26) (2 ^ 26)))

/-- The digest of a bundle (R456). -/
def bundleDigest (g : Bundle) : List Byte := sha384 (g.header.take 64 ++ g.directory ++ g.segments.flatMap segmentHash)

/-- The signature of a bundle passes (R456). -/
def signatureGood (s : State) (g : Bundle) : Bool :=
  match g.signature with
  | none => false
  | some x =>
    let k := fld x.header 4 1
    x.header.length = 64 && fld x.header 0 4 = 0x4E474953 && fld x.header 5 3 = 0 && fld x.header 0x38 8 = 0
    && slice x.header 8 48 = bundleDigest g
    && k < 8 && !s.boot.bdlRevoked.getLsbD k && bundleKey s k = some (keyHash x.keys)
    && bothVerify x.keys x.header x.rsaSig x.slhSig

/-- Step 2 of R383 for a slot: signed bundles verify, unsigned ones pass unless 0x2700+s.0B is 1. -/
def step2Ok (s : State) (m : Nat) (g : Bundle) : Bool :=
  if bit (bhFlags g.header) 0 then signatureGood s g else dnum s (0x2700 + m) 0xB 0 = 0

/-! Loads (R383). -/

/-- A load that fails: its status, the slot EMPTY, its regions as before, its session gone. -/
def failLoad (s : State) (m code detail : Nat) : State :=
  let s := unbindSlot s m
  let s := updModel s m fun _ => { code := code, detail := detail }
  { s with dict := { s.dict with sessions := smDel s.dict.sessions (objKey (0x2700 + m) 5) } }

/-- A load refused with SIGNATURE (R383, R463). -/
def failSignature (s : State) (m : Nat) : State := failLoad (logEvent s 0x0809 2 m 0) m 3 0

/-- Step 3 of a load. -/
def bindStep (s : State) (m : Nat) (g : Bundle) (comp : Option Nat) : State :=
  match planBinding s m g comp.isSome with
    | .inl (c, d) => failLoad s m c d
    | .inr (b, ps, pl) =>
      let s := writeBinding s m g b ps pl 1
      let s := updModel s m fun x => { x with bundle := some g, loadSrc := comp }
      match comp with
      | some base => streamExtents s g base (g.slots.flatMap slotTiles)
      | none => s

/-- Steps 2 and 3 of a load whose image is known. -/
def bindLoad (s : State) (m : Nat) (g : Bundle) (comp : Option Nat) : State :=
  if step2Ok s m g then bindStep s m g comp else failSignature s m

/-- The load command's effect (R383): LOADING; from the companion window the steps run at once, a management write waits for its
session. `image`: what the source holds, none where the read fails. -/
def startLoad (s : State) (m : Nat) (image : Option Bundle) : State :=
  let src := dnum s (0x2700 + m) 3 0
  let s := updModel s m fun _ => { st := 1, bundle := if src = 1 then image else none }
  if src = 1 then s
  else match image with
    | none => failLoad s m 5 0
    | some g => if formatOk g then bindLoad s m g (some (dnum s (0x2700 + m) 4 0)) else failLoad s m 4 0

/-- The header and directory that a session has carried, once they are whole. -/
def sessionHead (x : Session) : Option (List Byte × List Byte) :=
  let get := fun (off n : Nat) => (List.range n).map fun i => smGetD x.data (off + i) 0
  if x.next < 64 then none
  else
    let h := get 0 64
    let n := 24 * fld h 6 2
    if x.next < 64 + n then none else some (h, get 64 n)

/-- A segment's bytes from a session. -/
def sessionSegment (x : Session) (g : Bundle) (kind : Nat) : List Byte :=
  match (dirEntries g).find? fun e => e.1 = kind with
  | some e => (List.range e.2.2.1).map fun i => smGetD x.data (e.2.1 + i) 0
  | none => []

/-- The bundle of a management write: what the session carried in the parts whose layout is given, the rest as the image has it
(log 14). -/
def sessionBundle (x : Session) (g : Bundle) (h d : List Byte) : Bundle :=
  let g := { g with header := h, directory := d }
  let slots := sessionSegment x g 1
  { g with
    slots := (List.range (slots.length / 2)).map fun i => fld slots (2 * i) 2
    weights := sessionSegment x g 6, report := sessionSegment x g 7
    segments := (List.range 8).map fun k => sessionSegment x g (k + 1) }

/-- Step 1 of a management write, when header and directory have arrived. -/
def sessionHeadOk (x : Session) (h d : List Byte) : Bool :=
  let g : Bundle := {
    header := h, directory := d, slots := [], graph := [], planes := [], programs := [], extents := [], weights := []
    report := [], runtime := [], signature := none, segments := [] }
  formatOk g && kindOrder g && bhLength h = x.total

/-- Where the segments of kinds 1 to 4 of an image end. -/
def segmentsEnd (g : Bundle) : Nat := ((dirEntries g).filter fun e => e.1 ≤ 4).foldl (fun a e => max a (e.2.1 + e.2.2.1)) 0

/-- Step 3 of a management write once every segment of kinds 1 to 4 has arrived (R383). -/
def bindEarly (s : State) (m : Nat) (x : Session) : State :=
  match (modelSlot s m).bundle, sessionHead x with
  | some g, some (h, d) =>
    let g := sessionBundle x g h d
    if (modelSlot s m).st = 1 && (modelSlot s m).bindEpoch = 0 && x.next ≥ segmentsEnd g then
      (if formatOk g then bindStep s m g none else failLoad s m 4 0)
    else s
  | _, _ => s

/-- A management write committed with a good CRC (R383): step 1 over the whole image and step 2; a failure undoes the binding. -/
def commitLoad (s : State) (m : Nat) (x : Session) : State :=
  match (modelSlot s m).bundle, sessionHead x with
  | some g, some (h, d) =>
    let g := sessionBundle x g h d
    if !(formatOk g && kindOrder g && bhLength h = x.total) then failLoad s m 4 0
    else if !step2Ok s m g then failSignature s m
    else
      let s := if (modelSlot s m).bindEpoch = 0 then bindStep s m g none else s
      if (modelSlot s m).st = 1 then updModel s m fun y => { y with bundle := some g, arrived := true } else s
  | _, _ => failLoad s m 4 0

/-! Serve, stop, unload (R384, R400). -/

/-- The tasks with start PCs become READY in every tile of a slot (R381). -/
def startTasks (s : State) (g : Bundle) : State :=
  g.programs.foldl (fun s x => match carrier s x.ltile with
    | some t =>
      updCore s t fun c => wakeCore { c with
        slots := c.slots.zipIdx.map fun e =>
          if e.2 ≠ 0 && x.startPcs.any (fun y => y.1 = e.2) then { e.1 with st := .ready } else e.1 }
    | none => s) s

/-- The conditions of R400 for stage 0 of a pipeline over several devices. -/
def peersReady (s : State) (g : Bundle) (peers : List PeerReport) : Bool :=
  bhNdev g.header ≤ 1 || bhStage g.header ≠ 0
  || (peers.length = bhNdev g.header - 1
      && peers.all fun x => x.slotState = 2 && x.bundleId = bhId g.header && x.tbLocked
        && x.snapInterval = dnum s 0x2410 1 200 && x.snapDest = 1)

/-- A slot may serve. -/
def mayServe (s : State) (m : Nat) (peers : List PeerReport) : Bool :=
  (modelSlot s m).st = 2 && (match (modelSlot s m).bundle with
    | some g => peersReady s g peers
    | none => false)

/-- serve. -/
def serveSlot (s : State) (m : Nat) : State :=
  let s := updModel s m fun x => { x with st := 3, autoServe := false }
  settleServing (match (modelSlot s m).bundle with
    | some g => startTasks s g
    | none => s)

/-- stop. -/
def stopSlot (s : State) (m : Nat) : State :=
  settleStopping (updModel s m fun x => { x with st := 4 }) m

/-- unload. -/
def unloadSlot (s : State) (m : Nat) : State :=
  let s := match (modelSlot s m).bundle with
    | some g => forgetTiles s (g.slots.flatMap slotTiles)
    | none => s
  let s := unbindSlot (failSlot s m 0xA) m
  let s := updModel s m emptySlot
  settleServing { s with recov := { s.recov with snapScope := s.recov.snapScope.filter (· ≠ m) } }

/-- The device states in which slot commands are accepted (R384). -/
def slotCommands (s : State) : Bool := s.dev.st = .ready || s.dev.st = .serving || s.dev.st = .recovering

/-- Steps 4 and 5 of a load (R306, R307, R383). -/
def finishLoad (s : State) (m : Nat) (g : Bundle) : State :=
  let ls := g.slots.flatMap slotTiles
  let s := g.programs.foldl setupTile (forgetTiles s ls)
  let s := ls.foldl (fun s l => firstPlane s m l) s
  let s := clearWeightBits (writeExtents s g ls) g ls
  let s := (modelSlot s m).binding.foldl (fun s e => enterBound s e.2) s
  updModel s m fun x => { x with st := 2, code := 0, detail := 0, placed := true }

/-- Meaning of SLOT_LOAD_DONE (R383, R400, R451): the weights are placed and every extent's CRC holds, or the load fails with SOURCE; `peers`:
what the other stages report, for the serve of an autoload. -/
def execSlotLoadDone (m : Nat) (readOk : Bool) (peers : List PeerReport) (s : State) : Res :=
  .next (
    let x := modelSlot s m
    if !slotCommands s || !s.steward.running || x.st ≠ 1 || x.bindEpoch = 0 || (x.loadSrc.isNone && !x.arrived) then s
    else match x.bundle with
      | none => s
      | some g =>
        if !readOk || !g.extents.all (extentGood g) then failLoad s m 5 0
        else
          let s := finishLoad s m g
          if x.autoServe && mayServe s m peers then serveSlot s m else s)

end Sys2Proof.Machine
end

