-- ==== Sys2Proof/Machine/Recovery.lean ====
section
/-! DEFINITION. Fences, stewards, recovery and thermal migration (R299 to R301, R310 to R319, R326 to R332). -/

namespace Sys2Proof.Machine

/-! Leaving FENCED (R313, R318). -/

/-- A region goes to TRAINING in service: what it held is gone, its Loupe buffer stays readable, its stage is on (R298, R318). -/
def startRetrain (s : State) (p : Nat) : State :=
  let old := regionOfNo s p
  updRegion (dropRegion s p) p fun r => { r with
    st := .training, retraining := true, stageOn := true, coreMv := 650, sramMv := 750, loupe := old.loupe, temp := old.temp }

/-- A FENCED region leaves by its cause (R313, R318). During a loss of reference it stays until step 8 (R192, R212, R216). -/
def leaveFenced (s : State) (p : Nat) : State :=
  let r := regionOfNo s p
  if r.st ≠ .fenced || s.clock.holdStep ≠ 0 then s
  else if deadDue r then markDead (dropRegion s p) p
  else if r.fence.cause = 0x36 then switchOffHeat s p
  else if r.fence.cause = 0x33 || r.fence.cause = 0x34 || r.fence.cause = 0x35 || r.fence.cause = 0x37 then
    updRegion (dropRegion s p) p fun r => { r with st := .unpowered, held := true }
  else startRetrain s p

/-- A FENCED region that a recovery has to answer for: it was BOUND, as a steward region is too (R5, R299, R327). -/
def lostSlot (r : Region) : Bool := r.st = .fenced && r.role = .bound

/-- A steward region. -/
def isSteward (s : State) (p : Nat) : Bool := p = s.steward.primary || p = s.steward.standby

/-- Meaning of FIELD_FENCE (R315): 8 regions of the field fenced within 1 ms. -/
def execFieldFence (f : Nat) (s : State) : Res :=
  .next (if f < 48 && rimRuns s && (smGetD s.recov.fieldFences f []).length ≥ 8 && (smGet s.recov.fieldFenced f).isNone then
      fenceField s f
    else s)

/-- Meaning of RIM_SEGMENT_FAIL (R26, R316): the traffic of that ring takes the other; a segment with both rings unusable is
unrecoverable. -/
def execRimSegmentFail (ring segment : Nat) (s : State) : Res :=
  .next (if !rimRuns s || ring ≥ 2 || segment ≥ 32 || s.fabric.rimDown.contains (ring, segment) then s else
    let s := { s with fabric := { s.fabric with rimDown := s.fabric.rimDown ++ [(ring, segment)] } }
    if s.fabric.rimDown.contains (1 - ring, segment) then report s .toFault else rimReroute s ring)

/-! The steward pair (R299 to R301). -/

/-- A region in service that holds no fault (R317). -/
def healthyRegion (r : Region) : Bool := !faultMapBit r

/-- A region takes a steward binding (R299, R377). -/
def bindSteward (s : State) (p binding : Nat) : State :=
  updRegion s p fun r => { r with
    binding := binding, mslot := 0xFF, role := .bound, st := if r.st = .dimmed then .dimmed else .bound }

/-- The logical tile that serves the Ethernet ports, and its tag, written into their configuration in force (R378). -/
def serveIngress (s : State) : State :=
  { s with fabric := { s.fabric with
    ports := (List.range 32).foldl (fun m p =>
      if personality s p = 3 then smUpd m p {} fun x => { x with ingress := 364150, ingressTag := 0x4752 } else m)
      s.fabric.ports } }

/-- A steward region given up (R301): one that a recovery answers for leaves FENCED at its resume, any other once its fence is
complete. -/
def dropSteward (s : State) (p : Nat) : State :=
  let r := regionOfNo s p
  let s := updRegion s p fun r => { r with binding := 0xFFFF }
  if lostSlot r then s
  else
    let s := updRegion s p fun r => { r with forcedMask := none, noticeDue := false }
    if r.fenceDone then leaveFenced s p else s

/-- Meaning of STEWARD_FAILOVER (R301, R316): the standby becomes primary; a fenced standby is given up; with neither, FAULT. -/
def execStewardFailover (s : State) : Res :=
  .next (
    let a := s.steward.primary
    let b := s.steward.standby
    let down := fun p => !(healthyRegion (regionOfNo s p))
    if !eyepieceRuns s || !s.steward.running then s
    else if down a then
      if b = 0xFFFF || down b then report s .toFault
      else
        let s := { s with steward := { s.steward with
          primary := b, standby := 0xFFFF, failovers := (s.steward.failovers + 1) % 2 ^ 32, inbox := [], parts := []
          commits := s.steward.standbyCommits, standbyCommits := [] } }
        let s := updRegion (dropSteward s a) b fun r => { r with binding := 0xFFFE }
        logEvent (stewardBroadcast (serveIngress s)) 0x0212 2 b 0
    else if b ≠ 0xFFFF && down b then dropSteward { s with steward := { s.steward with standby := 0xFFFF } } b
    else s)

/-- Meaning of STANDBY_PLACEMENT (R300, R301): the lowest-numbered RESERVE region of another field, no failed crossing on a side of it
(R207), not cut off from the largest set (R227); it also relieves a standby in the primary's own field. -/
def execStandbyPlacement (s : State) : Res :=
  .next (
    let a := s.steward.primary
    let b := s.steward.standby
    if !eyepieceRuns s || !s.steward.running || !healthyRegion (regionOfNo s a) || !(b = 0xFFFF || fieldOf b = fieldOf a) then s
    else match (s.regions.filter fun e => e.2.st = .reserve && freeRegion s (mainSet s) e.1 && fieldOf e.1 ≠ fieldOf a).map (·.1) with
      | [] => s
      | p :: _ =>
        let s := if b = 0xFFFF then s else unbindRegion s b
        stewardBroadcast (bindSteward { s with steward := { s.steward with standby := p, standbyCommits := s.steward.commits } } p 0xFFFD))

/-! The start of a recovery (R327 to R330). -/

/-- A lattice path of a slot passes a region (R327). -/
def pathThrough (x : ModelSlot) (p : Nat) : Bool := x.paths.any fun y => y.xings.any fun c => c.src = p || c.dst = p

/-- The model slots that a list of lost regions affects. -/
def affected (s : State) (ps : List Nat) : List Nat :=
  (s.steward.slots.filter fun e => e.2.bundle.isSome && ps.any fun p =>
    e.2.binding.any (fun b => b.2 = p) || (regionOfNo s p).mslot = e.1 || pathThrough e.2 p).map (·.1)

/-- A tile frozen (R329): it holds, its core stops, its engine operations are abandoned. -/
def freezeTile (s : State) (t : Nat) : State :=
  updTile s t fun k => { k with
    mxQ := [], pzQ := []
    snap := { k.snap with
      frozen := true, stopping := false, quiesced := false, copying := false, pending := [], reported := false, unacked := 0 } }

/-- Before the stash is read, what was committed is applied (R326). A tile whose region is lost together with its mirror's has no stash
(R330); of a mirror lost alone the spec says nothing, and its partner rolls back (DEDUCED, log 62). -/
def loseStash (s : State) (ps : List Nat) : State :=
  let s := s.recov.unapplied.foldl (fun s e => applyStash s e.1) s
  let gone := fun l => ps.any fun p => bindingSlot (regionOfNo s p).binding = slotOf l
  let hosts := fun l => gone l && (mirrorTile l).any gone
  { s with recov := { s.recov with
    stash := s.recov.stash.filter fun e => !hosts (e.1 / 256)
    stashCtx := s.recov.stashCtx.filter fun e => !hosts e.1
    staging := s.recov.staging.filter fun e => !hosts (e.1 / 256) } }

/-- A model slot enters RECOVERING (R384): its share is given up, its tiles freeze, its streams pause, a migration of it ends. -/
def freezeSlot (s : State) (m : Nat) : State :=
  let s := abortShare s m
  let s := (modelTiles s m).foldl freezeTile s
  let s := updModel s m fun x => { x with st := 5, former := if x.st = 5 then x.former else x.st }
  { s with
    regions := s.regions.map fun e => (e.1, if e.2.mslot = m && e.2.migrating < 4 then { e.2 with migrating := 0 } else e.2)
    steward := { s.steward with
      streams := s.steward.streams.map fun x => if x.slot = m then { x with paused := true } else x } }

/-- Set bits of a list of numbers. -/
def maskOf (l : List Nat) : Nat := (l.map fun n => 2 ^ n).foldl (· ||| ·) 0

/-- A tile's content moved onto another tile: scratchpad, core, queues; the router, the repair state and the counters of R61 are the
tile's own (R61, R322, R328, R331). -/
def moveTile (s : State) (t t' : Nat) : State :=
  let k := tileOf s t
  let bytes := (s.mem.filter fun e => e.1 / spadBytes = t).map fun e => (spad t' (e.1 % spadBytes), e.2)
  let mem := bytes.foldl (fun m e => memWrite m e.1 e.2) (memZero s.mem (spad t' 0) spadBytes)
  let s := updTile { s with mem := mem } t' fun o => { k with
    router := o.router, patrol := o.patrol
    core := keepCounters o.core k.core
    mxQ := k.mxQ.map (rebaseOp o.core k.core)
    pzQ := k.pzQ.map (rebaseOp o.core k.core)
    lat := rebaseLat o.core k.core k.lat }
  updTile s t fun k => parkTile k

/-- The tile at a logical position of a region, and the tiles at all of them. -/
def tileAtPos (s : State) (p i : Nat) : Nat := tileFor p (regionOfNo s p).repair (ltileAt 0 (i % 10) (i / 10))
def placedTiles (s : State) (p : Nat) : List Nat := (List.range 80).map (tileAtPos s p)

/-- The sections in progress in region p go on in region q: their tiles by logical position, the stretches gathered so far with them
(R187). -/
def moveSections (s : State) (p q : Nat) : State :=
  let old := regionOfNo s p
  let dest := fun t => ((List.range 80).find? fun i => tileAtPos s p i = t).map (tileAtPos s q)
  let s := updRegion s q fun r => { r with
    sects := old.sects.map fun m => { m with
      openTiles := m.openTiles.filterMap dest, startStretch := r.stretch - ((old.stretch : Int) - m.startStretch) } }
  updRegion s p fun r => { r with sects := [] }

/-- The whole content of region p moved to region q, tile by tile in logical position. -/
def moveRegion (s : State) (p q : Nat) : State :=
  moveSections ((List.range 80).foldl (fun s i => moveTile s (tileAtPos s p i) (tileAtPos s q i)) s) p q

/-- The scratchpads of some tiles are read whole, with what the checks of their lines find (R67): a double-bit error is the region
fault SPAD_UE of its region (R76). -/
def readTiles (s : State) (ts : List Nat) (errs : List (Nat × LineErrors)) (ok : State → State) : State :=
  match errs with
  | [] => ok s
  | (t, e) :: rest =>
    if ts.contains t then onLines s t [(0, spadBytes)] e fun s => readTiles s ts rest ok else readTiles s ts rest ok

/-- The moves that a rebinding decided and step 7 has not made, made at once where their source still stands. -/
def settleMoves (s : State) (ps : List Nat) : State :=
  let s := s.recov.moved.foldl (fun s e => if ps.contains e.1 then s else moveRegion s e.1 e.2) s
  { s with recov := { s.recov with moved := [] } }

/-- The regions whose fault notices are due and start or join a recovery. -/
def newlyLost (s : State) : List Nat := (s.regions.filter fun e => e.2.noticeDue && lostSlot e.2).map (·.1)

/-- A region that step 5 chose for a slot of the recovery and that is not BOUND yet (R327). -/
def chosenSpare (s : State) (r : Region) : Bool :=
  s.recov.step ≠ 0 && !s.recov.armed && s.recov.scope.contains r.mslot && roleOf r ≠ .bound && !lostSlot r

/-- Step 5 is due again without a region that it chose (R327). -/
def chooseAgain (s : State) (p : Nat) (r : Region) : State :=
  let s := settleMoves s [p]
  { s with recov := { s.recov with
    step := 4, lost := (s.recov.lost ++ [p]).dedup
    replaced := (s.recov.replaced ++ (slotOn (modelSlot s r.mslot).binding p).toList).dedup
    rebound := false, rebuilt := false, prepared := false, restored := false } }

/-- What follows a completed fence (R327): a region that starts no recovery leaves FENCED, and one that step 5 had chosen is chosen for
again; a steward region waits for the failover; in a SAFE-HOLD all of it waits for step 8 (R216, R330). -/
def settleFence (s : State) (p : Nat) : State :=
  let r := regionOfNo s p
  if s.clock.holdStep ≠ 0 || !(r.st = .fenced && r.fenceDone) || lostSlot r || s.recov.lost.contains p || isSteward s p then s
  else leaveFenced (if chosenSpare s r then chooseAgain s p r else s) p

/-- Meaning of FENCE_COMPLETE (R314, R327): the new fault map has been broadcast and has reached every region; the notice goes to the primary
steward. -/
def execFenceComplete (p : Nat) (s : State) : Res :=
  .next (
    let r := regionOfNo s p
    if p ≥ regionCount || !rimRuns s || r.st ≠ .fenced || r.fenceDone then s
    else settleFence (fenceNotice (mapReached (mapBroadcast (updRegion s p fun r => { r with fenceDone := true }))) p) p)

/-- Meaning of SAFE_HOLD_RETURN (R5, R212, R214, R216, R437): step 8; a held reset is performed in place of the resume. The regions
whose fences completed meanwhile leave FENCED. -/
def execSafeHoldReturn (s : State) : Res :=
  .next (if !eyepieceRuns s || s.dev.st ≠ .safeHold || s.clock.holdStep ≠ 7
      || (s.dev.heldReset.isSome && (List.range 32).any fun p => personality s p = 3 && (portOf s p).st = 2) then s else
    let s := lateTimed (endHold s)
    let s := endHoldover (logEvent s 0x0102 0 0 s.clock.lastHold)
    match s.dev.heldReset with
    | some k => performReset s k
    | none => (s.regions.map (·.1)).foldl settleFence (enterState s s.dev.beforeHold))

/-- 0x2420.03, the step of R328 in progress: 1, with 2, until the fence is complete, 3 until the recovery starts, 5 while step 4 is
done and step 5 is not (DESIGN CHOICE, log 59). -/
def recoveryStep (s : State) : Nat :=
  if s.recov.step = 4 && s.recov.rolledBack then 5
  else if s.recov.step ≠ 0 then s.recov.step
  else match (newlyLost s).map (regionOfNo s) with
    | [] => 0
    | rs => if rs.all (·.fenceDone) then 3 else 1

/-- Step 3 of R328 with the regions newly lost: a fault joins the recovery in progress (R330). `ms`: the slots that another device of their
pipeline recovers, which roll back too (R400). -/
def startRecovery (s : State) (ps ms : List Nat) : State :=
  let first := s.recov.step = 0
  let s := { s with dev := { s.dev with conditions := s.dev.conditions.filter (· ≠ Condition.toRecovering) } }
  let s := if s.dev.st = .recovering then s else enterRecovering s
  let lost := (s.recov.lost ++ ps).dedup
  let scope := (s.recov.scope ++ affected s lost ++ ms).dedup
  let slotAt := fun p => scope.findSome? fun m => slotOn (modelSlot s m).binding p
  let slots := (ps ++ (s.recov.moved.filter fun e => ps.contains e.1).map (·.2)).filterMap slotAt
  let s := settleMoves s ps
  let s := loseStash s ps
  let s := { s with recov := { s.recov with
    count := if first then (s.recov.count + 1) % 2 ^ 32 else s.recov.count
    number := if first then (s.recov.number + 1) % 2 ^ 32 else s.recov.number
    detectTb := if ps = [] then s.time.tb else (ps.map fun p => (regionOfNo s p).fence.tb).foldl max 0
    step := 4, scope := scope, lost := lost, replaced := (s.recov.replaced ++ slots).dedup
    rolledBack := false, rebound := false, rebuilt := false, prepared := false, restored := false, armed := false } }
  let s := ps.foldl (fun s p => updRegion s p fun r => { r with noticeDue := false }) s
  let s := stewardBroadcast (scope.foldl freezeSlot s)
  logEvent s 0x0210 1 s.recov.number (maskOf scope)

/-- A steward region lost while a recovery runs: the recovery goes on from its step (R301, R330) and answers for the region too. -/
def joinSteward (s : State) (ps : List Nat) : State :=
  let s := { s with recov := { s.recov with lost := (s.recov.lost ++ ps).dedup } }
  ps.foldl (fun s p => updRegion s p fun r => { r with noticeDue := false }) s

/-- Meaning of RECOVERY_START (R6, R328 to R330, R400): the notice reaches the steward; a condition that comes first wins; after step 8 is
armed the next recovery waits for the resume. `peers`: the slots whose pipeline recovers on another device; how this device hears of it
the spec does not say (log 110). -/
def execRecoveryStart (peers : List Nat) (s : State) : Res :=
  .next (
    let ps := newlyLost s
    let ms := peers.filter fun m => piped s m && holdsBundle (modelSlot s m) && !s.recov.scope.contains m
    let sooner := s.dev.conditions.any fun c => c ≠ .toRecovering && c ≠ .toKeepAlive && mayTake s c
    if !eyepieceRuns s || !s.steward.running || !healthyRegion (regionOfNo s s.steward.primary) || (ps = [] && ms = []) || s.recov.armed then s
    else match s.dev.st with
      | .ready | .serving | .recovering =>
        if sooner then decideState s
        else if s.recov.step ≠ 0 && affected s ps = [] && ms = [] then joinSteward s ps
        else startRecovery s ps ms
      | _ => s)

/-! Steps 4 to 8 (R328). -/

/-- A recovery runs and is not stopped by a SAFE-HOLD (R330). -/
def recovers (s : State) : Bool :=
  eyepieceRuns s && s.steward.running && s.dev.st = .recovering && s.clock.holdStep = 0 && s.recov.step ≠ 0
  && healthyRegion (regionOfNo s s.steward.primary)

/-- The model slot of the scope that a logical tile belongs to. -/
def scopeSlot (s : State) (l : Nat) : Option Nat :=
  s.recov.scope.find? fun m => ((modelSlot s m).bundle.map fun g => g.slots.contains (slotOf l)).getD false

/-- The blocks of a tile whose write-tracking bits are set. -/
def dirtyBlocks (k : Tile) : List Nat := (List.range 256).filter fun b => k.core.dirty.getLsbD b

/-- The step of a new plane that stands where a step of the old one did: by the first starts of the entries apart from NOPs
(DESIGN CHOICE, log 105). -/
def mapStep (old new : Plane) (n : Nat) : Nat :=
  let starts := fun (p : Plane) =>
    let rows := p.entries.map fun e => (e, eDelta e)
    ((rows.zip (entryStarts rows 0 [])).filter fun e => eOp e.1.1 ≠ 1).map (·.2)
  match ((starts old).zip (starts new)).filter fun e => e.1 ≤ n with
  | [] => n
  | e :: es => let l := (e :: es).getLast (by simp); l.2 + (n - l.1)

/-- The plane of a tile for a generation among a slot's recomputed planes. -/
def planeFor (x : ModelSlot) (l gen : Nat) : Option PlaneSeg :=
  x.planes.find? fun p => p.ltile = l && fld p.image 0 1 % 16 = gen

/-- A tile's planes replaced by the recomputed ones, its step with them (R184, R328). -/
def replanTile (s : State) (m l : Nat) : State :=
  match carrier s l with
  | none => s
  | some t =>
    let s := placePlanes s m l
    let x := modelSlot s m
    let new := fun (p : Plane) => match planeFor x l (plGen p) with
      | some g => planeOf g.image p.base p.bound
      | none => p
    updTile s t fun k =>
      let n := match k.lat.active with | some p => mapStep p (new p) k.lat.stepNo | none => k.lat.stepNo
      { k with lat := { k.lat with
        stepNo := n
        startStep := if k.lat.running then k.core.stepCnt - BitVec.ofNat 64 n else k.lat.startStep
        active := k.lat.active.map new
        shadow := k.lat.shadow.map new } }

/-- Step 4 at a tile. -/
def rollbackTile (s : State) (t : Nat) : State :=
  let k := tileOf s t
  match k.core.ltile with
  | some l =>
    (match scopeSlot s l with
     | some m =>
       if k.snap.frozen && restorable s m then restoreTile s t l (modelSlot s m).committed (dirtyBlocks k) else s
     | none => s)
  | none => s

/-- The planes of every tile of a model slot replaced by the recomputed ones. -/
def replanSlot (s : State) (m : Nat) : State :=
  match (modelSlot s m).bundle with
  | some g => (g.slots.flatMap slotTiles).foldl (fun s l => replanTile s m l) s
  | none => s


/-- The reserve of a column shift (R311): the nearest RESERVE region below p with only regions of the same model slot between. -/
def shiftEnd (s : State) (b : Binding) (p : Nat) : Option Nat :=
  let x := gx p
  ((List.range (71 - gy p)).map (gy p + 1 + ·)).find? fun y =>
    freeRegion s (mainSet s) (regionAt x y) && (regionOfNo s (regionAt x y)).st = .reserve
    && (slotOn b (regionAt x y)).isNone
    && ((List.range (y - gy p - 1)).all fun i =>
        let q := regionAt x (gy p + 1 + i)
        (slotOn b q).isSome && (roleOf (regionOfNo s q) = .bound))

/-- The moves of a column shift, nearest the reserve first: each region between hands its slot one place down. -/
def shiftMoves (p y : Nat) : List (Nat × Nat) :=
  ((List.range (y - gy p - 1)).map fun i => (regionAt (gx p) (y - 1 - i), regionAt (gx p) (y - i)))

/-- A binding with some regions replaced by others. -/
def applyMoves (b : Binding) (mv : List (Nat × Nat)) : Binding :=
  mv.foldl (fun b e => b.map fun x => if x.2 = e.1 then (x.1, e.2) else x) b

/-- Slots rebound one after another: a column shift, else choose() (R311). The slots given are not in the binding. -/
def rebindSlots (s : State) (g : Bundle) : List (Nat × Nat) → Binding → List (Nat × Nat) → Option (Binding × List (Nat × Nat))
  | [], b, mv => some (b, mv)
  | (n, p) :: rest, b, mv =>
    match shiftEnd s b p with
    | some y => rebindSlots s g rest (applyMoves b (shiftMoves p y) ++ [(n, regionAt (gx p) (gy p + 1))]) (mv ++ shiftMoves p y)
    | none =>
      (chooseRegion s g b ((freeRegions s).filter fun q => (slotOn b q).isNone) n).bind fun q =>
        rebindSlots s g rest (b ++ [(n, q)]) mv

/-- The pairs that a rebinding brought into one field, with their events (R309). -/
def pairEvents (s : State) (b : Binding) (ns : List Nat) : State :=
  if !mirrorsOn s then s
  else ns.foldl (fun s n => match regionFor b n, mirrorRegion s b n, mirrorSlot n with
    | some p, some q, some v => if fieldOf p = fieldOf q then logEvent s 0x0221 1 n v else s
    | _, _, _ => s) s

/-- A placed path passes a crossing into a region. -/
def usesCrossing (y : LatPath) (p : Nat) (x : Crossing) : Bool :=
  y.use.net = x.net && y.xings.any fun c => c.src = x.src && c.dst = p && c.pos = x.pos

/-- A crossing that a rebinding uses begins with no lag (R204). -/
def clearLags (s : State) (ps : List LatPath) : State :=
  { s with regions := s.regions.map fun e => (e.1, { e.2 with
    crossings := e.2.crossings.map fun x => if ps.any (usesCrossing · e.1 x) then { x with lag := 0 } else x }) }

/-- Step 5 for a model slot: a new binding, or the code of R305 where none is possible. -/
def rebindSlot (s : State) (m : Nat) : Sum (Nat × Nat) State :=
  let x := modelSlot s m
  match x.bundle with
  | none => .inr s
  | some g =>
    let lost := x.binding.filter fun e => s.recov.lost.contains e.2
    let kept := x.binding.filter fun e => !s.recov.lost.contains e.2
    match rebindSlots s g (lost.mergeSort fun a b => a.1 ≤ b.1) kept [] with
    | none => .inl (1, 4)
    | some (b, mv) =>
      let b := b.mergeSort fun a b => a.1 ≤ b.1
      match planPaths s g b with
      | .inl d => .inl (1, d)
      | .inr (ps, pl) =>
        let s := lost.foldl (fun s e => updRegion s e.2 fun r => { r with binding := 0xFFFF, mslot := 0xFF }) s
        let s := writeBinding s m g b ps pl (x.bindEpoch + 1)
        let s := clearLags s ps
        let s := pairEvents s b (lost.map (·.1) ++ mv.filterMap fun e => slotOn b e.2)
        .inr { s with recov := { s.recov with moved := s.recov.moved ++ mv } }

/-- Step 5 for a list of model slots; where one cannot be bound its status says so and KEEP-ALIVE is due (R5, R310). -/
def rebindScope : List Nat → State → State
  | [], s => { s with recov := { s.recov with rebound := true, step := 6 } }
  | m :: ms, s =>
    match rebindSlot s m with
    | .inl (c, d) => report (updModel s m fun x => { x with code := c, detail := d }) .toKeepAlive
    | .inr s => rebindScope ms s

/-- Meaning of RECOVERY_REBIND (R303, R304, R311, R328): step 5. -/
def execRecoveryRebind (s : State) : Res :=
  .next (if !recovers s || s.recov.rebound || s.recov.armed then s else rebindScope s.recov.scope s)

/-- Logical tiles of a slot whose regions were lost. -/
def lostTiles (s : State) (g : Bundle) : List Nat := ((g.slots.filter s.recov.replaced.contains).flatMap slotTiles)

/-- A tile made ready for a bundle again: its rings closed with new epochs, its CSRs at their Reset values, but for the counters that
only a power-up or a warm restart clears (R61, R71). -/
def readyTile (k : Tile) : Tile :=
  let z := resetCsrs k (k.rings.map fun r => nextEpoch r.epoch)
  { z with
    core := { z.core with
      stepCnt := k.core.stepCnt, holdCnt := k.core.holdCnt, stretchCnt := k.core.stretchCnt, genDiscard := k.core.genDiscard
      mcycle := k.core.mcycle, minstret := k.core.minstret, eccCorr := k.core.eccCorr }
    router := k.router, patrol := k.patrol }

/-- Where a peer instance holds an extent: its tile and the place in it (R307). -/
def peerPlace (s : State) (g : Bundle) (e : Extent) : Option (Nat × Nat) :=
  (g.extents.find? fun x => x.imgOff = e.imgOff && x.len = e.len).bind fun x => (carrier s x.ltile).map fun t => (t, extentAt g x)

/-- The extents of some logical tiles. -/
def extentsOf (g : Bundle) (ls : List Nat) : List Extent := g.extents.filter fun e => ls.contains e.ltile

/-- The first source of R307: the bundle of a peer instance that holds all the extents. -/
def peerBundle (s : State) (m : Nat) (g : Bundle) (ls : List Nat) : Option Bundle :=
  (peerSlot s m (bhId g.header)).bind fun m' => (modelSlot s m').bundle.bind fun g' =>
    if (extentsOf g ls).all fun e => (peerPlace s g' e).isSome then some g' else none

/-- The extents copied tile to tile over the mesh: remote writes by the peer's tiles (R224, R307). -/
def copyFromPeer (s : State) (g g' : Bundle) (ls : List Nat) : State :=
  (extentsOf g ls).foldl (fun s e => match peerPlace s g' e with
    | some (t, a) => (List.range ((e.len + 255) / 256)).foldl (fun s i =>
        bulkWrite s t (tileAddress s.fabric.devId e.ltile (extentAt g e + 256 * i)) (readSpad s t (a + 256 * i) (min 256 (e.len - 256 * i)))) s
    | none => s) s

/-- Every extent of some logical tiles stands in the tile that carries it, as its CRC says (R307, R383). -/
def extentsStand (s : State) (g : Bundle) (ls : List Nat) : Bool :=
  (extentsOf g ls).all fun e => match carrier s e.ltile with
    | some t => crc32 (readSpad s t (extentAt g e) e.len) = e.crc
    | none => true

/-- The tiles of a peer that a rebuild reads. -/
def peerTiles (s : State) (m : Nat) : List Nat :=
  match (modelSlot s m).bundle with
  | some g => match peerBundle s m g (lostTiles s g) with
    | some g' => ((extentsOf g (lostTiles s g)).filterMap fun e => (peerPlace s g' e).map (·.1)).dedup
    | none => []
  | none => []

/-- Step 6 for a model slot: windows and images set up in the tiles of the regions that replace lost ones, and their weights on the way from
the first source available (R307, R458). -/
def prepareSlot (s : State) (m : Nat) : State :=
  let x := modelSlot s m
  match x.bundle with
  | none => s
  | some g =>
    let ls := lostTiles s g
    let s := ls.foldl (fun s l => match carrier s l with
      | some t => updTile s t readyTile
      | none => s) s
    let s := (g.programs.filter fun y => ls.contains y.ltile).foldl setupTile s
    match peerBundle s m g ls, x.loadSrc, flashCopy s (bhId g.header) with
    | some g', _, _ => copyFromPeer s g g' ls
    | none, some base, _ => writeExtents (streamExtents s g base ls) g ls
    | none, none, some h => writeExtents s { g with weights := h.weights } ls
    | none, none, none => s

/-- A slot whose weights come from a peer waits until they all stand (R307). -/
def weightsOpen (s : State) (m : Nat) : Bool :=
  match (modelSlot s m).bundle with
  | some g => (peerBundle s m g (lostTiles s g)).isSome && !extentsStand s g (lostTiles s g)
  | none => false

/-- The copies of a peer's tiles are all answered, and some extent does not stand: they are sent again. -/
def resendWeights (s : State) (m : Nat) : State :=
  match (modelSlot s m).bundle with
  | some g =>
    match peerBundle s m g (lostTiles s g) with
    | some g' =>
      if weightsOpen s m && (peerTiles s m).all (fun t => (tileOf s t).snap.unacked = 0) then copyFromPeer s g g' (lostTiles s g) else s
    | none => s
  | none => s

/-- Write-tracking bits of the weight blocks rebuilt, cleared (R307). -/
def clearRebuilt (s : State) (m : Nat) : State :=
  match (modelSlot s m).bundle with
  | some g => clearWeightBits s g (lostTiles s g)
  | none => s

/-- A model slot's weights have a source now (R307). -/
def hasSource (s : State) (m : Nat) : Bool :=
  match (modelSlot s m).bundle with
  | some g => (peerSlot s m (bhId g.header)).isSome || (modelSlot s m).loadSrc.isSome || (flashCopy s (bhId g.header)).isSome
  | none => true

/-- Step 6 taken on: the tiles are prepared once, copies that failed go again, and with every weight in place the step is done (R328). -/
def rebuildScope (s : State) : State :=
  let s := if s.recov.prepared then s.recov.scope.foldl resendWeights s
    else
      let s := s.recov.scope.foldl prepareSlot s
      { s with recov := { s.recov with prepared := true } }
  if s.recov.scope.any (weightsOpen s) then s
  else
    let s := s.recov.scope.foldl clearRebuilt s
    { s with recov := { s.recov with rebuilt := true, step := 7 } }

/-- Meaning of RECOVERY_WEIGHT_REBUILD (R67, R307, R328): step 6, from the first source available; a read that fails is repeated. `errs`: what
the checks find, by tile, as a peer's tiles are read. -/
def execRecoveryWeightRebuild (sourceOk : Bool) (errs : List (Nat × LineErrors)) (s : State) : Res :=
  .next (if !recovers s || !s.recov.rebound || s.recov.rebuilt || !sourceOk || !s.recov.scope.all (hasSource s) then s
    else readTiles s (s.recov.scope.flatMap (peerTiles s)) errs rebuildScope)

/-- A whole slot loaded anew (R330): every tile as at a load, its streams ended with error 0x8. -/
def reloadSlot (s : State) (m : Nat) : State :=
  match (modelSlot s m).bundle with
  | none => s
  | some g =>
    let ls := g.slots.flatMap slotTiles
    let s := failSlot s m 8
    let s := ls.foldl (fun s l => match carrier s l with
      | some t => updTile s t fun k => { readyTile k with snap := { frozen := true } }
      | none => s) s
    let s := g.programs.foldl setupTile (forgetTiles s ls)
    let s := ls.foldl (fun s l => firstPlane s m l) s
    let s := clearWeightBits (writeExtents s g ls) g ls
    let s := updModel s m fun x => { x with committed := 0, cutTb := 0 }
    if (modelSlot s m).former = 3 then startTasks s g else s

/-- The snapshot of a pipeline's slot to which every stage rolls back: the one at the latest cut that has committed on all of them, which the
log still holds; later ones are void (R400). With none, there is no snapshot to go back to. -/
def commonCut (cuts : List (Nat × Nat)) (s : State) (m : Nat) : State :=
  let ls := (modelTiles s m).filterMap fun t => (tileOf s t).core.ltile
  let x := modelSlot s m
  if !piped s m then s
  else match cuts.find? fun e => e.1 = m with
    | none => updModel s m fun y => { y with committed := 0, cutTb := 0 }
    | some (_, tb) =>
      if tb = x.cutTb then s
      else match s.recov.compLog.find? fun r => ls.contains r.ltile && r.cutTb = tb with
        | none => updModel s m fun y => { y with committed := 0, cutTb := 0 }
        | some r =>
          let s := setCommit (updModel s m fun y => { y with committed := r.snap, cutTb := tb }) m r.snap tb
          { s with
            recov := { s.recov with compLog := s.recov.compLog.filter fun e => !ls.contains e.ltile || e.snap ≤ r.snap }
            steward := { s.steward with streams := s.steward.streams.map fun y =>
              if y.slot = m then { y with atCommit := smGetD y.cuts tb {} } else y } }

/-- Meaning of RECOVERY_ROLLBACK (R326, R328, R400): step 4 in the surviving tiles; where step 7 is done, the planes it loaded stand on, and a
slot whose snapshot turns out not to read back is loaded anew. `bad`: the records of the companion log that do not count (R325); `cuts`:
for the slots of a pipeline over several devices, the TB of the latest cut that has committed on all of them. -/
def execRecoveryRollback (bad cuts : List (Nat × Nat)) (s : State) : Res :=
  .next (if !recovers s || s.recov.rolledBack || s.recov.armed then s else
    let s := s.recov.scope.foldl (commonCut cuts) s
    let whole := s.recov.scope.filter (restorable s)
    let s := dropRecords s bad
    let s := (s.tiles.map (·.1)).foldl rollbackTile s
    let s := (s.recov.scope.flatMap (modelTiles s)).foldl joinSection s
    let s := if s.recov.restored then s.recov.scope.foldl (fun s m =>
        if restorable s m || !whole.contains m then replanSlot s m else reloadSlot s m) s
      else s
    { s with recov := { s.recov with rolledBack := true } })

/-- Step 7 for a model slot: stash or log into the replacement regions, planes loaded, regions BOUND, and new mirrors covered. -/
def restoreSlot (s : State) (m : Nat) : State :=
  let x := modelSlot s m
  match x.bundle with
  | none => s
  | some g =>
    let ls := lostTiles s g
    let s := if !restorable s m then reloadSlot s m
      else
        let s := ls.foldl (fun s l => match carrier s l with
          | some t =>
            let s := updTile s t fun k => { k with snap := { k.snap with frozen := true } }
            restoreTile s t l x.committed ((List.range 256).filter fun b => !(weightBlocks g l).contains b)
          | none => s) s
        replanSlot ((ls.filterMap (carrier s)).foldl joinSection s) m
    let s := (modelSlot s m).binding.foldl (fun s e => enterBound s e.2) s
    (ls.filterMap mirrorTile).foldl (fun s l => match bundleOf s (slotOf l) with
      | some g' => dirtyAll s g' l
      | none => s) s

/-- Step 7 (R328). The forced votes of the lost regions end (R271). -/
def restoreScope (s : State) : State :=
  let s := settleMoves s []
  let s := s.recov.scope.foldl restoreSlot s
  let s := s.recov.lost.foldl (fun s p => updRegion s p fun r => { r with forcedMask := none }) s
  { s with recov := { s.recov with restored := true } }

/-- Meaning of RECOVERY_RESTORE (R67, R325, R327, R328): step 7. While a region that step 5 chose is FENCED it waits: that step is due
again. `errs`: what the checks find, by tile, as the regions of a column shift are read; `bad`: the records of the companion log that do
not count. -/
def execRecoveryRestore (errs : List (Nat × LineErrors)) (bad : List (Nat × Nat)) (s : State) : Res :=
  .next (
    let waits := s.regions.any fun e => e.2.st = .fenced && chosenSpare s e.2
    if !recovers s || !s.recov.rebuilt || s.recov.restored || waits then s
    else readTiles s (s.recov.moved.flatMap fun e => placedTiles s e.1) errs fun s => restoreScope (dropRecords s bad))

/-- Numbers of the internal resume actions: of the recovery, and of the migration of region p. -/
def resumeAction : Nat := 257
def migrationAction (p : Nat) : Nat := 4096 + p

/-- An internal resume armed at TB + lead for the regions of some model slots (R328, R331). -/
def armResume (s : State) (slot arg : Nat) (ms : List Nat) : State :=
  armInternal s slot (s.time.tb + leadTicks s) (2 ^ 60 + arg) ((s.regions.filter fun e => ms.contains e.2.mslot).map (·.1))

/-- Meaning of RECOVERY_ARM_RESUME (R328): step 8. -/
def execRecoveryArmResume (s : State) : Res :=
  .next (if !recovers s || !s.recov.rolledBack || !s.recov.restored || s.recov.armed then s else
    let s := armResume s resumeAction s.recov.number s.recov.scope
    { s with recov := { s.recov with armed := true, step := 8 } })

/-- A stream that goes on from its position at the committed cut (R332). -/
def rewindStream (x : Stream) : Stream :=
  if x.st = .prefill || x.st = .decode then
    { x with
      paused := false, st := x.atCommit.st, generated := x.atCommit.generated, injected := x.atCommit.injected
      flying := x.atCommit.flying, inFlight := x.atCommit.inFlight }
  else { x with paused := false }

/-- The frozen tiles of some regions continue (R287, R328). -/
def unfreezeRegions (s : State) (ps : List Nat) : State :=
  { s with tiles := s.tiles.map fun e =>
    if ps.contains (regionOfTile e.1) then (e.1, { e.2 with snap := { e.2.snap with frozen := false } }) else e }

/-- The tiles of a recovery continue, and the lost regions leave FENCED (R318, R328, R332). -/
def resumeRecovery (s : State) : State :=
  let scope := s.recov.scope
  let lost := s.recov.lost
  let s := { s with tiles := s.tiles.map fun e => (e.1, { e.2 with snap := { e.2.snap with frozen := false } }) }
  let s := scope.foldl (fun s m => updModel s m fun x => { x with st := if x.st = 5 then x.former else x.st }) s
  let s := { s with steward := { s.steward with
    streams := s.steward.streams.map fun x => if scope.contains x.slot then rewindStream x else x } }
  let s := scope.foldl settleStopping s
  let s := logEvent s 0x0211 0 s.recov.number (s.time.tb - s.recov.detectTb)
  let s := lost.foldl leaveFenced s
  let s : State := { s with
    sig := { s.sig with timed := smDel s.sig.timed resumeAction }
    recov := { s.recov with
      resumeTb := s.time.tb, step := 0, scope := [], lost := [], rolledBack := false, rebound := false, rebuilt := false
      prepared := false, restored := false, armed := false, moved := [], replaced := [] } }
  if s.dev.st = .recovering then settleServing (enterState s s.dev.beforeRecovery) else s

/-! Thermal migration (R331). -/

/-- A region migrates, and nothing of its slot recovers. -/
def migrates (s : State) (p step : Nat) : Bool :=
  eyepieceRuns s && s.steward.running && s.clock.holdStep = 0
  && (s.dev.st = .ready || s.dev.st = .serving || s.dev.st = .recovering)
  && (regionOfNo s p).migrating = step && (regionOfNo s p).mslot < 8 && (modelSlot s (regionOfNo s p).mslot).st ≠ 5

/-- Meaning of MIGRATION_QUIESCE (R331): step 2. -/
def execMigrationQuiesce (p : Nat) (s : State) : Res :=
  .next (if !migrates s p 1 then s else
    let s := updRegion s p fun r => { r with migrating := 2 }
    (modelTiles s (regionOfNo s p).mslot).foldl stopTile s)

/-- The binding without the hot region, with the moves: a column shift, else choose() (R311). The hot region hands its own
slot on first or last. -/
def migrationBinding (s : State) (g : Bundle) (b : Binding) (p : Nat) : Option (Binding × List (Nat × Nat)) :=
  match slotOn b p with
  | none => none
  | some n =>
    let kept := b.filter fun e => e.2 ≠ p
    match shiftEnd s kept p with
    | some y =>
      let b' := (applyMoves kept (shiftMoves p y) ++ [(n, regionAt (gx p) (gy p + 1))]).mergeSort fun x y => x.1 ≤ y.1
      some (b', shiftMoves p y ++ [(p, regionAt (gx p) (gy p + 1))])
    | none =>
      (chooseRegion s g kept ((freeRegions s).filter fun q => (slotOn b q).isNone) n).map fun q =>
        ((kept ++ [(n, q)]).mergeSort fun x y => x.1 ≤ y.1, [(p, q)])

/-- Meaning of MIGRATION_COPY (R67, R331): step 3; every region that changes binding copies its scratchpad and context. With no place
for the slot the migration waits for its limit. `errs`: what the checks find, by tile, as the scratchpads are read. -/
def execMigrationCopy (p : Nat) (errs : List (Nat × LineErrors)) (s : State) : Res :=
  .next (if !migrates s p 3 then s else
    let m := (regionOfNo s p).mslot
    match (modelSlot s m).bundle with
    | none => s
    | some g =>
      match migrationBinding s g (modelSlot s m).binding p with
      | none => s
      | some (b, mv) =>
        match planPaths s g b with
        | .inl _ => s
        | .inr _ => readTiles s (mv.flatMap fun e => placedTiles s e.1) errs fun s =>
          let s := mv.foldl (fun s e => moveRegion s e.1 e.2) s
          let s := updRegion s p fun r => { r with binding := 0xFFFF }
          let s := b.foldl (fun s e => enterBound (updRegion s e.2 fun r => { r with binding := e.1, mslot := m }) e.2) s
          let s := updModel s m fun x => { x with binding := b }
          let s := { s with recov := { s.recov with migMoves := smSet s.recov.migMoves p mv } }
          updRegion s p fun r => { r with migrating := 4 })

/-- Meaning of MIGRATION_SWITCH_OFF (R331): step 4; the crossings toward the hot region are cut and it is OFF_THERMAL. -/
def execMigrationSwitchOff (p : Nat) (s : State) : Res :=
  .next (if !migrates s p 4 then s else
    let m := (regionOfNo s p).mslot
    let s := mapBroadcast (switchOffHeat (clampRegion s p) p)
    updRegion s p fun r => { r with migrating := 5, mslot := m })

/-- Meaning of MIGRATION_REPLACE (R331): steps 5 and 6; paths re-placed, planes recomputed, the resume armed. -/
def execMigrationReplace (p : Nat) (s : State) : Res :=
  .next (if !migrates s p 5 then s else
    let m := (regionOfNo s p).mslot
    let x := modelSlot s m
    match x.bundle with
    | none => s
    | some g =>
      match planPaths s g x.binding with
      | .inl _ => s
      | .inr (ps, pl) =>
        let s := writeBinding s m g x.binding ps pl (x.bindEpoch + 1)
        let s := clearLags s ps
        let s := pairEvents s x.binding ((smGetD s.recov.migMoves p []).filterMap fun e => slotOn x.binding e.2)
        let s := (g.slots.flatMap slotTiles).foldl (fun s l => replanTile s m l) s
        let s := { s with recov := { s.recov with migMoves := smDel s.recov.migMoves p } }
        updRegion (armResume s (migrationAction p) p [m]) p fun r => { r with migrating := 6 })

/-- The tiles of a migration's slot in some regions continue (R287, R331). -/
def goOnRegions (s : State) (p : Nat) (ps : List Nat) : State :=
  let m := (regionOfNo s p).mslot
  if (modelSlot s m).st = 5 then s
  else ((modelTiles s m).filter fun t => ps.contains (regionOfTile t)).foldl (fun s t =>
    updTile s t fun k => { k with snap := { k.snap with stopping := false, quiesced := false } }) s

/-- Step 6 of a migration at its T: the slot's tiles and streams go on. -/
def resumeMigration (s : State) (p : Nat) : State :=
  let m := (regionOfNo s p).mslot
  let s := updRegion s p fun r => { r with migrating := 0, mslot := 0xFF }
  let s := { s with sig := { s.sig with timed := smDel s.sig.timed (migrationAction p) } }
  if (modelSlot s m).st = 5 then s
  else
    let s := (modelTiles s m).foldl (fun s t =>
      updTile s t fun k => { k with snap := { k.snap with stopping := false, quiesced := false } }) s
    { s with steward := { s.steward with
      streams := s.steward.streams.map fun x => if x.slot = m then { x with paused := false } else x } }

/-- Meaning of MIGRATION_TIMEOUT (R331): step 4 has not completed within 0x2420.06; the stage turns off and the event is a THERMAL
region fault. -/
def execMigrationTimeout (p : Nat) (s : State) : Res :=
  .next (
    let r := regionOfNo s p
    if rimRuns s && 1 ≤ r.migrating && r.migrating ≤ 4 && s.dev.st ≠ .safeHold
      && r.migTb + dnum s 0x2420 6 100 * msTicks ≤ s.time.tb then
      cutStage (regionFault s p 0x36 0 none 0) p
    else s)

/-! Retraining in service (R318, R319), the scrub (R71). -/

/-- The region may go to TRAINING by a write to 0x2420.08 (R318): regions are powered now. -/
def mayRetrain (s : State) (p : Nat) : Bool :=
  let r := regionOfNo s p
  (s.dev.st = .ready || s.dev.st = .serving || s.dev.st = .recovering) && s.clock.holdStep = 0
  && ((r.st = .unpowered && !r.held) || (r.st = .offThermal && r.temp < 900 && r.migrating = 0))

/-- Realignments that a crossing has counted (R204). -/
def realignsOf (s : State) (c : CrossingCal) : Nat :=
  (((regionOfNo s c.region).crossings.find? fun y => y.src = c.src && y.side = c.side && y.pos = c.pos && y.net = c.net).map
    (·.realign)).getD 0

/-- The crossings into a region and out of it calibrated after its retraining, and its droop monitor (R199, R207, R210). -/
def calibrateRetrained (s : State) (p : Nat) (result : List CrossingCal) : State :=
  let s := calibrateDroop (updRegion s p fun r => { r with droop := none }) p
  (result.filter fun c => c.region = p || c.src = p).foldl (fun s c => setCrossing s c (c.delay + 1) (realignsOf s c)) s

/-- Meaning of REGION_RETRAIN_DONE (R207, R318): the crossings of the region are calibrated; tests and calibration pass and Periscope
accepts the region, or it is UNPOWERED and the failure stands in the next training record (R447). -/
def execRegionRetrainDone (p : Nat) (passed : Bool) (result : List CrossingCal) (s : State) : Res :=
  .next (
    let r := regionOfNo s p
    if p ≥ regionCount || r.st ≠ .training || !r.retraining || r.gated then s
    else
      let s := calibrateRetrained s p result
      if passed && !sidesBad s p then
        mapBroadcast (updRegion s p fun r => { r with
          retraining := false, trainedFull := true, role := .reserve, st := if s.steward.running then .reserve else .healthy })
      else
        let old := (regionOfNo s p).crossings
        updRegion (dropRegion s p) p fun r => { r with st := .unpowered, trainedFull := true, crossings := old })

/-- The DEAD mark of a region cleared (R319). -/
def clearMark (s : State) (p : Nat) : State :=
  logEvent { s with store := { s.store with deadMarks := s.store.deadMarks.filter (· ≠ p) } } 0x0600 1 p 0

/-- The scratchpads of a region zeroed above the monitor (R71). -/
def scrubRegion (s : State) (p : Nat) : State :=
  (regionTiles p).foldl (fun s t => if bypassed s t then s else zeroSpad s t 0x2000) s

end Sys2Proof.Machine
end

