-- ==== Sys2Proof/Machine/Signals.lean ====
section
/-! DEFINITION. Timed actions at their T (R284 to R289), event objects (R291 to R293), notify records and the frames to clients
(R294, R295, R434). -/

namespace Sys2Proof.Machine

/-! Timed actions (R214, R287, R288). -/

/-- The regions that still hold an action of a slot, and those of them whose own TB has reached its T (R285, R287). While its clock is
gated a region performs none (R214). -/
def holders (s : State) (n : Nat) : List Nat := (s.regions.filter fun e => e.2.actions.any fun a => a.owner = n).map (·.1)
def performers (s : State) (n : Nat) : List Nat :=
  (s.regions.filter fun e => !e.2.gated && e.2.actions.any fun a => a.owner = n && a.at_ ≤ regionTb s e.1).map (·.1)

/-- A slot's action falls due (R287): of the regions' actions, where some region's own TB has reached T; of the
Eyepiece's, and of one that no region holds, where the master's has. In SAFE-HOLD it waits for the resume (R214). -/
def fallsDue (s : State) (n : Nat) (x : TimedSlot) : Bool :=
  eyepieceRuns s && s.dev.st ≠ .safeHold
  && (if regional x.armOp then x.status = 2 && (!(performers s n).isEmpty || ((holders s n).isEmpty && x.armT ≤ s.time.tb))
      else x.status = 1 && x.armT ≤ s.time.tb)

/-- One action before another that falls due with it (R283, R288): the lower T, then the lower code, the lower source that armed it,
the earlier arming. -/
def timedBefore (x y : TimedSlot) : Bool :=
  if x.armT ≠ y.armT then x.armT < y.armT
  else if taCode x.armOp ≠ taCode y.armOp then taCode x.armOp < taCode y.armOp
  else if x.armSrc ≠ y.armSrc then x.armSrc < y.armSrc
  else x.armSeq < y.armSeq

/-- A regional action whose T has come and that the regions do not have yet, as after a SAFE-HOLD: those after it wait (R214). -/
def waitsDistribution (s : State) (x : TimedSlot) : Bool := x.status = 1 && regional x.armOp && x.armT ≤ s.time.tb

/-- The action of a code due at a slot, no other that is due with it before it; a reset waits for every region (R214, R288). -/
def actionDue (s : State) (n code : Nat) : Bool :=
  let x := timedSlot s n
  taCode x.armOp = code && fallsDue s n x
  && !(s.sig.timed.any fun e =>
    ((fallsDue s e.1 e.2 || waitsDistribution s e.2) && timedBefore e.2 x)
    || (code = 6 && regional e.2.armOp && e.2.status = 2 && e.2.armT ≤ x.armT))

/-- The spread within which the regions perform an action (R288), in ticks. -/
def actionSpread : Nat := 10

/-- The action of a slot performed by its last participant: the slot done or done late (R285, R287, R289). -/
def actionDone (s : State) (n : Nat) : State :=
  let x := timedSlot s n
  let late := x.late || s.time.tb > x.armT + actionSpread
  let s := updTimed s n fun x => { x with status := if late then 4 else 3, done := s.time.tb, late := late }
  if late then
    logAt { s with sig := { s.sig with lateCount := (s.sig.lateCount + 1) % 2 ^ 32 } } s.time.tb 0 0x0320 1
      (if n < 64 then n else 0xFF) (taCode x.armOp) true
  else s

/-- A slot's action performed in the regions whose own TB has reached its T: their slots are free, Loupe records it (R285, R287, R297).
True where no region holds it any more: the slot is then done. -/
def perform (s : State) (n : Nat) : State × Bool :=
  let op := (timedSlot s n).armOp
  let s := (performers s n).foldl (fun s p =>
    let s := updRegion s p fun r => { r with actions := r.actions.filter fun a => a.owner ≠ n }
    if clocksRun (regionOfNo s p) then loupe s p 0xFF 0x06 (taCode op) (taArg op) else s) s
  if (holders s n).isEmpty then (actionDone s n, true) else (s, false)

/-- A resume acts on the recovery: the Eyepiece's own once it is armed, a client's for the recovery that its ARG names (R284, R328). -/
def resumesRecovery (s : State) (slot arg : Nat) : Bool :=
  (slot = resumeAction && s.recov.armed)
  || (slot < 64 && s.recov.rolledBack && s.recov.restored && s.recov.number = arg)

/-- Meaning of TIMED_RESUME (R284, R328, R331): the Eyepiece's own resume of a recovery or a migration, or one armed by a client
for the recovery that its ARG names. Each region's tiles go on when its own TB reaches T (R287). -/
def execTimedResume (slot : Nat) (s : State) : Res :=
  .next (if !actionDue s slot 1 then s else
    let ok := resumesRecovery s slot (taArg (timedSlot s slot).armOp)
    let ps := performers s slot
    let s := if ok then unfreezeRegions s ps else if slot ≥ 4096 then goOnRegions s (slot - 4096) ps else s
    let (s, last) := perform s slot
    if !last then s
    else if ok then resumeRecovery s
    else if slot ≥ 4096 then resumeMigration s (slot - 4096)
    else s)

/-- The model slots that an action's scope touches. -/
def scopeModels (s : State) (op : Nat) : List Nat :=
  let ps := scopeRegions s op
  (s.steward.slots.filter fun e => taScope op = 0 || e.2.binding.any fun b => ps.contains b.2).map (·.1)

/-- Meaning of TIMED_SNAPSHOT (R284, R287, R320, R321): the shares begin with the first region that reaches T, and each region's tiles stop
when its own TB does. -/
def execTimedSnapshot (slot : Nat) (s : State) : Res :=
  .next (if !actionDue s slot 2 then s else
    let x := timedSlot s slot
    let n := taArg x.armOp
    let ps := performers s slot
    let runs := s.steward.running && (s.dev.st = .ready || s.dev.st = .serving || s.dev.st = .recovering)
    let s := if runs && !x.begun then
        beginSnapshot (updTimed s slot fun y => { y with begun := true }) n (scopeModels s x.armOp)
      else s
    (perform (if runs then stopRegions s n ps else s) slot).1)

/-- A timed section switch at a tile (R180): a valid shadow with TRIG 0b10, in its own mode. Without a valid shadow it counts as a trigger
and leaves the switch-without-plane event; a beam release does not (DESIGN CHOICE, log 100). -/
def timedSwitch (s : State) (t : Nat) : State :=
  let l := (tileOf s t).lat
  match l.shadow with
  | some p => if !l.shadowValid || plTrig p = 2 then trigger s t (plCut p) else s
  | none => trigger s t false

/-- Meaning of TIMED_SECTION_SWITCH (R180, R284). -/
def execTimedSectionSwitch (slot : Nat) (s : State) : Res :=
  .next (if !actionDue s slot 3 then s else
    let s := (performers s slot).foldl (fun s p =>
      (regionTiles p).foldl (fun s t => if tileRuns s t then timedSwitch s t else s) s) s
    (perform s slot).1)

/-- Meaning of TIMED_BEAM_RELEASE (R284, R296): the channel releases in the regions of the scope, whatever the votes. -/
def execTimedBeamRelease (slot : Nat) (s : State) : Res :=
  .next (if !actionDue s slot 4 then s else
    let ch := taArg (timedSlot s slot).armOp
    let s := (performers s slot).foldl (fun s p => releaseRegion s p ch (regionTiles p) false) s
    let (s, last) := perform s slot
    if last then countRelease s ch else s)

/-- ENABLE written (R340, R364): 1 on an enabled port changes nothing. -/
def writeEnable (s : State) (p v : Nat) (was : Bool) : State :=
  recheckSets (if v = 1 then (if was then s else portStart s p) else portStop s p)

/-- Meaning of TIMED_PORT_ENABLE (R284, R340, R428): the Eyepiece writes ENABLE, a stored object. -/
def execTimedPortEnable (slot : Nat) (s : State) : Res :=
  .next (if !actionDue s slot 5 then s else
    let arg := taArg (timedSlot s slot).armOp
    let p := arg % 32
    let v := b2n (bit arg 8)
    match appendRec (actionDone s slot) (recordOf (objKey (0x3000 + p) 4) s.store.seq (.num v)) with
    | (s, true) => writeEnable s p v (portEnabled s p)
    | (s, false) => s)

/-- Meaning of TIMED_RESET (R214, R284, R436, R437): a warm restart, last of what is due with it; due in SAFE-HOLD it waits for the
resume, as R214 has every timed action; in AUX or BRINGUP the slot is cancelled. -/
def execTimedReset (slot : Nat) (s : State) : Res :=
  .next (
    if !actionDue s slot 6 then s
    else if s.dev.st = .aux || s.dev.st = .bringup then updTimed s slot fun x => { x with status := 6 }
    else acceptReset (actionDone s slot) .warm)

/-! Event objects (R291 to R293). -/

/-- Event object n, its configuration, and its counters changed. -/
def eventConfig (s : State) (n : Nat) : Nat := dnum s (0x2560 + n) 1 0
def eventOf (s : State) (n : Nat) : EventObj := smGetD s.sig.events n {}
def updEvent (s : State) (n : Nat) (f : EventObj → EventObj) : State :=
  { s with sig := { s.sig with events := smUpd s.sig.events n {} f } }

/-- The tiles that a wake reaches, with their region (R291, R292). -/
def eventTiles (s : State) (cfg : Nat) : List (Nat × List Nat) :=
  let target := bits cfg 50 32
  match bits cfg 61 60 with
  | 0 => (carrier s target).toList.map fun t => (regionOfTile t, [t])
  | 1 => (boundRegion s target).toList.map fun p => (p, regionTiles p)
  | _ => (s.regions.filter fun e => e.2.mslot = target && roleOf e.2 = .bound).map fun e => (e.1, regionTiles e.1)

/-- A wake firing: channel 31 released at the target tiles, counted at the root (R292, R296). -/
def fireWake (s : State) (cfg : Nat) : State :=
  (eventTiles s cfg).foldl (fun s e => releaseRegion s e.1 31 e.2 true) (countRelease s 31)

/-- A message firing (R293): a control-class MSG to the target tile. Where no bridge or no tile takes it, it counts as refused. -/
def fireMessage (s : State) (n cfg payload count : Nat) : State :=
  let l := bits cfg 50 32
  let tag := bits cfg 15 0
  let hdr := natLe 4 0 ++ natLe 2 tag ++ natLe 2 count ++ natLe 2 s.fabric.devId ++ natLe 2 16 ++ natLe 4 l
  let body := natLe 4 payload ++ natLe 1 n ++ natLe 3 0 ++ natLe 8 s.time.tb
  let k := mkPacket .control 0 0 0 s.fabric.devId l s.fabric.devId 0x7FFFF (hdr ++ List.replicate 16 0 ++ body)
  match eyepieceBridge s, carrier s l with
  | some p, some _ => sendBy s p k
  | _, _ => updEvent s n fun e => { e with refused := (e.refused + 1) % 2 ^ 32 }

/-- Event object n fired with a payload (R291 to R293): a disabled one counts as refused. -/
def fireEvent (s : State) (n payload : Nat) : State :=
  let cfg := eventConfig s n
  let kind := bits cfg 63 62
  if kind = 0 then updEvent s n fun e => { e with refused := (e.refused + 1) % 2 ^ 32 }
  else
    let s := updEvent s n fun e => { e with fired := (e.fired + 1) % 2 ^ 32, lastTb := s.time.tb }
    let s := if bit kind 0 then fireWake s cfg else s
    if bit kind 1 then fireMessage s n cfg payload (eventOf s n).fired else s

/-! Frames to clients (R412 to R414, R434). -/

/-- A CAN interface may send: enabled, not bus-off, a node ID strapped, and an Eyepiece pair runs. -/
def canSends (s : State) (i : Nat) : Bool :=
  eyepieceRuns s && bit (dnum s 0x1010 1 3) i && !(s.dict.busOff.getD i false) && s.dev.nodeId ≠ 0

/-- The UDP destination of the output, if one is set and its port is enabled (R295). -/
def udpOut (s : State) : Bool :=
  eyepieceRuns s && bit (dnum s 0x2580 1 3) 2 && dbytes s 0x2580 2 [] ≠ [] && bit (dnum s 0x1011 1 3) (dnum s 0x2580 4 0)

/-- A frame of a 32-byte record to every output that is enabled (R413, R414). -/
def sendFrame32 (s : State) (cmd func : Nat) (rec_ : List Byte) : State :=
  let s := (List.range 2).foldl (fun s i =>
    if bit (dnum s 0x2580 1 3) i && canSends s i then
      emit s (.canFrame i func s.dev.nodeId 255 (natLe 1 cmd ++ List.replicate 15 0 ++ rec_))
    else s) s
  if udpOut s then
    emit s (.udpFrame (dnum s 0x2580 4 0) (dbytes s 0x2580 2 []) (dnum s 0x2580 3 20056)
      (natLe 2 0x4F44 ++ natLe 1 1 ++ natLe 1 cmd ++ List.replicate 8 0 ++ natLe 2 32 ++ List.replicate 18 0 ++ rec_))
  else s

/-- The 32 bytes of a log record (R432). -/
def logBytes (r : LogRec) : List Byte :=
  natLe 8 r.tb ++ natLe 4 r.seq ++ natLe 4 r.source ++ natLe 2 r.code ++ natLe 1 r.severity ++ natLe 1 r.flags ++ natLe 4 r.arg0
    ++ natLe 8 r.arg1

/-- The 32 bytes of a notify record (R295). -/
def notifyBytes (r : NotifyRec) (seq lost : Nat) : List Byte :=
  natLe 8 r.stamp ++ natLe 4 r.source ++ natLe 4 (r.ltile % 2 ^ 19 + b2n r.late * 2 ^ 31) ++ natLe 4 r.payload ++ natLe 4 seq
    ++ natLe 2 lost ++ natLe 6 0

/-- A record in the output queue. -/
inductive OutRec
  | notify (r : NotifyRec)
  | event (r : LogRec)
  deriving DecidableEq, Repr

/-- The keys of R283 of a record: TB, source, logical tile. -/
def outKey (x : OutRec) : Nat × Nat × Nat :=
  match x with
  | .notify r => (r.stamp, r.source, r.ltile)
  | .event r => (r.tb, r.source, logTile r)

/-- One record before another, or level with it (R283). -/
def outBefore (x y : OutRec) : Bool :=
  let a := outKey x
  let b := outKey y
  if a.1 ≠ b.1 then a.1 < b.1 else if a.2.1 ≠ b.2.1 then a.2.1 < b.2.1 else a.2.2 ≤ b.2.2

/-- The reorder window of 20 us, in ticks (R294). -/
def reorderWindow : Nat := 50000

/-- A record sent (R294, R295, R434). -/
def emitRec (s : State) (x : OutRec) : State :=
  match x with
  | .event r => sendFrame32 s 0x72 2 (logBytes r)
  | .notify r =>
    let q := s.sig
    let s := sendFrame32 s 0x71 2 (notifyBytes r q.seq q.lost)
    { s with sig := { s.sig with seq := (q.seq + 1) % 2 ^ 32, lost := 0 } }

/-- Meaning of NOTIFY_RECORD_ARRIVAL (R294): the queue holds 512; a record past its window is late. -/
def execNotifyRecordArrival (s : State) : Res :=
  .next (match s.sig.notifyIn with
    | [] => s
    | r :: rest =>
      let q := { s.sig with notifyIn := rest }
      if !eyepieceRuns s then { s with sig := q }
      else if q.notifyQ.length ≥ 512 then
        { s with sig := { q with lost := min 0xFFFF (q.lost + 1), discarded := (q.discarded + 1) % 2 ^ 32 } }
      else { s with sig := { q with
        notifyQ := q.notifyQ ++ [{ r with late := decide ((s.time.tb : Int) > r.stamp + r.moved + reorderWindow) }] } })

/-- Meaning of NOTIFY_EMIT (R294, R434): every record whose window has passed leaves, in the order of R283. -/
def execNotifyEmit (s : State) : Res :=
  .next (if !eyepieceRuns s then s else
    let due := fun (tb : Nat) (moved : Int) => decide ((tb : Int) + moved + reorderWindow ≤ s.time.tb)
    let out := (s.sig.notifyQ.filter fun r => due r.stamp r.moved).map OutRec.notify
      ++ (s.sig.eventQ.filter fun r => due r.tb r.moved).map OutRec.event
    let s := { s with sig := { s.sig with
      notifyQ := s.sig.notifyQ.filter fun r => !due r.stamp r.moved
      eventQ := s.sig.eventQ.filter fun r => !due r.tb r.moved } }
    (out.mergeSort outBefore).foldl emitRec s)

/-! The heartbeat (R434). -/

/-- Regions HEALTHY, RESERVE, BOUND or DIMMED, 0x2400.01. -/
def healthyCount (s : State) : Nat := (s.regions.filter fun e => healthyRegion e.2).length

/-- Active streams, 0x2600.05. -/
def activeCount (s : State) : Nat := (s.steward.streams.filter fun x => x.st = .prefill || x.st = .decode).length

/-- The 32-byte record of a HEARTBEAT. -/
def heartbeatBytes (s : State) : List Byte :=
  natLe 8 s.time.tb ++ natLe 1 (devCode s.dev.st) ++ natLe 1 s.dev.nodeId ++ natLe 2 0 ++ natLe 4 s.dev.alert.toNat
    ++ natLe 2 (healthyCount s) ++ natLe 2 (activeCount s) ++ List.replicate 12 0

/-- Meaning of HEARTBEAT (R434): at its time, and the next one a period later. -/
def execHeartbeat (s : State) : Res :=
  .next (match s.dict.nextBeat with
    | none => s
    | some t =>
      if !eyepieceRuns s || !s.dict.serving || s.time.tb < t then s
      else
        let s := sendFrame32 s 0x73 8 (heartbeatBytes s)
        { s with dict := { s.dict with nextBeat := some (t + dnum s 0x1010 3 1000 * msTicks) } })

/-- A new period (R434): the next HEARTBEAT one period from now; 0 sends none. -/
def restartBeat (s : State) : State :=
  let ms := dnum s 0x1010 3 1000
  { s with dict := { s.dict with nextBeat := if ms = 0 then none else some (s.time.tb + ms * msTicks) } }

/-- A CAN error counter replaced: frames with errors, the transmit and the receive error count (0x1010.05, .06, R418). -/
def setCanErr (s : State) (iface frames tx rx : Nat) : State :=
  { s with dict := { s.dict with canErr := s.dict.canErr.set iface (frames % 2 ^ 16 + tx % 256 * 2 ^ 16 + rx % 256 * 2 ^ 24) } }

/-- A frame with an error at a CAN interface (R412, R418): counted; of the error counts after it the spec says nothing (log 44). -/
def canError (s : State) (iface : Nat) : State :=
  let e := s.dict.canErr.getD iface 0
  setCanErr { s with free := s.free + 2 } iface (bits e 15 0 + 1) (Config.freeNat s.free) (Config.freeNat (s.free + 1))

/-- Meaning of CAN_BUS_OFF (R433). -/
def execCanBusOff (iface : Nat) (s : State) : Res :=
  .next (if eyepieceRuns s && iface < 2 && !(s.dict.busOff.getD iface true) then
      let s := canError s iface
      logSource { s with dict := { s.dict with busOff := s.dict.busOff.set iface true } } (iface + 1) 0x0501 1 iface 0
    else s)

/-! The event log in flash (R431). -/

/-- Meaning of LOG_FLUSH (R431): the records reach flash; it holds 65,536. -/
def execLogFlush (s : State) : Res :=
  .next (if !eyepieceRuns s then s else
    let all := s.log.flash ++ s.log.mem
    { s with log := { s.log with flash := all.drop (all.length - 65536), mem := [] } })

/-- The log erased (R431): SEQ counts from the last erase. -/
def eraseLog (s : State) : State := { s with log := { s.log with flash := [], mem := [], seq := 0 } }

end Sys2Proof.Machine
end

