-- ==== Sys2Proof/Machine/Boot.lean ====
section
/-! DEFINITION. From AUX to READY (R435 to R451): the start, the boot images, powering and calibration by field group, the monitor,
training, the known-answer run, the steward pair, the ready criteria. -/

namespace Sys2Proof.Machine

/-- The steps of a BRINGUP go on: not from a loss of reference to its resume (R212, R437). -/
def bringupRuns (s : State) : Bool :=
  eyepieceRuns s && s.dev.st = .bringup && s.clock.holdStep = 0 && s.clock.locked

/-! Boot images (R439 to R444). -/

/-- A byte of the image partition of flash A (0) or B (1); erased flash reads 0xFF (R427, R439). -/
def flashByte (s : State) (f off : Nat) : Byte :=
  let g := if f = 0 then s.boot.imageA else s.boot.imageB
  (smGet g.bytes off).getD (if g.erased then 0xFF else Config.factoryImage f off)

/-- Bytes of an image partition. -/
def flashBytes (s : State) (f off n : Nat) : List Byte := (List.range n).map fun i => flashByte s f (off + i)

/-- A boot image as an image partition holds it (R440): the signed message, the public keys, the two signatures, the body. -/
structure BootImage where
  message : List Byte
  keys : List Byte
  rsaSig : List Byte
  slhSig : List Byte
  body : List Byte

/-- The image in a partition; BODY_LEN is cut to what a partition holds. -/
def imageIn (s : State) (f : Nat) : BootImage :=
  { message := flashBytes s f 0 0x200, keys := flashBytes s f 0x200 0x1C0, rsaSig := flashBytes s f 0x3C0 0x180
    slhSig := flashBytes s f 0x540 16224
    body := flashBytes s f 0x5000 (min (leNat (flashBytes s f 0x10 8)) (2 ^ 28 - 0x5000)) }

/-- The key hash of an image (R441): `keys` is image bytes 0x200 to 0x3BF. -/
def imageKeysGood (keys : List Byte) (k : Nat) : Bool := k < 4 && keyHash keys = Config.imageKeyHash k

/-- A component entry (R440): type, offset, length, whether the reserved word is 0. -/
def components (msg : List Byte) : List (Nat × Nat × Nat × Bool) :=
  (List.range (fld msg 0x18 4)).map fun n =>
    let e := slice msg (0x50 + 16 * n) 16
    (fld e 0 4, fld e 4 4, fld e 8 4, decide (fld e 12 4 = 0))

/-- FORMAT, NCOMP, the component entries, BODY_LEN and RSA_E keep to R440. -/
def imageFormatOk (g : BootImage) : Bool :=
  let len := fld g.message 0x10 8
  let n := fld g.message 0x18 4
  let cs := components g.message
  fld g.message 4 2 = 1 && 1 ≤ n && n ≤ 16 && len ≤ 2 ^ 28 - 0x5000 && fld g.keys 0x180 4 = 65537
  && (cs.all fun c => 1 ≤ c.1 && c.1 ≤ 5 && c.2.2.2 && c.2.1 + c.2.2.1 ≤ len && (c.1 ≠ 2 || c.2.2.1 ≤ 6144))
  && ([1, 2, 3, 4].all fun t => (cs.filter fun c => c.1 = t).length = 1)

/-- The reason of R442 that one Eyepiece pair finds for the image of a flash; `fails`: its read of the flash fails. An erased partition
has no MAGIC. -/
def pairReason (s : State) (f : Nat) (fails : Bool) : Nat :=
  let g := imageIn s f
  let k := fld g.message 6 2
  if fld g.message 0 4 ≠ 0x4757494D then 1
  else if fails then 2
  else if !imageFormatOk g then 3
  else if !imageKeysGood g.keys k || s.boot.imgRevoked.getLsbD k then 4
  else if fld g.message 0xC 4 < s.boot.counter then 5
  else if !rsaVerifies (slice g.keys 0 388) g.message g.rsaSig then 6
  else if !slhVerifies (slice g.keys 0x190 48) g.message g.slhSig then 7
  else if sha384 g.body ≠ slice g.message 0x20 48 then 8
  else 0

/-- The Eyepiece pairs that have not failed (R444). -/
def livePairs (s : State) : List Nat := (List.range 2).filter fun k => s.dev.pairs.getD k false

/-- The reason for the image of a flash (R444): both pairs check it, a failed one takes no part; where they differ, the first pair that
rejects it names the reason (log 64). `fails`: the pairs whose read fails. -/
def imageReason (s : State) (f : Nat) (fails : List Nat) : Nat :=
  (((livePairs s).map fun k => pairReason s f (fails.contains k)).find? (· ≠ 0)).getD 0

/-- A component of an image by its type (R440): 2 the tile monitor, 4 the known-answer vectors. -/
def componentOf (g : BootImage) (type : Nat) : List Byte :=
  match (components g.message).find? fun c => c.1 = type with
  | some c => slice g.body c.2.1 c.2.2.1
  | none => []

/-- The flashes in the order of BOOTSEL (R443): 0 A, 1 B. -/
def bootOrder (bootsel pref : Nat) : List Nat :=
  match bootsel with
  | 0 => [pref, 1 - pref]
  | 1 => [0]
  | 2 => [1]
  | _ => [1 - pref, pref]

/-- A flash's reason recorded (0x2300.04, .05). -/
def setReason (s : State) (f why : Nat) : State :=
  { s with boot := if f = 0 then { s.boot with reasonA := why } else { s.boot with reasonB := why } }

/-- A trial reverted (R460): the other flash is preferred, and the revert is logged. -/
def revertTrial (s : State) : State :=
  let f := 1 - s.boot.preferred
  logEvent { s with boot := { s.boot with preferred := f, trial := 0 } } 0x0805 2 f 0

/-- An image accepted (R442 to R444, R460, R461): it runs from Eyepiece memory. -/
def acceptImage (s : State) (f : Nat) (g : BootImage) : State :=
  let ver := fld g.message 8 4
  let sec := fld g.message 0xC 4
  let s := setReason s f 0
  let s := { s with boot := { s.boot with
    booted := f + 1, imageVersion := ver, secVersion := sec, keySlot := fld g.message 6 2, trainFormat := fld g.message 0x1C 4
    message := g.message, monitor := componentOf g 2, vectors := componentOf g 4
    trial := if s.boot.trial = 1 && f = s.boot.preferred then 2 else s.boot.trial } }
  logEvent s 0x0801 0 f (ver + sec * 2 ^ 32)

/-- The flashes tried in order (R443): every rejection is logged; one of the flash preferred at the start reverts to the other (R460).
`fails`: the reads that fail, by Eyepiece pair and flash. -/
def tryFlashes (s : State) (pref : Nat) (fails : List (Nat × Nat)) : List Nat → State × Bool
  | [] => (s, false)
  | f :: fs =>
    let why := imageReason s f ((fails.filter fun e => e.2 = f).map (·.1))
    if why = 0 then (acceptImage s f (imageIn s f), true)
    else
      let s := logEvent (setReason s f why) 0x0800 2 f why
      tryFlashes (if f = pref then revertTrial s else s) pref fails fs

/-! The training record (R447). -/

/-- The record in use: none while every region trains in full. -/
def savedRecord (s : State) : Option TrainRec := if s.dev.fullTraining then none else (newerRecord s).map (·.2)

/-! Steps 2 to 5 of R438. -/

/-- Lane equalisation restored from the record in use (R447). -/
def restoreLanes (s : State) : State :=
  match savedRecord s with
  | none => s
  | some r => r.lanes.foldl (fun s e => updPort s e.1 fun x => { x with equal := e.2 }) s

/-- Step 2: BOOTSEL is sampled, a trial left attempted is reverted, an image is chosen; then the training record is looked at. -/
def selectImage (s : State) (bootsel : Nat) (fails : List (Nat × Nat)) : State :=
  let s := if s.boot.trial = 2 then revertTrial s else s
  let s := { s with
    dev := { s.dev with bootsel := bootsel % 4 }
    boot := { s.boot with
      booted := 0, reasonA := 9, reasonB := 9, imageVersion := 0, secVersion := 0, keySlot := 0, trainFormat := 0, message := []
      monitor := [], vectors := [], trainedFull := 0 } }
  let (s, ok) := tryFlashes s s.boot.preferred fails (bootOrder (bootsel % 4) s.boot.preferred)
  if !ok then enterFault s
  else
    let fa := recordFault s s.boot.trainA
    let fb := recordFault s s.boot.trainB
    let s := if fa ≠ 0 then logEvent s 0x0802 1 0 fa else s
    let s := if fb ≠ 0 then logEvent s 0x0802 1 1 fb else s
    let full := s.dev.fullTraining || (newerRecord s).isNone
    restoreLanes { s with
      dev := { s.dev with bringupStep := 3, fullTraining := full }
      boot := { s.boot with trainingUsed := b2n full } }

/-- Meaning of BRINGUP_START (R5, R436 to R438, R443, R460): from AUX with VIN_54 in range, RST_N released and the reference locked,
or in the BRINGUP that a reset began. `readFails`: the reads of a flash that fail, by Eyepiece pair and flash (R444). -/
def execBringupStart (bootsel : Nat) (readFails : List (Nat × Nat)) (s : State) : Res :=
  .next (
    if !eyepieceRuns s || !s.dev.rstHigh || !s.clock.locked then s
    else if s.dev.st = .aux then
      if s.power.vinOk && !s.power.tripped then
        let s := beginBringup s (s.dev.heldReset.getD .cold)
        selectImage { s with dev := { s.dev with stagesOffWait := false } } bootsel readFails
      else s
    else if bringupRuns s && s.dev.bringupStep = 1 && !s.dev.stagesOffWait then selectImage s bootsel readFails
    else s)

/-- The totals of a region's record at 0 (R61). -/
def clearTotals (r : Region) : Region := { r with ctr := {}, stretch := 0, hold := 0, realign := 0, loupeLost := 0 }

/-- A region's stage turns on and it trains (R318, R438, R471); its fuse, if it tripped, closes, since no mark of it stands (R473). -/
def powerRegion (s : State) (p : Nat) : State :=
  updRegion s p fun r => { clearTotals r with
    st := .training, role := .reserve, stageOn := true, fuse := false, coreMv := 650, sramMv := 750, dim := 32, gated := false }

/-- Step 3 for a region (R318, R319, R473, R474): a marked region is DEAD, a DEAD or OFF_THERMAL one keeps its state, a held one is
left off. -/
def powerStep (s : State) (p : Nat) : State :=
  let r := regionOfNo s p
  if r.st ≠ .unpowered then s
  else if s.store.deadMarks.contains p then updRegion s p fun r => { r with st := .dead }
  else if r.held then s
  else powerRegion s p

/-- Meaning of FIELD_GROUP_POWER (R438, R474): the next group in order. -/
def execFieldGroupPower (f : Nat) (s : State) : Res :=
  .next (if !bringupRuns s || s.dev.bringupStep ≠ 3 || f ≠ s.dev.nextGroup || f ≥ 48 then s else
    let s := (fieldRegions f).foldl powerStep s
    { s with
      dev := { s.dev with nextGroup := f + 1 }
      recov := { s.recov with fieldFenced := smDel s.recov.fieldFenced f } })

/-- What a warm restart leaves of a tile (R61, R71): CSRs and rings at their Reset values but each epoch incremented, counters zero,
every tracking bit set. -/
def warmTile (k : Tile) : Tile := resetCsrs k (k.rings.map fun r => nextEpoch r.epoch)

/-- Step 4 for a powered region that a warm restart brings back to TRAINING (R71, R318). -/
def warmRegion (s : State) (p : Nat) : State :=
  let r := regionOfNo s p
  let back := fun (s : State) => updRegion s p fun r => { clearTotals r with
    st := .training, role := .reserve, binding := 0xFFFF, mslot := 0xFF, retraining := false, dim := 32, gated := false
    stageOn := true, coreMv := 650, sramMv := 750, forcedMask := none, fenceDone := false, noticeDue := false
    sects := [], lastSect := none, onStandby := false, standbyLost := false }
  match r.st with
  | .healthy | .reserve | .bound | .dimmed | .training => back ((regionTiles p).foldl (fun s t => updTile s t warmTile) s)
  | .fenced => updRegion (back (dropRegion s p)) p fun x => { x with temp := r.temp, loupe := r.loupe }
  | _ => s

/-- L kept for a crossing in the record in use (R209). -/
def keptLat (s : State) (c : CrossingCal) : Nat :=
  match savedRecord s with
  | none => 0
  | some r => match r.cal.find? fun x => x.region = c.region && x.src = c.src && x.side = c.side && x.pos = c.pos && x.net = c.net with
    | some x => x.delay + 1
    | none => 0

/-- A crossing's first calibration (R207); after a warm restart with saved settings the larger of the stored and the new L
(R209). -/
def calibrate (s : State) (c : CrossingCal) : State :=
  setCrossing s c (if s.dev.startKind = 3 then max (keptLat s c) (c.delay + 1) else c.delay + 1) 0

/-- The saved settings of a region restored (R447, R448): repair pointers, spare rows, the droop calibration. -/
def restoreSettings (s : State) (p : Nat) : State :=
  match savedRecord s with
  | none => s
  | some rec_ =>
    let s := updRegion s p fun r => { r with
      repair := smGetD rec_.repair p (List.replicate 8 10), droop := smGet rec_.droop p }
    (regionTiles p).foldl (fun s t => match smGet rec_.spares t with
      | some rows => updCore s t fun c => { c with spareRows := rows }
      | none => s) s

/-- Step 4 for a field group (R207, R275): generators locked, TB copies loaded, every crossing into its regions calibrated. -/
def calibrateGroup (s : State) (f : Nat) (result : List CrossingCal) : State :=
  let s := if s.dev.startKind ≥ 3 then (fieldRegions f).foldl warmRegion s else s
  let on := fun (s : State) (p : Nat) => (regionOfNo s p).st = .training
  let s := (fieldRegions f).foldl (fun s p => if on s p then
      calibrateDroop (restoreSettings (updRegion s p fun r => { r with
        skew := 0, droop := none, onStandby := false, standbyLost := false }) p) p else s) s
  (result.filter fun c => fieldOf c.region = f).foldl (fun s c => if on s c.region then calibrate s c else s) s

/-- Meaning of GROUP_CALIBRATE (R438): groups in order, each after it is powered; after the last, step 5. -/
def execGroupCalibrate (f : Nat) (result : List CrossingCal) (s : State) : Res :=
  .next (if !bringupRuns s || s.dev.bringupStep ≠ 3 || f ≠ s.dev.nextCal || s.dev.nextGroup ≤ f then s else
    let s := calibrateGroup s f result
    { s with dev := { s.dev with nextCal := f + 1, bringupStep := if f = 47 then 5 else 3 } })

/-- The tiles of a region that are not bypassed (R21). -/
def liveTiles (s : State) (p : Nat) : List Nat := (regionTiles p).filter fun t => !bypassed s t

/-- Regions in TRAINING for this BRINGUP. -/
def trainingRegions (s : State) : List Nat := (s.regions.filter fun e => e.2.st = .training && !e.2.retraining).map (·.1)

/-- The spare rows a tile's tests ask for: bank and failing row, each once (R68). -/
def sparesOf (spares : List (Nat × Nat × Nat)) (t : Nat) : List (Nat × Nat) :=
  ((spares.filter fun x => x.1 = localIndex t && x.2.1 < 16).map (·.2)).eraseDups

/-- A bank needs more than its 8 spare rows: the tile is defective (R68). -/
def bankSpent (rows : List (Nat × Nat)) : Bool := (List.range 16).any fun b => (rows.filter fun x => x.1 = b).length > 8

/-- A region of this BRINGUP trains in full from its start (R447, R451). -/
def startsFull (s : State) (p : Nat) : Bool := s.dev.fullTraining || (regionOfNo s p).lostInKat

/-- What the march over the monitor area asks for in a tile: rows 0 to 3 of each bank hold bytes 0 to 0x1FFF (R63, R68, R445). -/
def areaRows (march : List (Nat × Nat × Nat × Nat)) (p t : Nat) : List (Nat × Nat) :=
  sparesOf ((march.filter fun e => e.1 = p && e.2.2.2 < 4).map (·.2)) t

/-- The test of the monitor area in a tile (R445): in full training spare rows are assigned for it; with the stored map applied, a row that still
fails, as one bank past its spare rows, makes the tile defective. -/
def testArea (s : State) (p t : Nat) (rows : List (Nat × Nat)) : State × Bool :=
  if startsFull s p then
    if bankSpent rows then (s, false) else (updCore s t fun c => { c with spareRows := rows }, true)
  else (s, decide (rows = []))

/-- The packets of the monitor, 48 bytes of the image each behind their offset and 12 reserved bytes (R224, R445). -/
def monitorPackets (s : State) : List Packet :=
  (List.range ((s.boot.monitor.length + 47) / 48)).map fun n =>
    { mkPacket .control 0 8 0 s.fabric.devId 0 s.fabric.devId 0x7FFFF
        (natLe 4 (48 * n) ++ List.replicate 12 0 ++ slice s.boot.monitor (48 * n) 48) with bridge := true }

/-- A packet of the monitor at a tile: its message engine writes the bytes at their offset (R445). -/
def takeMonitor (s : State) (t : Nat) (k : Packet) : State := writeSpad s t (fld k.payload 0 4) (k.payload.drop 16)

/-- The sendings of the monitor to a tile, the broadcast and up to 3 resends, until the tile's check passes: the CRC-32 of the area against that
of the last packet (R445, R446). `lost`: the packets that a sending does not bring, as (sending, packet). False where every check fails. -/
def loadMonitor (s : State) (t : Nat) (lost : List (Nat × Nat)) : Nat → Nat → State × Bool
  | 0, _ => (s, false)
  | n + 1, k =>
    let ks := (monitorPackets s).zipIdx.filter fun x => !lost.contains (k, x.2)
    let s := ks.foldl (fun s x => takeMonitor s t x.1) s
    let last := (monitorPackets s).length - 1
    if !lost.contains (k, last) && crc32 (readSpad s t 0 s.boot.monitor.length) = crc32 s.boot.monitor then (s, true)
    else loadMonitor s t lost n (k + 1)

/-- T0 started at address 0 (R445). -/
def startT0 (s : State) (t : Nat) : State :=
  updCore s t fun c => runSlot (updSlot c 0 fun k => { k with pc := 0, wait := .nothing }) 0

/-- Step 5 at a tile: the test of the area, the monitor, T0; the state, and whether the tile is defective. -/
def monitorTile (p : Nat) (march : List (Nat × Nat × Nat × Nat)) (lost : List (Nat × Nat × Nat)) (s : State) (t : Nat) : State × Bool :=
  let (s, ok) := testArea s p t (areaRows march p t)
  if !ok then (s, true)
  else
    let (s, ok) := loadMonitor s t ((lost.filter fun e => e.1 = t).map (·.2)) 4 0
    if ok then (startT0 s t, false) else (s, true)

/-- Step 5 in a region: its defective tiles are noted and logged (R446). -/
def monitorRegion (march : List (Nat × Nat × Nat × Nat)) (lost : List (Nat × Nat × Nat)) (s : State) (p : Nat) : State :=
  let (s, bad) := (liveTiles s p).foldl (fun x t =>
    let (s, b) := monitorTile p march lost x.1 t
    (s, if b then x.2 ++ [t] else x.2)) (s, [])
  let s := updRegion s p fun r => { r with defect := bad }
  bad.foldl (fun s t => logEvent s 0x0804 2 p t) s

/-- Meaning of MONITOR_BROADCAST (R438, R445, R446): the area is tested, the monitor's packets reach the tiles, T0 starts where the check
passes, a tile that fails every time is defective, and the lanes of enabled ports train. `march`: the rows of the area that fail, by
region, local index, bank and row; `lost`: the packets that do not reach a tile, by tile, sending and packet. The passage of these
packets through the mesh is part of the command (log 43). -/
def execMonitorBroadcast (march : List (Nat × Nat × Nat × Nat)) (lost : List (Nat × Nat × Nat)) (s : State) : Res :=
  .next (if !bringupRuns s || s.dev.bringupStep ≠ 5 then s else
    let s := (trainingRegions s).foldl (monitorRegion march lost) s
    trainPorts { s with dev := { s.dev with bringupStep := 6 } })

/-! Steps 6 to 9. -/

/-- Repair pointers for the defective tiles of a region (R19, R20); none where a row segment has two. -/
def repairFor (p : Nat) (defective : List Nat) : Option (List Nat) :=
  (List.range 8).mapM fun row =>
    match (List.range 11).filter fun c => defective.contains (tileInRegion p (row * 11 + c)) with
    | [] => some 10
    | [c] => some c
    | _ => none

/-- A region that fails its tests (R318): UNPOWERED; its flags and crossings stay for R447 and R451. -/
def failRegion (s : State) (p : Nat) : State :=
  let old := (regionOfNo s p).crossings
  updRegion (dropRegion s p) p fun r => { r with st := .unpowered, crossings := old }

/-- The monitor written into a tile and T0 started at address 0 (R445). -/
def startMonitor (s : State) (t : Nat) : State := startT0 (writeSpad s t 0 s.boot.monitor) t

/-- Full training (R68, R71, R448): spare rows, beside those of the monitor area where it was trained so too (R445), repair pointers, the
droop calibration, zeroed scratchpads around the monitor; a region with a segment past repair, or whose tests fail, is UNPOWERED.
`spares`: what the SRAM tests find, by local index, bank and row. -/
def fullTraining (s : State) (p : Nat) (defective : List Nat) (spares : List (Nat × Nat × Nat)) (passed : Bool) : State :=
  let rows := fun (t : Nat) => ((if startsFull s p then (tileOf s t).core.spareRows else []) ++ sparesOf spares t).eraseDups
  let defective := defective ++ (regionTiles p).filter fun t => bankSpent (rows t)
  let s := updRegion s p fun r => { r with trainedFull := true, shortPassed := false }
  let s := { s with boot := { s.boot with trainedFull := s.boot.trainedFull + 1 } }
  match repairFor p ((regionOfNo s p).defect ++ defective) with
  | none => failRegion s p
  | some rep =>
    let s := updRegion s p fun r => { r with repair := rep }
    if !passed || sidesBad s p then failRegion s p
    else
      let s := calibrateDroop (updRegion s p fun r => { r with droop := none }) p
      (liveTiles s p).foldl (fun s t =>
        let s := startMonitor (zeroSpad s t 0) t
        updCore s t fun c => { c with spareRows := rows t, dirty := BitVec.allOnes 256 }) s

/-- Meaning of REGION_TRAINING (R447, R448): with saved settings the short test, and on a failure (`full`, or a defective tile)
full training of that region alone. -/
def execRegionTraining (p : Nat) (full : Bool) (defective : List Nat) (spares : List (Nat × Nat × Nat)) (passed : Bool)
    (s : State) : Res :=
  .next (
    let r := regionOfNo s p
    if !bringupRuns s || s.dev.bringupStep ≠ 6 || p ≥ regionCount || r.st ≠ .training || r.retraining
        || r.trainedFull || r.shortPassed then s
    else
      let failed := match savedRecord s with
        | some x => x.failed.contains p
        | none => false
      if startsFull s p then fullTraining s p defective spares passed
      else if full || failed || defective ≠ [] || r.defect ≠ [] || sidesBad s p then
        let s := logEvent { s with boot := { s.boot with trainingUsed := 2 } } 0x0803 1 p 0
        fullTraining s p defective spares passed
      else updRegion s p fun r => { r with shortPassed := true })

/-- Bytes 0x1800 to 0x1FFF of a tile, which the known-answer run leaves with values not stated (R449). -/
def scribbleTile (s : State) (t : Nat) : State :=
  writeSpad { s with free := s.free + 2048 } t 0x1800 (freshBytes s.free 2048)

/-- The repair pointers after a known-answer run (R450): a failing tile must be the only defective one of its row segment, so none
beside a tile that the pointer already bypasses. -/
def katRepair (r : Region) (p : Nat) (bad : List Nat) : Option (List Nat) :=
  (List.range 8).mapM fun row =>
    match (List.range 11).filter fun c => bad.contains (tileInRegion p (row * 11 + c)) with
    | [] => some (r.repair.getD row 10)
    | [c] => if r.repair.getD row 10 = 10 then some c else none
    | _ => none

/-- The value that a tile's combined CRC-32 is to have: the last 4 bytes of the known-answer vectors, whose layout the spec does not give
(R449; DESIGN CHOICE, log 43). -/
def katExpected (s : State) : Nat := fld s.boot.vectors (s.boot.vectors.length - 4) 4

/-- A tile's combined CRC-32 differs from the expected one; tiles not listed have the expected one (R449). -/
def katFails (s : State) (results : List (Nat × Nat)) (t : Nat) : Bool := results.any fun e => e.1 = t && e.2 ≠ katExpected s

/-- A region's known-answer run (R449, R450): it passes, passes once more after a repair, or goes to UNPOWERED. -/
def katRegion (results again : List (Nat × Nat)) (s : State) (p : Nat) : State :=
  let s := (liveTiles s p).foldl scribbleTile s
  let bad := (liveTiles s p).filter (katFails s results)
  let s := bad.foldl (fun s t => logEvent s 0x0804 2 p t) s
  let pass := fun (s : State) => updRegion s p fun r => { r with st := .healthy, role := .healthy, defect := [] }
  let lose := fun (s : State) => failRegion (updRegion s p fun r => { r with lostInKat := true }) p
  if bad = [] then pass s
  else match katRepair (regionOfNo s p) p bad with
    | none => lose s
    | some rep =>
      let s := updRegion s p fun r => { r with repair := rep }
      let s := (liveTiles s p).foldl (fun s t => scribbleTile (startMonitor s t) t) s
      let bad2 := (liveTiles s p).filter (katFails s again)
      if bad2 = [] then pass s else lose (bad2.foldl (fun s t => logEvent s 0x0804 2 p t) s)

/-- Meaning of KNOWN_ANSWER_RUN (R438, R449, R450): once every region of the step is trained. `results`, `again`: the CRC-32 that tiles combine
their results into, in the run and in its repeat after a repair. -/
def execKnownAnswerRun (results again : List (Nat × Nat)) (s : State) : Res :=
  .next (
    let ps := trainingRegions s
    if !bringupRuns s || s.dev.bringupStep ≠ 6
        || !(ps.all fun p => (regionOfNo s p).trainedFull || (regionOfNo s p).shortPassed) then s
    else
      let s := ps.foldl (katRegion results again) s
      { s with dev := { s.dev with bringupStep := 8 } })

/-- Regions ready for Periscope (R300): HEALTHY, or DIMMED with that role. -/
def freshRegions (s : State) : List Nat := (s.regions.filter fun e => roleOf e.2 = .healthy).map (·.1)

/-- The primary of R300: the lowest-numbered healthy region with gy at least 70, else the highest-numbered one. -/
def choosePrimary (ps : List Nat) : Option Nat :=
  match ps.find? fun p => gy p ≥ 70 with
  | some p => some p
  | none => ps.getLast?

/-- The standby of R300, given the primary. -/
def chooseStandby (ps : List Nat) (a : Nat) : Option Nat :=
  let far := ps.filter fun p => fieldOf p ≠ fieldOf a
  match choosePrimary far with
  | some p => some p
  | none => (ps.filter fun p => p ≠ a).getLast?

/-- Meaning of STEWARD_START (R300, R438): the pair is chosen, Periscope starts, the other HEALTHY regions enter RESERVE, and the binding
table and the fault map are broadcast. -/
def execStewardStart (s : State) : Res :=
  .next (if !bringupRuns s || s.dev.bringupStep ≠ 8 then s else
    let s := if s.steward.running then s else match choosePrimary (freshRegions s) with
      | none => s
      | some a => { bindSteward s a 0xFFFE with steward := { s.steward with primary := a, running := true } }
    let s := if !s.steward.running || s.steward.standby ≠ 0xFFFF then s
      else match chooseStandby (freshRegions s) s.steward.primary with
        | none => s
        | some b => { bindSteward s b 0xFFFD with steward := { s.steward with standby := b, standbyCommits := s.steward.commits } }
    let s := if s.steward.running then
        (freshRegions s).foldl (fun s p => updRegion s p fun r => { r with
          role := .reserve, st := if r.st = .healthy then .reserve else r.st }) s
      else s
    let s := if s.steward.running then stewardBroadcast s else s
    { s with dev := { s.dev with bringupStep := 9 } })

/-- The autoload of R451: load, then serve if the load ends with OK; a management write is skipped and logged. -/
def autoload (s : State) (images : List (Nat × Bundle)) : State :=
  (List.range 8).foldl (fun s m =>
    if !bit (dnum s 0x2300 0xD 0) m then s
    else if dnum s (0x2700 + m) 3 0 = 1 then logEvent s 0x080B 1 m 0
    else
      let s := startLoad s m ((images.find? fun e => e.1 = m).map (·.2))
      updModel s m fun x => { x with autoServe := decide (x.st = 1) }) s

/-- READY reached (R378, R438, R447, R451, R460, R461). -/
def reachReady (s : State) (images : List (Nat × Bundle)) : State :=
  let s := enterState { serveIngress s with dev := { s.dev with bringupStep := 0 } } .ready
  let s := if s.boot.trial = 2 then
      let s := { s with boot := { s.boot with trial := 3 } }
      if s.boot.update = upActivated then setUpdate s upIdle 0 else s
    else s
  autoload s images

/-- The regions that test 3 of R451 trains again: they passed their short test and were lost in the known-answer run. -/
def secondChance (s : State) : List Nat :=
  (s.regions.filter fun e => e.2.st = .unpowered && e.2.shortPassed && e.2.lostInKat).map (·.1)

/-- Test 3 of R451: the regions are powered again and train in full; steps 7 to 9 follow for them. -/
def retrainLost (s : State) : State :=
  let s := (secondChance s).foldl (fun s p =>
    updRegion (powerRegion s p) p fun r => { r with shortPassed := false, trainedFull := false, defect := [] }) s
  { s with
    dev := { s.dev with bringupStep := 6, retrainUsed := true }
    boot := { s.boot with trainingUsed := 2 } }

/-- Meaning of READY_CRITERIA (R5, R438, R451): the tests in order. `images`: what the companion window holds for each slot. -/
def execReadyCriteria (images : List (Nat × Bundle)) (s : State) : Res :=
  .next (if !eyepieceRuns s || s.dev.st ≠ .bringup || s.dev.bringupStep ≠ 9 then s else
    if outranked s then decideState s
    else if unrecoverable s then enterFault s
    else if !s.clock.locked || s.clock.holdStep ≠ 0 then s
    else if s.steward.running && healthyCount s ≥ dnum s 0x2000 5 4544 then reachReady s images
    else if !s.dev.retrainUsed && secondChance s ≠ [] then retrainLost s
    else enterKeepAlive s)

end Sys2Proof.Machine
end

