-- ==== Sys2Proof/Machine/Objects.lean ====
section
/-! DEFINITION. What every object of the dictionary reads (R217, R281 to R298, R336 to R382, R403, R418 to R431, R461, R462, R478,
R479). -/

namespace Sys2Proof.Machine

/-! Selections (R407). -/

/-- A selection kept per dictionary source. -/
def selection (s : State) (src i sub : Nat) : Nat := smGetD s.dict.sel (objKey i sub * 8 + src) 0

/-- A selection set. -/
def setSelection (s : State) (src i sub v : Nat) : State :=
  { s with dict := { s.dict with sel := smSet s.dict.sel (objKey i sub * 8 + src) v } }

/-! Counts over regions. -/

/-- Regions of which something holds. -/
def countRegions (s : State) (f : Region → Bool) : Nat := (s.regions.filter fun e => f e.2).length

/-- The hottest region (0x2200.06, .07) of those powered or OFF_THERMAL, whose temperature goes on being sampled; the lowest-numbered
one on a tie. -/
def hottest (s : State) : Nat × Int :=
  match (s.regions.filter fun e => e.2.stageOn || e.2.st = .offThermal).map fun e => (e.1, e.2.temp) with
  | [] => (0, 0)
  | x :: xs => xs.foldl (fun b y => if y.2 > b.2 then y else b) x

/-- Seconds with a junction above 105 degrees (0x2200.0A, R479). -/
def hotSeconds (s : State) : Nat :=
  (s.store.hotTicks + (match s.power.hotSince with | some t => s.time.tb - t | none => 0)) / second

/-- The breaker's code (0x2100.06, R478). -/
def breakerCode (s : State) : Nat :=
  if s.power.breaker then 0 else if s.power.tripped then 1 else if !s.power.vinOk then 2 else 3

/-- Log records held, oldest first (R431). -/
def heldRecords (s : State) : List LogRec :=
  let l := s.log.flash ++ s.log.mem
  l.drop (l.length - 65536)

/-! Number objects. -/

/-- Objects 0x1010 to 0x2020 that the dictionary does not hold as written. 0x2000.02 in the AUX of a power-up reads 0, the code of the OFF
state that was left, although R4 lets that code stand in event-log records only (DESIGN CHOICE, log 109). -/
def numLow (s : State) (src i sub : Nat) : Nat :=
  match i, sub with
  | 0x1010, 4 => s.dev.nodeId
  | 0x1010, 5 => s.dict.canErr.getD 0 0
  | 0x1010, 6 => s.dict.canErr.getD 1 0
  | 0x1012, 2 => s.dict.malformed
  | 0x1012, 3 => s.dict.retries
  | 0x1018, 1 => 0x5643
  | 0x1018, 2 => 0x0348
  | 0x1018, 3 => 0xA1
  | 0x1018, 4 => Config.serial % 2 ^ 32
  | 0x1020, 2 => (theBank s).generation
  | 0x1020, 3 => usedBytes (theBank s).recs
  | 0x1020, 4 => s.store.compactions
  | 0x1020, 5 => s.store.failures
  | 0x1031, 1 => selection s src 0x1031 1
  | 0x1031, 2 => smGetD s.fabric.routes (selection s src 0x1031 1) 0
  | 0x1031, 4 => s.fabric.version
  | 0x1031, 6 => (s.fabric.routes.filter fun e => rtValid e.2).length
  | 0x2000, 1 => devCode s.dev.st
  | 0x2000, 2 => devCode s.dev.prior
  | 0x2000, 3 => s.dev.transTb
  | 0x2000, 6 => s.dev.alert.toNat
  | 0x2010, 1 => b2n s.dev.clksel
  | 0x2010, 2 => s.clock.source
  | 0x2010, 3 => b2n s.clock.present + 2 * b2n s.clock.locked + 4 * b2n s.clock.spread + 8 * b2n s.time.holdover
  | 0x2010, 5 => s.clock.losses
  | 0x2010, 6 => s.clock.lastHold
  | 0x2010, 8 => s.clock.switchovers
  | 0x2010, 9 => ((s.regions.filter fun e => e.2.stageOn).flatMap fun e => e.2.crossings.filter (·.failed)).length
  | 0x2010, 0xA => ((s.regions.filter fun e => healthyRegion e.2 && !sidesBad s e.1).flatMap fun e => e.2.crossings.map (·.lat)).foldl max 0
  | 0x2020, 2 => s.time.tb
  | 0x2020, 4 => b2n s.time.locked + 2 * b2n s.time.holdover + 4 * b2n s.time.stepped
  | 0x2020, 9 => ofSigned 64 s.time.offset
  | 0x2020, 0xA => s.time.steps
  | _, _ => dnum s i sub (defaultOf i sub)

/-- Objects 0x2100 to 0x2361 (R461, R462, R478, R479). -/
def numPowerBoot (s : State) (i sub : Nat) : Nat :=
  let w := s.power
  let b := s.boot
  match i, sub with
  | 0x2100, 1 => w.vin
  | 0x2100, 2 => w.iin
  | 0x2100, 3 => w.avg
  | 0x2100, 4 => w.peak
  | 0x2100, 5 => w.energy / 1000
  | 0x2100, 6 => breakerCode s
  | 0x2110, 1 => w.bus
  | 0x2110, 2 => w.converters.toNat
  | 0x2110, 3 => convertersUp s
  | 0x2110, 4 => w.rim
  | 0x2110, 5 => countRegions s fun r => r.phases.length = 1
  | 0x2110, 6 => w.fuseTrips
  | 0x2200, 1 => ofSigned 16 w.inlet
  | 0x2200, 2 => ofSigned 16 w.outA
  | 0x2200, 3 => ofSigned 16 w.outB
  | 0x2200, 4 => w.flowA
  | 0x2200, 5 => w.flowB
  | 0x2200, 6 => ofSigned 16 (hottest s).2
  | 0x2200, 7 => (hottest s).1
  | 0x2200, 8 => countRegions s fun r => r.st = .dimmed
  | 0x2200, 9 => countRegions s fun r => r.st = .offThermal
  | 0x2200, 0xA => hotSeconds s
  | 0x2200, 0x10 => 950
  | 0x2200, 0x11 => 1050
  | 0x2200, 0x12 => 1100
  | 0x2200, 0x13 => 1200
  | 0x2300, 1 => s.dev.bootsel
  | 0x2300, 2 => b.preferred
  | 0x2300, 3 => b.booted
  | 0x2300, 4 => b.reasonA
  | 0x2300, 5 => b.reasonB
  | 0x2300, 6 => b.imageVersion
  | 0x2300, 7 => b.secVersion
  | 0x2300, 8 => b.counter
  | 0x2300, 9 => s.dev.startKind
  | 0x2300, 0xA => s.dev.bringupDur
  | 0x2300, 0xB => b.trainingUsed
  | 0x2300, 0xC => b.trainedFull
  | 0x2300, 0xE => b.trial
  | 0x2310, 4 => b.imgRevoked.toNat
  | 0x2320, 2 => b.writeOff
  | 0x2320, 6 => b.update
  | 0x2320, 7 => b.verifyReason
  | 0x2330, 3 => b.attest
  | 0x2340, 3 => b.perms.toNat
  | _, _ =>
    if 0x2350 ≤ i ∧ i < 0x2358 ∧ sub = 3 then b2n (b.bdlRevoked.getLsbD (i - 0x2350))
    else if (i = 0x2360 ∨ i = 0x2361) ∧ sub = 1 then
      (match b.flashBundle.getD (i - 0x2360) none with | some g => bhId g.header | none => 0)
    else if (i = 0x2360 ∨ i = 0x2361) ∧ sub = 3 then b.copyState.getD (i - 0x2360) 0
    else dnum s i sub (defaultOf i sub)

/-- Objects 0x2400 to 0x2707 (R285, R289, R291, R295, R296, R336, R382, R403). -/
def numRun (s : State) (i sub : Nat) : Nat :=
  let k := s.steward
  let v := s.recov
  match i, sub with
  | 0x2400, 1 => healthyCount s
  | 0x2400, 2 => countRegions s fun r => roleOf r = .reserve
  | 0x2400, 3 => countRegions s fun r => r.st = .dead
  | 0x2400, 4 => k.primary
  | 0x2400, 5 => k.standby
  | 0x2400, 6 => k.failovers
  | 0x2400, 7 => k.bindings
  | 0x2410, 7 => v.lastAll
  | 0x2410, 8 => v.lastCut
  | 0x2410, 9 => v.aborted
  | 0x2410, 0xA => v.skipped
  | 0x2410, 0xB => v.copied
  | 0x2420, 1 => v.count
  | 0x2420, 2 => v.number
  | 0x2420, 3 => recoveryStep s
  | 0x2420, 4 => v.detectTb
  | 0x2420, 5 => v.resumeTb
  | 0x2500, 4 => s.beam.copiesFailed
  | 0x2501, _ => s.beam.releases.getD (sub - 1) 0
  | 0x2508, 2 => s.sig.lateCount
  | 0x2580, 5 => s.sig.discarded
  | 0x2600, 5 => activeCount s
  | 0x2600, 6 => k.accepted
  | 0x2600, 7 => k.tokens
  | 0x2600, 8 => k.errors
  | 0x2600, 9 => k.discarded
  | _, _ =>
    if 0x2510 ≤ i ∧ i < 0x2550 then
      let x := timedSlot s (i - 0x2510)
      (match sub with | 1 => x.t | 2 => x.op | 4 => x.status | 5 => x.reason | 6 => x.done | _ => 0)
    else if 0x2560 ≤ i ∧ i < 0x2580 ∧ sub ≠ 1 then
      let e := smGetD s.sig.events (i - 0x2560) {}
      (match sub with | 3 => e.fired | 4 => e.lastTb | 5 => e.refused | _ => 0)
    else if 0x2700 ≤ i ∧ i < 0x2708 then
      let m := i - 0x2700
      let x := modelSlot s m
      (match sub with
       | 1 => x.st
       | 6 => x.code + 256 * x.detail
       | 7 => if x.st ≥ 2 then (match x.bundle with | some g => bhId g.header | none => 0) else 0
       | 0xC => (activeStreams s m).length
       | 0xD => (streamsIn s m .queued).length
       | _ => dnum s i sub (defaultOf i sub))
    else dnum s i sub (defaultOf i sub)

/-- The partner object of a port (0x3000 + p.08). -/
def partnerNum (x : Port) : Nat :=
  match x.partner with
  | some y => y.dev + y.port * 2 ^ 16
  | none => 0xFFFFFFFF

/-- Objects of ports (R341, R376). -/
def numPort (s : State) (i sub : Nat) : Nat :=
  if i < 0x3100 then
    let x := portOf s (i - 0x3000)
    match sub with
    | 5 => portByte x
    | 6 => x.txLanes
    | 7 => x.rxLanes
    | 8 => partnerNum x
    | 0x10 => x.ingress
    | 0x11 => x.ingressTag
    | _ => dnum s i sub (defaultOf i sub)
  else
    let c := (portOf s (i - 0x3100)).ctr
    [c.framesTx, c.framesRx, c.bytesTx, c.bytesRx, c.fec, c.badCodewords, c.naks, c.retrains, c.laneChanges, c.badBlocks, c.ttl,
      c.noRoute, c.repeats, c.merges, c.borrows, c.csErrors, c.ethDiscards, c.ingressDrops, c.egressDrops].getD (sub - 1) 0

/-- The largest L of the inbound crossings of a side (R210). -/
def sideLat (r : Region) (side : Nat) : Nat := ((r.crossings.filter fun x => x.side = side).map (·.lat)).foldl max 0

/-- The holds of a section in progress, tiles still in it included (R187). -/
def openHolds (s : State) (m : SectMeas) : Nat :=
  m.openTiles.foldl (fun n t =>
    let k := tileOf s t
    if k.lat.activeGen = m.gen && k.lat.running then n + sectHolds k else n) m.holds

/-- Counters of a region record, .1A to .4D (R422). -/
def numCounter (r : Region) (sub : Nat) : Nat :=
  let c := r.ctr
  match sub with
  | 0x1A => c.ecc
  | 0x20 => c.mxOk | 0x21 => c.mxErr | 0x22 => c.mxBody | 0x23 => c.mxDisp | 0x24 => c.mxResidue
  | 0x28 => c.pzOk | 0x29 => c.pzErr | 0x2A => c.pzBusy | 0x2B => c.pzDisp | 0x2C => c.pzResidue
  | 0x30 => c.delivered
  | 0x38 => c.holds | 0x39 => c.holdCycles | 0x3A => c.lostNaks | 0x3B => c.late | 0x3C => c.timeouts | 0x3D => c.sendErr
  | 0x3E => c.served
  | 0x41 => c.linksDown | 0x42 => c.detours | 0x43 => c.tileDown | 0x44 => c.discarded | 0x45 => c.merges
  | 0x46 => c.combineFull | 0x47 => c.redMiss
  | 0x48 => c.forced
  | 0x4A => c.refused | 0x4B => c.refusedCase | 0x4C => c.noPlane | 0x4D => c.drift
  | _ => if 0x31 ≤ sub ∧ sub ≤ 0x37 then c.naks.getD (sub - 0x31) 0 else 0

/-- Objects of a region record (R422); an UNPOWERED region's measurements read 0. -/
def numRegion (s : State) (p sub : Nat) : Nat :=
  let r := regionOfNo s p
  let off := r.st = .unpowered
  let last := fun (f : SectMeas → Nat) => match r.lastSect with | some m => f m | none => 0
  let cur := fun (f : SectMeas → Nat) => match r.sects.head? with | some m => f m | none => 0
  match sub with
  | 1 => regionCode r.st
  | 2 => r.binding
  | 3 => r.mslot
  | 4 => ofSigned 16 r.temp
  | 5 => r.coreMv
  | 6 => r.sramMv
  | 7 => if off then 0 else r.dim
  | 8 => if off then 0 else 1250000 * r.dim / 32
  | 9 => r.stretch
  | 0xA => r.hold
  | 0xB => b2n r.onStandby + 2 * b2n r.standbyLost
  | 0xC => r.fence.cause
  | 0xD => r.fence.addr % 2 ^ 32
  | 0xE => r.fence.ptile
  | 0xF => r.fence.tb
  | 0x10 => b2n (s.store.deadMarks.contains p)
  | 0x12 => sideLat r 0 + 2 ^ 8 * sideLat r 1 + 2 ^ 16 * sideLat r 2 + 2 ^ 24 * sideLat r 3
  | 0x13 => r.realign
  | 0x14 => last fun m => m.gen % 16 + 128 * b2n m.cut
  | 0x15 => last (·.steps)
  | 0x16 => last (·.holds)
  | 0x17 => last (·.stretches)
  | 0x4E => cur fun m => m.gen % 16 + 64 + 128 * b2n m.cut
  | 0x4F => cur (·.steps)
  | 0x50 => cur (openHolds s)
  | 0x51 => cur fun m => ((r.stretch : Int) - m.startStretch).toNat
  | _ => numCounter r sub

/-- Regions of a field of which something holds. -/
def countField (s : State) (f : Nat) (g : Region → Bool) : Nat := ((fieldRegions f).filter fun p => g (regionOfNo s p)).length

/-- Beam copies failed between a field node and the wafer root (0x5800 + f.07). -/
def fieldCopies (s : State) (f : Nat) : Nat := (smGetD s.beam.failed f []).length

/-- Objects of a field record (R423). -/
def numField (s : State) (f sub : Nat) : Nat :=
  match sub with
  | 1 =>
    if (smGet s.recov.fieldFenced f).isSome then 1
    else if countField s f (fun r => r.st = .unpowered || r.st = .dead) = 96 then 2 else 0
  | 2 => countField s f fun r => r.st = .bound
  | 3 => countField s f fun r => r.st = .reserve
  | 4 => countField s f fun r => r.st = .dimmed
  | 5 => countField s f fun r => r.st = .fenced || r.st = .offThermal || r.st = .dead || r.st = .unpowered
  | 6 =>
    let ts := ((fieldRegions f).filter fun p => (regionOfNo s p).stageOn).map fun p => (regionOfNo s p).temp
    ofSigned 16 (match ts with | [] => 0 | x :: xs => xs.foldl max x)
  | 7 => fieldCopies s f
  | 8 => smGetD s.recov.lastFieldFence f 0
  | _ => 0

/-- Objects of the event log and Loupe (R298, R431). -/
def numLog (s : State) (src i sub : Nat) : Nat :=
  match i, sub with
  | 0x6000, 1 => (heldRecords s).length
  | 0x6000, 2 => match (heldRecords s).head? with | some r => r.seq | none => 0
  | 0x6000, 3 => selection s src 0x6000 3
  | 0x6000, 5 => s.log.suppressed
  | 0x6100, 0x10 => selection s src 0x6100 0x10
  | 0x6100, 0x12 => (regionOfNo s (selection s src 0x6100 0x10)).loupeLost
  | _, _ => dnum s i sub (defaultOf i sub)

/-- A capability record (R424): every VERSION is 1. -/
def capRecord (id next data : Nat) : Nat := id * 2 ^ 48 + 2 ^ 40 + next * 2 ^ 32 + data

/-- The capability list (R426), by position. -/
def capabilities : List Nat :=
  [capRecord 0x0001 1 14, capRecord 0x0002 3 4608, 640 * 2 ^ 32 + 576, 262144 * 2 ^ 32 + 4480, capRecord 0x0010 1 0x3F,
    capRecord 0x0011 1 0x7F0, capRecord 0x0012 1 0x3F08, capRecord 0x0020 1 0xFF10, capRecord 0x0030 1 0x0E0C,
    capRecord 0x0031 1 3, capRecord 0x0032 1 0x1FE, capRecord 0x0040 1 0xF, capRecord 0x0050 1 7, capRecord 0x0060 1 0x1F01,
    capRecord 0x0070 1 2048, capRecord 0x0080 1 3, capRecord 0x0081 0 1]

/-- What a number object reads, for a dictionary source. -/
def objNum (s : State) (src i sub : Nat) : Nat :=
  if i = 0x1F00 then capabilities.getD sub 0
  else if i < 0x2100 then numLow s src i sub
  else if i < 0x2400 then numPowerBoot s i sub
  else if i < 0x3000 then numRun s i sub
  else if i < 0x3200 then numPort s i sub
  else if 0x4000 ≤ i ∧ i < 0x5200 then numRegion s (i - 0x4000) sub
  else if 0x5800 ≤ i ∧ i < 0x5830 then numField s (i - 0x5800) sub
  else numLog s src i sub

/-! STRING and DOMAIN objects. -/

/-- A MAC address as its 6 bytes. -/
def macBytes (m : Nat) : List Byte := natBe 6 m

/-- A crossing entry (R422). -/
def crossingBytes (x : Crossing) : List Byte :=
  natLe 2 x.src ++ natLe 1 x.side ++ natLe 1 x.pos ++ natLe 1 x.net ++ natLe 1 x.lat ++ natLe 1 (b2n x.failed) ++ natLe 1 0
    ++ natLe 4 x.realign ++ natLe 4 0

/-- Corrected flits, replays and retrains of a link. -/
def linkBytes (c : Counters) (key : Nat) : List Byte :=
  let x := smGetD c.links key (0, 0, 0)
  natLe 4 x.1 ++ natLe 4 x.2.1 ++ natLe 4 x.2.2

/-- The per-link mesh counters of a region (.40): by local tile, direction, network (log 14). -/
def meshBytes (s : State) (p : Nat) : List Byte :=
  (regionTiles p).flatMap fun t => (List.range 8).flatMap fun n =>
    linkBytes (regionOfNo s p).ctr (t * 16 + n % 2 * 8 + n / 2)

/-- The injection-link counters of a port (R246, R376): by injection point, then direction, into the tile first, then network. -/
def injectionBytes (s : State) (p : Nat) : List Byte :=
  (List.range 16).flatMap fun k =>
    let t := injTile s p k
    let c := (regionOfNo s (regionOfTile t)).ctr
    [0, 8, 4, 12].flatMap fun n => linkBytes c (t * 16 + n + edgeSide p)

/-- A Loupe record (R297). -/
def loupeBytes (r : LoupeRec) : List Byte :=
  natLe 8 r.tb ++ natLe 1 r.tile ++ natLe 1 r.kind ++ natLe 2 r.arg ++ natLe 4 r.data

/-- A certificate preceded by its length (R462). -/
def certBytes (k : Nat) : List Byte := natLe 4 (Config.identityCert k).length ++ Config.identityCert k

/-- What a STRING or DOMAIN object reads, for a dictionary source. -/
def objBytes (s : State) (src i sub : Nat) : List Byte :=
  if i = 0x1008 then "Nymhal W48".toList.map fun c => BitVec.ofNat 8 c.toNat
  else if i = 0x100A then Config.versionString s.boot.imageVersion
  else if i = 0x1011 ∧ sub = 4 then macBytes Config.macBase ++ macBytes (Config.macBase + 1)
  else if i = 0x1031 then routeBytes s.fabric.routes
  else if i = 0x2310 then (if sub = 1 then s.boot.identity else certBytes 0 ++ certBytes 1)
  else if i = 0x2330 then s.boot.attestReport
  else if i = 0x2340 then s.boot.challenge
  else if 0x2350 ≤ i ∧ i < 0x2358 then (s.boot.bundleKeys.getD (i - 0x2350) none).getD (List.replicate 48 0)
  else if 0x2700 ≤ i ∧ i < 0x2708 then
    let x := modelSlot s (i - 0x2700)
    (match sub with
     | 8 => if x.st ≥ 2 then (match x.bundle with | some g => g.report | none => []) else []
     | 9 => x.report
     | 0xA => x.oldReport
     | _ => [])
  else if 0x3000 ≤ i ∧ i < 0x3020 ∧ sub = 0x13 then (List.range 8).flatMap fun n => macBytes (ifaceMac (i - 0x3000) n)
  else if 0x3100 ≤ i ∧ i < 0x3120 then injectionBytes s (i - 0x3100)
  else if 0x4000 ≤ i ∧ i < 0x5200 then
    let r := regionOfNo s (i - 0x4000)
    (match sub with
     | 0x11 => r.crossings.flatMap crossingBytes
     | 0x18 => r.repair.map fun d => BitVec.ofNat 8 d
     | 0x40 => meshBytes s (i - 0x4000)
     | _ => r.ctr.releases.flatMap (natLe 4))
  else if i = 0x6000 then ((heldRecords s).filter fun r => r.seq ≥ selection s src 0x6000 3).flatMap logBytes
  else if i = 0x6100 then (regionOfNo s (selection s src 0x6100 0x10)).loupe.flatMap loupeBytes
  else dbytes s i sub (if i = 0x1011 then List.replicate 128 0 else if 0x3000 ≤ i ∧ i < 0x3020 then List.replicate 512 0 else [])

end Sys2Proof.Machine
end

