-- ==== Sys2Proof/Machine/Updates.lean ====
section
/-! DEFINITION. Firmware updates, fuses, attestation, debug unlock, bundle keys and bundle copies (R452 to R460). A function of a
write answers the state after it and its status (R409). -/

namespace Sys2Proof.Machine

/-- A write refused: nothing changes. -/
def refuse (s : State) (status : Nat) : State × Nat := (s, status)

/-- A write accepted. -/
def accept (s : State) : State × Nat := (s, stOk)

/-! Updates (R459). -/

/-- Bytes of an image partition (R439). -/
def partitionBytes : Nat := 2 ^ 28

/-- Bytes put into the target's image partition at the write offset, which advances (R459). -/
def putTarget (s : State) (bs : List Byte) : State :=
  let put := fun (g : ImagePart) => { g with bytes := bs.zipIdx.foldl (fun m e => smSet m (s.boot.writeOff + e.2) e.1) g.bytes }
  let b := { s.boot with writeOff := s.boot.writeOff + bs.length }
  { s with boot := if updateTarget s = 0 then { b with imageA := put b.imageA } else { b with imageB := put b.imageB } }

/-- A write of a command to 0x2320.01 by a source (R459): another source than the owner is answered BUSY, a state not listed STATE. -/
def updateCommand (s : State) (src cmd : Nat) : State × Nat :=
  let b := s.boot
  let foreign := match b.owner with | some o => decide (o ≠ src) | none => false
  let at_ := fun (l : List Nat) => l.contains b.update
  if foreign then refuse s stBusy
  else match cmd with
  | 1 =>
    if at_ [upIdle, upFailed] then
      let f := updateTarget s
      let s := setUpdate (eraseImage s f) upErasing 0
      accept { s with boot := { s.boot with owner := some src, target := f, writeOff := 0 } }
    else refuse s stState
  | 6 =>
    let n := dnum s 0x2320 5 0
    if !at_ [upReceiving] then refuse s stState
    else if b.writeOff + n > partitionBytes then refuse s stRange
    else accept (putTarget { s with free := s.free + 1 } ((List.range n).map fun i => Config.companionByte s.free (dnum s 0x2320 4 0 + i)))
  | 2 => if at_ [upReceiving] then accept (setUpdate s upVerifying 0) else refuse s stState
  | 3 =>
    if at_ [upVerified] then
      accept (setUpdate { s with boot := { b with oldPreferred := b.preferred, preferred := updateTarget s, trial := 1 } } upActivated 0)
    else refuse s stState
  | 4 =>
    if at_ [upIdle] && b.trial = 3 && b.booted = b.preferred + 1 then
      let new := max b.counter (min 128 b.secVersion)
      let s := { s with boot := { b with counter := new, trial := 0 } }
      accept (if new > b.counter then logEvent s 0x0806 0 new b.counter else s)
    else refuse s stState
  | _ =>
    if at_ [upReceiving, upVerified, upFailed, upActivated] then
      let s := if b.update = upActivated then { s with boot := { b with preferred := b.oldPreferred, trial := 0 } } else s
      accept (setUpdate s upIdle 0)
    else refuse s stState

/-- A chunk committed to 0x2320.03 (R459). -/
def writeChunk (s : State) (src : Nat) (bs : List Byte) : State × Nat :=
  let foreign := match s.boot.owner with | some o => decide (o ≠ src) | none => false
  if foreign then refuse s stBusy
  else if s.boot.update ≠ upReceiving then refuse s stState
  else if s.boot.writeOff + bs.length > partitionBytes then refuse s stRange
  else accept (putTarget s bs)

/-- Meaning of UPDATE_ERASE_DONE (R459). -/
def execUpdateEraseDone (s : State) : Res :=
  .next (if eyepieceRuns s && s.boot.update = upErasing then setUpdate s upReceiving 0 else s)

/-- Meaning of UPDATE_VERIFY_DONE (R442, R444, R459): the target checked with the current fuses; `readFails`: the Eyepiece pairs whose read
of it fails. -/
def execUpdateVerifyDone (readFails : List Nat) (s : State) : Res :=
  .next (if eyepieceRuns s && s.boot.update = upVerifying then
      let why := imageReason s (updateTarget s) readFails
      let s := { s with boot := { s.boot with verifyReason := why } }
      setUpdate s (if why = 0 then upVerified else upFailed) why
    else s)

/-! Fuses (R453, R457). -/

/-- Image key slot k revoked (R453): refused for the running image's slot and for the last unrevoked one. -/
def revokeImage (s : State) (k : Nat) : State × Nat :=
  let left := (List.range 4).filter fun n => !s.boot.imgRevoked.getLsbD n
  if s.boot.booted ≠ 0 && s.boot.keySlot = k then refuse s stState
  else if left = [k] then refuse s stState
  else if s.boot.imgRevoked.getLsbD k then accept s
  else accept (logEvent { s with boot := { s.boot with imgRevoked := s.boot.imgRevoked ||| BitVec.twoPow 4 k } } 0x0808 1 0 k)

/-- Bundle key slot k programmed (R457). -/
def programKey (s : State) (k : Nat) (hash : List Byte) : State × Nat :=
  if !s.boot.perms.getLsbD 3 then refuse s stLocked
  else if hash.length ≠ 48 then refuse s stRange
  else if (s.boot.bundleKeys.getD k none).isSome then refuse s stState
  else accept { s with boot := { s.boot with bundleKeys := s.boot.bundleKeys.set k (some hash) } }

/-- Bundle key slot k revoked (R457): for the next load. -/
def revokeKey (s : State) (k : Nat) : State × Nat :=
  if !s.boot.perms.getLsbD 3 then refuse s stLocked
  else if s.boot.bdlRevoked.getLsbD k then accept s
  else accept (logEvent { s with boot := { s.boot with bdlRevoked := s.boot.bdlRevoked ||| BitVec.twoPow 8 k } } 0x0808 1 1 k)

/-! Attestation (R454). -/

/-- A nonce written to 0x2330.01. -/
def startAttest (s : State) (nonce : List Byte) : State × Nat :=
  if s.boot.attest = 1 then refuse s stState
  else if nonce.length ≠ 32 then refuse s stRange
  else accept { s with boot := { s.boot with attest := 1, nonce := nonce } }

/-- The bundle of a slot that is loaded. -/
def loadedBundle (s : State) (m : Nat) : Option Bundle := if (modelSlot s m).st ≥ 2 then (modelSlot s m).bundle else none

/-- Bytes 0x000 to 0x21F of a report. -/
def attestBody (s : State) : List Byte :=
  let b := s.boot
  natLe 4 0x54415452 ++ natLe 2 1 ++ natLe 1 (devCode s.dev.st) ++ natLe 1 b.booted ++ natLe 4 Config.serial
    ++ natLe 4 b.imageVersion ++ natLe 1 b.secVersion ++ natLe 1 b.counter ++ natLe 1 b.imgRevoked.toNat
    ++ natLe 1 b.bdlRevoked.toNat ++ natLe 4 b.perms.toNat ++ natLe 8 s.time.tb ++ padTo 32 b.nonce
    ++ padTo 48 (sha384 b.message)
    ++ ((List.range 8).flatMap fun m => natLe 4 (match loadedBundle s m with | some g => bhId g.header | none => 0))
    ++ ((List.range 8).flatMap fun m => padTo 48 (match loadedBundle s m with | some g => bundleDigest g | none => []))
    ++ List.replicate 16 0

/-- Meaning of ATTESTATION_READY (R454). -/
def execAttestationReady (s : State) : Res :=
  .next (if eyepieceRuns s && s.boot.attest = 1 then
      let body := attestBody s
      { s with boot := { s.boot with attest := 2, attestReport := body ++ padTo 16608 (Config.identitySign Config.identitySeed body) } }
    else s)

/-! Debug unlock (R455). -/

/-- A token passes. -/
def tokenGood (s : State) (t : List Byte) : Bool :=
  let h := t.take 0x40
  let keys := slice t 0x40 0x1C0
  let k := fld h 6 2
  t.length = 0x380 + 16224 && fld h 0 4 = 0x4B4C4244 && fld h 4 2 = 1 && fld h 8 4 = Config.serial % 2 ^ 32
  && fld h 0xC 4 < 16 && slice h 0x10 32 = s.boot.challenge && fld h 0x30 16 = 0
  && imageKeysGood keys k && !s.boot.imgRevoked.getLsbD k && bothVerify keys h (slice t 0x200 0x180) (slice t 0x380 16224)

/-- A token written to 0x2340.02: a new challenge whether it is accepted or refused. -/
def debugWrite (s : State) (t : List Byte) : State × Nat :=
  let perms := fld t 0xC 4
  let good := tokenGood s t
  let s := { s with
    free := s.free + 32
    boot := { s.boot with challenge := freshBytes s.free 32, perms := if good then BitVec.ofNat 32 perms else s.boot.perms } }
  (logEvent s 0x0807 1 perms (if good then 1 else 2), if good then stOk else stRange)

/-- 1 written to 0x2340.04. -/
def endDebug (s : State) : State × Nat := accept (endUnlock s)

/-! Bundle copies in flash (R458). -/

/-- A companion offset written to 0x2360 + f.02: the partition's content goes. -/
def startCopy (s : State) (f off : Nat) : State × Nat :=
  if s.boot.copyState.getD f 0 = 1 then refuse s stState
  else accept { s with boot := { s.boot with
    flashBundle := s.boot.flashBundle.set f none, copyState := s.boot.copyState.set f 1, copyOff := s.boot.copyOff.set f off } }

/-- Meaning of BUNDLE_FLASH_COPY_DONE (R458): a signed bundle that fails its check is not kept. `window`: the bundles in the companion
window, by offset. -/
def execBundleFlashCopyDone (f : Nat) (window : List (Nat × Bundle)) (s : State) : Res :=
  .next (if !eyepieceRuns s || f ≥ 2 || s.boot.copyState.getD f 0 ≠ 1 then s else
    let keep := match window.find? fun e => e.1 = s.boot.copyOff.getD f 0 with
      | some (_, g) => if bit (bhFlags g.header) 0 && !signatureGood s g then none else some g
      | none => none
    { s with boot := { s.boot with
      flashBundle := s.boot.flashBundle.set f keep, copyState := s.boot.copyState.set f (if keep.isSome then 0 else 2) } })

end Sys2Proof.Machine
end

