-- ==== Sys2Proof/Machine/Dictionary.lean ====
section
/-! DEFINITION. Writes of the dictionary's objects and what each does (R404 to R430): the checks of R409, the configuration store,
the effects that the objects' chapters give. -/

namespace Sys2Proof.Machine

/-! Generic checks (R406, R409, R417). -/

/-- A source may write (R417): source 0 always. -/
def mayWrite (s : State) (src : Nat) : Bool := src = 0 || bit (dnum s 0x1012 4 0x1E) src

/-- An access right that takes writes. -/
def writable (a : AccKind) : Bool :=
  match a with
  | .ro | .konst => false
  | _ => true

/-- The status of a write of a number that its object's definition gives: 0 goes on to the object's own rules. -/
def checkNum (s : State) (src i sub v : Nat) : Nat :=
  match objDef i sub with
  | none => stNoObject
  | some d =>
    if !writable d.acc || !mayWrite s src then stAccess
    else if isLong d then stType
    else if d.typ = tBool && v > 1 then stRange
    else rangeStatus i sub v

/-- Objects of another transport's session: a session held by another client (R409). -/
def heldByOther (s : State) (src client k : Nat) : Bool :=
  match smGet s.dict.sessions k with
  | some x => !(x.src = src && x.client = client)
  | none => false

/-! The alert summary (R420). -/

/-- The bits whose condition holds. -/
def alertHolds (s : State) : Nat :=
  let w := s.power
  let supply := convertersUp s < 26 || w.avg > 34000 || (w.lastSecond.length = 100 && w.lastSecond.foldl (· + ·) 0 > 3000000)
    || w.inletRun ≥ 10 || w.flowARun ≥ 10 || w.flowBRun ≥ 10
  let port := (List.range 32).any fun p => (portOf s p).st = 4 || (portOf s p).st = 5
  b2n (!s.clock.locked) + 2 * b2n (someRegionAt s 950) + 4 * b2n supply + 16 * b2n port + 64 * b2n s.time.holdover
    + 256 * b2n (s.dev.st = .keepAlive || s.dev.st = .fault)

/-- 1 written to bits of 0x2000.06: those whose condition holds are set again in the same housekeeping cycle. -/
def clearAlert (s : State) (mask : Nat) : State :=
  { s with dev := { s.dev with alert := s.dev.alert &&& ~~~(BitVec.ofNat 32 mask &&& ~~~BitVec.ofNat 32 (alertHolds s)) } }

/-! Objects in the configuration store (R428). -/

/-- A value stored, then in force: STORE where the store cannot take the record (R429). -/
def storeVal (s : State) (i sub : Nat) (v : Val) (after : State → State) : State × Nat :=
  match appendRec s (recordOf (objKey i sub) s.store.seq v) with
  | (s, true) => (after { s with dict := { s.dict with vals := smSet s.dict.vals (objKey i sub) v } }, stOk)
  | (s, false) => (s, stStore)

/-- The subindexes of a port's configuration that may be written only while ENABLE is 0 (R340). -/
def needsDisabled (sub : Nat) : Bool := [1, 2, 3, 9, 0xA, 0xB, 0xC, 0xD, 0xE].contains sub

/-- The enable bits of the management ports written: a port whose bit rises takes 0x1011.02 and .03 as stored (R418). -/
def writeMgmt (s : State) (old new : Nat) : State :=
  (List.range 2).foldl (fun s p => if bit new p && !bit old p then mgmtTakes s p else s) s

/-- Another timebase reference selected (R277, R280): its measurements start anew. -/
def newReference (s : State) (old new : Nat) : State :=
  if old = new then s
  else
    let s := { s with time := { s.time with good := 0, locked := false, ppsNext := none } }
    if new = 0 then leaveHoldover s else s

/-- What follows a stored number, beside its value. -/
def afterStore (s0 s : State) (i sub v : Nat) : State :=
  match i, sub with
  | 0x1010, 3 => restartBeat s
  | 0x1011, 1 => writeMgmt s (dnum s0 0x1011 1 3) v
  | 0x2020, 1 => newReference s (tbReference s0) v
  | 0x2020, 8 => if v = 0 then { s with time := { s.time with ppsOut := false } } else s
  | _, _ =>
    if 0x3000 ≤ i ∧ i < 0x3020 then
      (if sub = 4 then writeEnable s (i - 0x3000) v (portEnabled s0 (i - 0x3000))
       else if needsDisabled sub then recheckSets s else s)
    else s

/-- The selected entry of the route table (R354, R355): checked, then the stored table holds it. -/
def writeRoute (s : State) (src v : Nat) : State × Nat :=
  if bits v 7 2 ≠ 0 || rtPolicy v > 1 then refuse s stReserved
  else if !routeEntryOk s v then refuse s stRange
  else
    let m := (smSet s.fabric.routes (selection s src 0x1031 1) v).filter fun e => e.2 ≠ 0
    storeVal s 0x1031 5 (.bytes (routeBytes m)) fun s => { s with fabric := { s.fabric with routes := m } }

/-- A stored number (RWS) written. -/
def writeStored (s : State) (src i sub v : Nat) : State × Nat :=
  if i = 0x1031 ∧ sub = 2 then writeRoute s src v
  else if 0x3000 ≤ i ∧ i < 0x3020 ∧ needsDisabled sub ∧ portEnabled s (i - 0x3000) then refuse s stState
  else storeVal s i sub (.num v) fun t => afterStore s t i sub v

/-! Objects that start something. -/

/-- 0x2700 + s.02 (R384, R400). `image`: the bundle at the slot's source; `peers`: what R400 asks of the other stages. -/
def slotCommand (s : State) (m v : Nat) (image : Option Bundle) (peers : List PeerReport) : State × Nat :=
  if !slotCommands s || !s.steward.running then refuse s stState
  else match v with
  | 1 => if (modelSlot s m).st = 0 then accept (startLoad s m image) else refuse s stState
  | 2 => if mayServe s m peers then accept (serveSlot s m) else refuse s stState
  | 3 => if (modelSlot s m).st = 3 then accept (stopSlot s m) else refuse s stState
  | _ => if (modelSlot s m).st = 2 || (modelSlot s m).st = 4 then accept (unloadSlot s m) else refuse s stState

/-- 0x2510 + s.01 to .03 (R286). -/
def writeTimed (s : State) (src n sub v : Nat) : State × Nat :=
  let st := (timedSlot s n).status
  if sub = 3 then
    (if v = 1 then (if st = 1 || st = 2 then refuse s stState else accept (armSlot s src n))
     else if st = 1 then accept (cancelSlot s n) else refuse s stState)
  else if st = 1 || st = 2 then refuse s stState
  else accept (updTimed s n fun x => if sub = 1 then { x with t := v } else { x with op := v })

/-- 0x2000.04 (R419, R436, R437). -/
def writeReset (s : State) (v : Nat) : State × Nat :=
  match s.dev.st with
  | .off | .aux | .bringup => refuse s stState
  | _ => accept (acceptReset s (if v = 2 then .full else .warm))

/-- 0x2420.08 (R318). -/
def writeRetrain (s : State) (p : Nat) : State × Nat :=
  if mayRetrain s p then accept (startRetrain s p) else refuse s stState

/-- 0x2420.09 (R319, R455). -/
def writeClearMark (s : State) (p : Nat) : State × Nat :=
  if !s.boot.perms.getLsbD 1 then refuse s stLocked
  else accept (if s.store.deadMarks.contains p then clearMark s p else s)

/-- 0x4000 + p.19 (R71, R422). -/
def writeScrub (s : State) (p : Nat) : State × Nat :=
  match (regionOfNo s p).st with
  | .healthy | .reserve => accept (scrubRegion s p)
  | _ => refuse s stState

/-- 0x6000.07 (R431, R455). -/
def writeErase (s : State) : State × Nat := if s.boot.perms.getLsbD 2 then accept (eraseLog s) else refuse s stLocked

/-- 0x6100.03 (R298). -/
def writeLoupe (s : State) (src v : Nat) : State × Nat :=
  if v = 1 then accept { s with regions := s.regions.map fun e => (e.1, { e.2 with loupe := [] }) }
  else accept (updRegion s (selection s src 0x6100 0x10) fun r => { r with loupe := [] })

/-- 0x1020.01 (R430). -/
def writeRestore (s : State) : State × Nat :=
  match appendRec s (sealRec tRestore 0 0 s.store.seq (.bytes [])) with
  | (s, true) => (s, stOk)
  | (s, false) => (s, stStore)

/-- A number that is not stored (RW, WO, W1C) written. -/
def writeVolatile (s : State) (src i sub v : Nat) (image : Option Bundle) (peers : List PeerReport) : State × Nat :=
  match i, sub with
  | 0x1020, _ => writeRestore s
  | 0x1031, 1 | 0x6000, 3 | 0x6100, 0x10 => accept (setSelection s src i sub v)
  | 0x1031, _ => accept (applyRoutes s)
  | 0x2000, 4 => writeReset s v
  | 0x2000, _ => accept (clearAlert s v)
  | 0x2020, _ => accept { s with time := { s.time with ppsNext := some (v, s.time.tb) } }
  | 0x2100, _ => accept (permitBreaker s)
  | 0x2310, _ => revokeImage s v
  | 0x2320, 1 => updateCommand s src v
  | 0x2320, 2 => accept { s with boot := { s.boot with writeOff := v } }
  | 0x2340, _ => endDebug s
  | 0x2420, 8 => writeRetrain s v
  | 0x2420, _ => writeClearMark s v
  | 0x6000, _ => writeErase s
  | 0x6100, _ => writeLoupe s src v
  | _, _ =>
    if 0x2350 ≤ i ∧ i < 0x2358 then revokeKey s (i - 0x2350)
    else if i = 0x2360 ∨ i = 0x2361 then startCopy s (i - 0x2360) v
    else if 0x2510 ≤ i ∧ i < 0x2550 then writeTimed s src (i - 0x2510) sub v
    else if 0x2560 ≤ i ∧ i < 0x2580 then accept (fireEvent s (i - 0x2560) v)
    else if 0x2700 ≤ i ∧ i < 0x2708 then slotCommand s (i - 0x2700) v image peers
    else if 0x3000 ≤ i ∧ i < 0x3020 then
      accept (updPort s (i - 0x3000) fun x => if sub = 0x10 then { x with ingress := v } else { x with ingressTag := v })
    else if 0x4000 ≤ i ∧ i < 0x5200 then writeScrub s (i - 0x4000)
    else accept (setNum s i sub v)

/-- A number written by a source (R409, R411, R428). -/
def writeNumber (s : State) (src i sub v : Nat) (image : Option Bundle) (peers : List PeerReport) : State × Nat :=
  let why := checkNum s src i sub v
  if why ≠ stOk then refuse s why
  else if isRws i sub then writeStored s src i sub v
  else writeVolatile s src i sub v image peers

/-! STRING and DOMAIN values (R416). -/

/-- The value of a staged object checked against its table, then applied whole (R416). -/
def writeBytes (s : State) (src i sub : Nat) (b : List Byte) : State × Nat :=
  match i, sub with
  | 0x1011, 3 =>
    let why := ifaceRecordsStatus b
    if b.length ≠ 128 then refuse s stRange else if why ≠ stOk then refuse s why else storeVal s i sub (.bytes b) id
  | 0x1031, 5 =>
    let es := (List.range 32768).map fun n => fld b (8 * n) 8
    if b.length ≠ 262144 then refuse s stRange
    else if es.any fun e => bits e 7 2 ≠ 0 || rtPolicy e > 1 then refuse s stReserved
    else if !es.all (fun e => e = 0 || routeEntryOk s e) then refuse s stRange
    else storeVal s i sub (.bytes b) fun s => { s with fabric := { s.fabric with routes := routesOf b } }
  | 0x2320, 3 => writeChunk s src b
  | 0x2330, 1 => startAttest s b
  | 0x2340, 2 => debugWrite s b
  | 0x2580, 2 => if [0, 4, 16].contains b.length then storeVal s i sub (.bytes b) id else refuse s stRange
  | _, _ =>
    if 0x2350 ≤ i ∧ i < 0x2358 then programKey s (i - 0x2350) b
    else
      let why := ifaceRecordsStatus b
      if b.length ≠ 512 then refuse s stRange else if why ≠ stOk then refuse s why else storeVal s i sub (.bytes b) id

/-- The status of a write command on a STRING or DOMAIN object: 0 goes on. -/
def checkLong (s : State) (src i sub : Nat) : Nat :=
  match objDef i sub with
  | none => stNoObject
  | some d => if !isLong d then stType else if !writable d.acc || !mayWrite s src then stAccess else stOk

/-- A streamed object (R416). -/
def streamed (i sub : Nat) : Bool := 0x2700 ≤ i && i < 0x2708 && sub = 5

/-- A session set or ended. -/
def setSession (s : State) (k : Nat) (x : Option Session) : State :=
  { s with dict := { s.dict with sessions := match x with
    | some x => smSet s.dict.sessions k x
    | none => smDel s.dict.sessions k } }

/-- A session that ends without its value: a streamed one fails its load with SOURCE (R383). -/
def dropSession (s : State) (i sub : Nat) : State :=
  let s := setSession s (objKey i sub) none
  if streamed i sub && (modelSlot s (i - 0x2700)).st = 1 then failLoad s (i - 0x2700) 5 0 else s

/-- DOPEN (R372, R383, R416). -/
def openSession (s : State) (src client i sub total : Nat) : State × Nat :=
  let k := objKey i sub
  let why := checkLong s src i sub
  let new : Session := { src := src, client := client, total := total, data := [], next := 0 }
  if why ≠ stOk then refuse s why
  else if heldByOther s src client k then refuse s stBusy
  else if streamed i sub then
    let m := i - 0x2700
    if (modelSlot s m).st = 1 && dnum s i 3 0 = 1 && !(modelSlot s m).arrived then
      accept (setSession (if (modelSlot s m).bindEpoch = 0 then s
        else updModel (unbindSlot s m) m fun x => { x with bindEpoch := 0 }) k (some new))
    else refuse s stState
  else if total > 2 ^ 20 || (i = 0x1011 && total ≠ 128) || (0x3000 ≤ i && i < 0x3020 && total ≠ 512) then refuse s stRange
  else accept (setSession s k (some new))

/-- The bytes of a DWRITE put into a session. -/
def putSession (x : Session) (off : Nat) (b : List Byte) : Session :=
  { x with
    data := b.zipIdx.foldl (fun m e => smSet m (off + e.2) e.1) x.data
    next := max x.next (off + b.length) }

/-- Step 1 of R383 once a streamed session has carried the header and directory, step 3 once it has carried the segments of kinds 1 to 4: a
failure ends session and load. -/
def checkHead (s : State) (m : Nat) (x : Session) (before : Nat) : State :=
  match sessionHead x, sessionHead { x with next := before } with
  | some (h, d), none => if sessionHeadOk x h d then bindEarly s m x else failLoad s m 4 0
  | some _, some _ => bindEarly s m x
  | _, _ => s

/-- DWRITE (R416): the state, the status, and for SEQUENCE the next offset expected. -/
def writeSession (s : State) (src client i sub off : Nat) (b : List Byte) : State × Nat × Nat :=
  let k := objKey i sub
  let why := checkLong s src i sub
  if why ≠ stOk then (s, why, 0)
  else match smGet s.dict.sessions k with
  | none => (s, stNoSession, 0)
  | some x =>
    if heldByOther s src client k then (s, stBusy, 0)
    else if off + b.length > x.total then (s, stRange, 0)
    else if streamed i sub then
      (if off ≠ x.next then (s, stSequence, x.next)
       else
         let y := putSession x off b
         (checkHead (setSession s k (some y)) (i - 0x2700) y x.next, stOk, 0))
    else (setSession s k (some (putSession x off b)), stOk, 0)

/-- The bytes that a session holds. -/
def sessionBytes (x : Session) : List Byte := (List.range x.total).map fun n => smGetD x.data n 0

/-- DCOMMIT (R383, R416): one answered ACCESS ends the session that this client holds. -/
def commitSession (s : State) (src client i sub crc : Nat) : State × Nat :=
  let k := objKey i sub
  let why := checkLong s src i sub
  if why ≠ stOk then
    (if (smGet s.dict.sessions k).isSome && !heldByOther s src client k then (dropSession s i sub, why) else refuse s why)
  else match smGet s.dict.sessions k with
  | none => refuse s stNoSession
  | some x =>
    if heldByOther s src client k then refuse s stBusy
    else if streamed i sub then
      (if x.next ≠ x.total || crc32 (sessionBytes x) ≠ crc then (dropSession s i sub, stCrc)
       else accept (commitLoad (setSession s k none) (i - 0x2700) x))
    else if x.data.length ≠ x.total then refuse s stIncomplete
    else if crc32 (sessionBytes x) ≠ crc then refuse s stCrc
    else writeBytes (setSession s k none) src i sub (sessionBytes x)

/-- DABORT (R416). -/
def abortSession (s : State) (src client i sub : Nat) : State × Nat :=
  let k := objKey i sub
  let why := checkLong s src i sub
  if why ≠ stOk then refuse s why
  else if (smGet s.dict.sessions k).isNone then refuse s stNoSession
  else if heldByOther s src client k then refuse s stBusy
  else accept (dropSession s i sub)

/-- A whole value committed at once: the DCOMMIT of a session of this client that carries exactly these bytes (log 1). -/
def commitWhole (s : State) (src client i sub : Nat) (b : List Byte) : State × Nat :=
  let why := checkLong s src i sub
  if why ≠ stOk then refuse s why
  else if heldByOther s src client (objKey i sub) then refuse s stBusy
  else if b.length > 2 ^ 20 then refuse s stRange
  else writeBytes (setSession s (objKey i sub) none) src i sub b

end Sys2Proof.Machine
end

