-- ==== Sys2Proof/Machine/Requests.lean ====
section
/-! DEFINITION. The dictionary's commands (R407 to R417, R434) and the control-space mirror (R38, R253): each request is answered
once, and its retries from the kept response. -/

namespace Sys2Proof.Machine

/-! Answers (R408, R409, R414). -/

/-- What a request's handler answers, beside the state after it. -/
structure Reply where
  status : Nat
  typ : Nat := 0
  fin : Bool := false
  offset : Nat := 0
  data : List Byte := []
  deriving DecidableEq, Repr

/-- The dictionary UDP port in force at a management port (R414, R418). -/
def mgmtPort (s : State) (port : Nat) : Nat :=
  match smGet s.dict.inForce (mgmtKey 2 port) with
  | some (.num n) => n
  | _ => 20055

/-- The address record in force at a management port (R414, R418). -/
def mgmtRec (s : State) (port : Nat) : List Byte :=
  match smGet s.dict.inForce (mgmtKey 3 port) with
  | some (.bytes b) => slice b (64 * port) 64
  | _ => List.replicate 64 0

/-- A datagram is addressed to a management port: its UDP port and an address of its record in force (R414); an envelope that names
none is addressed so. -/
def mgmtTakesIn (s : State) (q : Req) (port : Nat) : Bool :=
  q.env.udpPort.getD (mgmtPort s port) = mgmtPort s port
  && (match q.env.address with
      | none => true
      | some a => a ≠ 0 && (a = ifIp4 (mgmtRec s port) || a = ifIp6 (mgmtRec s port)))

/-- A request reaches the dictionary: it serves (R404), and the source's transport is enabled and not silent, and the frame or datagram
is addressed to it (R412, R414, R418). -/
def reachable (s : State) (q : Req) : Bool :=
  eyepieceRuns s && s.dict.serving &&
    (match q.src with
     | 0 => true
     | 1 => canSends s 0 && q.env.func = 6 && q.env.dst.getD s.dev.nodeId = s.dev.nodeId
     | 2 => canSends s 1 && q.env.func = 6 && q.env.dst.getD s.dev.nodeId = s.dev.nodeId
     | 3 => bit (dnum s 0x1011 1 3) 0 && mgmtTakesIn s q 0
     | 4 => bit (dnum s 0x1011 1 3) 1 && mgmtTakesIn s q 1
     | _ => false)

/-- A frame or datagram that is no request (R414, R418): a CAN frame with an error, a datagram with the wrong MAGIC. It is counted. -/
def garbled (s : State) (q : Req) : Option State :=
  if (q.src = 1 || q.src = 2) && q.env.damaged then some (canError s (q.src - 1))
  else if (q.src = 3 || q.src = 4) && q.env.magic ≠ 0x4F44 then
    some { s with dict := { s.dict with malformed := (s.dict.malformed + 1) % 2 ^ 32 } }
  else none

/-- Requests that a client may have outstanding (R414). -/
def mostOutstanding (src : Nat) : Nat := if src = 1 || src = 2 then 16 else 64

/-- The kept response that makes a request a retry (R414). -/
def keptResponse (s : State) (q : Req) : Option Response :=
  if q.src = 0 then none else s.dict.kept.find? fun r => r.src = q.src && r.client = q.client && r.tid = q.tid

/-- A response kept: each client's last 64 (R414). -/
def keepResponse (l : List Response) (r : Response) : List Response :=
  let mine := fun (x : Response) => x.src = r.src && x.client = r.client
  let l := if (l.filter mine).length < 64 then l else
    match l.findIdx? mine with
    | some n => l.eraseIdx n
    | none => l
  l ++ [r]

/-- A response sent and kept: the command code with bit 7 set (R408). -/
def answer (s : State) (q : Req) (cmd i sub : Nat) (x : Reply) : State :=
  let r : Response := {
    src := q.src, client := q.client, tid := q.tid, cmd := cmd + 0x80, status := x.status, index := i, sub := sub
    typ := x.typ, fin := x.fin, offset := x.offset, data := x.data }
  let s := emit s (.response r)
  if q.src = 0 then s else { s with dict := { s.dict with kept := keepResponse s.dict.kept r } }

/-- A request handled (R408, R414): a retry gets the kept response again and is counted; one beyond the client's limit is answered BUSY,
a reserved command RESERVED; any other is applied and answered. -/
def onRequest (s : State) (q : Req) (cmd i sub : Nat) (act : State → State × Reply) : State :=
  if !reachable s q then s
  else match garbled s q with
  | some t => t
  | none =>
    match keptResponse s q with
    | some r => emit { s with dict := { s.dict with retries := (s.dict.retries + 1) % 2 ^ 32 } } (.response r)
    | none =>
      if q.src ≠ 0 && q.env.ahead ≥ mostOutstanding q.src then answer s q cmd i sub { status := stBusy }
      else match q.env.reserved.filter fun c => c % 128 = 0 || c % 128 > 7 with
      | some c => answer s q (c % 128) i sub { status := stReserved }
      | none =>
        let (t, x) := act { s with store := { s.store with broken := q.env.flashFails } }
        answer t q cmd i sub x

/-- A write handled: the answer carries the status alone. -/
def onWrite (s : State) (q : Req) (cmd i sub : Nat) (act : State → State × Nat) : State :=
  onRequest s q cmd i sub fun s =>
    let (t, n) := act s
    (t, { status := n })

/-- A WRITE of a number by the command that carries it. -/
def writeReq (s : State) (q : Req) (i sub v : Nat) : State :=
  onWrite s q 2 i sub fun s => writeNumber s q.src i sub v none []

/-- A whole value committed by the command that carries it. -/
def commitReq (s : State) (q : Req) (i sub : Nat) (b : List Byte) : State :=
  onWrite s q 6 i sub fun s => commitWhole s q.src q.client i sub b

/-! READ, WRITE and the D-commands. -/

/-- The answer of a READ. -/
def objReply (s : State) (src i sub : Nat) : Reply :=
  match objDef i sub with
  | none => { status := stNoObject }
  | some d =>
    if isLong d then { status := stType }
    else if d.acc = .wo then { status := stAccess }
    else { status := stOk, typ := d.typ, data := natLe (typeBytes d.typ) (objNum s src i sub) }

/-- Meaning of READ (R408). -/
def execRead (q : Req) (index sub : Nat) (s : State) : Res :=
  .next (onRequest s q 1 index sub fun s => (s, objReply s q.src index sub))

/-- Meaning of WRITE (R408): TYPE and LEN must be the object's. -/
def execWrite (q : Req) (index sub typ : Nat) (value : List Byte) (s : State) : Res :=
  .next (onWrite s q 2 index sub fun s =>
    match objDef index sub with
    | some d =>
      if writable d.acc && mayWrite s q.src && (isLong d || typ ≠ d.typ || value.length ≠ typeBytes d.typ) then refuse s stType
      else writeNumber s q.src index sub (leNat value) none []
    | none => refuse s stNoObject)

/-- Bytes that one DREAD carries at most (R415). -/
def dreadMax (src : Nat) : Nat := if src = 1 || src = 2 then 48 else 1408

/-- The latched copy of a client (R415). -/
def copyOf (s : State) (src client k : Nat) : Option (List Byte) :=
  (s.dict.copies.find? fun e => e.1 = src && e.2.1 = client && e.2.2.1 = k).map (·.2.2.2)

/-- The copies without a client's of an object. -/
def dropCopy (s : State) (src client k : Nat) : State :=
  { s with dict := { s.dict with
    copies := s.dict.copies.filter fun e => !(e.1 = src && e.2.1 = client && e.2.2.1 = k) } }

/-- DREAD (R415): offset 0 latches a copy of an object of at most 1 MiB; END where the object's last byte is included. -/
def dreadAct (s : State) (src client i sub off len : Nat) : State × Reply :=
  let k := objKey i sub
  match objDef i sub with
  | none => (s, { status := stNoObject })
  | some d =>
    if !isLong d then (s, { status := stType })
    else if d.acc = .wo then (s, { status := stAccess })
    else
      let live := objBytes s src i sub
      let b := if off = 0 then live else (copyOf s src client k).getD live
      let s := if off = 0 then
          let s := dropCopy s src client k
          if live.length ≤ 2 ^ 20 then { s with dict := { s.dict with copies := s.dict.copies ++ [(src, client, k, live)] } } else s
        else s
      let n := min len (dreadMax src)
      (s, { status := stOk, typ := d.typ, fin := decide (b.length ≤ off + n), offset := off, data := slice b off n })

/-- Meaning of DREAD (R415). -/
def execDread (q : Req) (index sub offset len : Nat) (s : State) : Res :=
  .next (onRequest s q 3 index sub fun s => dreadAct s q.src q.client index sub offset len)

/-- Meaning of DOPEN (R416). -/
def execDopen (q : Req) (index sub total : Nat) (s : State) : Res :=
  .next (onWrite s q 4 index sub fun s => openSession s q.src q.client index sub total)

/-- Meaning of DWRITE (R416). -/
def execDwrite (q : Req) (index sub offset : Nat) (data : List Byte) (s : State) : Res :=
  .next (onRequest s q 5 index sub fun s =>
    let (t, n, next) := writeSession s q.src q.client index sub offset data
    (t, { status := n, offset := next }))

/-- Meaning of DCOMMIT (R416). -/
def execDcommit (q : Req) (index sub crc : Nat) (s : State) : Res :=
  .next (onWrite s q 6 index sub fun s => commitSession s q.src q.client index sub crc)

/-- Meaning of DABORT (R416). -/
def execDabort (q : Req) (index sub : Nat) (s : State) : Res :=
  .next (onWrite s q 7 index sub fun s => abortSession s q.src q.client index sub)

/-- Meaning of SESSION_TIMEOUT (R416). -/
def execSessionTimeout (index sub : Nat) (s : State) : Res :=
  .next (if eyepieceRuns s && (smGet s.dict.sessions (objKey index sub)).isSome then dropSession s index sub else s)

/-- Meaning of READ_COPY_EXPIRY (R415). -/
def execReadCopyExpiry (src client index sub : Nat) (s : State) : Res := .next (dropCopy s src client (objKey index sub))

/-! The commands that are writes of one object. -/

/-- The index of member n of a family of `count` indexes; past its end 0, which holds no object. -/
def member (base count n : Nat) : Nat := if n < count then base + n else 0

/-- Meaning of HEARTBEAT_PERIOD_WRITE (R434). -/
def execHeartbeatPeriodWrite (q : Req) (value : Nat) (s : State) : Res := .next (writeReq s q 0x1010 3 value)

/-- Meaning of DICT_WARM_RESTART (R436). -/
def execDictWarmRestart (q : Req) (s : State) : Res := .next (writeReq s q 0x2000 4 1)

/-- Meaning of DICT_FULL_TRAINING_RESET (R436). -/
def execDictFullTrainingReset (q : Req) (s : State) : Res := .next (writeReq s q 0x2000 4 2)

/-- Meaning of ALERT_SUMMARY_CLEAR (R420). -/
def execAlertSummaryClear (q : Req) (mask : Nat) (s : State) : Res := .next (writeReq s q 0x2000 6 mask)

/-- Meaning of RESTORE_DEFAULTS (R430). -/
def execRestoreDefaults (q : Req) (s : State) : Res := .next (writeReq s q 0x1020 1 1)

/-- Meaning of STORE_COMPACTION (R429). -/
def execStoreCompaction (s : State) : Res := .next (if eyepieceRuns s then compact s else s)

/-- Meaning of LOG_ERASE (R431). -/
def execLogErase (q : Req) (s : State) : Res := .next (writeReq s q 0x6000 7 1)

/-- Meaning of LOUPE_CLEAR_ALL (R298). -/
def execLoupeClearAll (q : Req) (s : State) : Res := .next (writeReq s q 0x6100 3 1)

/-- Meaning of LOUPE_CLEAR_REGION (R298). -/
def execLoupeClearRegion (q : Req) (s : State) : Res := .next (writeReq s q 0x6100 3 2)

/-- Meaning of PPS_VALUE_WRITE (R278). -/
def execPpsValueWrite (q : Req) (value : Nat) (s : State) : Res := .next (writeReq s q 0x2020 3 value)

/-- Meaning of BREAKER_PERMIT (R470). -/
def execBreakerPermit (q : Req) (s : State) : Res := .next (writeReq s q 0x2100 7 1)

/-- Meaning of TIMED_ACTION_ARM (R286). -/
def execTimedActionArm (q : Req) (slot : Nat) (s : State) : Res := .next (writeReq s q (member 0x2510 64 slot) 3 1)

/-- Meaning of TIMED_ACTION_CANCEL (R286). -/
def execTimedActionCancel (q : Req) (slot : Nat) (s : State) : Res := .next (writeReq s q (member 0x2510 64 slot) 3 0)

/-- Meaning of EVENT_FIRE (R292). -/
def execEventFire (q : Req) (n payload : Nat) (s : State) : Res := .next (writeReq s q (member 0x2560 32 n) 2 payload)

/-- Meaning of RETRAIN_REGION (R318). -/
def execRetrainRegion (q : Req) (p : Nat) (s : State) : Res := .next (writeReq s q 0x2420 8 p)

/-- Meaning of CLEAR_DEAD_MARK (R319). -/
def execClearDeadMark (q : Req) (p : Nat) (s : State) : Res := .next (writeReq s q 0x2420 9 p)

/-- Meaning of SCRATCHPAD_SCRUB (R71). -/
def execScratchpadScrub (q : Req) (p : Nat) (s : State) : Res := .next (writeReq s q (member 0x4000 4608 p) 0x19 1)

/-- Meaning of PORT_ENABLE (R340). -/
def execPortEnable (q : Req) (p : Nat) (s : State) : Res := .next (writeReq s q (member 0x3000 32 p) 4 1)

/-- Meaning of PORT_DISABLE (R340). -/
def execPortDisable (q : Req) (p : Nat) (s : State) : Res := .next (writeReq s q (member 0x3000 32 p) 4 0)

/-- Meaning of ROUTE_ENTRY_WRITE (R355). -/
def execRouteEntryWrite (q : Req) (value : Nat) (s : State) : Res := .next (writeReq s q 0x1031 2 value)

/-- Meaning of ROUTE_TABLE_APPLY (R355). -/
def execRouteTableApply (q : Req) (s : State) : Res := .next (writeReq s q 0x1031 3 1)

/-- Meaning of SLOT_LOAD (R383, R384). -/
def execSlotLoad (q : Req) (m : Nat) (image : Option Bundle) (s : State) : Res :=
  .next (onWrite s q 2 (member 0x2700 8 m) 2 fun s => writeNumber s q.src (member 0x2700 8 m) 2 1 image [])

/-- Meaning of SLOT_SERVE (R384, R400). -/
def execSlotServe (q : Req) (m : Nat) (peers : List PeerReport) (s : State) : Res :=
  .next (onWrite s q 2 (member 0x2700 8 m) 2 fun s => writeNumber s q.src (member 0x2700 8 m) 2 2 none peers)

/-- Meaning of SLOT_STOP (R384). -/
def execSlotStop (q : Req) (m : Nat) (s : State) : Res := .next (writeReq s q (member 0x2700 8 m) 2 3)

/-- Meaning of SLOT_UNLOAD (R384). -/
def execSlotUnload (q : Req) (m : Nat) (s : State) : Res := .next (writeReq s q (member 0x2700 8 m) 2 4)

/-- Meaning of UPDATE_BEGIN (R459). -/
def execUpdateBegin (q : Req) (s : State) : Res := .next (writeReq s q 0x2320 1 1)

/-- Meaning of UPDATE_VERIFY (R459). -/
def execUpdateVerify (q : Req) (s : State) : Res := .next (writeReq s q 0x2320 1 2)

/-- Meaning of UPDATE_ACTIVATE (R459). -/
def execUpdateActivate (q : Req) (s : State) : Res := .next (writeReq s q 0x2320 1 3)

/-- Meaning of UPDATE_COMMIT (R453, R459). -/
def execUpdateCommit (q : Req) (s : State) : Res := .next (writeReq s q 0x2320 1 4)

/-- Meaning of UPDATE_CANCEL (R459). -/
def execUpdateCancel (q : Req) (s : State) : Res := .next (writeReq s q 0x2320 1 5)

/-- Meaning of UPDATE_FETCH (R459). -/
def execUpdateFetch (q : Req) (s : State) : Res := .next (writeReq s q 0x2320 1 6)

/-- Meaning of IMAGE_CHUNK_WRITE (R459). -/
def execImageChunkWrite (q : Req) (chunk : List Byte) (s : State) : Res := .next (commitReq s q 0x2320 3 chunk)

/-- Meaning of REVOKE_IMAGE_KEY (R453). -/
def execRevokeImageKey (q : Req) (k : Nat) (s : State) : Res := .next (writeReq s q 0x2310 3 k)

/-- Meaning of ATTESTATION_NONCE (R454). -/
def execAttestationNonce (q : Req) (nonce : List Byte) (s : State) : Res := .next (commitReq s q 0x2330 1 nonce)

/-- Meaning of DEBUG_TOKEN (R455). -/
def execDebugToken (q : Req) (token : List Byte) (s : State) : Res := .next (commitReq s q 0x2340 2 token)

/-- Meaning of DEBUG_UNLOCK_END (R455). -/
def execDebugUnlockEnd (q : Req) (s : State) : Res := .next (writeReq s q 0x2340 4 1)

/-- Meaning of PROGRAM_BUNDLE_KEY (R457). -/
def execProgramBundleKey (q : Req) (k : Nat) (hash : List Byte) (s : State) : Res :=
  .next (commitReq s q (member 0x2350 8 k) 2 hash)

/-- Meaning of REVOKE_BUNDLE_KEY (R457). -/
def execRevokeBundleKey (q : Req) (k : Nat) (s : State) : Res := .next (writeReq s q (member 0x2350 8 k) 4 1)

/-- Meaning of BUNDLE_FLASH_COPY (R458). -/
def execBundleFlashCopy (q : Req) (f offset : Nat) (s : State) : Res := .next (writeReq s q (member 0x2360 2 f) 2 offset)

/-! The control-space mirror (R38). -/

/-- An access of `size` bytes at a byte of an object's 16-byte window that R36 and R38 allow. -/
def windowOk (d : ObjDef) (a size : Nat) (isWrite : Bool) : Bool :=
  let b := saByte a
  !isLong d && saSpace a = 2 && saCtlZero a = 0 && a % 4 = 0 && (size = 4 || size = 8) && b + size ≤ 16
  && (!isWrite || typeBytes d.typ ≤ 4 || (b = 0 && size = 8))

/-- A write through the mirror (R12, R38): RO ignores it, CONST refuses it, bytes past the object ignore it. -/
def mirrorWrite (s : State) (d : ObjDef) (a size data : Nat) : State × Bool :=
  match d.acc with
  | .ro => (s, true)
  | .konst => (s, false)
  | _ =>
    if saByte a ≥ typeBytes d.typ then (s, true)
    else
      let v := data % 2 ^ (8 * min size (typeBytes d.typ))
      let (t, n) := writeNumber s 0 (saIndex a) (saSub a) v none []
      if n = stOk then (t, true) else (t, false)

/-- A read through the mirror: the window is the value, then zeros; WO reads 0 (R12, R38). -/
def mirrorRead (s : State) (d : ObjDef) (a size : Nat) : Nat :=
  if d.acc = .wo then 0 else fld (padTo 16 (natLe (typeBytes d.typ) (objNum s 0 (saIndex a) (saSub a)))) (saByte a) size

/-- The access carried out: the state, whether it is done, the data read. -/
def mirrorAccess (s : State) (a op size data : Nat) : State × Bool × Nat :=
  match objDef (saIndex a) (saSub a) with
  | none => (s, false, 0)
  | some d =>
    if !windowOk d a size (op = 1) then (s, false, 0)
    else if op = 1 then
      let (t, ok) := mirrorWrite s d a size data
      (t, ok, 0)
    else if op = 0 then (s, true, mirrorRead s d a size)
    else (s, false, 0)

/-- The reply to an access, on CVC1 (R33, R253, R255): over the rim to the bridge nearest to the tile, or over the fabric. -/
def replyAccess (s : State) (k : Packet) (ok : Bool) (data : Nat) : State :=
  let body := k.payload.take 8 ++ natLe 8 data ++ natLe 1 2 ++ slice k.payload 0x11 2 ++ natLe 1 (b2n !ok) ++ natLe 4 0
  let r := mkPacket .control 1 0xA k.pri k.srcDev k.srcLtile s.fabric.devId 0x7FFFF body
  if k.srcDev = s.fabric.devId then sendBy s (((carrier s k.srcLtile).bind fun t => nearestBridge s t).getD 0) r
  else bridgeSend s 0 r

/-- Meaning of CONTROL_SPACE_ACCESS (R38, R253): the oldest access waiting; a broadcast one gets no reply (R37). -/
def execControlSpaceAccess (s : State) : Res :=
  .next (if !eyepieceRuns s || !s.dict.serving then s else
    match s.dict.accesses with
    | [] => s
    | k :: ks =>
      let s := { s with dict := { s.dict with accesses := ks } }
      let (s, ok, data) := mirrorAccess s (fld k.payload 0 8) (fld k.payload 0x10 1) (fld k.payload 0x11 1) (fld k.payload 8 8)
      if k.dstDev = 0xFFFF then s else replyAccess s k ok data)

end Sys2Proof.Machine
end

