-- ==== Sys2Proof/Machine/Xnt.lean ====
section
/-! DEFINITION. The Xnt instructions (R54, R55), the wake timer, the watchdog and the patrol reader (chapter 02). -/

namespace Sys2Proof.Machine

/-- An issuing instruction's checks (R48, R56, log 17): DESC_ALIGN, then LD_BOUND for what it copies; `ok` runs with the
absolute offset. -/
def onIssue (s : State) (t off align : Nat) (len : Nat → Nat) (ok : Nat → State) : State :=
  let k := curSlot s t
  if off % align ≠ 0 then faultHere s t 0x06 (w32 off) false
  else if !inBound k.base k.bound off align then faultHere s t 0x02 (w32 off) false
  else if !inBound k.base k.bound off (len (k.base + off)) then faultHere s t 0x02 (w32 off) false
  else ok (k.base + off)

/-- Body bytes a message header declares: BODY_LEN, or 4 N of a reduction (R237, R247). -/
def bodyLen (hdr : List Byte) : Nat := if fld hdr 0 1 % 4 = 2 then 4 * fld hdr 6 1 else fld hdr 0xA 2

/-- msg.send at a task-relative offset (R54, R247): the header and the body it declares enter the send queue of 8; it
stalls while the queue is full. -/
def doSend (s : State) (t off len : Nat) (errs : LineErrors) : State :=
  onIssue s t off 32 (fun a => 32 + bodyLen (readSpad s t a 32)) fun a =>
    let k := curSlot s t
    if (tileOf s t).msg.sendQ.length ≥ 8 then s
    else onLines s t [(a, 32 + bodyLen (readSpad s t a 32))] errs fun s =>
      let hdr := readSpad s t a 32
      let m : SendMsg := {
        hdr := hdr, body := readSpad s t (a + 32) (bodyLen hdr), base := k.base, bound := k.bound
        slot := (tileOf s t).core.cur, off := off, validated := false }
      updCore (updMsg s t fun e => { e with sendQ := e.sendQ ++ [m] }) t fun c => retire c len

/-- mx.run and pz.run at a task-relative offset (R54): the 64-byte descriptor enters the engine's queue of 4, with the slot's
base and bound (R48) and scalars (R133); it stalls while the queue is full. -/
def doRun (s : State) (t off len : Nat) (prism : Bool) (s0 s1 : Word) (errs : LineErrors) : State :=
  onIssue s t off 64 (fun _ => 64) fun a =>
    let k := curSlot s t
    let q := if prism then (tileOf s t).pzQ else (tileOf s t).mxQ
    if q.length + reservedPlaces s t prism ≥ 4 then s
    else onLines s t [(a, 64)] errs fun s =>
      let op : EngOp := {
        desc := readSpad s t a 64, base := k.base, bound := k.bound, slot := (tileOf s t).core.cur, off := off
        s0 := s0, s1 := s1, started := false }
      let s := updTile s t fun x => if prism then { x with pzQ := x.pzQ ++ [op] } else { x with mxQ := x.mxQ ++ [op] }
      updCore s t fun c => retire c len

/-- The notify records of a message engine that are not sent: those that wait and one formed into a packet (R294). -/
def unsentNotify (m : MsgEngine) : Nat := m.notify.length + (m.outPk.filter fun o => o.pkt.kind = 0xB).length

/-- tb.notify (R54, R294): a record stamped with TB at issue; it stalls while the engine holds two unsent ones. -/
def doNotify (s : State) (t : Nat) (payload : Word) (len : Nat) : State :=
  if unsentNotify (tileOf s t).msg ≥ 2 then s
  else
    let r : NotifyRec := {
      stamp := tileTb s t, source := s.fabric.devId * 65536 + 0x1000 + regionOfTile t
      ltile := (tileOf s t).core.ltile.getD 0, payload := payload.toNat, late := false }
    let s := loupeTile (updMsg s t fun e => { e with notify := e.notify ++ [r] }) t 0x05 0 payload.toNat
    updCore s t fun c => retire c len

/-- Meaning of MSG_SEND (R54). -/
def execMsgSend (t : Nat) (errs : LineErrors) (s : State) : Res :=
  .next (atXnt s t (fun x => match x with | .msgSend _ => true | _ => false) fun s x len =>
    match x with | .msgSend rs1 => doSend s t (xcur s t rs1).toNat len errs | _ => s)

/-- Meaning of MSG_SENDI (R55). -/
def execMsgSendi (t : Nat) (errs : LineErrors) (s : State) : Res :=
  .next (atXnt s t (fun x => match x with | .msgSendi _ => true | _ => false) fun s x len =>
    match x with | .msgSendi imm => doSend s t (imm * 4) len errs | _ => s)

/-- Bytes waiting in a ring: (TAIL - HEAD) mod SIZE (R54); 0 for a ring of size 0, whose HEAD and TAIL are 0. -/
def ringBytes (r : Ring) : Nat := if r.size = 0 then 0 else (r.tail + r.size - r.head % r.size) % r.size

/-- Meaning of MSG_AVAIL (R54). -/
def execMsgAvail (t : Nat) (s : State) : Res :=
  .next (atXnt s t (fun x => match x with | .msgAvail .. => true | _ => false) fun s x len =>
    match x with
    | .msgAvail rd rs1 =>
      let n := ringBytes (ringAt (tileOf s t) ((xcur s t rs1).toNat % 4))
      updCore s t fun c => retireRd c len rd (w32 n)
    | _ => s)

/-- Meaning of MSG_FENCE: stalls until the send queue is empty (R54). -/
def execMsgFence (t : Nat) (s : State) : Res :=
  .next (atXnt s t (fun x => x = .msgFence) fun s _ len =>
    if (tileOf s t).msg.sendQ.isEmpty then updCore s t fun c => retire c len else s)

/-- Meaning of BM_ARRIVE (R54, R266). -/
def execBmArrive (t : Nat) (s : State) : Res :=
  .next (atXnt s t (fun x => match x with | .bmArrive _ => true | _ => false) fun s x len =>
    match x with
    | .bmArrive rs1 =>
      let ch := (xcur s t rs1).toNat % 32
      updCore (arriveTile s t ch) t fun c => retire c len
    | _ => s)

/-- Meaning of BM_TEST (R54, R267). -/
def execBmTest (t : Nat) (s : State) : Res :=
  .next (atXnt s t (fun x => match x with | .bmTest .. => true | _ => false) fun s x len =>
    match x with
    | .bmTest rd rs1 =>
      let ch := (xcur s t rs1).toNat % 32
      updCore s t fun c => retireRd c len rd (if c.released.getLsbD ch then 1 else 0)
    | _ => s)

/-- The running slot waits and the core switches (R46, R72). -/
def sleepSlot (c : Core) (w : WaitFor) : Core :=
  switchSlot (updSlot c c.cur fun k => { k with st := .waiting, wait := w })

/-- Meaning of BM_WAIT: bm.arrive, then WAITING until the channel releases (R54). -/
def execBmWait (t : Nat) (s : State) : Res :=
  .next (atXnt s t (fun x => match x with | .bmWait _ => true | _ => false) fun s x len =>
    match x with
    | .bmWait rs1 =>
      let ch := (xcur s t rs1).toNat % 32
      updCore (arriveTile s t ch) t fun c => sleepSlot (retire c len) (.release ch)
    | _ => s)

/-- sl.wait (R72): at once with a kept cause set, else WAITING until a wake. -/
def slWaitCore (c : Core) (len rd : Nat) : Core :=
  if c.wakePend ≠ 0 then { retireRd c len rd c.wakePend with wakePend := 0 }
  else sleepSlot (retire c len) (.wake rd)

/-- Meaning of SL_WAIT (R54, R72). -/
def execSlWait (t : Nat) (s : State) : Res :=
  .next (atXnt s t (fun x => match x with | .slWait _ => true | _ => false) fun s x len =>
    match x with | .slWait rd => updCore s t fun c => slWaitCore c len rd | _ => s)

/-- Meaning of MX_RUN (R54). -/
def execMxRun (t : Nat) (errs : LineErrors) (s : State) : Res :=
  .next (atXnt s t (fun x => match x with | .mxRun _ => true | _ => false) fun s x len =>
    match x with | .mxRun rs1 => doRun s t (xcur s t rs1).toNat len false 0 0 errs | _ => s)

/-- Meaning of MX_RUNI (R55). -/
def execMxRuni (t : Nat) (errs : LineErrors) (s : State) : Res :=
  .next (atXnt s t (fun x => match x with | .mxRuni _ => true | _ => false) fun s x len =>
    match x with | .mxRuni imm => doRun s t (imm * 4) len false 0 0 errs | _ => s)

/-- Meaning of MX_FENCE: stalls until every matrix operation of the tile has completed (R54). -/
def execMxFence (t : Nat) (s : State) : Res :=
  .next (atXnt s t (fun x => x = .mxFence) fun s _ len =>
    if (tileOf s t).mxQ.isEmpty then updCore s t fun c => retire c len else s)

/-- Meaning of MX_COUNT (R54). -/
def execMxCount (t : Nat) (s : State) : Res :=
  .next (atXnt s t (fun x => match x with | .mxCount _ => true | _ => false) fun s x len =>
    match x with
    | .mxCount rd => let n := (tileOf s t).mxQ.length; updCore s t fun c => retireRd c len rd (w32 n)
    | _ => s)

/-- Meaning of PZ_RUN (R54). -/
def execPzRun (t : Nat) (errs : LineErrors) (s : State) : Res :=
  .next (atXnt s t (fun x => match x with | .pzRun .. => true | _ => false) fun s x len =>
    match x with
    | .pzRun rs1 rs2 rs3 => doRun s t (xcur s t rs1).toNat len true (xcur s t rs2) (xcur s t rs3) errs
    | _ => s)

/-- Meaning of PZ_RUNI (R55). -/
def execPzRuni (t : Nat) (errs : LineErrors) (s : State) : Res :=
  .next (atXnt s t (fun x => match x with | .pzRuni .. => true | _ => false) fun s x len =>
    match x with
    | .pzRuni reg imm => doRun s t (imm * 4) len true (xcur s t reg) (xcur s t (reg + 1)) errs
    | _ => s)

/-- Meaning of PZ_FENCE: stalls until every Prism operation of the tile has completed (R54). -/
def execPzFence (t : Nat) (s : State) : Res :=
  .next (atXnt s t (fun x => x = .pzFence) fun s _ len =>
    if (tileOf s t).pzQ.isEmpty then updCore s t fun c => retire c len else s)

/-- Meaning of PZ_COUNT (R54). -/
def execPzCount (t : Nat) (s : State) : Res :=
  .next (atXnt s t (fun x => match x with | .pzCount _ => true | _ => false) fun s x len =>
    match x with
    | .pzCount rd => let n := (tileOf s t).pzQ.length; updCore s t fun c => retireRd c len rd (w32 n)
    | _ => s)

/-- The running slot is T0, to which some instructions are reserved: else CFG_PRIV (R47). -/
def onT0 (s : State) (t : Nat) (ok : State) : State :=
  if (tileOf s t).core.cur = 0 then ok else faultHere s t 0x08 (wordHere s t) false

/-- tk.start (R54). An odd PC in rs2 loses its bit 0, as in jalr: the spec does not say what such a PC does, only that instruction
addresses are 2-byte aligned (R44; DESIGN CHOICE, log 99). -/
def startCore (c : Core) (len rd n : Nat) (pc : Word) : Core :=
  if n ≠ 0 && (slotAt c n).st = .idle then
    retireRd (updSlot c n fun k => { k with st := .ready, pc := pc &&& ~~~1 }) len rd 0
  else retireRd c len rd 1

/-- Meaning of TK_START (R47, R54). -/
def execTkStart (t : Nat) (s : State) : Res :=
  .next (atXnt s t (fun x => match x with | .tkStart .. => true | _ => false) fun s x len =>
    match x with
    | .tkStart rd rs1 rs2 =>
      let n := (xcur s t rs1).toNat % 4
      let pc := xcur s t rs2
      onT0 s t (updCore s t fun c => startCore c len rd n pc)
    | _ => s)

/-- Meaning of TK_EXIT (R46, R54). -/
def execTkExit (t : Nat) (s : State) : Res :=
  .next (atXnt s t (fun x => x = .tkExit) fun s _ len => updCore s t fun c =>
    switchSlot (updSlot (retire c len) c.cur fun k => { k with st := .idle }))

/-- Meaning of TK_YIELD (R46, R54). -/
def execTkYield (t : Nat) (s : State) : Res :=
  .next (atXnt s t (fun x => x = .tkYield) fun s _ len => updCore s t fun c =>
    switchPast (updSlot (retire c len) c.cur fun k => { k with st := .ready }) c.cur)

/-- Meaning of TK_RESET (R47, R52); slot 0 is ILLEGAL. -/
def execTkReset (t : Nat) (s : State) : Res :=
  .next (atXnt s t (fun x => match x with | .tkReset _ => true | _ => false) fun s x len =>
    match x with
    | .tkReset rs1 =>
      let n := (xcur s t rs1).toNat % 4
      onT0 s t (if n = 0 then faultHere s t 0x01 (wordHere s t) false else doReset s t n fun c => retire c len)
    | _ => s)

/-- Meaning of TK_WDOG: the watchdog's count is reloaded (R54, R75). -/
def execTkWdog (t : Nat) (s : State) : Res :=
  .next (atXnt s t (fun x => x = .tkWdog) fun s _ len => updCore s t fun c => { retire c len with wdogCount := 0 })

/-- Meaning of TB_SNAP: TB in one scratchpad write (R54), which reads its line (R66, R67); misaligned or
outside the bound as a store is (log 18). -/
def execTbSnap (t : Nat) (errs : LineErrors) (s : State) : Res :=
  .next (atXnt s t (fun x => match x with | .tbSnap _ => true | _ => false) fun s x len =>
    match x with
    | .tbSnap rs1 =>
      onAccess s t (xcur s t rs1) 8 true fun a => onLines s t [(a, 8)] errs fun s =>
        updCore (writeNum s t a 8 (tileTb s t)) t fun c => retire c len
    | _ => s)

/-- Meaning of TB_WAKE: the wake timer is armed (R54). -/
def execTbWake (t : Nat) (s : State) : Res :=
  .next (atXnt s t (fun x => match x with | .tbWake .. => true | _ => false) fun s x len =>
    match x with
    | .tbWake rs1 rs2 =>
      let v := (xcur s t rs2).toNat * 2 ^ 32 + (xcur s t rs1).toNat
      updCore s t fun c => { retire c len with wakeTimer := some v }
    | _ => s)

/-- Meaning of TB_CANCEL (R54). -/
def execTbCancel (t : Nat) (s : State) : Res :=
  .next (atXnt s t (fun x => x = .tbCancel) fun s _ len => updCore s t fun c => { retire c len with wakeTimer := none })

/-- Meaning of TB_NOTIFY (R54, R294). -/
def execTbNotify (t : Nat) (s : State) : Res :=
  .next (atXnt s t (fun x => match x with | .tbNotify _ => true | _ => false) fun s x len =>
    match x with | .tbNotify rs1 => doNotify s t (xcur s t rs1) len | _ => s)

/-- Meaning of TB_NOTIFYI (R55). -/
def execTbNotifyi (t : Nat) (s : State) : Res :=
  .next (atXnt s t (fun x => match x with | .tbNotifyi _ => true | _ => false) fun s x len =>
    match x with | .tbNotifyi imm => doNotify s t (w32 imm) len | _ => s)

/-- Meaning of LT_SWITCH: a swap trigger with its mode (R54, R180). -/
def execLtSwitch (t : Nat) (s : State) : Res :=
  .next (atXnt s t (fun x => match x with | .ltSwitch _ => true | _ => false) fun s x len =>
    match x with
    | .ltSwitch rs1 =>
      let cut := (xcur s t rs1).getLsbD 0
      updCore (trigger s t cut) t fun c => retire c len
    | _ => s)

/-- Meaning of LT_LDCFG (R47, R54, R167, R168): it stalls while a swap is pending. `planeUe`: a double-bit error in the shadow
plane is the region fault CFG_UE (R164). -/
def execLtLdcfg (t : Nat) (planeUe : Bool) (errs : LineErrors) (s : State) : Res :=
  .next (atXnt s t (fun x => match x with | .ltLdcfg .. => true | _ => false) fun s x len =>
    match x with
    | .ltLdcfg rs1 rs2 =>
      let off := (xcur s t rs1).toNat
      let n := (xcur s t rs2).toNat
      onT0 s t (
        if (tileOf s t).lat.pend.isSome then s
        else if planeUe then regionFault s (regionOfTile t) 0x25 1 (some t) 0
        else onIssue s t off 64 (fun _ => n) fun a => onLines s t [(a, n)] errs fun s =>
          updCore (loadPlane s t a n) t fun c => retire c len)
    | _ => s)

/-- Meaning of WAKE_TIMER_FIRE: the timer reaches its value; with TIMER_EN a wake condition TIMER arises (R54, R72). -/
def execWakeTimerFire (t : Nat) (s : State) : Res :=
  .next (match (tileOf s t).core.wakeTimer with
    | some v =>
      if tileRuns s t && v ≤ tileTb s t then
        updCore s t fun c =>
          let c := { c with wakeTimer := none }
          if c.wakeCtl.getLsbD 9 then wakeCondition c 2 else c
      else s
    | none => s)

/-- Meaning of WATCHDOG_EXPIRY: a count of PERIOD x 256 is the region fault WATCHDOG, of the slot that runs, or that ran last when the
count was reached on the way to sleep (R75, R76). -/
def execWatchdogExpiry (t : Nat) (s : State) : Res :=
  .next (
    let c := (tileOf s t).core
    if tileRuns s t && c.wdogPeriod ≠ 0 && c.wdogCount ≥ c.wdogPeriod * 256 then
      regionFault s (regionOfTile t) 0x23 (slotAt c c.cur).pc.toNat (some t) c.cur
    else s)

/-- Meaning of PATROL_READ: the next line of a bank, in ascending order, with what its check finds (R67). -/
def execPatrolRead (t bank : Nat) (err : EccOutcome) (s : State) : Res :=
  .next (if tileRuns s t && bank < 16 then
    let line := (tileOf s t).patrol.getD bank 0
    let s := updTile s t fun k => { k with patrol := k.patrol.set bank ((line + 1) % 1024) }
    onLine s t (line * 16 + bank) err id
  else s)

end Sys2Proof.Machine
end

