-- ==== Sys2Proof/Machine/Dispatch.lean ====
section
/-! DEFINITION. One arm per command: a direct call of its meaning. -/

namespace Sys2Proof.Machine

/-- The effect of a command on everything but the queue. -/
def exec (i : Instr) (s : State) : Host.Outcome State Fault Refusal :=
  match i with
  | .auxSupplyInRange straps vin => Sys2Proof.Machine.execAuxSupplyInRange straps vin s
  | .auxSupplyLost vin torn => Sys2Proof.Machine.execAuxSupplyLost vin torn s
  | .vin54OutOfRange vin straps => Sys2Proof.Machine.execVin54OutOfRange vin straps s
  | .vin54BackInRange vin => Sys2Proof.Machine.execVin54BackInRange vin s
  | .rstNFall => Sys2Proof.Machine.execRstNFall s
  | .rstNRelease => Sys2Proof.Machine.execRstNRelease s
  | .resetStagesOffExpiry => Sys2Proof.Machine.execResetStagesOffExpiry s
  | .eyepiecePairLost pair => Sys2Proof.Machine.execEyepiecePairLost pair s
  | .decisionCycle => Sys2Proof.Machine.execDecisionCycle s
  | .crystalQualWindowEnd count => Sys2Proof.Machine.execCrystalQualWindowEnd count s
  | .crystalNotStable => Sys2Proof.Machine.execCrystalNotStable s
  | .refclkQualified => Sys2Proof.Machine.execRefclkQualified s
  | .pllLocked => Sys2Proof.Machine.execPllLocked s
  | .referenceLost monitor => Sys2Proof.Machine.execReferenceLost monitor s
  | .safeHoldEntry => Sys2Proof.Machine.execSafeHoldEntry s
  | .referenceReturned => Sys2Proof.Machine.execReferenceReturned s
  | .safeHoldUngate result => Sys2Proof.Machine.execSafeHoldUngate result s
  | .safeHoldReturn => Sys2Proof.Machine.execSafeHoldReturn s
  | .safeHoldTimeout => Sys2Proof.Machine.execSafeHoldTimeout s
  | .generatorSwitchover p => Sys2Proof.Machine.execGeneratorSwitchover p s
  | .clockGeneratorFail p => Sys2Proof.Machine.execClockGeneratorFail p s
  | .droopStretch p e => Sys2Proof.Machine.execDroopStretch p e s
  | .crossingTokenRelease t inp => Sys2Proof.Machine.execCrossingTokenRelease t inp s
  | .temperatureSample p temp => Sys2Proof.Machine.execTemperatureSample p temp s
  | .fetchInstruction t err => Sys2Proof.Machine.execFetchInstruction t err s
  | .coreLoad t err => Sys2Proof.Machine.execCoreLoad t err s
  | .coreStore t err => Sys2Proof.Machine.execCoreStore t err s
  | .coreCompute t => Sys2Proof.Machine.execCoreCompute t s
  | .fence t => Sys2Proof.Machine.execFence t s
  | .fenceI t => Sys2Proof.Machine.execFenceI t s
  | .wfi t => Sys2Proof.Machine.execWfi t s
  | .ecall t => Sys2Proof.Machine.execEcall t s
  | .ebreak t => Sys2Proof.Machine.execEbreak t s
  | .mret t => Sys2Proof.Machine.execMret t s
  | .csrInstruction t => Sys2Proof.Machine.execCsrInstruction t s
  | .csrReadLowLatch t => Sys2Proof.Machine.execCsrReadLowLatch t s
  | .taskWindowWrite t => Sys2Proof.Machine.execTaskWindowWrite t s
  | .taskCtlRst t => Sys2Proof.Machine.execTaskCtlRst t s
  | .ringOpen t => Sys2Proof.Machine.execRingOpen t s
  | .ringClose t => Sys2Proof.Machine.execRingClose t s
  | .ringHeadWrite t => Sys2Proof.Machine.execRingHeadWrite t s
  | .ringEpochWrite t => Sys2Proof.Machine.execRingEpochWrite t s
  | .beamMaskWrite t => Sys2Proof.Machine.execBeamMaskWrite t s
  | .dirtyValClear t => Sys2Proof.Machine.execDirtyValClear t s
  | .fflagsXClear t => Sys2Proof.Machine.execFflagsXClear t s
  | .faultCauseClear t => Sys2Proof.Machine.execFaultCauseClear t s
  | .msgSend t errs => Sys2Proof.Machine.execMsgSend t errs s
  | .msgSendi t errs => Sys2Proof.Machine.execMsgSendi t errs s
  | .msgAvail t => Sys2Proof.Machine.execMsgAvail t s
  | .msgFence t => Sys2Proof.Machine.execMsgFence t s
  | .bmArrive t => Sys2Proof.Machine.execBmArrive t s
  | .bmTest t => Sys2Proof.Machine.execBmTest t s
  | .bmWait t => Sys2Proof.Machine.execBmWait t s
  | .slWait t => Sys2Proof.Machine.execSlWait t s
  | .mxRun t errs => Sys2Proof.Machine.execMxRun t errs s
  | .mxRuni t errs => Sys2Proof.Machine.execMxRuni t errs s
  | .mxFence t => Sys2Proof.Machine.execMxFence t s
  | .mxCount t => Sys2Proof.Machine.execMxCount t s
  | .pzRun t errs => Sys2Proof.Machine.execPzRun t errs s
  | .pzRuni t errs => Sys2Proof.Machine.execPzRuni t errs s
  | .pzFence t => Sys2Proof.Machine.execPzFence t s
  | .pzCount t => Sys2Proof.Machine.execPzCount t s
  | .tkStart t => Sys2Proof.Machine.execTkStart t s
  | .tkExit t => Sys2Proof.Machine.execTkExit t s
  | .tkYield t => Sys2Proof.Machine.execTkYield t s
  | .tkReset t => Sys2Proof.Machine.execTkReset t s
  | .tkWdog t => Sys2Proof.Machine.execTkWdog t s
  | .tbSnap t errs => Sys2Proof.Machine.execTbSnap t errs s
  | .tbWake t => Sys2Proof.Machine.execTbWake t s
  | .tbCancel t => Sys2Proof.Machine.execTbCancel t s
  | .tbNotify t => Sys2Proof.Machine.execTbNotify t s
  | .tbNotifyi t => Sys2Proof.Machine.execTbNotifyi t s
  | .ltSwitch t => Sys2Proof.Machine.execLtSwitch t s
  | .ltLdcfg t planeUe errs => Sys2Proof.Machine.execLtLdcfg t planeUe errs s
  | .wakeTimerFire t => Sys2Proof.Machine.execWakeTimerFire t s
  | .watchdogExpiry t => Sys2Proof.Machine.execWatchdogExpiry t s
  | .patrolRead t bank err => Sys2Proof.Machine.execPatrolRead t bank err s
  | .mxdCheck t errs => Sys2Proof.Machine.execMxdCheck t errs s
  | .matrixCompletion t extra errs => Sys2Proof.Machine.execMatrixCompletion t extra errs s
  | .residueMx t behind => Sys2Proof.Machine.execResidueMx t behind s
  | .pzdCheck t errs => Sys2Proof.Machine.execPzdCheck t errs s
  | .prismCompletion t extra errs => Sys2Proof.Machine.execPrismCompletion t extra errs s
  | .residuePz t inReduction behind => Sys2Proof.Machine.execResiduePz t inReduction behind s
  | .step t denied planeUe displaced errs => Sys2Proof.Machine.execStep t denied planeUe displaced errs s
  | .stallEvent t => Sys2Proof.Machine.execStallEvent t s
  | .latticeTokenArrival t inp => Sys2Proof.Machine.execLatticeTokenArrival t inp s
  | .routedForward t inp => Sys2Proof.Machine.execRoutedForward t inp s
  | .pairingQueueMove t control => Sys2Proof.Machine.execPairingQueueMove t control s
  | .planeSwap t => Sys2Proof.Machine.execPlaneSwap t s
  | .packetInject source errs => Sys2Proof.Machine.execPacketInject source errs s
  | .flitGrant t net out => Sys2Proof.Machine.execFlitGrant t net out s
  | .flitReceive t net inp err => Sys2Proof.Machine.execFlitReceive t net inp err s
  | .replayRequest t net out => Sys2Proof.Machine.execReplayRequest t net out s
  | .linkRetrain t net inp ok => Sys2Proof.Machine.execLinkRetrain t net inp ok s
  | .broadcastFlood t inp => Sys2Proof.Machine.execBroadcastFlood t inp s
  | .packetEject t net => Sys2Proof.Machine.execPacketEject t net s
  | .vc2Merge place => Sys2Proof.Machine.execVc2Merge place s
  | .reductionPacketArrival t errs => Sys2Proof.Machine.execReductionPacketArrival t errs s
  | .reductionComplete t errs => Sys2Proof.Machine.execReductionComplete t errs s
  | .sendQueueValidate t errs => Sys2Proof.Machine.execSendQueueValidate t errs s
  | .msgInjection t errs => Sys2Proof.Machine.execMsgInjection t errs s
  | .msgArrival t => Sys2Proof.Machine.execMsgArrival t s
  | .holdRegisterRetry t => Sys2Proof.Machine.execHoldRegisterRetry t s
  | .holdTimeout t => Sys2Proof.Machine.execHoldTimeout t s
  | .ringTailUpdate t errs => Sys2Proof.Machine.execRingTailUpdate t errs s
  | .ackArrival t errs => Sys2Proof.Machine.execAckArrival t errs s
  | .readReplyArrival t errs => Sys2Proof.Machine.execReadReplyArrival t errs s
  | .nakArrival t errs => Sys2Proof.Machine.execNakArrival t errs s
  | .senderTimeout t entry errs => Sys2Proof.Machine.execSenderTimeout t entry errs s
  | .remoteWrite t errs => Sys2Proof.Machine.execRemoteWrite t errs s
  | .remoteRead t errs => Sys2Proof.Machine.execRemoteRead t errs s
  | .controlSpaceAccess => Sys2Proof.Machine.execControlSpaceAccess s
  | .beamRelease ch => Sys2Proof.Machine.execBeamRelease ch s
  | .beamCopyFail segment copy => Sys2Proof.Machine.execBeamCopyFail segment copy s
  | .beamUpFrameRx p block => Sys2Proof.Machine.execBeamUpFrameRx p block s
  | .beamReleaseFrameRx p block => Sys2Proof.Machine.execBeamReleaseFrameRx p block s
  | .beamBlockRepeat p => Sys2Proof.Machine.execBeamBlockRepeat p s
  | .tbResync p skew => Sys2Proof.Machine.execTbResync p skew s
  | .tbReferenceMeasure offset => Sys2Proof.Machine.execTbReferenceMeasure offset s
  | .tbHoldover => Sys2Proof.Machine.execTbHoldover s
  | .ppsEdge => Sys2Proof.Machine.execPpsEdge s
  | .ptpMessage port msg => Sys2Proof.Machine.execPtpMessage port msg s
  | .ppsOutPulse => Sys2Proof.Machine.execPpsOutPulse s
  | .timeBlockTx p => Sys2Proof.Machine.execTimeBlockTx p s
  | .timeBlockRx p block => Sys2Proof.Machine.execTimeBlockRx p block s
  | .timedActionArm q slot => Sys2Proof.Machine.execTimedActionArm q slot s
  | .timedActionCancel q slot => Sys2Proof.Machine.execTimedActionCancel q slot s
  | .timedActionDistribute slot => Sys2Proof.Machine.execTimedActionDistribute slot s
  | .timedResume slot => Sys2Proof.Machine.execTimedResume slot s
  | .timedSnapshot slot => Sys2Proof.Machine.execTimedSnapshot slot s
  | .timedSectionSwitch slot => Sys2Proof.Machine.execTimedSectionSwitch slot s
  | .timedBeamRelease slot => Sys2Proof.Machine.execTimedBeamRelease slot s
  | .timedPortEnable slot => Sys2Proof.Machine.execTimedPortEnable slot s
  | .timedReset slot => Sys2Proof.Machine.execTimedReset slot s
  | .snapshotIntervalTick => Sys2Proof.Machine.execSnapshotIntervalTick s
  | .eventFire q n payload => Sys2Proof.Machine.execEventFire q n payload s
  | .notifyRecordArrival => Sys2Proof.Machine.execNotifyRecordArrival s
  | .notifyEmit => Sys2Proof.Machine.execNotifyEmit s
  | .quiescePoint t => Sys2Proof.Machine.execQuiescePoint t s
  | .snapshotAbort => Sys2Proof.Machine.execSnapshotAbort s
  | .snapshotBlockCopy t block errs => Sys2Proof.Machine.execSnapshotBlockCopy t block errs s
  | .snapshotTileDone t => Sys2Proof.Machine.execSnapshotTileDone t s
  | .snapshotCommit m => Sys2Proof.Machine.execSnapshotCommit m s
  | .stashApply t => Sys2Proof.Machine.execStashApply t s
  | .fenceComplete p => Sys2Proof.Machine.execFenceComplete p s
  | .fieldFence f => Sys2Proof.Machine.execFieldFence f s
  | .voltageFault p => Sys2Proof.Machine.execVoltageFault p s
  | .thermalComparator p => Sys2Proof.Machine.execThermalComparator p s
  | .stewardFailover => Sys2Proof.Machine.execStewardFailover s
  | .standbyPlacement => Sys2Proof.Machine.execStandbyPlacement s
  | .recoveryStart peers => Sys2Proof.Machine.execRecoveryStart peers s
  | .recoveryRollback bad cuts => Sys2Proof.Machine.execRecoveryRollback bad cuts s
  | .recoveryRebind => Sys2Proof.Machine.execRecoveryRebind s
  | .recoveryWeightRebuild sourceOk errs => Sys2Proof.Machine.execRecoveryWeightRebuild sourceOk errs s
  | .recoveryRestore errs bad => Sys2Proof.Machine.execRecoveryRestore errs bad s
  | .recoveryArmResume => Sys2Proof.Machine.execRecoveryArmResume s
  | .migrationQuiesce p => Sys2Proof.Machine.execMigrationQuiesce p s
  | .migrationCopy p errs => Sys2Proof.Machine.execMigrationCopy p errs s
  | .migrationSwitchOff p => Sys2Proof.Machine.execMigrationSwitchOff p s
  | .migrationReplace p => Sys2Proof.Machine.execMigrationReplace p s
  | .migrationTimeout p => Sys2Proof.Machine.execMigrationTimeout p s
  | .retrainRegion q p => Sys2Proof.Machine.execRetrainRegion q p s
  | .clearDeadMark q p => Sys2Proof.Machine.execClearDeadMark q p s
  | .scratchpadScrub q p => Sys2Proof.Machine.execScratchpadScrub q p s
  | .rimSegmentFail ring segment => Sys2Proof.Machine.execRimSegmentFail ring segment s
  | .portEnable q p => Sys2Proof.Machine.execPortEnable q p s
  | .portDisable q p => Sys2Proof.Machine.execPortDisable q p s
  | .portTrainingDone p txPass rxPass => Sys2Proof.Machine.execPortTrainingDone p txPass rxPass s
  | .portTrainingRetry p => Sys2Proof.Machine.execPortTrainingRetry p s
  | .portRetrain p lane => Sys2Proof.Machine.execPortRetrain p lane s
  | .frameTx p => Sys2Proof.Machine.execFrameTx p s
  | .frameRx p f crc fixed lost => Sys2Proof.Machine.execFrameRx p f crc fixed lost s
  | .idleBlockRx p block => Sys2Proof.Machine.execIdleBlockRx p block s
  | .alignBlockRx p block => Sys2Proof.Machine.execAlignBlockRx p block s
  | .ackBlockRx p block => Sys2Proof.Machine.execAckBlockRx p block s
  | .nakBlockRx p block => Sys2Proof.Machine.execNakBlockRx p block s
  | .creditBlockRx p block => Sys2Proof.Machine.execCreditBlockRx p block s
  | .trainBlockRx p block => Sys2Proof.Machine.execTrainBlockRx p block s
  | .linkAckTimer p => Sys2Proof.Machine.execLinkAckTimer p s
  | .linkCreditTimer p => Sys2Proof.Machine.execLinkCreditTimer p s
  | .trunkMemberDown p => Sys2Proof.Machine.execTrunkMemberDown p s
  | .routeEntryWrite q value => Sys2Proof.Machine.execRouteEntryWrite q value s
  | .routeTableApply q => Sys2Proof.Machine.execRouteTableApply q s
  | .csRdata p => Sys2Proof.Machine.execCsRdata p s
  | .csWack p => Sys2Proof.Machine.execCsWack p s
  | .csCack p => Sys2Proof.Machine.execCsCack p s
  | .csInfor p => Sys2Proof.Machine.execCsInfor p s
  | .arpRequest p iface eth askMac askIp targetIp => Sys2Proof.Machine.execArpRequest p iface eth askMac askIp targetIp s
  | .neighbourSolicitation p iface eth askMac askIp targetIp => Sys2Proof.Machine.execNeighbourSolicitation p iface eth askMac askIp targetIp s
  | .icmpEchoRequest p iface eth v6 askMac askIp targetIp data => Sys2Proof.Machine.execIcmpEchoRequest p iface eth v6 askMac askIp targetIp data s
  | .udpDatagramRx p iface eth g => Sys2Proof.Machine.execUdpDatagramRx p iface eth g s
  | .ethFrameDiscard p iface => Sys2Proof.Machine.execEthFrameDiscard p iface s
  | .gatewayResolve p iface => Sys2Proof.Machine.execGatewayResolve p iface s
  | .egressSegment p => Sys2Proof.Machine.execEgressSegment p s
  | .egressReassemblyTimeout p n => Sys2Proof.Machine.execEgressReassemblyTimeout p n s
  | .grpRequest c frame => Sys2Proof.Machine.execGrpRequest c frame s
  | .grpPromptMore c frame => Sys2Proof.Machine.execGrpPromptMore c frame s
  | .grpCancel c frame => Sys2Proof.Machine.execGrpCancel c frame s
  | .grpResend c frame => Sys2Proof.Machine.execGrpResend c frame s
  | .grpPing c frame => Sys2Proof.Machine.execGrpPing c frame s
  | .promptTimeout stream => Sys2Proof.Machine.execPromptTimeout stream s
  | .streamAdmit m => Sys2Proof.Machine.execStreamAdmit m s
  | .prefillChunkInject m inst => Sys2Proof.Machine.execPrefillChunkInject m inst s
  | .decodeTokenInject m inst => Sys2Proof.Machine.execDecodeTokenInject m inst s
  | .tokenSampled m stream source => Sys2Proof.Machine.execTokenSampled m stream source s
  | .slotLoad q m image => Sys2Proof.Machine.execSlotLoad q m image s
  | .slotLoadDone m readOk peers => Sys2Proof.Machine.execSlotLoadDone m readOk peers s
  | .slotServe q m peers => Sys2Proof.Machine.execSlotServe q m peers s
  | .slotStop q m => Sys2Proof.Machine.execSlotStop q m s
  | .slotUnload q m => Sys2Proof.Machine.execSlotUnload q m s
  | .read q index sub => Sys2Proof.Machine.execRead q index sub s
  | .write q index sub typ value => Sys2Proof.Machine.execWrite q index sub typ value s
  | .dread q index sub offset len => Sys2Proof.Machine.execDread q index sub offset len s
  | .dopen q index sub total => Sys2Proof.Machine.execDopen q index sub total s
  | .dwrite q index sub offset data => Sys2Proof.Machine.execDwrite q index sub offset data s
  | .dcommit q index sub crc => Sys2Proof.Machine.execDcommit q index sub crc s
  | .dabort q index sub => Sys2Proof.Machine.execDabort q index sub s
  | .sessionTimeout index sub => Sys2Proof.Machine.execSessionTimeout index sub s
  | .readCopyExpiry src client index sub => Sys2Proof.Machine.execReadCopyExpiry src client index sub s
  | .heartbeat => Sys2Proof.Machine.execHeartbeat s
  | .heartbeatPeriodWrite q value => Sys2Proof.Machine.execHeartbeatPeriodWrite q value s
  | .dictWarmRestart q => Sys2Proof.Machine.execDictWarmRestart q s
  | .dictFullTrainingReset q => Sys2Proof.Machine.execDictFullTrainingReset q s
  | .alertSummaryClear q mask => Sys2Proof.Machine.execAlertSummaryClear q mask s
  | .restoreDefaults q => Sys2Proof.Machine.execRestoreDefaults q s
  | .storeCompaction => Sys2Proof.Machine.execStoreCompaction s
  | .logFlush => Sys2Proof.Machine.execLogFlush s
  | .logErase q => Sys2Proof.Machine.execLogErase q s
  | .loupeClearAll q => Sys2Proof.Machine.execLoupeClearAll q s
  | .loupeClearRegion q => Sys2Proof.Machine.execLoupeClearRegion q s
  | .ppsValueWrite q value => Sys2Proof.Machine.execPpsValueWrite q value s
  | .breakerPermit q => Sys2Proof.Machine.execBreakerPermit q s
  | .bringupStart bootsel readFails => Sys2Proof.Machine.execBringupStart bootsel readFails s
  | .fieldGroupPower f => Sys2Proof.Machine.execFieldGroupPower f s
  | .groupCalibrate f result => Sys2Proof.Machine.execGroupCalibrate f result s
  | .monitorBroadcast march lost => Sys2Proof.Machine.execMonitorBroadcast march lost s
  | .regionTraining p full defective spares passed => Sys2Proof.Machine.execRegionTraining p full defective spares passed s
  | .knownAnswerRun results again => Sys2Proof.Machine.execKnownAnswerRun results again s
  | .stewardStart => Sys2Proof.Machine.execStewardStart s
  | .readyCriteria images => Sys2Proof.Machine.execReadyCriteria images s
  | .updateBegin q => Sys2Proof.Machine.execUpdateBegin q s
  | .updateEraseDone => Sys2Proof.Machine.execUpdateEraseDone s
  | .imageChunkWrite q chunk => Sys2Proof.Machine.execImageChunkWrite q chunk s
  | .updateFetch q => Sys2Proof.Machine.execUpdateFetch q s
  | .updateVerify q => Sys2Proof.Machine.execUpdateVerify q s
  | .updateActivate q => Sys2Proof.Machine.execUpdateActivate q s
  | .updateCommit q => Sys2Proof.Machine.execUpdateCommit q s
  | .updateCancel q => Sys2Proof.Machine.execUpdateCancel q s
  | .revokeImageKey q k => Sys2Proof.Machine.execRevokeImageKey q k s
  | .attestationNonce q nonce => Sys2Proof.Machine.execAttestationNonce q nonce s
  | .attestationReady => Sys2Proof.Machine.execAttestationReady s
  | .debugToken q token => Sys2Proof.Machine.execDebugToken q token s
  | .debugUnlockEnd q => Sys2Proof.Machine.execDebugUnlockEnd q s
  | .programBundleKey q k hash => Sys2Proof.Machine.execProgramBundleKey q k hash s
  | .revokeBundleKey q k => Sys2Proof.Machine.execRevokeBundleKey q k s
  | .bundleFlashCopy q f offset => Sys2Proof.Machine.execBundleFlashCopy q f offset s
  | .bundleFlashCopyDone f window => Sys2Proof.Machine.execBundleFlashCopyDone f window s
  | .breakerTrip byVoltage current straps => Sys2Proof.Machine.execBreakerTrip byVoltage current straps s
  | .converterLost n => Sys2Proof.Machine.execConverterLost n s
  | .phaseLost p phase => Sys2Proof.Machine.execPhaseLost p phase s
  | .powerFuseTrip p => Sys2Proof.Machine.execPowerFuseTrip p s
  | .powerAverageRefresh vin iin power rimPower => Sys2Proof.Machine.execPowerAverageRefresh vin iin power rimPower s
  | .coolantSample inlet outA outB flowA flowB => Sys2Proof.Machine.execCoolantSample inlet outA outB flowA flowB s
  | .canBusOff iface => Sys2Proof.Machine.execCanBusOff iface s
  | .partnerSignalDetected p => Sys2Proof.Machine.execPartnerSignalDetected p s
  | .updateVerifyDone readFails => Sys2Proof.Machine.execUpdateVerifyDone readFails s
  | .regionRetrainDone p passed result => Sys2Proof.Machine.execRegionRetrainDone p passed result s
  | .gatewayResolutionReply p iface eth v6 ip mac => Sys2Proof.Machine.execGatewayResolutionReply p iface eth v6 ip mac s

end Sys2Proof.Machine
end

