-- ==== Sys2Proof/Safety.lean ====
section
/-! DEFINITION. The terms of the claims: a safe run, the invariant of every step, and where a tile's core stands. -/

namespace Sys2Proof.Machine

/-- Keys of a sparse map strictly rise. -/
def SMap.sorted {α : Type} (m : SMap α) : Bool := decide (m.Pairwise fun x y => x.1 < y.1)

/-- The invariant that every step keeps: scratchpad memory in its canonical form (R63, R71), the maps of regions and tiles
in order, and one image key slot unrevoked (R453). -/
structure State.Inv (s : State) : Prop where
  mem : s.mem.wf = true
  regions : s.regions.sorted = true
  tiles : s.tiles.sorted = true
  keys : s.boot.imgRevoked ≠ 15#4

/-- A step that neither faults nor is refused. -/
def StepSafe (s : State) : Prop := ∃ t, step s = .next t

/-- `n` safe steps lead from one state to another. -/
def Steps : Nat → State → State → Prop
  | 0, s, t => s = t
  | n + 1, s, t => ∃ u, step s = .next u ∧ Steps n u t

/-- Every state that safe steps reach from a state is safe. -/
def RunSafe (s : State) : Prop := ∀ n t, Steps n s t → StepSafe t

/-- The core of tile `t` acts and is awake (R45, R212, R321). -/
abbrev CoreAwake (s : State) (t : Nat) : Prop := tileActs s t = true ∧ awake (tileOf s t).core = true

/-- The core of tile `t` is awake at the instruction `op` of `len` bytes, held by its fetch buffer (R43). -/
abbrev AtInstr (s : State) (t : Nat) (op : CoreOp) (len : Nat) : Prop :=
  CoreAwake s t ∧ (fetched (tileOf s t).core).map (fun f => (f.op, f.len)) = some (some op, len)

/-- The value a CSR instruction offers: a register of the running slot or its immediate (R40). -/
abbrev csrOperand (s : State) (t src : Nat) (isImm : Bool) : Word := if isImm then w32 src else xcur s t src

/-- The core of tile `t` is awake at a CSR instruction that may write `new` over `old` at address `a` and returns `old` in
`rd` (R42, R47). -/
abbrev AtCsrWrite (s : State) (t a rd len : Nat) (old new : Word) : Prop :=
  ∃ f src isImm, AtInstr s t (.csr f rd src isImm a) len ∧ csrRead s t (tileOf s t).core.cur a = some old ∧
    csrNew f old (csrOperand s t src isImm) (src = 0) = some new ∧
    ((tileOf s t).core.cur = 0 ∨ userWritable a = true)

/-- A core access of `size` bytes at a task-relative address is aligned and in bound (R44, R48). -/
abbrev AccessOk (s : State) (t : Nat) (addr : Word) (size : Nat) : Prop :=
  addr.toNat % size = 0 ∧ inBound (curSlot s t).base (curSlot s t).bound addr.toNat size = true

/-- An issuing instruction's offset is aligned and all it copies is in bound (R48, R56). -/
abbrev IssueOk (s : State) (t off align len : Nat) : Prop :=
  off % align = 0 ∧ inBound (curSlot s t).base (curSlot s t).bound off align = true ∧
    inBound (curSlot s t).base (curSlot s t).bound off len = true

/-- A request that reaches the dictionary undamaged, is no retry, is within its client's limit and has a command code that is not
reserved; whether flash takes a write is as the store has it (R404, R408, R412, R414). -/
abbrev NewRequest (s : State) (q : Req) : Prop :=
  reachable s q = true ∧ garbled s q = none ∧ keptResponse s q = none ∧ (q.src = 0 ∨ q.env.ahead < mostOutstanding q.src) ∧
    q.env.reserved = none ∧ q.env.flashFails = s.store.broken

/-- A write of a number that reaches the dictionary anew and meets its object's definition (R409). -/
abbrev NewWrite (s : State) (q : Req) (i sub v : Nat) : Prop := NewRequest s q ∧ checkNum s q.src i sub v = stOk

/-- The state after the answer to a write, of its command code and status (R408). -/
abbrev acked (s : State) (q : Req) (cmd i sub status : Nat) : State := answer s q cmd i sub { status := status }

end Sys2Proof.Machine
end

