-- ==== Sys2Proof/Certificates/Slice0/Obligations.lean ====
section
/-! DEFINITION. The statements for the provers: what the commands of the W48 do, command by command where they complete, and
what every step keeps. A docstring names the rules of spec/ that a statement formalises, in part where basis is derived, and
the log entries whose choices its clauses rest on. -/

open Sys2Proof Sys2Proof.Machine

/-! The block as a whole. -/

/-- R12, log 3: a step takes the command at the front of the queue and runs it on the state with the queue's rest; with none
waiting, the timebase master ticks. No row of the opcode table gives bits, so no word spells a command. -/
def Obligations.StepRunsFrontCommand : Prop :=
  (∀ (s : State) (c : Instr) (rest : List Instr), s.pending = c :: rest → step s = exec c { s with pending := rest }) ∧
  (∀ s : State, s.pending = [] → step s = .next (tick s)) ∧
  (∀ (n w : Nat) (s : State), decodeTableWord n w = none ∧ s.withFetchWord n w = s)

/-- R12, R59, R60, R69, R71: the Reset column of the tile's registers, and an empty scratchpad. Model's choices: log 5, 6, 7. -/
def Obligations.ResetColumnOfTiles : Prop :=
  (∀ t : Nat, (tileOf State.reset t).core.holdWindow = 0x0800 ∧ (tileOf State.reset t).core.wakeCtl = 0x700 ∧
    (tileOf State.reset t).core.dirty = BitVec.allOnes 256 ∧ (tileOf State.reset t).core.ltile = none ∧
    (tileOf State.reset t).rings.map (·.epoch) = [1, 1, 1, 1] ∧
    (tileOf State.reset t).rings.all (fun r => !r.isOpen) = true ∧
    (tileOf State.reset t).core.faultCause = 0 ∧ (tileOf State.reset t).core.fflagsX = 0 ∧
    (tileOf State.reset t).core.beamMask = 0 ∧ (tileOf State.reset t).core.slots.map (·.st) = List.replicate 4 .idle ∧
    (slotAt (tileOf State.reset t).core 0).base = 0 ∧ (slotAt (tileOf State.reset t).core 0).bound = 65536 * 4) ∧
  (∀ a : Nat, memRead State.reset.mem a = 0) ∧
  State.reset.pending = [] ∧ State.reset.dev.st = .off

/-- At reset the invariant of Safety.lean holds. Model's choices: log 5, 7. -/
def Obligations.ResetMeetsInvariant : Prop := State.reset.Inv

/-- R63, R71, R453: from every state that meets the invariant, not only those a run reaches, a step gives one that meets it:
canonical memory, ordered maps, an image key slot left. Model's choices: log 3, 91. -/
def Obligations.StepKeepsStateInvariant : Prop := ∀ s t : State, s.Inv → step s = .next t → t.Inv

/-- R452, R453: no command unburns a fuse: the anti-rollback counter does not fall, a revoked image or bundle key slot stays
revoked, a programmed bundle key slot keeps its hash. -/
def Obligations.FusesOnlyBurn : Prop := ∀ (c : Instr) (s t : State), exec c s = .next t →
  s.boot.counter ≤ t.boot.counter ∧
  (∀ k : Nat, s.boot.imgRevoked.getLsbD k = true → t.boot.imgRevoked.getLsbD k = true) ∧
  (∀ k : Nat, s.boot.bdlRevoked.getLsbD k = true → t.boot.bdlRevoked.getLsbD k = true) ∧
  (∀ (k : Nat) (h : List Byte), s.boot.bundleKeys[k]? = some (some h) → t.boot.bundleKeys[k]? = some (some h))

/-- The model's own queue and output: no command touches the queue of those that wait, nor takes back what has left the module
(log 2). -/
def Obligations.CommandsLeaveQueueAndOutput : Prop := ∀ (c : Instr) (s t : State), exec c s = .next t →
  t.pending = s.pending ∧ s.out <+: t.out

/-- No command of the table stops the block: every one has a next state. Model's choices: log 1, 2. -/
def Obligations.EveryCommandHasNextState : Prop := ∀ (c : Instr) (s : State), ∃ t, exec c s = .next t

/-- R63, R66, R69: a byte of memory reads as what was last written to it, and a write leaves every other byte; a write into a
tile's scratchpad changes exactly the stored bytes, and sets the tracking bits of the blocks it reaches. Model's choices: log
6. -/
def Obligations.MemoryWritesAndTracking : Prop :=
  (∀ (m : Memory) (a x : Nat) (b : Byte), memRead (memWrite m a b) x = if x = a then b else memRead m x) ∧
  (∀ (m : Memory) (a : Nat) (bs : List Byte), memReads (memWrites m a bs) a bs.length = bs) ∧
  (∀ (m : Memory) (a x : Nat) (bs : List Byte), (x < a ∨ a + bs.length ≤ x) → memRead (memWrites m a bs) x = memRead m x) ∧
  (∀ (s : State) (t off : Nat) (bs : List Byte),
    (writeSpad s t off bs).mem = memWrites s.mem (spad t off) bs ∧
    (∀ b : Nat, b < 256 → b ∈ blocksOf off bs.length → (tileOf (writeSpad s t off bs) t).core.dirty.getLsbD b = true) ∧
    (∀ t' : Nat, t' ≠ t → tileOf (writeSpad s t off bs) t' = tileOf s t'))

/-! The control core (chapter 02). `countCycles s t` is `s` with the command's cycles added to mcycle and the watchdog's
count, nothing else (R42, R75). -/

/-- R40, R42: each arithmetic operation, jump and branch at the running slot's PC writes its result to rd, moves the PC and
retires; nothing else changes. Model's choices: log 9, 23. -/
def Obligations.CoreComputeResults : Prop :=
  ∀ (s : State) (t len rd rs1 rs2 : Nat) (f : AluFn) (b : BranchFn) (imm : Word),
  (AtInstr s t (.alu f rd rs1 rs2) len → exec (.coreCompute t) s = .next (updCore (countCycles s t) t fun c =>
    retireRd c len rd (aluEval f (xcur s t rs1) (xcur s t rs2)))) ∧
  (AtInstr s t (.aluImm f rd rs1 imm) len → exec (.coreCompute t) s = .next (updCore (countCycles s t) t fun c =>
    retireRd c len rd (aluEval f (xcur s t rs1) imm))) ∧
  (AtInstr s t (.lui rd imm) len → exec (.coreCompute t) s = .next (updCore (countCycles s t) t fun c =>
    retireRd c len rd imm)) ∧
  (AtInstr s t (.auipc rd imm) len → exec (.coreCompute t) s = .next (updCore (countCycles s t) t fun c =>
    retireRd c len rd ((curSlot s t).pc + imm))) ∧
  (AtInstr s t (.jal rd imm) len → exec (.coreCompute t) s = .next (updCore (countCycles s t) t fun c =>
    retireTo (updSlot c c.cur fun k => setX k rd ((curSlot s t).pc + BitVec.ofNat 32 len)) ((curSlot s t).pc + imm))) ∧
  (AtInstr s t (.jalr rd rs1 imm) len → exec (.coreCompute t) s = .next (updCore (countCycles s t) t fun c =>
    retireTo (updSlot c c.cur fun k => setX k rd ((curSlot s t).pc + BitVec.ofNat 32 len))
      ((xcur s t rs1 + imm) &&& ~~~1))) ∧
  (AtInstr s t (.branch b rs1 rs2 imm) len → exec (.coreCompute t) s = .next (updCore (countCycles s t) t fun c =>
    if branchTaken b (xcur s t rs1) (xcur s t rs2) then retireTo c ((curSlot s t).pc + imm) else retire c len))

/-- R40: x0 reads 0 and discards writes; another register reads as what was last written to it. -/
def Obligations.RegisterZeroDiscardsWrites : Prop :=
  ∀ (k : TaskSlot) (r q : Nat) (v : Word),
    setX k 0 v = k ∧ xreg k 0 = 0 ∧ (r ≠ 0 → r - 1 < k.regs.length → xreg (setX k r v) r = v) ∧
    (q ≠ r → xreg (setX k r v) q = xreg k q)

/-- R43, R44, R48, R67: a fetch brings the line that the next instruction needs into the two-line buffer, beside the newer of the
lines it held; a load extends what it reads into rd; a store writes its bytes and marks their blocks; a line whose check
corrects an error is counted once, as is one that the patrol reads in its turn. Model's choices: log 9. -/
def Obligations.CoreMemoryAccess : Prop :=
  ∀ (s : State) (t line len rd rs1 rs2 size : Nat) (imm : Word) (signed : Bool),
  (CoreAwake s t → neededLine (tileOf s t).core = some (line, true) →
    exec (.fetchInstruction t .clean) s = .next (updCore (countCycles s t) t fun c => { c with
      fetchBuf := (c.fetchBuf.filter (·.1 ≠ line)).drop ((c.fetchBuf.filter (·.1 ≠ line)).length - 1)
        ++ [(line, readSpad s t (line * 16) 16)] })) ∧
  (AtInstr s t (.load rd rs1 imm size signed) len → AccessOk s t (xcur s t rs1 + imm) size →
    let v := readNum s t ((curSlot s t).base + (xcur s t rs1 + imm).toNat) size
    exec (.coreLoad t .clean) s = .next (updCore (countCycles s t) t fun c =>
      retireRd c len rd (if signed then sext (8 * size) v else BitVec.ofNat 32 v)) ∧
    exec (.coreLoad t .corrected) s = .next (updCore (countCorrected (countCycles s t) t) t fun c =>
      retireRd c len rd (if signed then sext (8 * size) v else BitVec.ofNat 32 v))) ∧
  (AtInstr s t (.store rs1 rs2 imm size) len → AccessOk s t (xcur s t rs1 + imm) size →
    exec (.coreStore t .clean) s = .next (updCore (writeNum (countCycles s t) t
      ((curSlot s t).base + (xcur s t rs1 + imm).toNat) size (xcur s t rs2).toNat) t fun c => retire c len)) ∧
  (∀ b n : Nat, tileRuns s t = true → b < 16 → (tileOf s t).patrol[b]? = some n →
    let u := updTile s t fun k => { k with patrol := k.patrol.set b ((n + 1) % 1024) }
    exec (.patrolRead t b .clean) s = .next u ∧ exec (.patrolRead t b .corrected) s = .next (countCorrected u t))

/-- R44, R48, R67, R76: a misaligned access raises MISALIGN, one outside the bound LD_BOUND or ST_BOUND, a fetch outside it
FETCH_BOUND, an encoding the core does not have ILLEGAL; a line with a double-bit error is the region fault SPAD_UE at that
line. Model's choices: log 9, 24. -/
def Obligations.CoreAccessFaults : Prop :=
  ∀ (s : State) (t line len rd rs1 rs2 size w : Nat) (imm : Word) (signed : Bool) (e : EccOutcome),
  let a := xcur s t rs1 + imm
  let u := countCycles s t
  (CoreAwake s t → neededLine (tileOf s t).core = some (line, false) →
    exec (.fetchInstruction t e) s = .next (faultHere u t 0x04 (curSlot s t).pc false)) ∧
  (AtInstr s t (.load rd rs1 imm size signed) len → a.toNat % size ≠ 0 →
    exec (.coreLoad t e) s = .next (faultHere u t 0x05 a false)) ∧
  (AtInstr s t (.load rd rs1 imm size signed) len → a.toNat % size = 0 →
    inBound (curSlot s t).base (curSlot s t).bound a.toNat size = false →
    exec (.coreLoad t e) s = .next (faultHere u t 0x02 a false)) ∧
  (AtInstr s t (.store rs1 rs2 imm size) len → a.toNat % size ≠ 0 →
    exec (.coreStore t e) s = .next (faultHere u t 0x05 a true)) ∧
  (AtInstr s t (.store rs1 rs2 imm size) len → a.toNat % size = 0 →
    inBound (curSlot s t).base (curSlot s t).bound a.toNat size = false →
    exec (.coreStore t e) s = .next (faultHere u t 0x03 a true)) ∧
  (CoreAwake s t → (fetched (tileOf s t).core).map (fun f => (f.op, f.word)) = some (none, w) →
    exec (.coreCompute t) s = .next (faultHere u t 0x01 (BitVec.ofNat 32 w) false)) ∧
  (AtInstr s t (.load rd rs1 imm size signed) len → AccessOk s t a size →
    exec (.coreLoad t .uncorrectable) s = .next (regionFault u (regionOfTile t) 0x20
      (((curSlot s t).base + a.toNat) / 16 * 16) (some t) 0))

/-- R41, R43, R50, R51, R76, R455: fence, fence.i and wfi only retire, fence.i emptying the fetch buffer; ecall of T1 to T3 makes
its slot READY past the ecall and enters T0 with code 09; ebreak is the program fault EBREAK (of T0 the region fault MONITOR),
or a service request under a debug unlock; mret in T0 returns to the PC and state saved, switches, and delivers a held fault.
Model's choices: log 9, 22. -/
def Obligations.FencesCallsAndReturn : Prop := ∀ (s : State) (t len : Nat),
  let u := countCycles s t
  let n := (tileOf s t).core.cur
  let pc := (curSlot s t).pc
  let request : Core → Core := fun c =>
    enterT0 (updSlot c n fun k => { k with st := .ready, pc := pc + BitVec.ofNat 32 len }) n 0x09 0 pc 0 false
  (AtInstr s t .fence len → exec (.fence t) s = .next (updCore u t fun c => retire c len)) ∧
  (AtInstr s t .fenceI len → exec (.fenceI t) s = .next (updCore u t fun c => { retire c len with fetchBuf := [] })) ∧
  (AtInstr s t .wfi len → exec (.wfi t) s = .next (updCore u t fun c => retire c len)) ∧
  (AtInstr s t .ecall len → n ≠ 0 → exec (.ecall t) s = .next (updCore u t request)) ∧
  (AtInstr s t .ecall len → n = 0 → exec (.ecall t) s = .next (faultHere u t 0x01 (wordHere u t) false)) ∧
  (AtInstr s t .ebreak len → n ≠ 0 → s.boot.perms.getLsbD 0 = false →
    exec (.ebreak t) s = .next (updCore u t fun c => programFault c n 0x0A pc false)) ∧
  (AtInstr s t .ebreak len → n = 0 →
    exec (.ebreak t) s = .next (regionFault u (regionOfTile t) 0x24 pc.toNat (some t) 0)) ∧
  (AtInstr s t .ebreak len → n ≠ 0 → s.boot.perms.getLsbD 0 = true → exec (.ebreak t) s = .next (updCore u t request)) ∧
  (AtInstr s t .mret len → n = 0 → exec (.mret t) s = .next (updCore u t fun c =>
    let st := if c.saved.st = .running then .ready else c.saved.st
    deliverPending (switchSlot { updSlot c 0 (fun k => { k with st := st, wait := c.saved.wait, pc := c.saved.pc }) with
      inEntry := false, minstret := c.minstret + 1 })))

/-- R50: entering T0 for slot n writes FAULT_CAUSE with VALID and SLOT, FAULT_ADDR, mepc, mcause and mtval, saves T0's own PC and
state, and runs T0 from address 0; a fault of a slot is held pending while FAULT_CAUSE.VALID is 1. Model's choices: log 22. -/
def Obligations.ProgramFaultEntersT0 : Prop :=
  ∀ (c : Core) (n code : Nat) (addr epc tval : Word) (store : Bool),
  let e := enterT0 c n code addr epc tval store
  e.cur = 0 ∧ e.faultCause = causeWord n code ∧ e.faultAddr = addr ∧ e.mepc = epc ∧ e.mcause = mcauseOf code store ∧
  e.mtval = tval ∧ e.saved = { st := (slotAt c 0).st, wait := (slotAt c 0).wait, pc := (slotAt c 0).pc } ∧
  (c.slots ≠ [] → (slotAt e 0).st = .running ∧ (slotAt e 0).pc = 0) ∧
  (faultValid c = true → n ≠ 0 → (∀ k ∈ c.pendingFaults, k.slot ≠ n) →
    { slot := n, code := code, addr := addr, store := store } ∈ (programFault c n code addr store).pendingFaults ∧
    (programFault c n code addr store).faultCause = c.faultCause)

/-- R40, R42, R47, R57, R58: a CSR instruction that does not write returns the register's value in rd. One that writes returns the
value before the write, and the register takes the new value: a standard one by R42, minstret's in place of the instruction's
own count, one of Xnt by its row. A read of a low word, by its address or its mirror, latches the high word for the reading
slot; csrrw with rd = x0 reads nothing. An address with no CSR is ILLEGAL, as is a write to a mirror; of T1 to T3 a write
outside the list of R47 is CFG_PRIV, and rd is not written. Model's choices: log 9, 15. -/
def Obligations.CsrInstructionResults : Prop :=
  ∀ (s : State) (t len rd src a : Nat) (isImm : Bool) (f : CsrFn) (old new : Word),
  let u := countCycles s t
  let n := (tileOf s t).core.cur
  let at_ : Nat → Prop := fun a => AtInstr s t (.csr f rd src isImm a) len ∧ csrRead u t n a = some old
  let reads : Prop := csrNew f old (csrOperand s t src isImm) (src = 0) = none
  let writes : Prop := csrNew f old (csrOperand s t src isImm) (src = 0) = some new
  let mayWrite : Prop := n = 0 ∨ userWritable a = true
  let illegal := faultHere u t 0x01 (wordHere u t) false
  (at_ a → reads → exec (.csrInstruction t) s = .next (updCore (csrLatch u t n a) t fun c => retireRd c len rd old)) ∧
  (at_ a → writes → a < 0x7C0 ∨ (0x800 ≤ a ∧ a < 0xFC0) → mayWrite → exec (.csrInstruction t) s = .next (updCore u t fun c =>
    stdWrite (retireRd c len rd old) c.minstret a new)) ∧
  (at_ a → writes → 0x7C0 ≤ a → a ≤ 0x7FF → a ≠ 0x7F8 → (a = 0x7C4 → bit new.toNat 4 = true → (tileOf s t).core.taskSel = 0) → mayWrite →
    exec (.csrInstruction t) s = .next (updCore (updTile (if csrReads f rd then csrLatch u t n a else u) t fun k => xntWrite k a new) t
      fun c => retireRd c len rd old)) ∧
  (at_ 0x7F8 → writes → n = 0 → exec (.csrInstruction t) s = .next (updCore u t fun c => clearCause (retireRd c len rd old) new.toNat)) ∧
  (at_ 0x7C4 → writes → n = 0 → bit new.toNat 4 = true → exec (.csrInstruction t) s = exec (.taskCtlRst t) s) ∧
  (at_ a → writes → a < 0xFC0 → ¬ mayWrite → exec (.csrInstruction t) s = .next (faultHere u t 0x08 (wordHere u t) false)) ∧
  (at_ a → writes → 0xFC0 ≤ a → a ≤ 0xFFF → exec (.csrInstruction t) s = .next illegal) ∧
  (AtInstr s t (.csr f rd src isImm a) len → csrRead u t n a = none → exec (.csrInstruction t) s = .next illegal) ∧
  (a = 0x7E4 ∨ a = 0xFE4 → at_ a → reads → exec (.csrReadLowLatch t) s = .next (updCore u t fun c => retireRd
    (updSlot c n fun k => { k with stepLatch := w32 (c.stepCnt.toNat / 2 ^ 32) }) len rd
    (w32 ((tileOf s t).core.stepCnt.toNat % 2 ^ 32)))) ∧
  (a = 0x7F0 ∨ a = 0xFF0 → at_ a → reads → exec (.csrReadLowLatch t) s = .next (updCore u t fun c => retireRd
    (updSlot c n fun k => { k with tbLatch := w32 (tileTb s t / 2 ^ 32) }) len rd (w32 (tileTb s t % 2 ^ 32)))) ∧
  (a ∈ [0x7E4, 0x7F0, 0xFE4, 0xFF0] → at_ a → exec (.csrReadLowLatch t) s = exec (.csrInstruction t) s)

/-- R48, R49, R52: a write of TASK_BASE or TASK_BOUND moves the selected slot's window, T0's excepted; TASK_CTL.RST resets the
selected slot: IDLE, its PC gone, the rings closed and their epochs incremented. Model's choices: log 9, 19, 25. -/
def Obligations.TaskWindowAndReset : Prop := ∀ (s : State) (t len rd : Nat) (old new : Word),
  let u := countCycles s t
  let n := (tileOf s t).core.taskSel
  (AtCsrWrite s t 0x7C2 rd len old new → n ≠ 0 → exec (.taskWindowWrite t) s = .next (updCore u t fun c =>
    retireRd (updSlot c n fun k => { k with base := bits new.toNat 15 4 * 64 }) len rd old)) ∧
  (AtCsrWrite s t 0x7C3 rd len old new → n ≠ 0 → bits new.toNat 16 0 ≤ 65536 →
    exec (.taskWindowWrite t) s = .next (updCore u t fun c =>
      retireRd (updSlot c n fun k => { k with bound := bits new.toNat 16 0 * 4 }) len rd old)) ∧
  (AtCsrWrite s t 0x7C2 rd len old new → n = 0 →
    exec (.taskWindowWrite t) s = .next (updCore u t fun c => retireRd c len rd old)) ∧
  (AtCsrWrite s t 0x7C4 rd len old new → bit new.toNat 4 = true → n ≠ 0 → (tileOf s t).core.resetting ≠ some n →
    slotBusy (tileOf s t) n = false →
    exec (.taskCtlRst t) s = .next (updTile u t fun k =>
      { resetSlot k n with core := retireRd { (resetSlot k n).core with resetting := none } len rd old })) ∧
  (∀ (k : Tile) (m : Nat), (resetSlot k m).rings = k.rings.map (fun r => { r with
      isOpen := false, epoch := if r.epoch ≥ 255 then 1 else r.epoch + 1 }) ∧
    (∀ x, k.core.slots[m]? = some x → (slotAt (resetSlot k m).core m).st = .idle ∧
      (slotAt (resetSlot k m).core m).base = x.base ∧ (slotAt (resetSlot k m).core m).bound = x.bound))

/-- R59, R261, R263: RING_CTL opens a closed ring whose size and place are legal with HEAD and TAIL 0 and closes one whose bit is
cleared; RING_HEAD below the size moves the head; a RING_EPOCH byte that is not 0 becomes the ring's epoch. Model's choices:
log 9. -/
def Obligations.RingRegisterWrites : Prop := ∀ (s : State) (t len rd n : Nat) (old new : Word),
  let u := countCycles s t
  (AtCsrWrite s t 0x7D8 rd len old new →
    ((List.range 4).any fun n => bit new.toNat n && !(ringAt (tileOf s t) n).isOpen) = true →
    exec (.ringOpen t) s = .next (updTile u t fun k =>
      { writeOpen k new.toNat with core := retireRd k.core len rd old })) ∧
  (AtCsrWrite s t 0x7D8 rd len old new →
    ((List.range 4).any fun n => !bit new.toNat n && (ringAt (tileOf s t) n).isOpen) = true →
    exec (.ringClose t) s = .next (updTile u t fun k =>
      { writeOpen k new.toNat with core := retireRd k.core len rd old })) ∧
  (n < 4 → AtCsrWrite s t (0x7D0 + n) rd len old new → exec (.ringHeadWrite t) s = .next (updTile u t fun k =>
    { k with
      rings := k.rings.modify n fun r =>
        if bits new.toNat 17 4 * 16 < r.size then { r with head := bits new.toNat 17 4 * 16 } else r
      core := retireRd k.core len rd old })) ∧
  (AtCsrWrite s t 0x7DA rd len old new → exec (.ringEpochWrite t) s = .next (updTile u t fun k =>
    { k with
      rings := k.rings.mapIdx fun m r =>
        if new.toNat / 2 ^ (8 * m) % 256 = 0 then r else { r with epoch := new.toNat / 2 ^ (8 * m) % 256 }
      core := retireRd k.core len rd old })) ∧
  (∀ (k : Tile) (v : Nat) (r : Ring), k.rings[n]? = some r →
    (bit v n = true → r.isOpen = false → 256 ≤ r.size → r.base + r.size ≤ spadBytes →
      ∃ r', (writeOpen k v).rings[n]? = some r' ∧ r'.isOpen = true ∧ r'.head = 0 ∧ r'.tail = 0 ∧ r'.epoch = r.epoch ∧
        r'.base = r.base ∧ r'.size = r.size) ∧
    (bit v n = false → ∃ r', (writeOpen k v).rings[n]? = some r' ∧ r'.isOpen = false ∧ r'.head = r.head ∧ r'.tail = r.tail))

/-- R50, R69, R103, R269: BEAM_MASK makes the tile a participant where a bit is set, with vote 0, and leaves its vote 1 elsewhere;
DIRTY_VAL clears the tracking bits written as 1 of the selected group; FFLAGS_X clears the flags written as 1; writing 1 to
FAULT_CAUSE.VALID clears it and a held fault is delivered. Model's choices: log 9. -/
def Obligations.MaskAndFlagWrites : Prop := ∀ (s : State) (t len rd : Nat) (old new : Word),
  let u := countCycles s t
  (AtCsrWrite s t 0x7E0 rd len old new → exec (.beamMaskWrite t) s = .next (updCore u t fun c =>
    retireRd (writeMask c new) len rd old)) ∧
  (∀ (c : Core) (v : Word) (ch : Nat), ch < 32 → (writeMask c v).beamMask = v ∧ (writeMask c v).released = c.released ∧
    (v.getLsbD ch = true → c.beamMask.getLsbD ch = false → tileVote (writeMask c v) ch = false) ∧
    (v.getLsbD ch = true → c.beamMask.getLsbD ch = true → tileVote (writeMask c v) ch = tileVote c ch) ∧
    (v.getLsbD ch = false → tileVote (writeMask c v) ch = true)) ∧
  (AtCsrWrite s t 0x7F3 rd len old new → exec (.dirtyValClear t) s = .next (updCore u t fun c =>
    retireRd { c with dirty := c.dirty &&& ~~~(BitVec.ofNat 256 (new.toNat * 2 ^ (32 * c.dirtySel))) } len rd old)) ∧
  (AtCsrWrite s t 0x7F4 rd len old new → exec (.fflagsXClear t) s = .next (updCore u t fun c =>
    retireRd { c with fflagsX := c.fflagsX &&& ~~~new } len rd old)) ∧
  (AtCsrWrite s t 0x7F8 rd len old new → bit new.toNat 31 = true →
    exec (.faultCauseClear t) s = .next (updCore u t fun c =>
      deliverPending { retireRd c len rd old with faultCause := c.faultCause &&& ~~~(0x80000000 : Word) }))

/-- R54, R55, R294: msg.send puts its header and body, copied at issue, at the end of the send queue; msg.avail returns the bytes
that wait in a ring; msg.fence retires with the queue empty; tb.notify queues a record stamped with TB. Model's choices: log
9, 17. -/
def Obligations.MessageIssue : Prop := ∀ (s : State) (t len rd rs1 imm : Nat),
  let u := countCycles s t
  let k := curSlot s t
  let send : Nat → State := fun off =>
    let hdr := readSpad s t (k.base + off) 32
    updCore (updMsg u t fun e => { e with sendQ := e.sendQ ++ [{
      hdr := hdr, body := readSpad s t (k.base + off + 32) (bodyLen hdr), base := k.base, bound := k.bound
      slot := (tileOf s t).core.cur, off := off, validated := false }] }) t fun c => retire c len
  let notify : Nat → State := fun payload =>
    updCore (loupeTile (updMsg u t fun e => { e with notify := e.notify ++ [{
      stamp := tileTb s t, source := s.fabric.devId * 65536 + 0x1000 + regionOfTile t
      ltile := (tileOf s t).core.ltile.getD 0, payload := payload, late := false }] }) t 0x05 0 payload) t
      fun c => retire c len
  (AtInstr s t (.xnt (.msgSend rs1)) len →
    IssueOk s t (xcur s t rs1).toNat 32 (32 + bodyLen (readSpad s t (k.base + (xcur s t rs1).toNat) 32)) →
    (tileOf s t).msg.sendQ.length < 8 → exec (.msgSend t {}) s = .next (send (xcur s t rs1).toNat)) ∧
  (AtInstr s t (.xnt (.msgSendi imm)) len →
    IssueOk s t (imm * 4) 32 (32 + bodyLen (readSpad s t (k.base + imm * 4) 32)) →
    (tileOf s t).msg.sendQ.length < 8 → exec (.msgSendi t {}) s = .next (send (imm * 4))) ∧
  (AtInstr s t (.xnt (.msgAvail rd rs1)) len → exec (.msgAvail t) s = .next (updCore u t fun c =>
    retireRd c len rd (w32 (ringBytes (ringAt (tileOf s t) ((xcur s t rs1).toNat % 4)))))) ∧
  (AtInstr s t (.xnt .msgFence) len → (tileOf s t).msg.sendQ = [] →
    exec (.msgFence t) s = .next (updCore u t fun c => retire c len)) ∧
  (AtInstr s t (.xnt (.tbNotify rs1)) len → unsentNotify (tileOf s t).msg < 2 →
    exec (.tbNotify t) s = .next (notify (xcur s t rs1).toNat)) ∧
  (AtInstr s t (.xnt (.tbNotifyi imm)) len → imm < 2 ^ 16 → unsentNotify (tileOf s t).msg < 2 →
    exec (.tbNotifyi t) s = .next (notify imm))

/-- R54, R294: an instruction whose queue is full, or a fence whose operations have not completed, stalls: it does not retire, and
only its cycles count. Model's choices: log 9. -/
def Obligations.FullQueuesStall : Prop := ∀ (s : State) (t len rs1 : Nat),
  let u := countCycles s t
  let off := (xcur s t rs1).toNat
  (AtInstr s t (.xnt (.msgSend rs1)) len →
    IssueOk s t off 32 (32 + bodyLen (readSpad s t ((curSlot s t).base + off) 32)) →
    8 ≤ (tileOf s t).msg.sendQ.length → exec (.msgSend t {}) s = .next u) ∧
  (AtInstr s t (.xnt .msgFence) len → (tileOf s t).msg.sendQ ≠ [] → exec (.msgFence t) s = .next u) ∧
  (AtInstr s t (.xnt (.mxRun rs1)) len → IssueOk s t off 64 64 → 4 ≤ (tileOf s t).mxQ.length →
    exec (.mxRun t {}) s = .next u) ∧
  (AtInstr s t (.xnt (.tbNotify rs1)) len → 2 ≤ unsentNotify (tileOf s t).msg → exec (.tbNotify t) s = .next u) ∧
  (AtInstr s t (.xnt .mxFence) len → (tileOf s t).mxQ ≠ [] → exec (.mxFence t) s = .next u) ∧
  (AtInstr s t (.xnt .pzFence) len → (tileOf s t).pzQ ≠ [] → exec (.pzFence t) s = .next u)

/-- R54, R55, R133: mx.run and pz.run queue their 64-byte descriptor, copied at issue with the slot's base and bound and, for
Prism, the scalars; the counts and the fences. Model's choices: log 9, 17, 100. -/
def Obligations.EngineIssue : Prop := ∀ (s : State) (t len rd rs1 rs2 rs3 imm : Nat),
  let u := countCycles s t
  let k := curSlot s t
  let op : Nat → Word → Word → EngOp := fun off a b => {
    desc := readSpad s t (k.base + off) 64, base := k.base, bound := k.bound, slot := (tileOf s t).core.cur, off := off
    s0 := a, s1 := b, started := false }
  let mx : Nat → State := fun off =>
    updCore (updTile u t fun x => { x with mxQ := x.mxQ ++ [op off 0 0] }) t fun c => retire c len
  let pz : Nat → Word → Word → State := fun off a b =>
    updCore (updTile u t fun x => { x with pzQ := x.pzQ ++ [op off a b] }) t fun c => retire c len
  (AtInstr s t (.xnt (.mxRun rs1)) len → IssueOk s t (xcur s t rs1).toNat 64 64 →
    (tileOf s t).mxQ.length + reservedPlaces s t false < 4 → exec (.mxRun t {}) s = .next (mx (xcur s t rs1).toNat)) ∧
  (AtInstr s t (.xnt (.mxRuni imm)) len → IssueOk s t (imm * 4) 64 64 →
    (tileOf s t).mxQ.length + reservedPlaces s t false < 4 → exec (.mxRuni t {}) s = .next (mx (imm * 4))) ∧
  (AtInstr s t (.xnt (.pzRun rs1 rs2 rs3)) len → IssueOk s t (xcur s t rs1).toNat 64 64 →
    (tileOf s t).pzQ.length + reservedPlaces s t true < 4 →
    exec (.pzRun t {}) s = .next (pz (xcur s t rs1).toNat (xcur s t rs2) (xcur s t rs3))) ∧
  (AtInstr s t (.xnt (.pzRuni rs1 imm)) len → IssueOk s t (imm * 4) 64 64 →
    (tileOf s t).pzQ.length + reservedPlaces s t true < 4 →
    exec (.pzRuni t {}) s = .next (pz (imm * 4) (xcur s t rs1) (xcur s t (rs1 + 1)))) ∧
  (AtInstr s t (.xnt (.mxCount rd)) len → exec (.mxCount t) s = .next (updCore u t fun c =>
    retireRd c len rd (w32 (tileOf s t).mxQ.length))) ∧
  (AtInstr s t (.xnt (.pzCount rd)) len → exec (.pzCount t) s = .next (updCore u t fun c =>
    retireRd c len rd (w32 (tileOf s t).pzQ.length))) ∧
  (AtInstr s t (.xnt .mxFence) len → (tileOf s t).mxQ = [] → exec (.mxFence t) s = .next (updCore u t fun c => retire c len)) ∧
  (AtInstr s t (.xnt .pzFence) len → (tileOf s t).pzQ = [] → exec (.pzFence t) s = .next (updCore u t fun c => retire c len))

/-- R54, R72, R266, R267: bm.arrive sets the vote and restarts the released flag; bm.test reads the flag; bm.wait arrives and
waits; sl.wait takes a kept cause set at once or waits. Model's choices: log 9. -/
def Obligations.BeamsAndWaits : Prop := ∀ (s : State) (t len rd rs1 : Nat),
  let u := countCycles s t
  let ch := (xcur s t rs1).toNat % 32
  (AtInstr s t (.xnt (.bmArrive rs1)) len →
    exec (.bmArrive t) s = .next (updCore (arriveTile u t ch) t fun c => retire c len)) ∧
  (AtInstr s t (.xnt (.bmTest rd rs1)) len → exec (.bmTest t) s = .next (updCore u t fun c =>
    retireRd c len rd (if (tileOf s t).core.released.getLsbD ch then 1 else 0))) ∧
  (AtInstr s t (.xnt (.bmWait rs1)) len → exec (.bmWait t) s = .next (updCore (arriveTile u t ch) t fun c =>
    switchSlot (updSlot (retire c len) c.cur fun k => { k with st := .waiting, wait := .release ch }))) ∧
  (AtInstr s t (.xnt (.slWait rd)) len → (tileOf s t).core.wakePend ≠ 0 → exec (.slWait t) s = .next (updCore u t fun c =>
    { retireRd c len rd (tileOf s t).core.wakePend with wakePend := 0 })) ∧
  (AtInstr s t (.xnt (.slWait rd)) len → (tileOf s t).core.wakePend = 0 → exec (.slWait t) s = .next (updCore u t fun c =>
    switchSlot (updSlot (retire c len) c.cur fun k => { k with st := .waiting, wait := .wake rd }))) ∧
  (∀ (c : Core) (n : Nat), n < 32 →
    (c.beamMask.getLsbD n = true → (arrive c n).votes.getLsbD n = true) ∧ (arrive c n).released.getLsbD n = false ∧
    ∀ m, m ≠ n → (arrive c n).votes.getLsbD m = c.votes.getLsbD m ∧
      (arrive c n).released.getLsbD m = c.released.getLsbD m)

/-- R54, R72, R75: tb.snap stores TB; tb.wake arms and tb.cancel disarms the wake timer; the timer's value reached disarms it and,
with TIMER_EN, raises the wake cause TIMER; tk.wdog reloads the watchdog; an expiry is the region fault WATCHDOG. Model's
choices: log 9, 18. -/
def Obligations.TimersAndWatchdog : Prop := ∀ (s : State) (t len rs1 rs2 v : Nat),
  let u := countCycles s t
  (AtInstr s t (.xnt (.tbSnap rs1)) len → AccessOk s t (xcur s t rs1) 8 → exec (.tbSnap t {}) s = .next
    (updCore (writeNum u t ((curSlot s t).base + (xcur s t rs1).toNat) 8 (tileTb s t)) t fun c => retire c len)) ∧
  (AtInstr s t (.xnt (.tbWake rs1 rs2)) len → exec (.tbWake t) s = .next (updCore u t fun c =>
    { retire c len with wakeTimer := some ((xcur s t rs2).toNat * 2 ^ 32 + (xcur s t rs1).toNat) })) ∧
  (AtInstr s t (.xnt .tbCancel) len → exec (.tbCancel t) s = .next (updCore u t fun c =>
    { retire c len with wakeTimer := none })) ∧
  (tileRuns s t = true → (tileOf s t).core.wakeTimer = some v → v ≤ tileTb s t →
    (tileOf s t).core.wakeCtl.getLsbD 9 = true →
    exec (.wakeTimerFire t) s = .next (updCore s t fun c => wakeCondition { c with wakeTimer := none } 2)) ∧
  (tileRuns s t = true → (tileOf s t).core.wakeTimer = some v → v ≤ tileTb s t →
    (tileOf s t).core.wakeCtl.getLsbD 9 = false →
    exec (.wakeTimerFire t) s = .next (updCore s t fun c => { c with wakeTimer := none })) ∧
  (AtInstr s t (.xnt .tkWdog) len → exec (.tkWdog t) s = .next (updCore u t fun c => { retire c len with wdogCount := 0 })) ∧
  (tileRuns s t = true → awake (tileOf s t).core = true → (tileOf s t).core.wdogPeriod ≠ 0 →
    (tileOf s t).core.wdogPeriod * 256 ≤ (tileOf s t).core.wdogCount →
    exec (.watchdogExpiry t) s = .next (regionFault s (regionOfTile t) 0x23 (curSlot s t).pc.toNat (some t)
      (tileOf s t).core.cur))

/-- R46, R47, R52, R54: tk.start of T0 makes an idle slot READY at its PC and returns 0, else 1; tk.exit makes the running slot
IDLE, tk.yield READY, and the core switches; tk.reset of T0 resets a slot whose operations have completed. Model's choices:
log 9, 99. -/
def Obligations.TaskInstructions : Prop := ∀ (s : State) (t len rd rs1 rs2 : Nat),
  let u := countCycles s t
  let n := (xcur s t rs1).toNat % 4
  (AtInstr s t (.xnt (.tkStart rd rs1 rs2)) len → (tileOf s t).core.cur = 0 → n ≠ 0 →
    (slotAt (tileOf s t).core n).st = .idle → exec (.tkStart t) s = .next (updCore u t fun c =>
      retireRd (updSlot c n fun k => { k with st := .ready, pc := xcur s t rs2 &&& ~~~1 }) len rd 0)) ∧
  (AtInstr s t (.xnt (.tkStart rd rs1 rs2)) len → (tileOf s t).core.cur = 0 →
    (n = 0 ∨ (slotAt (tileOf s t).core n).st ≠ .idle) →
    exec (.tkStart t) s = .next (updCore u t fun c => retireRd c len rd 1)) ∧
  (AtInstr s t (.xnt .tkExit) len → exec (.tkExit t) s = .next (updCore u t fun c =>
    switchSlot (updSlot (retire c len) c.cur fun k => { k with st := .idle }))) ∧
  (AtInstr s t (.xnt .tkYield) len → exec (.tkYield t) s = .next (updCore u t fun c =>
    switchPast (updSlot (retire c len) c.cur fun k => { k with st := .ready }) c.cur)) ∧
  (AtInstr s t (.xnt (.tkReset rs1)) len → (tileOf s t).core.cur = 0 → n ≠ 0 → (tileOf s t).core.resetting ≠ some n →
    slotBusy (tileOf s t) n = false → exec (.tkReset t) s = .next (updTile u t fun k =>
      { resetSlot k n with core := retire { (resetSlot k n).core with resetting := none } len })) ∧
  (AtInstr s t (.xnt (.tkReset rs1)) len → (tileOf s t).core.cur = 0 → n = 0 →
    exec (.tkReset t) s = .next (faultHere u t 0x01 (wordHere u t) false)) ∧
  (AtInstr s t (.xnt (.tkStart rd rs1 rs2)) len → (tileOf s t).core.cur ≠ 0 →
    exec (.tkStart t) s = .next (faultHere u t 0x08 (wordHere u t) false))

/-! The static lattice (chapter 06). -/

/-- R54, R167, R168, R180, R181: lt.switch with a valid shadow and no swap pending makes one pending with its mode, and without a
valid shadow counts and records the switch without a plane; lt.ldcfg of T0 takes an accepted image as the shadow, and a
refused one leaves no valid shadow; a pending cut, or a drain once END is reached and the queues are drained, makes the shadow
active at step 0 with its generation. Model's choices: log 9, 20, 26, 100. -/
def Obligations.PlaneLoadTriggerAndSwap : Prop := ∀ (s : State) (t len rs1 rs2 : Nat),
  let u := countCycles s t
  let r := regionOfTile t
  let cut := (xcur s t rs1).getLsbD 0
  let off := (xcur s t rs1).toNat
  let n := (xcur s t rs2).toNat
  let img := readSpad s t ((curSlot s t).base + off) (min n 4096)
  let task := slotAt (tileOf s t).core (bits (fld img 0 4) 5 4)
  let p := planeOf img task.base task.bound
  (AtInstr s t (.xnt (.ltSwitch rs1)) len → (tileOf s t).lat.shadowValid = true → (tileOf s t).lat.pend = none →
    exec (.ltSwitch t) s = .next (updCore (updLat u t fun l => { l with pend := some cut }) t fun c => retire c len)) ∧
  (AtInstr s t (.xnt (.ltSwitch rs1)) len → (tileOf s t).lat.shadowValid = false →
    exec (.ltSwitch t) s = .next (updCore (logRegion (updCtr u r fun c => { c with
      noPlane := (c.noPlane + 1) % 2 ^ 32 }) r 0x0301 1 r 0) t fun c => retire c len)) ∧
  (AtInstr s t (.xnt (.ltLdcfg rs1 rs2)) len → (tileOf s t).core.cur = 0 → (tileOf s t).lat.pend = none →
    IssueOk s t off 64 n → planeCase u t img n p = none → exec (.ltLdcfg t false {}) s = .next (updCore
      (updLat u t fun l => { l with shadow := some p, shadowValid := true, shadowGen := plGen p }) t fun c => retire c len)) ∧
  (∀ k : Nat, AtInstr s t (.xnt (.ltLdcfg rs1 rs2)) len → (tileOf s t).core.cur = 0 → (tileOf s t).lat.pend = none →
    IssueOk s t off 64 n → planeCase u t img n p = some k → ∃ w, exec (.ltLdcfg t false {}) s = .next w ∧
      (tileOf w t).lat = { (tileOf s t).lat with shadowValid := false } ∧
      (regionOfNo w r).ctr.refused = ((regionOfNo s r).ctr.refused + 1) % 2 ^ 32 ∧
      (regionOfNo w r).ctr.refusedCase = k) ∧
  (∀ (x : Plane) (now : Bool), tileActs s t = true → (tileOf s t).lat.pend = some now → (tileOf s t).lat.shadow = some x →
    (now = true ∨ ((tileOf s t).lat.running = false ∧ drained (tileOf s t).lat = true)) →
    ∃ w, exec (.planeSwap t) s = .next w ∧ (tileOf w t).lat.active = some x ∧ (tileOf w t).lat.shadow = none ∧
      (tileOf w t).lat.activeGen = (tileOf s t).lat.shadowGen ∧ (tileOf w t).lat.stepNo = 0 ∧
      (tileOf w t).lat.pend = none ∧ (tileOf w t).lat.shadowValid = false ∧ w.mem = s.mem)

/-- R123, R144, R164, R171, R174, R176: a section's cycle in which no condition holds it back and the lattice port grants every
line that the step still needs takes the step, each line read in the cycle of its grant; one held back by a condition counts a
hold in the tile, the region and the operations under way, keeps the step number, and notes its cause; one that leaves a line
of the step ungranted is a hold with cause 5, keeping for the step the lines granted and what it found; one whose line an
engine lost is a hold that counts as displaced, likewise kept; a run of STALL_LIMIT x 256 holds is recorded once; a double-bit
error in the active plane is the region fault CFG_UE. Model's choices: log 27, 28, 94, 101. -/
def Obligations.SectionCycles : Prop := ∀ (s : State) (t denied : Nat) (p : Plane),
  let l := (tileOf s t).lat
  let k := tileOf s t
  let r := regionOfTile t
  let due := dueAt p l.stepNo
  let cause := holdCauseOf s t p due
  let need := (sendReads p due).length + writeLines l p due
  let granted := grantedLines need denied l.lines
  let lines := granted.foldl (fun m i => smSet m i (match (sendReads p due)[i]? with | some x => readNum s t x.1 x.2 | none => 0)) l.lines
  let free : Prop := inSection s t = some p ∧ engineDue k = false ∧ (l.reserved = true ∨ cause = 0)
  let all : Prop := need ≤ l.lines.length + granted.length
  (free → all → exec (.step t denied false none {}) s = .next (takeStep (updLat s t fun x => { x with
    lines := lines, reserved := true }) t p due (lines.map (·.2)))) ∧
  (∀ (x : Option Bool) (e : LineErrors), inSection s t = some p → engineDue k = false → l.reserved = false → cause ≠ 0 →
    ∃ u, exec (.step t denied false x e) s = .next u ∧
    (tileOf u t).core.holdCnt = k.core.holdCnt + 1 ∧ (tileOf u t).core.stepCnt = k.core.stepCnt ∧
    (tileOf u t).lat = { l with holdRun := l.holdRun + 1, holdCause := cause } ∧
    (tileOf u t).mxQ = k.mxQ.map (heldOp 1) ∧ (tileOf u t).pzQ = k.pzQ.map (heldOp 1) ∧
    (regionOfNo u r).hold = (regionOfNo s r).hold + 1 ∧ u.mem = s.mem ∧ ∀ t', t' ≠ t → tileOf u t' = tileOf s t') ∧
  (∀ x : Option Bool, free → ¬ all → ∃ u, exec (.step t denied false x {}) s = .next u ∧
    (tileOf u t).core.holdCnt = k.core.holdCnt + 1 ∧ (tileOf u t).core.stepCnt = k.core.stepCnt ∧
    (tileOf u t).lat = { l with lines := lines, reserved := true, holdRun := l.holdRun + 1, holdCause := 5 } ∧
    (regionOfNo u r).hold = (regionOfNo s r).hold + 1 ∧ u.mem = s.mem) ∧
  (∀ prism : Bool, free → all → canDisplace k prism = true → ∃ u, exec (.step t denied false (some prism) {}) s = .next u ∧
    (tileOf u t).core.holdCnt = k.core.holdCnt + 1 ∧ (tileOf u t).core.stepCnt = k.core.stepCnt ∧
    (tileOf u t).lat.stepNo = l.stepNo ∧ (tileOf u t).lat.reserved = true ∧ (tileOf u t).lat.lines = lines ∧
    (regionOfNo u r).hold = (regionOfNo s r).hold + 1 ∧
    (regionOfNo u r).ctr.mxDisp = ((regionOfNo s r).ctr.mxDisp + b2n (!prism)) % 2 ^ 64 ∧ u.mem = s.mem) ∧
  (∀ (x : Option Bool) (e : LineErrors), inSection s t = some p →
    exec (.step t denied true x e) s = .next (regionFault s r 0x25 0 (some t) 0)) ∧
  (inSection s t = some p → p.stallLimit ≠ 0 → p.stallLimit.toNat * 256 ≤ l.holdRun → l.stallDone = false →
    exec (.stallEvent t) s = .next (loupeTile (logRegion (updLat s t fun x => { x with stallDone := true })
      r 0x0302 1 ((tileOf s t).core.ltile.getD 0) l.holdCause) t 0x04 l.holdCause ((tileOf s t).core.ltile.getD 0)))

/-- R160, R163, R177, R179, R202, R203: a token on a link enters the queue of the input, or of the crossing it passes; the
crossing presents its oldest token; a routed token goes to every output its route words drive; a usable token moves into its
pairing queue. Model's choices: log 27. -/
def Obligations.LatticeTokensMove : Prop := ∀ (s : State) (t inp : Nat) (k : Token) (q : List Token) (p : Plane),
  let l := (tileOf s t).lat
  (tileRuns s t = true → latQ l.flight inp = k :: q →
    (∀ t', linkTile s t (inp % 8) = some t' → viaCrossing t t' = false) →
    exec (.latticeTokenArrival t inp) s = .next (updTile s t fun x => settle { x with lat := { x.lat with
      flight := smSet x.lat.flight inp q, inq := smSet x.lat.inq inp (latQ x.lat.inq inp ++ [k]) } })) ∧
  (∀ t', tileRuns s t = true → latQ l.flight inp = k :: q → linkTile s t (inp % 8) = some t' → viaCrossing t t' = true →
    exec (.latticeTokenArrival t inp) s = .next (updLat s t fun x => { x with
      flight := smSet x.flight inp q, xq := smSet x.xq inp (latQ x.xq inp ++ [k]) })) ∧
  (tileRuns s t = true → latQ l.xq inp = k :: q → (latQ l.inq inp).length < 4 →
    exec (.crossingTokenRelease t inp) s = .next (updTile s t fun x => settle { x with lat := { x.lat with
      xq := smSet x.lat.xq inp q, inq := smSet x.lat.inq inp (latQ x.lat.inq inp ++ [k]) } })) ∧
  (let outs := (p.routes.filter fun w => latIndex (rtNet w) (rtIn w) = inp).map (fun w => (rtNet w, rtOut w));
    tileRuns s t = true → l.active = some p → usable l inp = k :: q → outs ≠ [] →
    outs.all (fun o => outRoom s t o.1 o.2) = true → exec (.routedForward t inp) s = .next
      (updTile (outs.foldl (fun s o => emitToken s t o.1 o.2 k) s) t fun x => settle { x with lat := { x.lat with
        inq := smSet x.lat.inq inp ((latQ x.lat.inq inp).drop 1) } })) ∧
  (tileRuns s t = true → l.active = some p → steerEn p = true → l.pairData.length < 4 →
    usable l (latIndex (steerNet p) (steerDin p)) = k :: q →
    exec (.pairingQueueMove t false) s = .next (updTile s t fun x => settle { x with lat := { x.lat with
      inq := smSet x.lat.inq (latIndex (steerNet p) (steerDin p)) ((latQ x.lat.inq (latIndex (steerNet p) (steerDin p))).drop 1)
      pairData := x.lat.pairData ++ [k] } })) ∧
  (tileRuns s t = true → l.active = some p → steerEn p = true → l.pairCtl.length < 4 →
    usable l (latIndex 2 (steerCin p)) = k :: q →
    exec (.pairingQueueMove t true) s = .next (updTile s t fun x => settle { x with lat := { x.lat with
      inq := smSet x.lat.inq (latIndex 2 (steerCin p)) ((latQ x.lat.inq (latIndex 2 (steerCin p))).drop 1)
      pairCtl := x.lat.pairCtl ++ [k] } }))

/-! The engines (chapters 04 and 05). -/

/-- R67, R76, R77, R115 to R117, R139 to R141, R172: where the tile's engines advance, a descriptor that passes its check starts,
or waits for the operation ahead where WAIT_PREV asks so; one that fails leaves the queue with its error record, its arrival
and its count, and a bound failure raises ENG_BOUND against its slot; a double-bit error in a line that the record covers in
part is SPAD_UE. Model's choices: log 30, 31, 34, 100. -/
def Obligations.DescriptorChecks : Prop := ∀ (s : State) (t n line : Nat) (op : EngOp),
  let fail := fun (prism : Bool) (st : Nat) => countEngine
    (completeOp (updTile s t fun k => setQueue k prism ((queueOf k prism).eraseIdx n)) t prism op 0 st) t prism false 0 0
  let mx : Prop := enginesGo s t = true ∧ checkPlace (tileOf s t) false = some n ∧ (tileOf s t).mxQ[n]? = some op
  let pz : Prop := enginesGo s t = true ∧ checkPlace (tileOf s t) true = some n ∧ (tileOf s t).pzQ[n]? = some op
  (mx → mxStatus op = 0 → (n = 0 ∨ mxWaitPrev op.desc = false) → exec (.mxdCheck t {}) s = .next (updTile s t fun k => { k with
    mxQ := k.mxQ.modify n fun o => { o with
      started := true, checked := true, left := stepsAtStart k false n o, total := mxCycles o.desc } })) ∧
  (mx → mxStatus op = 0 → n ≠ 0 → mxWaitPrev op.desc = true → exec (.mxdCheck t {}) s = .next (updTile s t fun k => { k with
    mxQ := k.mxQ.modify n fun o => { o with checked := true } })) ∧
  (pz → pzStatus op = 0 → (n = 0 ∨ pzWaitPrev op.desc = false) → exec (.pzdCheck t {}) s = .next (updTile s t fun k => { k with
    pzQ := k.pzQ.modify n fun o => { o with
      started := true, checked := true, left := stepsAtStart k true n o, total := pzCycles o.desc } })) ∧
  (pz → pzStatus op = 0 → n ≠ 0 → pzWaitPrev op.desc = true → exec (.pzdCheck t {}) s = .next (updTile s t fun k => { k with
    pzQ := k.pzQ.modify n fun o => { o with checked := true } })) ∧
  (∀ st : Nat, mx → mxStatus op = st → st ≠ 0 → st ≠ 4 → exec (.mxdCheck t {}) s = .next (fail false st)) ∧
  (mx → mxStatus op = 4 → exec (.mxdCheck t {}) s = .next (tileFault (fail false 4) t op.slot 0x07 (BitVec.ofNat 32 op.off) false)) ∧
  (∀ st : Nat, pz → pzStatus op = st → st ≠ 0 → st ≠ 4 → exec (.pzdCheck t {}) s = .next (fail true st)) ∧
  (pz → pzStatus op = 4 → exec (.pzdCheck t {}) s = .next (tileFault (fail true 4) t op.slot 0x07 (BitVec.ofNat 32 op.off) false)) ∧
  (enginesGo s t = true → lineIn (checkLines s t false) line = true →
    exec (.mxdCheck t { bad := some line }) s = .next (regionFault s (regionOfTile t) 0x20 (line * 16) (some t) 0)) ∧
  (enginesGo s t = true → lineIn (checkLines s t true) line = true →
    exec (.pzdCheck t { bad := some line }) s = .next (regionFault s (regionOfTile t) 0x20 (line * 16) (some t) 0))

/-- R67, R76, R116, R128, R129, R140, R142, R157, R158, R172: the started operation at the head of its queue that may complete
does, here with none of the other engine under way and no snapshot of the tile being copied: its results are written, its
flags are added, the next one starts if it waited for it, its record and beam arrival follow, it counts once with its cycles
(its own, the holds it had, the displaced cycles added); a double-bit error in a line it used is the region fault SPAD_UE; a
residue mismatch of the operation under way that the computation belongs to, the executing one or the one behind it, or of the
reduction packet at the front, counts and is the region fault of its engine, with the offset and slot. Model's choices: log
33, 46, 48, 101. -/
def Obligations.EngineCompletions : Prop := ∀ (s : State) (t extra line : Nat) (behind : Bool) (op : EngOp) (rest : List EngOp) (r : Reduction),
  let q := regionOfTile t
  let k := tileOf s t
  (tileActs s t = true → k.mxQ = op :: rest → mayFinish k op = true → k.pzQ.filter (·.started) = [] → k.snap.copying = false →
    let added := addedCycles false op extra
    let v := addFlags (engineWrites s t (mxResult s t op).1) t (mxResult s t op).2
    exec (.matrixCompletion t extra {}) s = .next (countEngine (completeOp (updTile v t fun k => startNext { k with mxQ := k.mxQ.drop 1 } false)
      t false op (mxCycles op.desc + op.holds + added) 0) t false true (mxBodyCycles op.desc) added)) ∧
  (tileActs s t = true → k.pzQ = op :: rest → mayFinish k op = true → k.mxQ.filter (·.started) = [] → k.snap.copying = false →
    let added := addedCycles true op extra
    let cycles := pzCycles op.desc + op.holds + added
    let v := addFlags (engineWrites s t (pzResult s t op).1) t (pzResult s t op).2
    exec (.prismCompletion t extra {}) s = .next (countEngine (completeOp (updTile v t fun k => startNext { k with pzQ := k.pzQ.drop 1 } true)
      t true op cycles 0) t true true cycles added)) ∧
  (tileActs s t = true → k.mxQ = op :: rest → mayFinish k op = true → lineIn (opLines false op) line = true →
    exec (.matrixCompletion t extra { bad := some line }) s = .next (regionFault s q 0x20 (line * 16) (some t) 0)) ∧
  (tileActs s t = true → k.pzQ = op :: rest → mayFinish k op = true → lineIn (opLines true op) line = true →
    exec (.prismCompletion t extra { bad := some line }) s = .next (regionFault s q 0x20 (line * 16) (some t) 0)) ∧
  (∀ (a : Nat) (st : Nat), cplOf false op = some a → beamOf false op = none →
    completeOp s t false op extra st = writeNum s t a 8 (cplRecord extra st (mxTag op.desc))) ∧
  (∀ (a : Nat) (st : Nat), cplOf true op = some a → beamOf true op = none →
    completeOp s t true op extra st = writeNum s t a 8 (cplRecord extra st (pzTag op.desc))) ∧
  (tileActs s t = true → k.mxQ[b2n behind]? = some op → begun op = true → exec (.residueMx t behind) s = .next
    (regionFault (updCtr s q fun c => { c with mxResidue := (c.mxResidue + 1) % 2 ^ 32 }) q 0x21 op.off (some t) op.slot)) ∧
  (tileActs s t = true → k.pzQ[b2n behind]? = some op → begun op = true → exec (.residuePz t false behind) s = .next
    (regionFault (updCtr s q fun c => { c with pzResidue := (c.pzResidue + 1) % 2 ^ 32 }) q 0x22 op.off (some t) op.slot)) ∧
  (tileActs s t = true → reductionAtFront s t = some r → exec (.residuePz t true behind) s = .next
    (regionFault (updCtr s q fun c => { c with pzResidue := (c.pzResidue + 1) % 2 ^ 32 }) q 0x22 (saOffset r.dest) (some t) 0))

/-! The packet mesh (chapter 08). -/

/-- R32, R225, R228, R230, R234, R235: of the flits that may go on an output one is granted, and none goes before it; a packet at
the edge of its destination's hole is stopped; the next flit in sequence, clean or corrected, enters its buffer and leaves the
sender's replay buffer, at an injection tile's edge the bridge's, one of a lost packet only moves the link on, one with a CRC
error is discarded with what follows it and the sender resends from it, one out of sequence is discarded; the fourth failure
in succession retrains the link, which comes back or is marked down with MESH_LINK. Model's choices: log 49, 107. -/
def Obligations.MeshLinksCarryFlits : Prop := ∀ (s : State) (t t' o out inp : Nat) (net : MeshNet) (f : Flit) (q : List Flit),
  let n := netNo net
  let cs := heads s t net
  let mine := cs.filter fun c => (match c.route with | .out o _ _ => o = out | _ => false) && canGo s t out c
  let key := linkKey n inp
  let fails := smGetD (tileOf s t).router.fails key 0
  let onLink := tileRuns s t = true ∧ linkLive s t n inp = true ∧ qGet (tileOf s t).router.link key = f :: q
  let inTurn := f.seq = smGetD (tileOf s t).router.rxSeq key 0
  let bkey := bufKey n inp (vcAt t f.pkt)
  (tileRuns s t = true → (cs.find? fun c => c.route = .discard) = none → mine ≠ [] →
    ∃ c ∈ mine, (∀ d ∈ mine, before s t d c = false) ∧ exec (.flitGrant t net out) s = .next (grantFlit s t out c)) ∧
  (∀ c : Cand, tileRuns s t = true → (cs.find? fun c => c.route = .discard) = some c →
    exec (.flitGrant t net out) s = .next (stopPacket (removePacket s c.flit.pkt) t c.flit.pkt)) ∧
  (onLink → inTurn → inp < 4 → f.dead = false → linkPeer s t inp = some (t', o) → t' ≠ t →
    ∃ u, exec (.flitReceive t net inp .clean) s = .next u ∧ qGet (tileOf u t).router.link key = q ∧
      (∃ age, qGet (tileOf u t).router.buf bkey = qGet (tileOf s t).router.buf bkey ++ [{ f with age := age }]) ∧
      qGet (tileOf u t').router.replay (linkKey n o) = (qGet (tileOf s t').router.replay (linkKey n o)).drop 1 ∧ u.mem = s.mem ∧
      exec (.flitReceive t net inp .corrected) s = .next (countLink u t key 1 0 0)) ∧
  (∀ p : Nat, onLink → inTurn → 4 ≤ inp → f.dead = false → bridgeSide (ackFlit s t n inp f) t (inp - 4) = some p →
    exec (.flitReceive t net inp .clean) s = .next (bridgeTakes (ackFlit s t n inp f) t p n f)) ∧
  (onLink → inTurn → f.dead = true → exec (.flitReceive t net inp .clean) s = .next (ackFlit s t n inp f)) ∧
  (onLink → inTurn → linkPeer s t inp = some (t', o) →
    exec (.flitReceive t net inp .uncorrectable) s = .next (updRouter (updRouter s t fun r => { r with
      link := smSet r.link key []
      fails := smSet r.fails key (fails + 1)
      retraining := if fails ≥ 3 && !r.retraining.contains key then r.retraining ++ [key] else r.retraining }) t'
      fun r => { r with resend := smSet r.resend (linkKey n o) f.seq })) ∧
  (∀ e : EccOutcome, onLink → ¬ inTurn → exec (.flitReceive t net inp e) s = .next (updRouter s t fun r => { r with
      link := smSet r.link key q })) ∧
  (∀ i v : Nat, tileRuns s t = true → smGet (tileOf s t).router.resend (linkKey n out) = some v →
    linkPeer s t out = some (t', i) → linkLive s t' n i = true →
    exec (.replayRequest t net out) s = .next (countLink (updRouter (updRouter s t fun r => { r with
      resend := smDel r.resend (linkKey n out) }) t' fun x => { x with
      link := smSet x.link (linkKey n i) (qGet (tileOf s t).router.replay (linkKey n out)) }) t' (linkKey n i) 0 1 0)) ∧
  (∀ ok : Bool, tileRuns s t = true → (tileOf s t).router.retraining.contains key = true →
    let u := countLink (updRouter s t fun r => { r with
      retraining := r.retraining.filter (· ≠ key), fails := smDel r.fails key
      down := if ok then r.down else r.down ++ [key] }) t key 0 0 1
    let p := regionOfTile t
    exec (.linkRetrain t net inp ok) s = .next (if ok then u
      else regionFault (updCtr u p fun c => { c with linksDown := (c.linksDown + 1) % 2 ^ 32 }) p 0x34 0 none 0))

/-- R31, R32, R220, R222, R228, R229, R240, R329, R362: a tile's packet whose virtual channel has room enters its router's local
input, with a number of its own and the place of its destination, or of the injection tile whose turn it is where it leaves by
a port; one without a target is refused at its source; a bridge's packet goes on its way to the injection tile whose turn it
is, or over the rim to the bridge that lends its points; a broadcast's flit goes to the local output and, each with a copy of
its own, to every other output once each can take it, and a repeat is dropped; a whole packet for this tile is delivered to
its engine, a broadcast's tables to the region's copies, one for another tile is stopped, and one that a frozen tile does not
accept is a counted discard; two packets of one reduction merge into one, in a router and at a port. Model's choices: log 49,
57, 92, 100, 102, 107. -/
def Obligations.MeshPacketsEnterAndLeave : Prop := ∀ (s : State) (t t' p : Nat) (k : Packet) (o : OutPacket)
    (rest : List OutPacket) (ks : List Packet) (f : Flit) (q : List Flit) (inp : Nat),
  let enters := fun (k : Packet) =>
    let key := bufKey (netNo k.net) 4 (vcAt t k)
    let n := { k with uid := s.fabric.packetNo }
    cplDone (updMsg (updRouter { s with fabric := { s.fabric with packetNo := s.fabric.packetNo + 1 } } t fun r => { r with
        buf := smSet r.buf key (qGet r.buf key ++ flitsFor n (cyclesNow s t))
        combine := if k.red.isSome && r.combine.length < 16 then r.combine ++ [(4, n)] else r.combine })
      t fun m => { m with outPk := rest }) t o 0 {}
  let room := fun (k : Packet) => (qGet (tileOf s t).router.buf (bufKey (netNo k.net) 4 (vcAt t k))).length + k.flits ≤ 10
  let sends := tileRuns s t = true ∧ (tileOf s t).msg.outPk = o :: rest ∧ o.pkt.kind ≠ 8
  let near := { o.pkt with dstU := meshU s t', dstV := meshV t', exit := false }
  let far := { o.pkt with dstU := meshU s t', dstV := meshV t', exit := true }
  let bridge := rimRuns s = true ∧ p < 32 ∧ (portOf s p).inj = [] ∧ (portOf s p).toMesh = k :: ks
  let points := injTiles s p
  let bkey := bufKey 1 inp 0
  let plan := floodPlan s t inp f.pkt
  let floods := tileRuns s t = true ∧ qGet (tileOf s t).router.buf bkey = f :: q ∧ f.pkt.kind = 8 ∧
    (plan.outs.all fun o => floodReady s t f.pkt o.1) = true
  let out := fun (net : MeshNet) (r : Router) => { r with
    eject := smSet r.eject (netNo net) (takeCopy k k.flits (qGet r.eject (netNo net))) }
  let whole := fun net : MeshNet => tileRuns s t = true ∧ wholeAtEject s t net = some k
  let merging := fun v => rimRuns s = true ∧ p < 32 ∧ portPair ((portReds (portOf s p)).take 64) = some v
  let merged := fun u => Host.Outcome.next (updPortCtr u p fun c => { c with merges := (c.merges + 1) % 2 ^ 32 })
  (sends → targetOf s t o.pkt = .mesh t' → room near → exec (.packetInject (.tile t) {}) s = .next (enters near)) ∧
  (sends → targetOf s t o.pkt = .exit p → (injTiles s p)[(portOf s p).exitRotor % (injTiles s p).length]? = some t' → room far →
    exec (.packetInject (.tile t) {}) s = .next (updPort (enters far) p fun x => { x with exitRotor := x.exitRotor + 1 })) ∧
  (∀ e : LineErrors, sends → targetOf s t o.pkt = .refused →
    exec (.packetInject (.tile t) e) s = .next (refuseAtSource (updMsg s t fun m => { m with outPk := rest }) t o e)) ∧
  (∀ e : LineErrors, bridge → k.kind ≠ 8 → localTarget s (pointRegion s p) k.dstLtile = .mesh t' → (lenders s).contains p = true →
    (portOf s p).lender = none → points ≠ [] →
    ∃ u, exec (.packetInject (.port p) e) s = .next u ∧ (portOf u p).toMesh = ks ∧
      (portOf u p).rotor = (portOf s p).rotor + 1 ∧ u.fabric.packetNo = s.fabric.packetNo + 1 ∧ u.mem = s.mem) ∧
  (∀ (b : Nat) (e : LineErrors), bridge → (lenders s).contains p = false → lenderOf (lenders s) p = some b → (portOf s p).lender = none →
    exec (.packetInject (.port p) e) s = .next (rimSend (updPort (updPort (updPortCtr s p fun c => { c with
      borrows := (c.borrows + 1) % 2 ^ 32 }) p fun x => { x with lender := some b }) p fun x => { x with toMesh := ks })
      p { dst := b, load := .mesh k })) ∧
  (floods → smGet (tileOf s t).router.flood inp = none → f.idx = 0 →
    (tileOf s t).router.seen.contains (floodPair f.pkt) = true →
    exec (.broadcastFlood t inp) s = .next (updRouter s t fun r => { r with
      buf := smSet r.buf bkey q
      flood := if f.pkt.flits ≤ 1 then smDel r.flood inp
        else smSet r.flood inp { uid := f.pkt.uid, outs := [], here := false } })) ∧
  (floods → plan.here = true → ∃ u, exec (.broadcastFlood t inp) s = .next u ∧ u.mem = s.mem ∧
      (f.idx = 0 → floodPair f.pkt ∈ (tileOf u t).router.seen) ∧ qGet (tileOf u t).router.buf bkey = q ∧
      qGet (tileOf u t).router.eject 1 = qGet (tileOf s t).router.eject 1 ++ [{ f with det := none }]) ∧
  (floods → smGet (tileOf s t).router.flood inp = none → ∀ o t', o ∈ plan.outs → meshNext s t o.1 = some t' →
    let there := linkKey 1 (facingInput o.1)
    ∃ u g, exec (.broadcastFlood t inp) s = .next u ∧ g.pkt = { f.pkt with uid := o.2 } ∧ g.idx = f.idx ∧
      qGet (tileOf u t').router.link there = qGet (tileOf s t').router.link there ++ [g]) ∧
  (∀ net : MeshNet, whole net → k.kind = 8 →
    exec (.packetEject t net) s = .next (takeTables (updRouter s t (out net)) (regionOfTile t) k)) ∧
  (∀ net : MeshNet, whole net → k.kind ≠ 8 → (tileOf s t).core.ltile ≠ some k.dstLtile →
    exec (.packetEject t net) s = .next (stopPacket (updRouter s t (out net)) t k)) ∧
  (∀ net : MeshNet, whole net → k.kind = 9 → (tileOf s t).core.ltile = some k.dstLtile →
    exec (.packetEject t net) s = .next (updRouter s t (out net))) ∧
  (∀ net : MeshNet, whole net → k.kind ∉ [8, 9] → (tileOf s t).core.ltile = some k.dstLtile → (tileOf s t).snap.frozen = false →
    exec (.packetEject t net) s = .next (updMsg (updRouter s t (out net)) t fun m => { m with arrived := m.arrived ++ [k] })) ∧
  (∀ net : MeshNet, whole net → k.kind ∉ [8, 9] → (tileOf s t).core.ltile = some k.dstLtile → (tileOf s t).snap.frozen = true →
    frozenAccepts (updRouter s t (out net)) t k = false →
    exec (.packetEject t net) s = .next (countDiscard (updRouter s t (out net)) (regionOfTile t))) ∧
  (∀ a b : Packet, tileRuns s t = true →
    mergePair (vc2Output s t) ((tileOf s t).router.combine.map (·.2)) = some (a, b) →
    exec (.vc2Merge (.tile t)) s = .next (updCtr (updRouter s t fun r => mergeInRouter r a b) (regionOfTile t)
      fun c => { c with merges := (c.merges + 1) % 2 ^ 32 })) ∧
  (∀ (i j a b : Nat) (x y : Packet), merging ((false, i, a, x), (false, j, b, y)) →
    exec (.vc2Merge (.port p)) s = merged (updPort s p fun z => { z with
      fromMesh := (z.fromMesh.set i (min a b, mergedPacket x y)).eraseIdx j })) ∧
  (∀ (i j a b : Nat) (x y : Packet), merging ((false, i, a, x), (true, j, b, y)) →
    exec (.vc2Merge (.port p)) s = merged (updPort s p fun z => { z with
      fromMesh := z.fromMesh.set i (min a b, mergedPacket x y), fromRim := z.fromRim.eraseIdx j })) ∧
  (∀ (i j a b : Nat) (x y : Packet) (g : LinkFrame), merging ((true, i, a, x), (true, j, b, y)) →
    (portOf s p).fromRim[i]? = some (a, g) → exec (.vc2Merge (.port p)) s = merged (updPort s p fun z => { z with
      fromRim := (z.fromRim.set i (min a b, { g with body := .packet (mergedPacket x y) })).eraseIdx j }))

/-- R241 to R243: a contribution that its record does not expect is counted and logged, one whose ROP, N or WIN differs sets flag
bit 7, one that would exceed TOTAL bit 6, any other is combined; a complete record gets its flags, STATE 2 and its beam
arrival. Model's choices: log 34, 47, 100. -/
def Obligations.ReductionRecords : Prop := ∀ (s : State) (t : Nat) (k : Packet) (r : Reduction),
  let a := saOffset r.dest
  let u := updMsg s t fun m => { m with arrived := m.arrived.erase k }
  let arrives := tileRuns s t = true ∧ ((tileOf s t).msg.arrived.find? fun k => k.red.isSome) = some k ∧ k.red = some r
  let open_ := readNum s t (a + 6) 1 = 1 ∧ readNum s t a 2 = r.cid
  let alike := readNum s t (a + 8) 1 = r.rop ∧ readNum s t (a + 9) 1 = r.n ∧ readNum s t (a + 0xA) 1 = r.win
  let flag := fun n => writeNum u t (a + 7) 1 (readNum s t (a + 7) 1 ||| 2 ^ n)
  (arrives → ¬ open_ → exec (.reductionPacketArrival t {}) s = .next (logRegion (updCtr u (regionOfTile t) fun c =>
    { c with redMiss := (c.redMiss + 1) % 2 ^ 32 }) (regionOfTile t) 0x0310 1 ((tileOf s t).core.ltile.getD 0) r.cid)) ∧
  (arrives → open_ → ¬ alike → exec (.reductionPacketArrival t {}) s = .next (flag 7)) ∧
  (arrives → open_ → alike → readNum s t (a + 4) 2 + r.contrib > readNum s t (a + 2) 2 →
    exec (.reductionPacketArrival t {}) s = .next (flag 6)) ∧
  (arrives → open_ → alike → readNum s t (a + 4) 2 + r.contrib ≤ readNum s t (a + 2) 2 →
    exec (.reductionPacketArrival t {}) s = .next (combineRecord u t a r)) ∧
  (∀ (d : Nat) (rest : List Nat), tileRuns s t = true → (tileOf s t).redDone = d :: rest →
    ∃ u, exec (.reductionComplete t {}) s = .next u ∧ (tileOf u t).redDone = rest ∧
      (∀ b, b ≠ spad t (d + 6) → b ≠ spad t (d + 7) → (b < spad t (d + 16) ∨ spad t (d + 16 + 16 * readNum s t (d + 9) 1) ≤ b) →
        memRead u.mem b = memRead s.mem b) ∧
      (bits (readNum s t (d + 8) 1) 7 6 = 0 → readSpad u t (d + 16) (16 * readNum s t (d + 9) 1) =
        padTo (16 * readNum s t (d + 9) 1) ((List.range (readNum s t (d + 9) 1)).flatMap fun i => natLe 4
          (laneResult (readNum s t (d + 8) 1) (readNum s t (d + 0xA) 1) (readNum s t (d + 7) 1) (readLane s t d i)).1)) ∧
      (bits (readNum s t (d + 8) 1) 7 6 ≠ 0 → readNum u t (d + 7) 1 = readNum s t (d + 7) 1 ∧
        readSpad u t (d + 16) (16 * readNum s t (d + 9) 1) = readSpad s t (d + 16) (16 * readNum s t (d + 9) 1)) ∧
      readNum u t (d + 6) 1 = 2)

/-! The message engine (chapter 09). -/

/-- R77, R249 to R252, R294, R324: a message that passes its check is validated, one that fails leaves the queue with its count,
its error completion and, for BOUND, ENG_BOUND; a notify record goes first, then the validated head that need not wait: a
contribution or a message without acknowledgement as one packet, one with it under the first free entry; an acknowledgement or
reply counts in, the last one ending the operation with its record, one for no entry late, unless it answers the engine's own
snapshot write; a NAK ends it with 0x10 + reason; an entry that times out with 0x20. Model's choices: log 9, 35, 50, 51, 66,
103. -/
def Obligations.MessageSenderSide : Prop := ∀ (s : State) (t e n : Nat) (m : SendMsg) (rest : List SendMsg) (k : Packet)
    (x : Track),
  let out := updMsg s t fun m => { m with arrived := m.arrived.erase k }
  let takes := fun sel : Packet → Bool => tileRuns s t = true ∧ (tileOf s t).msg.arrived.find? sel = some k
  let entry := (tileOf s t).msg.track[e]? = some (some x) ∧ e < 16 ∧ x.txid = pkTxid k ∧ x.txid % 16 = e
  let answer := fun k : Packet => decide (k.kind = 5) || (isCtlReply k && !ctlOfGet s t k)
  let head := tileActs s t = true ∧ (tileOf s t).msg.notify = [] ∧ (tileOf s t).snap.stopping = false ∧
    (tileOf s t).msg.sendQ = m :: rest ∧ m.validated = true
  let waits := hFence m.hdr && (tileOf s t).msg.track.any (·.isSome)
  let away := hDstDev m.hdr ≠ s.fabric.devId ∨ (tileOf s t).core.ltile ≠ some (hDstLtile m.hdr)
  let sent := fun ks : List OutPacket => updMsg (updMsg s t fun e => { e with sendQ := rest }) t
    fun e => { e with outPk := e.outPk ++ ks }
  let reply := fun k : Packet => decide (k.kind = 4) || (isCtlReply k && ctlOfGet s t k)
  (tileActs s t = true → (tileOf s t).msg.sendQ = m :: rest → m.validated = false → msgStatus m = 0 →
    exec (.sendQueueValidate t {}) s = .next (updMsg s t fun e => { e with sendQ := { m with validated := true } :: rest })) ∧
  (tileActs s t = true → (tileOf s t).msg.sendQ = m :: rest → m.validated = false → msgStatus m = n → n ≠ 0 →
    let u := msgFail (updCtr (updMsg s t fun e => { e with sendQ := rest }) (regionOfTile t) fun c =>
      { c with sendErr := (c.sendErr + 1) % 2 ^ 32 }) t m n
    exec (.sendQueueValidate t {}) s =
      .next (if n = 4 then tileFault u t m.slot 0x07 (BitVec.ofNat 32 m.off) false else u)) ∧
  (head → (isTracked m = true → (tileOf s t).msg.track.all (·.isSome) = false) →
    exec (.msgInjection t {}) s = .next (injectHead s t m rest {})) ∧
  (∀ (x : NotifyRec) (xs : List NotifyRec), tileActs s t = true → (tileOf s t).msg.notify = x :: xs →
    notifyLeaves (tileOf s t).msg = false → exec (.msgInjection t {}) s = .next (updMsg (updMsg s t fun m => { m with notify := xs }) t
      fun e => { e with outPk := e.outPk ++ [{ pkt := notifyPacket s t x, start := cyclesNow s t }] })) ∧
  (head → hClass m.hdr = 2 → exec (.msgInjection t {}) s = .next (sent [{ pkt := redPacket s t m, start := cyclesNow s t }])) ∧
  (head → isMsg m = true → hAck m.hdr = false → waits = false → away → exec (.msgInjection t {}) s =
    .next (sent [{ pkt := msgPacket s t m 0, cpl := some m, start := cyclesNow s t }])) ∧
  (∀ i : Nat, head → isMsg m = true → hAck m.hdr = true → waits = false → away →
    (tileOf s t).msg.track.findIdx? (·.isNone) = some i → i < 16 →
    ∃ u tx, exec (.msgInjection t {}) s = .next u ∧ (tileOf u t).msg.sendQ = rest ∧ tx % 16 = i ∧
      ((tileOf u t).msg.track.getD i none).map (fun y => (y.txid, y.waiting, y.tag, y.seq)) = some (tx, 1, hTag m.hdr, hSeq m.hdr) ∧
      (tileOf u t).msg.outPk = (tileOf s t).msg.outPk ++ [{ pkt := msgPacket s t m tx, start := cyclesNow s t }] ∧ u.mem = s.mem) ∧
  (takes answer → entry → k.kind = 5 → exec (.ackArrival t {}) s = .next (responseIn out t e x)) ∧
  (takes reply → entry → k.kind = 4 → exec (.readReplyArrival t {}) s = .next
    (responseIn (writeSpad out t (fld k.payload 0 4) (slice k.payload 16 (fld k.payload 4 2))) t e x)) ∧
  (takes (fun k => decide (k.kind = 6)) → (tileOf s t).msg.ringPend = none → entry → pkTxid k ≠ 0 →
    exec (.nakArrival t {}) s = .next (nakEntry (trackDone out t e x (0x10 + fld k.payload 0 1)) t k x.tag x.seq)) ∧
  (takes answer → k.kind ≠ 5 → exec (.ackArrival t {}) s = .next (ctlReply out t k {})) ∧
  (takes reply → k.kind ≠ 4 → exec (.readReplyArrival t {}) s = .next (ctlReply out t k {})) ∧
  (takes answer → k.kind = 5 → trackOf s t (pkTxid k) = none →
    exec (.ackArrival t {}) s = .next (if ofEngine s t k then copyAnswered out t else countLate out t)) ∧
  (takes (fun k => decide (k.kind = 6)) → (tileOf s t).msg.ringPend = none → ofEngine s t k = true → fld k.payload 2 1 = 1 →
    exec (.nakArrival t {}) s = .next (copyFailed out t)) ∧
  (tileRuns s t = true → (tileOf s t).msg.track.getD e none = some x → exec (.senderTimeout t e {}) s = .next
    (trackDone (updCtr s (regionOfTile t) fun c => { c with timeouts := (c.timeouts + 1) % 2 ^ 32 }) t e x 0x20)) ∧
  (∀ st : Nat, e < (tileOf s t).msg.track.length → x.beam = none →
    (tileOf (trackDone s t e x st) t).msg.track[e]? = some none ∧
    (∀ a, x.cpl = some a → x.tag < 65536 → st < 256 → 
      readNum (trackDone s t e x st) t a 8 = min (cyclesSince s t x.start + 1) 0xFFFFFFFF * 2 ^ 32 + st * 65536 + x.tag) ∧
    (x.cpl = none → (trackDone s t e x st).mem = s.mem))

/-- R256, R259, R261 to R263: a message that passes the checks waits for its TAIL update; one that fails is refused with its
reason; one for a full ring is held, or refused with RING_FULL; a hold's cycle repeats the checks and its window ends in HELD;
the TAIL update writes the entry with its stamp, moves TAIL, wakes a watched ring and lets the acknowledgement go, and for a
ring closed meanwhile the message is refused and a NAK entry lost. Model's choices: log 35, 50, 51, 100. -/
def Obligations.MessageReceiverSide : Prop := ∀ (s : State) (t n ring place why window : Nat) (skip : Option (Nat × Nat))
    (k : Packet) (r : Option Nat),
  let u := updMsg s t fun m => { m with arrived := m.arrived.erase k }
  let tests := tileRuns s t = true ∧ (tileOf s t).msg.ringPend = none ∧ nextMsg s t = some k
  let held := tileRuns s t = true ∧ (tileOf s t).msg.hold = some (k, n, window)
  let counted := updCtr s (regionOfTile t) fun c => { c with holdCycles := (c.holdCycles + 1) % 2 ^ 32 }
  let clear := fun s => updMsg s t fun m => { m with hold := none }
  (tests → checkMsg (tileOf s t) k = .accept ring place skip →
    exec (.msgArrival t) s = .next (acceptMsg u t k ring place skip)) ∧
  (tests → checkMsg (tileOf s t) k = .nak why r → exec (.msgArrival t) s = .next (refuseMsg u t k why r)) ∧
  (tests → checkMsg (tileOf s t) k = .noRoom ring → (k.kind = 0 ∨ (tileOf s t).core.holdWindow = 0) →
    exec (.msgArrival t) s = .next (refuseMsg u t k 1 (some ring))) ∧
  (tests → checkMsg (tileOf s t) k = .noRoom ring → k.kind ≠ 0 → (tileOf s t).core.holdWindow ≠ 0 →
    exec (.msgArrival t) s = .next (updMsg (updCtr u (regionOfTile t) fun c => { c with holds := (c.holds + 1) % 2 ^ 32 }) t
      fun m => { m with hold := some (k, 0, (tileOf s t).core.holdWindow) })) ∧
  (held → checkMsg (tileOf s t) k = .accept ring place skip → (tileOf s t).msg.ringPend = none →
    exec (.holdRegisterRetry t) s = .next (acceptMsg (clear counted) t k ring place skip)) ∧
  (held → checkMsg (tileOf s t) k = .nak why r →
    exec (.holdRegisterRetry t) s = .next (refuseMsg (clear counted) t k why r)) ∧
  (held → checkMsg (tileOf s t) k = .noRoom ring →
    exec (.holdRegisterRetry t) s = .next (updMsg counted t fun m => { m with hold := some (k, n + 1, window) })) ∧
  (held → checkMsg (tileOf s t) k = .accept ring place skip → (tileOf s t).msg.ringPend ≠ none →
    exec (.holdRegisterRetry t) s = .next (updMsg counted t fun m => { m with hold := some (k, n + 1, window) })) ∧
  (held → window ≤ n → exec (.holdTimeout t) s = .next
    (refuseMsg (clear s) t k 7 (tagRing (tileOf s t).core (fld k.payload 4 2)))) ∧
  (∀ (p : RingPend) (g : Ring), tileRuns s t = true → (tileOf s t).msg.ringPend = some p →
    (tileOf s t).rings[p.ring]? = some g → p.closed = false → p.skip = none → p.entry.length = p.len → 32 ≤ p.len →
    ∃ u, exec (.ringTailUpdate t {}) s = .next u ∧ (tileOf u t).msg.ringPend = none ∧
      (tileOf u t).rings[p.ring]? = some { g with tail := (p.place + p.len) % g.size } ∧
      readSpad u t (g.base + p.place) p.len = setFld p.entry 0x10 8 (tileTb s t) ∧
      (∀ b, (b < spad t (g.base + p.place) ∨ spad t (g.base + p.place) + p.len ≤ b) → memRead u.mem b = memRead s.mem b) ∧
      ∀ b, b ≠ p.ring → (tileOf u t).rings[b]? = (tileOf s t).rings[b]?) ∧
  (∀ p : RingPend, tileRuns s t = true → (tileOf s t).msg.ringPend = some p → p.closed = true →
    let v := updMsg s t fun m => { m with ringPend := none }
    exec (.ringTailUpdate t {}) s = .next (if p.isNak then countLostNak v t else refuseMsg v t p.pkt 2 (some p.ring)))

/-- R38, R253, R254: a remote write outside the monitor area stores its bytes and answers, one into it is refused with NAK BOUND;
a remote read sends back the bytes it names; a control-space access is performed through the mirror and answered. Model's
choices: log 92, 100. -/
def Obligations.RemoteAccesses : Prop := ∀ (s : State) (t : Nat) (k : Packet),
  let u := updMsg s t fun m => { m with arrived := m.arrived.erase k }
  let off := saOffset (pkAddr k)
  let len := fld k.payload 8 2
  let takes := fun n : Nat => tileRuns s t = true ∧ ((tileOf s t).msg.arrived.find? fun k => k.kind = n) = some k
  (takes 2 → (0x2000 ≤ off ∨ len = 0) → bit (fld k.payload 0xB 1) 0 = false → exec (.remoteWrite t {}) s = .next
    (queueOut (countServed (writeSpad u t off (slice k.payload 16 len)) t) t (ackPacket k))) ∧
  (takes 2 → (0x2000 ≤ off ∨ len = 0) → bit (fld k.payload 0xB 1) 0 = true → exec (.remoteWrite t {}) s = .next
    (countServed (writeSpad u t off (slice k.payload 16 len)) t)) ∧
  (takes 2 → off < 0x2000 → 0 < len → bit (fld k.payload 0xB 1) 0 = false →
    exec (.remoteWrite t {}) s = .next (refuseMsg u t k 5 none)) ∧
  (takes 2 → off < 0x2000 → 0 < len → bit (fld k.payload 0xB 1) 0 = true →
    exec (.remoteWrite t {}) s = .next (countDiscard u (regionOfTile t))) ∧
  (takes 3 → (0x2000 ≤ off ∨ len = 0) → exec (.remoteRead t {}) s = .next
    (countServed (queueOut u t (readReply u t k)) t)) ∧
  (takes 3 → off < 0x2000 → 0 < len → exec (.remoteRead t {}) s = .next (refuseMsg u t k 5 none)) ∧
  (∀ ks : List Packet, eyepieceRuns s = true → s.dict.serving = true → s.dict.accesses = k :: ks →
    let v := mirrorAccess { s with dict := { s.dict with accesses := ks } } (fld k.payload 0 8) (fld k.payload 0x10 1)
      (fld k.payload 0x11 1) (fld k.payload 8 8)
    exec .controlSpaceAccess s = .next (if k.dstDev = 0xFFFF then v.1 else replyAccess v.1 k v.2.1 v.2.2))

/-! Beam channels, the timebase, timed actions and events (chapter 10). -/

/-- R266, R267, R272, R273, R350: with every vote 1 and a participant a channel is released on the wafer, and else not; one of
system scope is decided with the children: the root releases, another device sends a changed up state to its parent. A second
failed copy fences what the segment serves. The parent's release is acted on once and goes to the children; a child's up state
is kept; the up state and the last releases are repeated. A release clears the votes, sets the flags and readies the slots
that wait. Model's choices: log 40, 56. -/
def Obligations.BeamChannels : Prop := ∀ (s : State) (ch p segment copy : Nat) (block : List Byte),
  let bad := smGetD s.beam.failed segment []
  let child := { s with beam := { s.beam with childUp := smSet s.beam.childUp (p * 32 + fld block 2 1) (fld block 4 1) } }
  let noted := logEvent { s with beam := { s.beam with
    failed := smSet s.beam.failed segment (bad ++ [copy]), copiesFailed := (s.beam.copiesFailed + 1) % 2 ^ 32 } }
    0x0202 1 segment copy
  let takes := carriesBlocks s p = true ∧ blockGood block = true ∧ fld block 0 1 = 6
  let here : Prop := rootsRun s = true ∧ ch < 31
  (here → systemScope s ch = false → exec (.beamRelease ch) s = .next (if localUp s ch then releaseWafer s ch else s)) ∧
  (here → systemScope s ch = true → exec (.beamRelease ch) s = .next (decideSystem s ch)) ∧
  (parentPort s = 0xFF → decideSystem s ch =
    if upState s ch then releaseSystem s ch ((s.beam.count.getD ch 0 + 1) % 256) else s) ∧
  (parentPort s ≠ 0xFF → decideSystem s ch = if b2n (upState s ch) = smGetD s.beam.upSent ch 0 then s
    else emit { s with beam := { s.beam with upSent := smSet s.beam.upSent ch (b2n (upState s ch)) } }
      (.block (parentPort s) (beamBlock 0 ch (s.beam.count.getD ch 0) (b2n (upState s ch))))) ∧
  (exec (.beamRelease 31) s = .next s) ∧
  (rimRuns s = true → segment < 48 + regionCount → copy < 3 → copy ∉ bad → bad.length ≠ 1 →
    exec (.beamCopyFail segment copy) s = .next noted) ∧
  (rimRuns s = true → segment < 48 → copy < 3 → copy ∉ bad → bad.length = 1 →
    exec (.beamCopyFail segment copy) s = .next (fenceField noted segment)) ∧
  (rimRuns s = true → 48 ≤ segment → segment < 48 + regionCount → copy < 3 → copy ∉ bad → bad.length = 1 →
    exec (.beamCopyFail segment copy) s = .next (regionFault noted (segment - 48) 0x35 0 none 0)) ∧
  (takes → fld block 1 1 = 0 → fld block 2 1 < 31 → systemScope s (fld block 2 1) = true → p ∈ childPorts s →
    fld block 3 1 = s.beam.count.getD (fld block 2 1) 0 → exec (.beamUpFrameRx p block) s =
      .next (if rootsRun s then decideSystem child (fld block 2 1) else child)) ∧
  (takes → fld block 3 1 ≠ s.beam.count.getD (fld block 2 1) 0 → exec (.beamUpFrameRx p block) s = .next s) ∧
  (takes → fld block 1 1 = 1 → fld block 2 1 < 31 → systemScope s (fld block 2 1) = true → parentPort s = p →
    rootsRun s = true → fld block 3 1 ≠ s.beam.count.getD (fld block 2 1) 0 →
    exec (.beamReleaseFrameRx p block) s = .next (releaseSystem s (fld block 2 1) (fld block 3 1))) ∧
  (takes → fld block 1 1 = 1 → fld block 3 1 = s.beam.count.getD (fld block 2 1) 0 →
    exec (.beamReleaseFrameRx p block) s = .next s) ∧
  (∀ n : Nat,
    let v := releaseWafer { s with beam := { s.beam with
      count := s.beam.count.set ch n, lastRelease := smSet s.beam.lastRelease ch n
      upSent := smSet s.beam.upSent ch 0, childUp := s.beam.childUp.filter fun e => e.1 % 32 ≠ ch } } ch
    releaseSystem s ch n = { v with out := (releaseSystem s ch n).out } ∧
    ∀ q, q ∈ childPorts v → inService v q = true → .block q (beamBlock 1 ch n 0) ∈ (releaseSystem s ch n).out) ∧
  (rimRuns s = true → p < 32 → personality s p = 1 → inService s p = true → ∃ u, exec (.beamBlockRepeat p) s = .next u ∧
    u = { s with out := u.out } ∧
    ∀ c, c < 31 → systemScope s c = true →
      (parentPort s = p → .block p (beamBlock 0 c (s.beam.count.getD c 0) (smGetD s.beam.upSent c 0)) ∈ u.out) ∧
      (∀ n, p ∈ childPorts s → smGet s.beam.lastRelease c = some n → .block p (beamBlock 1 c n 0) ∈ u.out)) ∧
  (∀ (c : Core) (event : Bool),
    let r := releaseCore c ch event
    r.votes = c.votes &&& ~~~(BitVec.ofNat 32 (2 ^ ch)) ∧ r.released = c.released ||| BitVec.ofNat 32 (2 ^ ch) ∧
    ∀ (n : Nat) (x : TaskSlot), c.slots[n]? = some x → x.st = .waiting → x.wait = .release ch →
      ∃ y : TaskSlot, r.slots[n]? = some y ∧ (y.st = .ready ∨ y.st = .running) ∧ y.wait = .nothing ∧ y.pc = x.pc)

/-- R275 to R281, R349: a region's copy of TB is set within 2 ticks of the master and does not go back while a model slot serves;
a Sync, of one step or two, is answered by a Delay_Req, and the Delay_Resp to it gives the offset; every reference's offset
disciplines TB; its loss is holdover; the pulse at a whole second; the TIME block of the base member; the value of the next
edge. Model's choices: log 58, 90, 98. -/
def Obligations.TimebaseReferences : Prop := ∀ (s : State) (p port v : Nat) (skew offset : Int) (block : List Byte)
    (q : Req) (m : PtpMsg),
  let t1 := fld block 9 8
  let t2 := fld block 17 8
  let t3 := fld block 1 8
  let kept := updPort s p fun x => { x with timeRx := some (t3, s.time.tb) }
  let ptp := eyepieceRuns s = true ∧ tbReference s = 2 ∧ m.udp = true ∧ port = dnum s 0x2020 6 0 ∧ m.domain = dnum s 0x2020 7 0
  let answered := fun came : Nat => emit { s with time := { s.time with
    ptpWait := none, ptpSync := some (ptpTime m 1, came), ptpReq := some (s.time.ptpSeq, s.time.tb)
    ptpSeq := (s.time.ptpSeq + 1) % 2 ^ 16 } } (.ptp port s.time.ptpSeq)
  (p < regionCount → clocksRun (regionOfNo s p) = true → skew.natAbs ≤ 2 → ∃ u, exec (.tbResync p skew) s = .next u ∧
    (regionOfNo u p).skew = skew ∧ (∀ x, x ≠ p → regionOfNo u x = regionOfNo s x) ∧
    regionTb u p = max (if someServing s then regionTb s p else 0) (Int.ofNat s.time.tb + skew).toNat) ∧
  (rimRuns s = true → tbReference s ≠ 0 → exec (.tbReferenceMeasure offset) s = .next (discipline s offset)) ∧
  (rimRuns s = true → tbReference s ≠ 0 → s.time.holdover = false → exec .tbHoldover s = .next
    (setAlert (logEvent { s with time := { s.time with holdover := true, locked := false, good := 0 } } 0x0111 1 1 0) 6)) ∧
  (∀ w, rimRuns s = true → tbReference s = 1 → s.time.ppsNext = some (v, w) → w + 250000000 ≤ s.time.tb →
    s.time.tb ≤ w + 2250000000 → exec .ppsEdge s = .next
      (discipline { s with time := { s.time with ppsNext := none, ppsLast := s.time.tb } } ((v : Int) - s.time.tb))) ∧
  (rimRuns s = true → tbReference s = 1 → s.time.ppsNext = none → s.time.tb % second ≤ second / 2 →
    exec .ppsEdge s = .next (discipline { s with time := { s.time with ppsNext := none, ppsLast := s.time.tb } }
      (-(s.time.tb % second : Nat)))) ∧
  (ptp → m.kind = 0 → m.twoStep = false → exec (.ptpMessage port m) s = .next (answered s.time.tb)) ∧
  (ptp → m.kind = 0 → m.twoStep = true →
    exec (.ptpMessage port m) s = .next { s with time := { s.time with ptpWait := some (m.seq, s.time.tb) } }) ∧
  (∀ a : Nat, ptp → m.kind = 8 → s.time.ptpWait = some (m.seq, a) → exec (.ptpMessage port m) s = .next (answered a)) ∧
  (∀ a b c : Nat, ptp → m.kind = 9 → s.time.ptpSync = some (a, b) → s.time.ptpReq = some (m.seq, c) →
    exec (.ptpMessage port m) s = .next (discipline { s with time := { s.time with ptpReq := none } }
      ((((a : Int) - b) + ((ptpTime m (-1) : Int) - c)) / 2))) ∧
  (rimRuns s = true → dnum s 0x2020 8 0 = 1 → s.time.tb % second ≤ 5 → (s.time.locked = true ∨ s.time.holdover = true) →
    exec .ppsOutPulse s = .next { s with time := { s.time with ppsOut := true } }) ∧
  (rimRuns s = true → p < 32 → personality s p = 1 → inService s p = true → p = trunkBase s p →
    exec (.timeBlockTx p) s = .next (emit s (.block p (controlBlock 5 (natLe 8 s.time.tb
      ++ natLe 8 ((portOf s p).timeRx.getD (0, 0)).1 ++ natLe 8 ((portOf s p).timeRx.getD (0, 0)).2
      ++ natLe 1 (b2n (s.time.locked || s.time.holdover))))))) ∧
  (carriesBlocks s p = true → blockGood block = true → fld block 0 1 = 5 → exec (.timeBlockRx p block) s = .next
    (if tbReference kept = 3 ∧ dnum kept 0x2020 5 0xFF = p ∧ t1 ≠ 0 then
      discipline kept ((((t2 : Int) - t1) - ((s.time.tb : Int) - t3)) / 2) else kept)) ∧
  (∀ a b : State, (a.time.holdover = false → b = discipline a offset → offset.natAbs ≤ 2500 →
    b = { a with time := { a.time with
      offset := offset, good := (if offset.natAbs ≤ 50 then min 10 (a.time.good + 1) else 0)
      locked := decide ((if offset.natAbs ≤ 50 then min 10 (a.time.good + 1) else 0) = 10), slew := offset } }) ∧
    (a.time.holdover = false → b = discipline a offset → 2500 < offset.natAbs → a.dev.st = .ready → someServing a = false →
      b.time.tb = ((a.time.tb : Int) + offset).toNat ∧ b.time.slew = 0 ∧
      b.time.steps = (a.time.steps + 1) % 2 ^ 32)) ∧
  (NewWrite s q 0x2020 3 v → exec (.ppsValueWrite q v) s = .next
    (acked { s with time := { s.time with ppsNext := some (v, s.time.tb) } } q 2 0x2020 3 stOk))

/-- R214, R284 to R289, R328, R331: a slot written 1 is armed or refused with its reason, one written 0 while armed is cancelled;
from T less the lead the regions with clocks get the action, an internal one when it is armed; one that is due, no other
before it, is performed by the regions whose own TB has reached T, whose tiles go on or stop by themselves, and is done with
its last region; nothing is due in SAFE-HOLD. A timed reset is cancelled during a start. Model's choices: log 59, 64, 87, 100.
-/
def Obligations.TimedActions : Prop := ∀ (s : State) (n : Nat) (q : Req),
  let x := timedSlot s n
  let op := x.armOp
  let ps := performers s n
  let serving : Prop := s.steward.running = true ∧ (s.dev.st = .ready ∨ s.dev.st = .serving ∨ s.dev.st = .recovering)
  let port := 0x3000 + taArg op % 32
  let u := actionDone s n
  let then_ := fun (v : State) (f : State → State) => if (perform v n).2 then f (perform v n).1 else (perform v n).1
  (n < 64 → NewWrite s q (0x2510 + n) 3 1 → x.status ≠ 1 → x.status ≠ 2 →
    exec (.timedActionArm q n) s = .next (acked (updTimed { s with sig := { s.sig with armCount := s.sig.armCount + 1 } } n
      fun x => { x with
        armT := x.t, armOp := x.op, late := false, reason := armRefusal s x.t x.op, armSrc := q.src, armSeq := s.sig.armCount
        begun := false, status := if armRefusal s x.t x.op = 0 then 1 else 5 }) q 2 (0x2510 + n) 3 stOk)) ∧
  (n < 64 → NewWrite s q (0x2510 + n) 3 1 → (x.status = 1 ∨ x.status = 2) →
    exec (.timedActionArm q n) s = .next (acked s q 2 (0x2510 + n) 3 stState)) ∧
  (n < 64 → NewWrite s q (0x2510 + n) 3 0 → x.status = 1 → exec (.timedActionCancel q n) s =
    .next (acked (updTimed s n fun x => { x with status := 6 }) q 2 (0x2510 + n) 3 stOk)) ∧
  (eyepieceRuns s = true → x.status = 1 → regional op = true → x.armT ≤ s.time.tb + leadTicks s → s.dev.st ≠ .safeHold →
    exec (.timedActionDistribute n) s = .next (giveAction s n (scopeRegions s op))) ∧
  (∀ l p, (timedSlot (giveAction s n l) n).status = 2 ∧ (timedSlot (giveAction s n l) n).late = decide (s.time.tb > x.armT) ∧
    (p ∈ l → clocksRun (regionOfNo s p) = true →
      { code := taCode op, at_ := x.armT, arg := taArg op, owner := n } ∈ (regionOfNo (giveAction s n l) p).actions)) ∧
  (∀ c : Nat, s.dev.st = .safeHold → actionDue s n c = false) ∧
  (actionDue s n 1 = true → resumesRecovery s n (taArg op) = true →
    exec (.timedResume n) s = .next (then_ (unfreezeRegions s ps) resumeRecovery)) ∧
  (actionDue s n 1 = true → 4096 ≤ n →
    exec (.timedResume n) s = .next (then_ (goOnRegions s (n - 4096) ps) fun v => resumeMigration v (n - 4096))) ∧
  (actionDue s n 1 = true → resumesRecovery s n (taArg op) = false → n < 4096 → exec (.timedResume n) s = .next (perform s n).1) ∧
  (actionDue s n 2 = true → serving → x.begun = false →
    let v := beginSnapshot (updTimed s n fun y => { y with begun := true }) (taArg op) (scopeModels s op)
    exec (.timedSnapshot n) s = .next (perform (stopRegions v (taArg op) ps) n).1) ∧
  (actionDue s n 2 = true → serving → x.begun = true →
    exec (.timedSnapshot n) s = .next (perform (stopRegions s (taArg op) ps) n).1) ∧
  (actionDue s n 2 = true → ¬ serving → exec (.timedSnapshot n) s = .next (perform s n).1) ∧
  (actionDue s n 3 = true → exec (.timedSectionSwitch n) s = .next (perform (ps.foldl (fun s p =>
    (regionTiles p).foldl (fun s t => if tileRuns s t then timedSwitch s t else s) s) s) n).1) ∧
  (actionDue s n 4 = true → exec (.timedBeamRelease n) s = .next
    (then_ (ps.foldl (fun s p => releaseRegion s p (taArg op) (regionTiles p) false) s) fun v => countRelease v (taArg op))) ∧
  (∀ w, actionDue s n 5 = true → appendRec u (recordOf (objKey port 4) s.store.seq (.num (b2n (bit (taArg op) 8)))) = (w, true) →
    exec (.timedPortEnable n) s = .next (writeEnable w (taArg op % 32) (b2n (bit (taArg op) 8))
      (portEnabled w (taArg op % 32)))) ∧
  (actionDue s n 6 = true → s.dev.st ≠ .aux → s.dev.st ≠ .bringup →
    exec (.timedReset n) s = .next (acceptReset u .warm)) ∧
  (actionDue s n 6 = true → (s.dev.st = .aux ∨ s.dev.st = .bringup) →
    exec (.timedReset n) s = .next (updTimed s n fun x => { x with status := 6 }))

/-- R291 to R295, R431, R434: firing a configured event object counts it and does what its KIND says, firing a disabled one counts
as refused; a notify record joins the output queue, late past its window, or is lost with 512 queued; the records whose window
has passed leave in the order of R283; the heartbeat goes out at its time; the log reaches flash. Model's choices: log 44, 63,
67, 97. -/
def Obligations.EventsAndOutputs : Prop := ∀ (s : State) (n payload v iface tb : Nat) (q : Req) (r : NotifyRec)
    (rest : List NotifyRec),
  let cfg := eventConfig s n
  let fired := updEvent s n fun e => { e with fired := (e.fired + 1) % 2 ^ 32, lastTb := s.time.tb }
  let due := fun (t : Nat) (moved : Int) => decide ((t : Int) + moved + reorderWindow ≤ s.time.tb)
  (n < 32 → NewWrite s q (0x2560 + n) 2 payload → bits cfg 63 62 = 0 → exec (.eventFire q n payload) s =
    .next (acked (updEvent s n fun e => { e with refused := (e.refused + 1) % 2 ^ 32 }) q 2 (0x2560 + n) 2 stOk)) ∧
  (n < 32 → NewWrite s q (0x2560 + n) 2 payload → bits cfg 63 62 = 1 → exec (.eventFire q n payload) s =
    .next (acked (fireWake fired cfg) q 2 (0x2560 + n) 2 stOk)) ∧
  (n < 32 → NewWrite s q (0x2560 + n) 2 payload → bits cfg 63 62 = 2 → exec (.eventFire q n payload) s =
    .next (acked (fireMessage fired n cfg payload (eventOf fired n).fired) q 2 (0x2560 + n) 2 stOk)) ∧
  (s.sig.notifyIn = r :: rest → eyepieceRuns s = true → s.sig.notifyQ.length < 512 → exec .notifyRecordArrival s =
    .next { s with sig := { s.sig with notifyIn := rest, notifyQ := s.sig.notifyQ ++
      [{ r with late := decide ((s.time.tb : Int) > r.stamp + r.moved + reorderWindow) }] } }) ∧
  (s.sig.notifyIn = r :: rest → eyepieceRuns s = true → 512 ≤ s.sig.notifyQ.length → exec .notifyRecordArrival s =
    .next { s with sig := { s.sig with
      notifyIn := rest, lost := min 0xFFFF (s.sig.lost + 1), discarded := (s.sig.discarded + 1) % 2 ^ 32 } }) ∧
  (eyepieceRuns s = true → ∃ out, List.Pairwise (fun x y => outBefore x y = true) out ∧
    List.Perm out ((s.sig.notifyQ.filter fun r => due r.stamp r.moved).map OutRec.notify
      ++ (s.sig.eventQ.filter fun r => due r.tb r.moved).map OutRec.event) ∧
    exec .notifyEmit s = .next (out.foldl emitRec { s with sig := { s.sig with
      notifyQ := s.sig.notifyQ.filter fun r => !due r.stamp r.moved, eventQ := s.sig.eventQ.filter fun r => !due r.tb r.moved } })) ∧
  (s.dict.nextBeat = some tb → eyepieceRuns s = true → s.dict.serving = true → tb ≤ s.time.tb →
    let u := sendFrame32 s 0x73 8 (heartbeatBytes s)
    exec .heartbeat s = .next { u with dict := { u.dict with nextBeat := some (tb + dnum u 0x1010 3 1000 * msTicks) } }) ∧
  (NewWrite s q 0x1010 3 v → ∀ w, appendRec s (recordOf (objKey 0x1010 3) s.store.seq (.num v)) = (w, true) →
    exec (.heartbeatPeriodWrite q v) s = .next (acked (restartBeat { w with dict := { w.dict with
      vals := smSet w.dict.vals (objKey 0x1010 3) (.num v) } }) q 2 0x1010 3 stOk)) ∧
  (eyepieceRuns s = true → exec .logFlush s = .next { s with log := { s.log with
    flash := (s.log.flash ++ s.log.mem).drop ((s.log.flash ++ s.log.mem).length - 65536), mem := [] } }) ∧
  (eyepieceRuns s = true → iface < 2 → s.dict.busOff[iface]? = some false → exec (.canBusOff iface) s =
    .next (logSource { canError s iface with dict := { (canError s iface).dict with
      busOff := (canError s iface).dict.busOff.set iface true } } (iface + 1) 0x0501 1 iface 0)) ∧
  (∀ e, s.dict.canErr[iface]? = some e → ∃ v, (canError s iface).dict.canErr = s.dict.canErr.set iface v ∧
    v % 2 ^ 16 = (bits e 15 0 + 1) % 2 ^ 16)

/-! Snapshots, fences, recovery and migration (chapter 11). -/

/-- R320 to R325, R367: at a multiple of the interval the next snapshot is armed, for every region; a tile at its quiesce point
holds, writes its context and arrives on channel 30; past the limit the share is given up; in the second phase blocks are
copied, to the mirror's staging window as remote writes where the share has a mirror, and a tile with every write answered
reports to the steward; a share is committed once all have, with companion memory after five rounds (the records, their COMMIT
words, a CMT on every member of the area's set, the commit record, a CMT), each once what the one before asked for is
answered; a failed write aborts it; a mirror applies its staging. Model's choices: log 54, 60, 61, 62, 66. -/
def Obligations.SnapshotPhases : Prop := ∀ (s : State) (t b m n cut l : Nat),
  let next := s.recov.snapNo + 1
  let ms := dnum s 0x2410 1 200
  let slot := modelSlot s m
  let k := tileOf s t
  let open_ := s.steward.running = true ∧ s.dev.st ≠ .safeHold ∧ s.recov.snapScope.contains m = false ∧ slot.st ≠ 5 ∧
    slot.share = some (n, cut) ∧ allReported s m = true
  let comp := slot.shareComp = true ∧ slot.logFail = false ∧ slot.cmtWait = [] ∧ writesOpen s m = false
  (eyepieceRuns s = true → s.steward.running = true → ms ≠ 0 → s.time.tb % (ms * msTicks) = 0 →
    (timedSlot s 256).status ≠ 2 → exec .snapshotIntervalTick s =
      .next (armInternal { s with recov := { s.recov with snapNo := next } } 256 s.time.tb (2 * 2 ^ 60 + next) (s.regions.map (·.1)))) ∧
  (tileActs s t = true → atQuiesce k = true → contextWindow s t = none → k.core.ltile = none →
    exec (.quiescePoint t) s =
      .next (arriveTile (updTile s t fun k => { k with snap := { k.snap with quiesced := true } }) t 30)) ∧
  (tileActs s t = true → atQuiesce k = true → ∃ u, exec (.quiescePoint t) s = .next u ∧
    (tileOf u t).snap.quiesced = true ∧ (tileOf u t).core.released.getLsbD 30 = false) ∧
  (eyepieceRuns s = true → s.dev.st ≠ .safeHold → m ∈ s.recov.snapScope → slot.share = some (n, cut) →
    cut + dnum s 0x2410 3 1000 * 2500 ≤ s.time.tb →
    exec .snapshotAbort s = .next (s.recov.snapScope.foldl abortShare s)) ∧
  (tileRuns s t = true → k.snap.copying = true → b ∈ k.snap.pending →
    exec (.snapshotBlockCopy t b {}) s = .next (checkStaging (copyBlock s t b) t)) ∧
  (∀ (v : Nat) (w : Window), k.snap.copying = true → b ∈ k.snap.pending →
    (modelSlot s (regionOfNo s (regionOfTile t)).mslot).shareComp = false → stagingOf s (k.core.ltile.getD 0) = some (v, w) →
    let place := (s.recov.staging.filter fun e => e.1 / 256 = k.core.ltile.getD 0).length
    1024 * (place + 1) ≤ w.len → (tileOf (copyBlock s t b) t).snap.unacked = k.snap.unacked + 4 ∧
      b ∉ (tileOf (copyBlock s t b) t).snap.pending ∧
      ((tileOf (copyBlock s t b) t).msg.outPk.drop k.msg.outPk.length).map (fun o => (o.pkt.kind, o.pkt.vc, pkAddr o.pkt)) =
        (List.range 4).map fun i => (2, 3, tileAddress s.fabric.devId v (w.base + 1024 * place + 256 * i))) ∧
  (tileRuns s t = true → k.snap.copying = true → k.snap.pending = [] → k.snap.unacked = 0 → k.snap.reported = false →
    exec (.snapshotTileDone t) s = .next (checkStaging (updTile (noteTo s t (k.core.ltile.getD 0) s.fabric.devId 364150) t fun k =>
      { k with snap := { k.snap with reported := true } }) t)) ∧
  (open_ → slot.logFail = true → exec (.snapshotCommit m) s = .next (abortShare s m)) ∧
  (open_ → slot.logFail = false → slot.shareComp = false → exec (.snapshotCommit m) s = .next (commitShare s m n cut)) ∧
  (∀ v, open_ → comp → slot.cmtRound < 5 → nextRound s m n cut slot.cmtRound = some v →
    exec (.snapshotCommit m) s = .next (updModel v m fun y => { y with cmtRound := slot.cmtRound + 1 })) ∧
  (open_ → comp → slot.cmtRound < 5 → nextRound s m n cut slot.cmtRound = none →
    exec (.snapshotCommit m) s = .next (abortShare s m)) ∧
  (open_ → comp → 5 ≤ slot.cmtRound → exec (.snapshotCommit m) s = .next (commitShare s m n cut)) ∧
  (∀ p ps, areaMembers s = p :: ps → nextRound s m n cut 2 = nextRound s m n cut 4 ∧ nextRound s m n cut 4 = some (updModel
    ((p :: ps).foldl (fun s p => updPort s p fun x => { x with csOut := x.csOut ++ [(.commit m, csRequest 4 0 0 [])] }) s) m
    fun x => { x with cmtWait := p :: ps })) ∧
  (∀ v, tileRuns s t = true → k.core.ltile = some v → mirrorTile v = some l →
    exec (.stashApply t) s = .next (applyStash s l))

/-- R299 to R301, R310 to R319, R314, R315, R327: a completed fence's map is broadcast and the steward told; a fenced region that
no recovery waits for leaves FENCED by its cause; 8 regions of a field fenced within 1 ms fence it; a supply out of its
window, or the comparator, is a region fault; the standby takes over a lost primary; the standby is the lowest RESERVE region
of another field; a region retrains, is marked, is scrubbed. Model's choices: log 45, 54, 57, 69, 72. -/
def Obligations.FencesAndStewards : Prop := ∀ (s : State) (p f : Nat) (q : Req),
  let r := regionOfNo s p
  let a := s.steward.primary
  (p < regionCount → rimRuns s = true → r.st = .fenced → r.fenceDone = false → exec (.fenceComplete p) s =
    .next (settleFence (fenceNotice (mapReached (mapBroadcast (updRegion s p fun r => { r with fenceDone := true }))) p) p)) ∧
  (r.st = .fenced → r.fenceDone = true → s.clock.holdStep = 0 → lostSlot r = false → s.recov.lost.contains p = false →
    isSteward s p = false → settleFence s p = leaveFenced (if chosenSpare s r then chooseAgain s p r else s) p) ∧
  ((lostSlot r = true ∨ s.recov.lost.contains p = true ∨ isSteward s p = true) → settleFence s p = s) ∧
  (r.st = .fenced → s.clock.holdStep = 0 → deadDue r = true → leaveFenced s p = markDead (dropRegion s p) p) ∧
  (r.st = .fenced → s.clock.holdStep = 0 → deadDue r = false → leaveFenced s p =
    if r.fence.cause = 0x36 then switchOffHeat s p
    else if r.fence.cause ∈ [0x33, 0x34, 0x35, 0x37] then updRegion (dropRegion s p) p fun r => { r with st := .unpowered, held := true }
    else startRetrain s p) ∧
  (f < 48 → rimRuns s = true → 8 ≤ (smGetD s.recov.fieldFences f []).length → smGet s.recov.fieldFenced f = none →
    exec (.fieldFence f) s = .next (fenceField s f)) ∧
  (p < regionCount → r.stageOn = true → exec (.voltageFault p) s = .next (regionFault s p 0x32 0 none 0) ∧
    exec (.thermalComparator p) s = .next (cutStage (regionFault s p 0x36 0 none 0) p)) ∧
  (eyepieceRuns s = true → s.steward.running = true → healthyRegion (regionOfNo s a) = false → s.steward.standby ≠ 0xFFFF →
    healthyRegion (regionOfNo s s.steward.standby) = true → a ≠ s.steward.standby →
    ∃ u, exec .stewardFailover s = .next u ∧ u.steward.primary = s.steward.standby ∧ u.steward.standby = 0xFFFF ∧
      u.steward.failovers = (s.steward.failovers + 1) % 2 ^ 32 ∧
      (regionOfNo u s.steward.standby).binding = 0xFFFE) ∧
  (eyepieceRuns s = true → s.steward.running = true → healthyRegion (regionOfNo s a) = false → s.steward.standby = 0xFFFF →
    exec .stewardFailover s = .next (report s .toFault)) ∧
  (∀ rest, eyepieceRuns s = true → s.steward.running = true → healthyRegion (regionOfNo s a) = true → s.steward.standby = 0xFFFF →
    (s.regions.filter fun e => e.2.st = .reserve && freeRegion s (mainSet s) e.1 && fieldOf e.1 ≠ fieldOf a).map (·.1) = p :: rest →
    exec .standbyPlacement s = .next (stewardBroadcast (bindSteward { s with steward := { s.steward with
      standby := p, standbyCommits := s.steward.commits } } p 0xFFFD))) ∧
  (NewWrite s q 0x2420 8 p → mayRetrain s p = true →
    exec (.retrainRegion q p) s = .next (acked (startRetrain s p) q 2 0x2420 8 stOk)) ∧
  (NewWrite s q 0x2420 8 p → mayRetrain s p = false →
    exec (.retrainRegion q p) s = .next (acked s q 2 0x2420 8 stState)) ∧
  (∀ (ok : Bool) (result : List CrossingCal), p < regionCount → r.st = .training → r.retraining = true → r.gated = false →
    let w := calibrateRetrained s p result
    exec (.regionRetrainDone p ok result) s = .next (if ok = true ∧ sidesBad w p = false then mapBroadcast (updRegion w p fun r => { r with
        retraining := false, trainedFull := true, role := .reserve, st := if w.steward.running then .reserve else .healthy })
      else updRegion (dropRegion w p) p fun r => { r with
        st := .unpowered, trainedFull := true, crossings := (regionOfNo w p).crossings })) ∧
  (NewWrite s q 0x2420 9 p → s.boot.perms.getLsbD 1 = true → s.store.deadMarks.contains p = true →
    exec (.clearDeadMark q p) s = .next (acked (clearMark s p) q 2 0x2420 9 stOk)) ∧
  (NewWrite s q 0x2420 9 p → s.boot.perms.getLsbD 1 = false →
    exec (.clearDeadMark q p) s = .next (acked s q 2 0x2420 9 stLocked)) ∧
  (p < 4608 → NewWrite s q (0x4000 + p) 0x19 1 → (r.st = .healthy ∨ r.st = .reserve) →
    exec (.scratchpadScrub q p) s = .next (acked (scrubRegion s p) q 2 (0x4000 + p) 0x19 stOk))

/-- R326 to R330, R332, R400: the recovery starts with the regions newly lost, or joins one in progress, a condition that comes
first going before it; then it rolls back, rebinds, rebuilds the weights, from a peer by copies over the mesh that must all
stand, restores and arms its resume, each once and in the order of its steps; a slot that cannot be bound ends in KEEP-ALIVE;
a peer's tile that does not read is the region fault SPAD_UE. Model's choices: log 59, 61, 62, 69, 110. -/
def Obligations.RecoverySteps : Prop := ∀ (s : State) (peers : List Nat) (bad cuts : List (Nat × Nat)) (errs : List (Nat × LineErrors)),
  let ps := newlyLost s
  let ms := peers.filter fun m => piped s m && holdsBundle (modelSlot s m) && !s.recov.scope.contains m
  let on := recovers s = true
  let may := eyepieceRuns s = true ∧ s.steward.running = true ∧ healthyRegion (regionOfNo s s.steward.primary) = true ∧
    s.recov.armed = false ∧ (s.dev.st = .ready ∨ s.dev.st = .serving ∨ s.dev.st = .recovering) ∧ (ps ≠ [] ∨ ms ≠ [])
  let sooner := ∃ c ∈ s.dev.conditions, c ≠ .toRecovering ∧ c ≠ .toKeepAlive ∧ mayTake s c = true
  let step6 := on ∧ s.recov.rebound = true ∧ s.recov.rebuilt = false ∧ s.recov.scope.all (hasSource s) = true
  (may → ¬ sooner → (s.recov.step = 0 ∨ affected s ps ≠ [] ∨ ms ≠ []) → exec (.recoveryStart peers) s = .next (startRecovery s ps ms)) ∧
  (may → ¬ sooner → s.recov.step ≠ 0 → affected s ps = [] → ms = [] → exec (.recoveryStart peers) s = .next (joinSteward s ps)) ∧
  (may → sooner → exec (.recoveryStart peers) s = .next (decideState s)) ∧
  (on → s.recov.rolledBack = false → s.recov.armed = false →
    let u := s.recov.scope.foldl (commonCut cuts) s
    let v := ((dropRecords u bad).tiles.map (·.1)).foldl rollbackTile (dropRecords u bad)
    let w := (v.recov.scope.flatMap (modelTiles v)).foldl joinSection v
    let x := if w.recov.restored then w.recov.scope.foldl (fun s m =>
      if restorable s m || !(u.recov.scope.filter (restorable u)).contains m then replanSlot s m else reloadSlot s m) w else w
    exec (.recoveryRollback bad cuts) s = .next { x with recov := { x.recov with rolledBack := true } }) ∧
  (on → s.recov.rebound = false → s.recov.armed = false →
    exec .recoveryRebind s = .next (rebindScope s.recov.scope s)) ∧
  (∀ u, rebindScope [] u = { u with recov := { u.recov with rebound := true, step := 6 } }) ∧
  (∀ m ms u v, rebindSlot u m = .inr v → rebindScope (m :: ms) u = rebindScope ms v) ∧
  (∀ m ms u c d, rebindSlot u m = .inl (c, d) → rebindScope (m :: ms) u =
    report (updModel u m fun x => { x with code := c, detail := d }) .toKeepAlive) ∧
  (step6 →
    let x := s.recov.scope.foldl prepareSlot s
    let v := if s.recov.prepared then s.recov.scope.foldl resendWeights s else { x with recov := { x.recov with prepared := true } }
    let w := v.recov.scope.foldl clearRebuilt v
    exec (.recoveryWeightRebuild true []) s = .next (if v.recov.scope.any (weightsOpen v) then v
      else { w with recov := { w.recov with rebuilt := true, step := 7 } })) ∧
  (∀ t line, step6 → t ∈ s.recov.scope.flatMap (peerTiles s) → line < 16384 →
    exec (.recoveryWeightRebuild true [(t, { bad := some line })]) s = .next (regionFault s (regionOfTile t) 0x20 (line * 16) (some t) 0)) ∧
  (exec (.recoveryWeightRebuild false errs) s = .next s) ∧
  (let waits := s.regions.any fun e => e.2.st = .fenced && chosenSpare s e.2;
    on → s.recov.rebuilt = true → s.recov.restored = false →
      exec (.recoveryRestore [] bad) s = .next (if waits then s else restoreScope (dropRecords s bad))) ∧
  (let v := settleMoves s [];
    (restoreScope s).recov.restored = true ∧ (restoreScope s).tiles = (v.recov.scope.foldl restoreSlot v).tiles ∧
    (restoreScope s).mem = (v.recov.scope.foldl restoreSlot v).mem) ∧
  (on → s.recov.rolledBack = true → s.recov.restored = true → s.recov.armed = false →
    ∃ u, exec .recoveryArmResume s = .next u ∧ u.recov.armed = true ∧ u.recov.step = 8 ∧
      (timedSlot u 257).armT = s.time.tb + leadTicks s ∧ (timedSlot u 257).status = 2 ∧ u.tiles = s.tiles ∧ u.mem = s.mem)

/-- R331: a region that migrates quiesces with its slot, copies its scratchpad and context to the regions that take over, switches
off, and the paths are placed anew with the resume armed; past the limit the stage turns off and THERMAL fences it. Model's
choices: log 68, 105. -/
def Obligations.MigrationSteps : Prop := ∀ (s : State) (p : Nat) (g : Bundle) (b : Binding) (mv : List (Nat × Nat))
    (xs : List LatPath) (pl : List PlaneSeg),
  let r := regionOfNo s p
  let m := r.mslot
  let moved := mv.foldl (fun s e => moveRegion s e.1 e.2) s
  let bound := b.foldl (fun s e => enterBound (updRegion s e.2 fun r => { r with binding := e.1, mslot := m }) e.2)
    (updRegion moved p fun r => { r with binding := 0xFFFF })
  let placed := updModel bound m fun x => { x with binding := b }
  (migrates s p 1 = true → exec (.migrationQuiesce p) s = .next ((modelTiles (updRegion s p fun r => { r with migrating := 2 })
    m).foldl stopTile (updRegion s p fun r => { r with migrating := 2 }))) ∧
  (migrates s p 3 = true → (modelSlot s m).bundle = some g →
    migrationBinding s g (modelSlot s m).binding p = some (b, mv) → planPaths s g b = .inr (xs, pl) →
    exec (.migrationCopy p []) s = .next (updRegion { placed with recov := { placed.recov with
      migMoves := smSet placed.recov.migMoves p mv } } p fun r => { r with migrating := 4 })) ∧
  (migrates s p 4 = true → ∃ u, exec (.migrationSwitchOff p) s = .next u ∧ (regionOfNo u p).migrating = 5 ∧
    (regionOfNo u p).mslot = m ∧ u = updRegion (mapBroadcast (switchOffHeat (clampRegion s p) p)) p fun r =>
      { r with migrating := 5, mslot := m }) ∧
  (migrates s p 5 = true → (modelSlot s m).bundle = some g → planPaths s g (modelSlot s m).binding = .inr (xs, pl) →
    ∃ u, exec (.migrationReplace p) s = .next u ∧ (regionOfNo u p).migrating = 6 ∧ (timedSlot u (4096 + p)).status = 2) ∧
  (rimRuns s = true → 1 ≤ r.migrating → r.migrating ≤ 4 → s.dev.st ≠ .safeHold →
    r.migTb + dnum s 0x2420 6 100 * msTicks ≤ s.time.tb →
    exec (.migrationTimeout p) s = .next (cutStage (regionFault s p 0x36 0 none 0) p))

/-! Supplies, cooling, resets and the reference clock (chapters 07 and 16). -/

/-- R5, R6, R428, R429, R447, R452, R468 to R470, R475: the auxiliary supply brings OFF to AUX with the straps sampled and the
identity keys derived, its loss brings OFF, with a flash write in progress torn; VIN_54 out of its range is recorded and
region power goes, to AUX with the straps sampled again, back in range it is usable; a trip opens the breaker until it is
permitted again; the third lost converter is reported for FAULT. Model's choices: log 8, 71, 75. -/
def Obligations.SuppliesAndBreaker : Prop := ∀ (s : State) (x : Straps) (torn : Torn) (byV : Bool) (vin cur n : Nat) (q : Req),
  let off := { s with power := { s.power with converters := s.power.converters &&& ~~~(BitVec.twoPow 26 n) } }
  let k := convertersUp off
  let read := { s with power := { s.power with vin := vin } }
  let open_ := logEvent { s with power := { s.power with iin := cur, breaker := false, tripped := true, bus := 0 } } 0x0702 2
    (if byV then 2 else 1) cur
  (s.dev.st = .off → 32000 ≤ vin → ∃ u, exec (.auxSupplyInRange x vin) s = .next u ∧ u.dev.st = .aux ∧
    u.dev.clksel = x.clksel ∧ u.dev.nodeId = x.nodeId % 128 ∧ u.dev.pairs = [true, true] ∧ u.time.tb = 0 ∧
    u.clock.source = 1 ∧ u.clock.locked = false ∧ u.clock.present = x.sourcePresent ∧ u.dict.serving = true ∧ u.boot.identity = Config.identityKeys Config.identitySeed ∧
    u.mem = s.mem) ∧
  (s.dev.st ≠ .off → vin < 28000 → ∃ u, exec (.auxSupplyLost vin torn) s = .next u ∧ u.dev.st = .off ∧ u.mem = [] ∧ u.tiles = [] ∧
    u.regions = [] ∧ u.boot.imgRevoked = s.boot.imgRevoked ∧ u.boot.counter = s.boot.counter ∧ u.out = s.out ∧
    u.pending = s.pending ∧ u.store = (closeHot (if eyepieceRuns s then tearFlash s torn else s)).store ∧
    u.boot.trainA = (if eyepieceRuns s then tearFlash s torn else s).boot.trainA ∧
    u.boot.trainB = (if eyepieceRuns s then tearFlash s torn else s).boot.trainB) ∧
  (∀ i j b, (tearStore s (.record i j b)).store = s.store ∨ ∃ r, recValid r = false ∧
    theBank (tearStore s (.record i j b)) = { theBank s with recs := (theBank s).recs ++ [r] }) ∧
  (rimRuns s = true → 61000 < vin → vin ≤ 63000 → exec (.vin54OutOfRange vin x) s = .next (vinLeaves read 2 x)) ∧
  (rimRuns s = true → vin < 45000 → exec (.vin54OutOfRange vin x) s = .next (vinLeaves read 1 x)) ∧
  (rimRuns s = true → 63000 < vin → exec (.vin54OutOfRange vin x) s = .next (vinLeaves (tripBreaker read 2 s.power.iin) 2 x)) ∧
  (rimRuns s = true → 46000 ≤ vin → vin ≤ 60000 → s.power.tripped = false → s.power.vinOk = false →
    exec (.vin54BackInRange vin) s = .next (logEvent { s with power := { s.power with vin := vin, vinOk := true } }
      0x0701 0 0 vin)) ∧
  (rimRuns s = true → s.power.breaker = true → exec (.breakerTrip byV cur x) s = .next (vinLeaves open_ 3 x)) ∧
  (∀ why : Nat, s.power.vinOk = true → s.dev.st ≠ .aux → ∃ u, vinLeaves s why x = u ∧ u.dev.st = .aux ∧ u.power.vinOk = false ∧
    u.power.breaker = false ∧ u.dev.clksel = x.clksel ∧ (∀ e ∈ u.regions, e.2.stageOn = false)) ∧
  (NewWrite s q 0x2100 7 1 → exec (.breakerPermit q) s =
    .next (acked { s with power := { s.power with tripped := false } } q 2 0x2100 7 stOk)) ∧
  (rimRuns s = true → n < 26 → s.power.converters.getLsbD n = true → 24 ≤ k → exec (.converterLost n) s =
    .next (setAlert (logEvent off 0x0703 1 n k) 2)) ∧
  (rimRuns s = true → n < 26 → s.power.converters.getLsbD n = true → k < 24 → exec (.converterLost n) s =
    .next (report (setAlert (logEvent off 0x0703 3 n k) 2) .toFault))

/-- R200, R331, R466, R472, R473, R476 to R479: a lost phase is recorded, the second is POWER_PHASE; a tripped fuse is POWER_FUSE
and its stage off; the averages are taken, 30 kW over a second or 34 kW with event and alert; the coolant values are taken,
one past its threshold for ten samples with event and alert; a region at 95 degrees dims one step, at 90 or below it comes
back one step, at 110 a bound one migrates and any other is cut off and switched off, with the map broadcast; a region off for
heat is sampled on; a first sample above 105 degrees is recorded. Model's choices: log 73, 75. -/
def Obligations.PowerAndThermalSamples : Prop := ∀ (s : State) (p phase vin iin pw rim fa fb : Nat) (temp i a b : Int),
  let r := regionOfNo s p
  let lost := updRegion s p fun r => { r with phases := r.phases ++ [phase] }
  let tripped := updRegion { s with power := { s.power with fuseTrips := (s.power.fuseTrips + 1) % 2 ^ 32 } } p fun r =>
    { r with fuse := true }
  let sampled := updRegion s p fun r => { r with temp := temp }
  let noted := if temp > 1050 ∧ r.temp ≤ 1050 then logRegion sampled p 0x0707 1 p (ofSigned 64 temp) else sampled
  let seen := trackHot (if temp ≥ 950 then setAlert noted 1 else noted)
  let takes := p < regionCount ∧ r.gated = false ∧ r.stageOn = true ∧
    (r.st = .healthy ∨ r.st = .reserve ∨ r.st = .bound ∨ r.st = .dimmed)
  let last := (s.power.lastSecond ++ [pw]).drop (s.power.lastSecond.length - 99)
  let sum := last.foldl (· + ·) 0
  let averaged := { s with power := { s.power with
      vin := vin, iin := iin, avg := pw, peak := max s.power.peak pw, lastSecond := last
      energy := s.power.energy + pw * 10, rim := rim } }
  let hot := toSigned 16 (dnum s 0x2200 0xB 300)
  let slow := dnum s 0x2200 0xC 250
  let cooled := fun ni na nb : Nat => { s with power := { s.power with
      inlet := i, outA := a, outB := b, flowA := fa, flowB := fb, inletRun := ni, flowARun := na, flowBRun := nb } }
  (p < regionCount → phase < 3 → r.stageOn = true → r.phases = [] →
    exec (.phaseLost p phase) s = .next (logEvent lost 0x0704 1 p phase)) ∧
  (p < regionCount → phase < 3 → r.stageOn = true → r.phases.length = 1 → phase ∉ r.phases →
    exec (.phaseLost p phase) s = .next (regionFault lost p 0x31 0 none 0)) ∧
  (p < regionCount → r.stageOn = true → r.fuse = false → 10800 < s.power.bus →
    exec (.powerFuseTrip p) s = .next (updRegion (regionFault tripped p 0x30 0 none 0) p fun r => { r with
      stageOn := false, coreMv := 0, sramMv := 0, loupe := [] })) ∧
  (rimRuns s = true → pw ≤ 34000 → (last.length ≠ 100 ∨ sum ≤ 3000000) →
    exec (.powerAverageRefresh vin iin pw rim) s = .next averaged) ∧
  (rimRuns s = true → pw ≤ 34000 → last.length = 100 → 3000000 < sum →
    exec (.powerAverageRefresh vin iin pw rim) s = .next (setAlert (logEvent averaged 0x0705 1 1 (sum / 100)) 2)) ∧
  (rimRuns s = true → 34000 < pw → (last.length ≠ 100 ∨ sum ≤ 3000000) →
    exec (.powerAverageRefresh vin iin pw rim) s = .next (setAlert (logEvent averaged 0x0705 1 2 pw) 2)) ∧
  (rimRuns s = true → i ≤ hot → slow ≤ fa → slow ≤ fb →
    exec (.coolantSample i a b fa fb) s = .next (cooled 0 0 0)) ∧
  (rimRuns s = true → hot < i → slow ≤ fa → slow ≤ fb → s.power.inletRun < 9 →
    exec (.coolantSample i a b fa fb) s = .next (cooled (s.power.inletRun + 1) 0 0)) ∧
  (rimRuns s = true → hot < i → slow ≤ fa → slow ≤ fb → s.power.inletRun = 9 →
    exec (.coolantSample i a b fa fb) s = .next (setAlert (logEvent (cooled 10 0 0) 0x0706 1 1 (ofSigned 64 i)) 2)) ∧
  (rimRuns s = true → i ≤ hot → fa < slow → slow ≤ fb → s.power.flowARun = 9 →
    exec (.coolantSample i a b fa fb) s = .next (setAlert (logEvent (cooled 0 10 0) 0x0706 1 2 fa) 2)) ∧
  (takes → 950 ≤ temp → temp < 1100 →
    exec (.temperatureSample p temp) s = .next (setDim seen p (max 16 (r.dim - 1)) temp)) ∧
  (takes → 900 < temp → temp < 950 → exec (.temperatureSample p temp) s = .next seen) ∧
  (takes → temp ≤ 900 → exec (.temperatureSample p temp) s = .next (setDim seen p (min 32 (r.dim + 1)) temp)) ∧
  (takes → 1100 ≤ temp → roleOf r = .bound → r.migrating = 0 →
    ∃ u, exec (.temperatureSample p temp) s = .next u ∧ (regionOfNo u p).migrating = 1 ∧ (regionOfNo u p).migTb = s.time.tb ∧
      (regionOfNo u p).temp = temp ∧ (regionOfNo u p).st = r.st ∧ u.mem = s.mem ∧ u.tiles = s.tiles) ∧
  (takes → 1100 ≤ temp → roleOf r ≠ .bound →
    ∃ u, exec (.temperatureSample p temp) s = .next u ∧ u = mapBroadcast (switchOffHeat (clampRegion seen p) p) ∧
      (regionOfNo u p).st = .offThermal ∧ (regionOfNo u p).stageOn = false ∧ (regionOfNo u p).temp = temp) ∧
  (p < regionCount → r.gated = false → r.st = .offThermal → exec (.temperatureSample p temp) s = .next seen)

/-- R6, R192, R312, R404, R436, R437: one reset a fall of RST_N, which permits the breaker; a reset over the dictionary is
performed in service, in KEEP-ALIVE and in FAULT, and held in SAFE-HOLD or while no reference is locked, the first of them;
the loss of both Eyepiece pairs is FAULT; a decision takes the first condition that R5 allows. Model's choices: log 71, 76,
96. -/
def Obligations.ResetsAndDecisions : Prop := ∀ (s : State) (pair : Nat) (q : Req) (k : ResetKind),
  let fell := { s with
    dev := { s.dev with rstHigh := false }
    power := { s.power with tripped := false } }
  let one := { s with dev := { s.dev with pairs := s.dev.pairs.set pair false } }
  let service := s.dev.st ∈ [.ready, .serving, .recovering, .keepAlive, .fault]
  let held := fun k => { s with dev := { s.dev with heldReset := some k } }
  (s.dev.rstHigh = true → s.dev.st ≠ .off → s.dev.pairs.any id = true →
    exec .rstNFall s = .next (acceptReset fell .rstN)) ∧
  (s.dev.rstHigh = false → exec .rstNFall s = .next s) ∧
  (exec .rstNRelease s = .next { s with dev := { s.dev with rstHigh := true } }) ∧
  (s.dev.stagesOffWait = true → exec .resetStagesOffExpiry s =
    .next { s with dev := { s.dev with stagesOffWait := false } }) ∧
  (rimRuns s = true → s.dev.pairs[pair]? = some true → one.dev.pairs.any id = true →
    exec (.eyepiecePairLost pair) s = .next one) ∧
  (rimRuns s = true → s.dev.pairs[pair]? = some true → one.dev.pairs.any id = false →
    exec (.eyepiecePairLost pair) s = .next (enterFault { one with dict := { s.dict with
      serving := false, nextBeat := none } })) ∧
  (∀ c, eyepieceRuns s = true → ([Condition.toFault, .toSafeHold, .toKeepAlive, .toRecovering]).find? (fun c =>
      s.dev.conditions.contains c && mayTake s c) = some c → exec .decisionCycle s = .next (takeCondition s c)) ∧
  (service → s.clock.locked = true → NewWrite s q 0x2000 4 1 →
    exec (.dictWarmRestart q) s = .next (acked (performReset s .warm) q 2 0x2000 4 stOk)) ∧
  (service → s.clock.locked = true → NewWrite s q 0x2000 4 2 →
    exec (.dictFullTrainingReset q) s = .next (acked (performReset s .full) q 2 0x2000 4 stOk)) ∧
  ((s.dev.st = .safeHold ∨ (service ∧ s.clock.locked = false)) → s.dev.heldReset = none → NewWrite s q 0x2000 4 1 →
    exec (.dictWarmRestart q) s = .next (acked (held .warm) q 2 0x2000 4 stOk)) ∧
  ((s.dev.st = .safeHold ∨ (service ∧ s.clock.locked = false)) → s.dev.heldReset = none → NewWrite s q 0x2000 4 2 →
    exec (.dictFullTrainingReset q) s = .next (acked (held .full) q 2 0x2000 4 stOk)) ∧
  ((s.dev.st = .aux ∨ s.dev.st = .bringup) → NewWrite s q 0x2000 4 1 →
    exec (.dictWarmRestart q) s = .next (acked s q 2 0x2000 4 stState)) ∧
  (s.dev.st = .safeHold → s.dev.heldReset ≠ none → acceptReset s k = s) ∧
  ((takeCondition s .toFault).dev.st = .fault ∧ (takeCondition s .toKeepAlive).dev.st = .keepAlive ∧
    (takeCondition s .toSafeHold).dev.st = .safeHold ∧ (takeCondition s .toRecovering).dev.st = .recovering)

/-- R191, R192, R211 to R216: two windows that agree qualify the crystal, a REFCLK qualifies as it is judged; the PLL locks; the
loss of the reference gates every powered region, drops the PLL to the trimmed oscillator and is reported for SAFE-HOLD; steps
4 to 8 enter it, requalify, ungate and return, when the regions whose fences are complete leave FENCED; a held reset is
performed in place of the resume once no Ethernet port trains; past its time KEEP-ALIVE follows, unless a cause of FAULT waits
for the same decision. Model's choices: log 76, 96, 106. -/
def Obligations.ReferenceAndSafeHold : Prop := ∀ (s : State) (n mon : Nat) (cals : List CrossingCal),
  let c := s.clock
  let code := fun n : Nat => if c.lost then c.source else n
  let locks := { s with clock := { c with locked := true, lost := false, source := selectedSource s } }
  let drop := gateRegions (idleLanes (dropReference s mon))
  let ended := lateTimed (endHold s)
  let back := endHoldover (logEvent ended 0x0102 0 0 ended.clock.lastHold)
  (qualifying s = true → s.dev.clksel = false → c.lastWindow ≠ 0 → (n - c.lastWindow + (c.lastWindow - n)) * 1000 ≤ c.lastWindow →
    exec (.crystalQualWindowEnd n) s = .next { s with clock := { c with
      lastWindow := n, agree := c.agree + 1, qualified := true, source := code 2 } }) ∧
  (qualifying s = true → s.dev.clksel = false → c.lastWindow < (n - c.lastWindow + (c.lastWindow - n)) * 1000 →
    exec (.crystalQualWindowEnd n) s = .next { s with clock := { c with lastWindow := n, agree := 0 } }) ∧
  (rimRuns s = true → s.dev.clksel = false → c.qualified = false → c.locked = false →
    exec .crystalNotStable s = .next (setAlert (logEvent s 0x0100 1 c.source 0) 0)) ∧
  (qualifying s = true → s.dev.clksel = true → exec .refclkQualified s =
    .next { s with clock := { c with qualified := true, source := code 3 } }) ∧
  (rimRuns s = true → c.qualified = true → c.locked = false → s.dev.st = .aux →
    exec .pllLocked s = .next (if dnum s 0x2020 1 0 = 0 then leaveHoldover locks else locks)) ∧
  (rimRuns s = true → c.qualified = true → c.locked = false → s.dev.st = .bringup → exec .pllLocked s = .next locks) ∧
  (rimRuns s = true → c.qualified = true → c.locked = false → s.dev.st = .safeHold → c.holdStep = 5 →
    exec .pllLocked s = .next { locks with clock := { locks.clock with holdStep := 6 } }) ∧
  (rimRuns s = true → c.qualified = true → c.locked = false → (s.dev.st = .keepAlive ∨ s.dev.st = .fault) →
    exec .pllLocked s = .next (referenceBack locks)) ∧
  (rimRuns s = true → c.locked = true → mon = 0 → (s.dev.st = .bringup ∨ s.dev.st = .ready ∨ s.dev.st = .serving ∨ s.dev.st = .recovering) →
    exec (.referenceLost mon) s = .next (report { drop with
      clock := { drop.clock with holdStep := 1, lossTb := drop.time.tb, lossMonitor := mon }
      dev := { drop.dev with forcedSafe := true } } .toSafeHold)) ∧
  (∀ p, p ∈ (gateRegions s).regions → p.2.stageOn = true → p.2.gated = true) ∧
  ((dropReference s mon).clock.locked = false ∧ (dropReference s mon).clock.source = 1 ∧
    (dropReference s mon).time.holdover = true ∧ (dropReference s mon).clock.losses = (c.losses + 1) % 2 ^ 32) ∧
  (eyepieceRuns s = true → c.holdStep = 1 → exec .safeHoldEntry s = .next (decideState s)) ∧
  (rimRuns s = true → c.locked = false → c.qualified = false → s.dev.st = .safeHold → c.holdStep = 4 →
    exec .referenceReturned s = .next { s with clock := { c with present := true, lastWindow := 0, agree := 0, holdStep := 5 } }) ∧
  (rimRuns s = true → s.dev.st = .safeHold → c.holdStep = 6 → ∃ u, exec (.safeHoldUngate cals) s = .next u ∧
    u.clock.holdStep = 7 ∧ (∀ e ∈ u.regions, e.2.gated = false) ∧
    ((∀ e ∈ s.regions, e.2.relPending = []) → u.mem = s.mem ∧ u.tiles = s.tiles)) ∧
  (eyepieceRuns s = true → s.dev.st = .safeHold → c.holdStep = 7 → s.dev.heldReset = none → dnum s 0x2020 1 0 ≠ 0 →
    (∀ e ∈ s.regions, e.2.st = .fenced → e.2.fenceDone = false) → ∃ u, exec .safeHoldReturn s = .next u ∧ u.dev.st = s.dev.beforeHold ∧ u.clock.holdStep = 0 ∧
      u.dev.forcedSafe = false ∧ u.clock.lastHold = s.time.tb - c.lossTb ∧ u.mem = s.mem ∧ u.tiles = s.tiles) ∧
  (eyepieceRuns s = true → s.dev.st = .safeHold → c.holdStep = 7 → s.dev.heldReset = none →
    exec .safeHoldReturn s = .next ((s.regions.map (·.1)).foldl settleFence (enterState back s.dev.beforeHold))) ∧
  (∀ k, eyepieceRuns s = true → s.dev.st = .safeHold → c.holdStep = 7 → s.dev.heldReset = some k →
    (∀ p < 32, personality s p = 3 → (portOf s p).st ≠ 2) → exec .safeHoldReturn s = .next (performReset back k)) ∧
  (∀ k p, p < 32 → s.dev.heldReset = some k → personality s p = 3 → (portOf s p).st = 2 → exec .safeHoldReturn s = .next s) ∧
  (eyepieceRuns s = true → s.dev.st = .safeHold → s.dev.transTb + c.holdTimeout * second ≤ s.time.tb → outranked s = false →
    c.locked = false → ∃ u, exec .safeHoldTimeout s = .next u ∧ u.dev.st = .keepAlive ∧
      u.clock.lastHold = s.time.tb - c.lossTb ∧ u.dev.heldReset = s.dev.heldReset) ∧
  (eyepieceRuns s = true → s.dev.st = .safeHold → s.dev.transTb + c.holdTimeout * second ≤ s.time.tb → outranked s = true →
    exec .safeHoldTimeout s = .next (decideState s))

/-- R198, R199, R204: a period stretched by e/16 counts in the region and in its tiles, takes up the lag of the crossings into it
and is missing from the region's cycle count; a switchover is a stretched period with its record; the loss of the second
generator is CLOCK_GENERATOR. Model's choices: log 74. -/
def Obligations.RegionClocks : Prop := ∀ (s : State) (p e : Nat),
  let r := regionOfNo s p
  (p < regionCount → clocksRun r = true → 1 ≤ e → e ≤ 8 →
    exec (.droopStretch p e) s = .next (stretchRegion s p e)) ∧
  (p < regionCount → clocksRun r = true → r.standbyLost = false →
    ∃ n : Nat, n ≤ 8 ∧
      let v := updRegion (stretchRegion { s with free := s.free + 1 } p n) p fun r =>
        { r with onStandby := true, standbyLost := true }
      exec (.generatorSwitchover p) s = .next (logRegion { v with clock := { v.clock with
        switchovers := (v.clock.switchovers + 1) % 2 ^ 32 } } p 0x0103 1 p 0)) ∧
  (p < regionCount → clocksRun r = true → r.standbyLost = true →
    exec (.clockGeneratorFail p) s = .next (regionFault s p 0x33 0 none 0)) ∧
  (∀ x : Nat, (regionOfNo (stretchRegion s p x) p).stretch = r.stretch + 1 ∧ (stretchRegion s p x).mem = s.mem ∧
    (r.gated = false → (regionOfNo (stretchRegion s p x) p).cyc = r.cyc + (s.time.tb - r.cycTb) * r.dim - 4 * x))

/-! Ports, links, routes and companions (chapters 12 and 13). -/

/-- R26, R316, R335, R339, R340, R346, R351, R352, R364: ENABLE starts and stops a port; training ends in service with the lanes
that both sides pass, an Ethernet port's with the interfaces whose lanes all pass, DOWN with its cause, or FAILED; a FAILED
port trains again, a DOWN one when its partner shows, or when its cause has ceased; a lane that loses lock trains a port in
service again with its numbers kept and its TRAIN block sent; a port trains only without a cause of its own and with a
reference; a failed rim segment sends its ring's traffic over the other, and one that the other ring lost too is reported for
FAULT. Model's choices: log 9, 36, 37, 52, 102. -/
def Obligations.PortStates : Prop := ∀ (s : State) (p tx rx ring seg lane : Nat) (q : Req) (x : Partner),
  let index := 0x3000 + p
  let stored := fun v : Nat => appendRec s (recordOf (objKey index 4) s.store.seq (.num v))
  let tuned := equalise s p
  let known := updPort tuned p fun y => { y with partner := some x }
  let cause := if localCause known p ≠ 0 then localCause known p else partnerCause known p x
  let trains := rimRuns s = true ∧ p < 32 ∧ (portOf s p).st = 2 ∧ personality s p ≠ 3
  let knows := trains ∧ (portOf s p).heard = some x
  let forgot := updPort s p fun y => { y with heard := none, partnerReady := false }
  let cut := { s with fabric := { s.fabric with rimDown := s.fabric.rimDown ++ [(ring, seg)] } }
  (∀ w, p < 32 → NewWrite s q index 4 1 → stored 1 = (w, true) → portEnabled s p = false →
    exec (.portEnable q p) s = .next (acked (recheckSets (portStart { w with dict := { w.dict with
      vals := smSet w.dict.vals (objKey index 4) (.num 1) } } p)) q 2 index 4 stOk)) ∧
  (∀ w, p < 32 → NewWrite s q index 4 0 → stored 0 = (w, true) →
    exec (.portDisable q p) s = .next (acked (recheckSets (portStop { w with dict := { w.dict with
      vals := smSet w.dict.vals (objKey index 4) (.num 0) } } p)) q 2 index 4 stOk)) ∧
  (trains → (portOf s p).heard = none → exec (.portTrainingDone p tx rx) s = .next (setPort tuned p 1 0)) ∧
  (∀ k lanes gen, rimRuns s = true → p < 32 → (portOf s p).st = 2 → personality s p = 3 → ethModeInfo (ethMode s p) = some (k, lanes, gen) →
    ∃ u, exec (.portTrainingDone p tx rx) s = .next u ∧
      (portOf u p).st = (if ∃ i < k, ∀ l ∈ lanes i, bit tx l = true ∧ bit rx l = true then 3 else 1) ∧
      (portOf u p).txLanes = laneMask (((List.range k).flatMap lanes).filter (bit tx)) ∧
      (portOf u p).rxLanes = laneMask (((List.range k).flatMap lanes).filter (bit rx)) ∧ u.mem = s.mem ∧ u.tiles = s.tiles) ∧
  (knows → cause ≠ 0 → exec (.portTrainingDone p tx rx) s = .next (setPort known p 1 cause)) ∧
  (knows → cause = 0 → (chooseLanes tx = [] ∨ chooseLanes rx = []) →
    exec (.portTrainingDone p tx rx) s = .next (setPort known p 5 4)) ∧
  (knows → cause = 0 → chooseLanes tx ≠ [] → chooseLanes rx ≠ [] →
    ∃ u, exec (.portTrainingDone p tx rx) s = .next u ∧ (portOf u p).txLanes = laneMask (chooseLanes tx) ∧
      (portOf u p).rxLanes = laneMask (chooseLanes rx) ∧ (portOf u p).partner = some x ∧
      (portOf u p).st = (if (chooseLanes tx).length = 16 ∧ (chooseLanes rx).length = 16 then 3 else 4) ∧
      (portOf u p).resend = (portOf s p).replay ∧ u.mem = s.mem ∧ u.tiles = s.tiles) ∧
  (rimRuns s = true → p < 32 → (portOf s p).st = 5 → portEnabled s p = true →
    exec (.portTrainingRetry p) s = .next (startTraining forgot p)) ∧
  (rimRuns s = true → p < 32 → (portOf s p).st = 1 → (portOf s p).cause = 0 → portEnabled s p = true →
    exec (.partnerSignalDetected p) s = .next (startTraining forgot p)) ∧
  (rimRuns s = true → p < 32 → (portOf s p).cause ≠ 0 → causeCeased s p = true →
    exec (.partnerSignalDetected p) s = .next (startTraining s p)) ∧
  (rimRuns s = true → p < 32 → inService s p = true → bit (portOf s p).rxLanes lane = true →
    ∃ u, exec (.portRetrain p lane) s = .next u ∧ u = retrainPort s p) ∧
  ((portOf (retrainPort s p) p).st = 2 ∧
    (portOf (retrainPort s p) p).txSeq = (portOf s p).txSeq ∧ (portOf (retrainPort s p) p).rxSeq = (portOf s p).rxSeq ∧
    (portOf (retrainPort s p) p).replay = (portOf s p).replay ∧ (portOf (retrainPort s p) p).unfreed = (portOf s p).unfreed ∧
    (portOf (retrainPort s p) p).ctr.retrains = ((portOf s p).ctr.retrains + 1) % 2 ^ 32) ∧
  (personality s p = 1 ∨ personality s p = 2 → ∃ u, retrainPort s p = emit u (.block p (trainBlock u p))) ∧
  (localCause s p = 0 → s.clock.locked = true → s.clock.holdStep = 0 → s.dev.st ≠ .keepAlive → (portOf (startTraining s p) p).st = 2) ∧
  (localCause s p ≠ 0 → (portOf (startTraining s p) p).st = 1 ∧ (portOf (startTraining s p) p).cause = localCause s p) ∧
  (localCause s p = 0 → s.clock.locked = false → (portOf (startTraining s p) p).st = 1) ∧
  (rimRuns s = true → ring < 2 → seg < 32 → (ring, seg) ∉ s.fabric.rimDown → (1 - ring, seg) ∉ s.fabric.rimDown →
    exec (.rimSegmentFail ring seg) s = .next (rimReroute cut ring)) ∧
  (rimRuns s = true → ring < 2 → seg < 32 → (ring, seg) ∉ s.fabric.rimDown → (1 - ring, seg) ∈ s.fabric.rimDown →
    exec (.rimSegmentFail ring seg) s = .next (report cut .toFault))

/-- R339, R343, R345 to R347, R352: resent frames leave first and in order; a frame in order whose CRC-32 holds is counted and
taken, a bad one or one out of order asks for a resend; a bad control block is counted; ACK, NAK, CREDIT and TRAIN do what
they say; an ACK and a CREDIT leave while there is something to say; a trunk numbers no frame past its partner's window of
1,024; a lost member's frames go to the lowest member in service, and its own link starts anew. Model's choices: log 36, 37,
52, 104. -/
def Obligations.LinkFramesAndBlocks : Prop := ∀ (s : State) (p fixed lost crc i : Nat) (f : LinkFrame) (rest : List LinkFrame)
    (block : List Byte),
  let x := portOf s p
  let on := rimRuns s = true ∧ p < 32 ∧ inService s p = true
  let counted := updPortCtr s p fun c => { c with fec := c.fec + fixed, badCodewords := (c.badCodewords + lost) % 2 ^ 32 }
  let taken := updPort counted p fun x => { x with
    rxSeq := (x.rxSeq + 1) % 4096, nakOut := false, sinceAck := x.sinceAck + 1 }
  let passed := updPortCtr taken p fun c => { c with framesRx := c.framesRx + 1, bytesRx := c.bytesRx + frameBytes f }
  let good := fun kind : Nat => carriesBlocks s p = true ∧ blockGood block = true ∧ fld block 0 1 = kind
  let n := fld block 1 2 % 4096
  let again := if x.refused = some n then x.refusals + 1 else 1
  let resent := updPort (updPortCtr s p fun c => { c with naks := (c.naks + 1) % 2 ^ 32 }) p fun y => { y with
    resend := y.replay.dropWhile fun f => f.seq ≠ n, refusals := again, refused := some n }
  (on → x.resend = f :: rest →
    exec (.frameTx p) s = .next (emit (updPort s p fun x => { x with resend := rest }) (.frame p (frameOctets f)))) ∧
  (on → x.resend = [] → x.replay.length < 2048 → personality s p = 1 → exec (.frameTx p) s = .next (sendLink s p)) ∧
  (on → x.resend = [] → x.replay.length < 2048 → personality s p = 2 → exec (.frameTx p) s = .next (sendStream s p)) ∧
  ((sendFrame s p f).out = s.out ++ [.frame p (frameOctets { f with seq := x.txSeq })] ∧
    (portOf (sendFrame s p f) p).txSeq = (x.txSeq + 1) % 4096 ∧
    (portOf (sendFrame s p f) p).replay = x.replay ++ [{ f with seq := x.txSeq }]) ∧
  (on → personality s p ≠ 3 → crc = frameCrc f → f.seq = x.rxSeq → x.sinceAck < 63 → lost = 0 →
    exec (.frameRx p f crc fixed lost) s = .next (acceptFrame passed p f)) ∧
  (on → personality s p ≠ 3 → lost = 0 → crc = frameCrc f → f.seq = x.rxSeq → 63 ≤ x.sinceAck →
    exec (.frameRx p f crc fixed lost) s = .next (acceptFrame (sendAck passed p) p f)) ∧
  (on → personality s p ≠ 3 → (lost ≠ 0 ∨ crc ≠ frameCrc f) →
    exec (.frameRx p f crc fixed lost) s = .next (sendNak counted p)) ∧
  (on → personality s p ≠ 3 → lost = 0 → crc = frameCrc f → f.seq ≠ x.rxSeq →
    exec (.frameRx p f crc fixed lost) s = .next (if x.nakOut then counted else sendNak counted p)) ∧
  (good 0 → exec (.idleBlockRx p block) s = .next s) ∧ (good 1 → exec (.alignBlockRx p block) s = .next s) ∧
  (carriesBlocks s p = true → blockGood block = false → exec (.ackBlockRx p block) s =
    .next (updPortCtr s p fun c => { c with badBlocks := (c.badBlocks + 1) % 2 ^ 32 })) ∧
  (good 2 → (x.replay.findIdx? fun f => f.seq = n) = some i → exec (.ackBlockRx p block) s = .next (updPort s p fun y =>
    { y with
      replay := x.replay.drop (i + 1), resend := y.resend.filter fun f => !(x.replay.take (i + 1)).contains f
      refused := none, refusals := 0 })) ∧
  (good 3 → exec (.nakBlockRx p block) s =
      .next (if 8 ≤ again ∧ inService s p = true then retrainPort resent p else resent)) ∧
  (good 4 → ∃ u, exec (.creditBlockRx p block) s = .next u ∧
    (portOf u p).freedByPartner = (List.range 6).map (fun v => fld block (1 + 2 * v) 2) ∧
    (portOf u p).replay = x.replay ∧ u.out = s.out) ∧
  (good 7 → ∃ u, exec (.trainBlockRx p block) s = .next u ∧ (portOf u p).heard = some (partnerOf block) ∧
    (portOf u p).partnerReady = (fld block 8 3 ≠ 0 && fld block 11 3 ≠ 0) ∧
    (portOf u p).replay = x.replay ∧ (portOf u p).partner = x.partner ∧
    u.out = s.out ++ (if x.st = 2 ∧ x.heard = none then [.block p (trainBlock s p)] else [])) ∧
  (on → 0 < x.sinceAck → exec (.linkAckTimer p) s = .next (sendAck s p)) ∧
  (on → personality s p ≠ 3 → x.freed ≠ x.freedTold → exec (.linkCreditTimer p) s =
    .next (emit (updPort s p fun x => { x with freedTold := x.freed }) (.block p (controlBlock 4 (x.freed.flatMap (natLe 2)))))) ∧
  (∀ m, rimRuns s = true → p < 32 → personality s p = 1 → 1 < trunkSize s p → inService s p = false → x.replay ≠ [] →
    (trunkMembers s (trunkBase s p)).find? (inService s) = some m → m ≠ p →
    ∃ u, exec (.trunkMemberDown p) s = .next u ∧ (portOf u p).replay = [] ∧ (portOf u p).again = [] ∧ (portOf u p).txSeq = 0 ∧
      List.Perm (portOf u m).again ((portOf s m).again ++ x.again ++ x.replay) ∧ u.out = s.out) ∧
  (x.again = [] → 1 < trunkSize s p → windowOpen s (trunkBase s p) = false → sendLink s p = s)

/-- R354, R355, R365 to R368: an entry that may be stored is stored in the route table, which takes effect when it is applied; a
companion's data goes to the reader or to the stream's tiles, its acknowledgement to the writer that wants one, a commit's to
the share that waits, its INFO into the port; an error frees the tag and answers a reader or writer with NAK. Model's choices:
log 57, 86. -/
def Obligations.RoutesAndCompanions : Prop := ∀ (s : State) (p e : Nat) (q : Req) (c : CsFrame) (g : LinkFrame) (rest : List LinkFrame) (k : Packet),
  let m := (smSet s.fabric.routes (selection s q.src 0x1031 1) e).filter fun x => x.2 ≠ 0
  let u := leaveBuffer (updPort s p fun x => { x with csIn := rest }) p g.vc g.nblk
  let takes := fun op : Nat => (portOf s p).csIn = g :: rest ∧ g.body = .stream c ∧ rimRuns s = true ∧ p < 32 ∧ c.op = op
  (∀ w, NewWrite s q 0x1031 2 e → routeEntryOk s e = true →
    appendRec s (recordOf (objKey 0x1031 5) s.store.seq (.bytes (routeBytes m))) = (w, true) →
    ∃ v, exec (.routeEntryWrite q e) s = .next (acked v q 2 0x1031 2 stOk) ∧ v.fabric = { w.fabric with routes := m } ∧
      v.mem = w.mem ∧ v.tiles = w.tiles) ∧
  (NewWrite s q 0x1031 3 1 → exec (.routeTableApply q) s = .next (acked (eyepieceBroadcast { s with fabric := { s.fabric with
    map := s.fabric.routes.filter fun x => rtValid x.2, compMap := compileComp s
    version := (s.fabric.version + 1) % 2 ^ 32 } }) q 2 0x1031 3 stOk)) ∧
  (takes 0x81 → c.status = 0 → c.last = true → smGet (portOf s p).tags c.tag = some (.packet k) →
    let v := endTag u p c.tag
    let base := ((compPlace v (saComp (pkAddr k))).map (·.2.2)).getD c.boxOff
    exec (.csRdata p) s = .next (bridgeSend v p (mkPacket .data (if bit (fld k.payload 0xB 1) 0 then 3 else 1) 4 k.pri k.srcDev
      k.srcLtile v.fabric.devId 0x7FFFF (natLe 4 (fld k.payload 0xC 4 + (c.boxOff - base)) ++ natLe 2 c.data.length
        ++ natLe 1 (pkTxid k) ++ List.replicate 9 0 ++ c.data)))) ∧
  (∀ d, takes 0x81 → c.status = 0 → c.last = false → smGet (portOf s p).tags c.tag = some (.stream d) →
    exec (.csRdata p) s = .next (streamData u p d c)) ∧
  (takes 0x81 → c.status ≠ 0 → smGet (portOf s p).tags c.tag = some (.packet k) →
    exec (.csRdata p) s = .next (csNak (endTag (countCs u p c) p c.tag) p k c.status)) ∧
  (takes 0x82 → c.status = 0 → smGet (portOf s p).tags c.tag = some (.packet k) → bit (fld k.payload 0xB 1) 0 = false →
    exec (.csWack p) s = .next (bridgeSend (endTag u p c.tag) p (mkPacket .data 1 5 k.pri k.srcDev k.srcLtile
      (endTag u p c.tag).fabric.devId 0x7FFFF (natLe 1 (pkTxid k) ++ List.replicate 15 0)))) ∧
  (takes 0x82 → c.status = 0 → smGet (portOf s p).tags c.tag = some (.packet k) → bit (fld k.payload 0xB 1) 0 = true →
    exec (.csWack p) s = .next (endTag u p c.tag)) ∧
  (takes 0x82 → c.status ≠ 0 → smGet (portOf s p).tags c.tag = some (.packet k) →
    exec (.csWack p) s = .next (csNak (endTag (countCs u p c) p c.tag) p k c.status)) ∧
  (∀ n, takes 0x84 → smGet (portOf s p).tags c.tag = some (.commit n) → exec (.csCack p) s =
    .next (updModel (endTag (countCs u p c) p c.tag) n fun x => { x with
      cmtWait := x.cmtWait.filter (· ≠ p), logFail := x.logFail || decide (c.status ≠ 0) })) ∧
  (takes 0x85 → c.status = 0 → smGet (portOf s p).tags c.tag = some .info → exec (.csInfor p) s =
    .next (updPort (endTag u p c.tag) p fun x => { x with boxInfo := some (fld c.data 0 8, fld c.data 8 1) }))

/-- R371 to R374, R376, R490: an interface that works discards a frame that its MAC refuses or of another VLAN; of the others it
answers ARP, neighbour solicitations and echo requests for its own address, asks for its gateways and takes their answers; an
accepted datagram becomes segment messages of its tile, any other frame is discarded; what the MAC accepts and what the
interface sends is counted; an egress segment is taken in its turn, and a partial datagram past its time is dropped. Model's
choices: log 39, 55, 102, 104. -/
def Obligations.EthernetInterfaces : Prop := ∀ (s : State) (p i mac ip n : Nat) (h : EthHead) (g : Datagram) (data : List Byte) (k : Packet)
    (rest : List Packet),
  let runs := rimRuns s = true ∧ p < 32 ∧ ifaceUp s p i = true
  let up := runs ∧ ethGood s p i h = true
  let vlan := ifVlan (ifaceRec s p i)
  let r := ifaceRec s p i
  let own := natBe 6 (ifaceMac p i)
  let seen := smGetD (portOf s p).datagrams i 0
  let got := updPortCtr s p fun c => { c with
    framesRx := c.framesRx + 1, bytesRx := c.bytesRx + (h.size - 18 - if h.vlan = 0 then 0 else 4) }
  (up → ifIp4 r ≠ 0 → exec (.arpRequest p i h mac ip (ifIp4 r)) s =
    .next (ethSend got p 28 (.ethernet p i vlan mac frArpReply (own ++ natBe 4 (ifIp4 r) ++ natBe 6 mac ++ natBe 4 ip)))) ∧
  (up → n ≠ ifIp4 r → exec (.arpRequest p i h mac ip n) s = .next (ethDiscard got p)) ∧
  (up → ifIp6 r ≠ 0 → exec (.neighbourSolicitation p i h mac ip (ifIp6 r)) s =
    .next (ethSend got p 72 (.ethernet p i vlan mac frAdvert (natBe 16 (ifIp6 r) ++ own ++ natBe 16 ip)))) ∧
  (up → ifIp4 r ≠ 0 → data.length ≤ 1500 → exec (.icmpEchoRequest p i h false mac ip (ifIp4 r) data) s =
    .next (ethSend got p (28 + data.length) (.ethernet p i vlan mac frEcho (natBe 4 (ifIp4 r) ++ natBe 4 ip ++ data)))) ∧
  (up → ifIp6 r ≠ 0 → data.length ≤ 1500 → exec (.icmpEchoRequest p i h true mac ip (ifIp6 r) data) s =
    .next (ethSend got p (48 + data.length) (.ethernet p i vlan mac frEcho (natBe 16 (ifIp6 r) ++ natBe 16 ip ++ data)))) ∧
  (up → 1500 < data.length → exec (.icmpEchoRequest p i h false mac ip n data) s = .next (ethDiscard got p)) ∧
  (runs → exec (.ethFrameDiscard p i) s = .next (ethDiscard s p)) ∧
  (runs → ∃ u, exec (.gatewayResolve p i) s = .next u ∧ u.out = s.out
    ++ (if ifGw4 r ≠ 0 then [.ethernet p i vlan 0xFFFFFFFFFFFF frArpAsk (own ++ natBe 4 (ifIp4 r) ++ natBe 4 (ifGw4 r))] else [])
    ++ (if ifGw6 r ≠ 0 then [.ethernet p i vlan (0x3333FF000000 + ifGw6 r % 2 ^ 24) frSolicit
      (natBe 16 (ifIp6 r) ++ natBe 16 (ifGw6 r) ++ own)] else []) ∧
    (portOf u p).ctr.framesTx = (portOf s p).ctr.framesTx + b2n (decide (ifGw4 r ≠ 0)) + b2n (decide (ifGw6 r ≠ 0)) ∧
    u = { s with out := u.out, fabric := { s.fabric with ports := u.fabric.ports } }) ∧
  (∀ bytes x, (ethSend s p bytes x).out = s.out ++ [x] ∧
    (portOf (ethSend s p bytes x) p).ctr.bytesTx = (portOf s p).ctr.bytesTx + max 46 bytes) ∧
  (up → ifGw4 r ≠ 0 → exec (.gatewayResolutionReply p i h false (ifGw4 r) mac) s =
    .next (updPort got p fun x => { x with gateways := smSet x.gateways (2 * i) mac })) ∧
  (up → ifGw6 r ≠ 0 → exec (.gatewayResolutionReply p i h true (ifGw6 r) mac) s =
    .next (updPort got p fun x => { x with gateways := smSet x.gateways (2 * i + 1) mac })) ∧
  (up → datagramOk s p i g = false → exec (.udpDatagramRx p i h g) s = .next (ethDiscard got p)) ∧
  (up → datagramOk s p i g = true → (portOf s p).ingress ≠ 0x7FFFF →
    ∃ u, exec (.udpDatagramRx p i h g) s = .next u ∧ (portOf u p).toMesh =
      (portOf s p).toMesh ++ ingressSegments s p i (seen % 65536) g ∧ smGetD (portOf u p).datagrams i 0 = seen + 1 ∧
      u.out = s.out) ∧
  (up → datagramOk s p i g = true → (portOf s p).ingress = 0x7FFFF →
    ∃ u, exec (.udpDatagramRx p i h g) s = .next u ∧ (portOf u p).toMesh = (portOf s p).toMesh ∧
      (portOf u p).ctr.ingressDrops = ((portOf s p).ctr.ingressDrops + 1) % 2 ^ 32 ∧ u.out = s.out) ∧
  (runs → ethGood s p i h = false → exec (.arpRequest p i h mac ip n) s = .next (ethDiscard s p) ∧
    exec (.neighbourSolicitation p i h mac ip n) s = .next (ethDiscard s p) ∧
    exec (.icmpEchoRequest p i h false mac ip n data) s = .next (ethDiscard s p) ∧
    exec (.udpDatagramRx p i h g) s = .next (ethDiscard s p) ∧
    exec (.gatewayResolutionReply p i h false ip mac) s = .next (ethDiscard s p)) ∧
  (ethGood s p i h = true ↔ (h.fcsGood = true ∧ 64 ≤ h.size ∧ h.size ≤ 9216 ∧ h.vlan = vlan)) ∧
  (rimRuns s = true → p < 32 → (portOf s p).egress = k :: rest → k.kind = 1 → exec (.egressSegment p) s =
    .next (egressMessage (updPort s p fun x => { x with egress := rest }) p k)) ∧
  (rimRuns s = true → p < 32 → (portOf s p).egress = k :: rest → k.kind = 6 → exec (.egressSegment p) s =
    .next (ingressNak (updPort s p fun x => { x with egress := rest }) p k)) ∧
  (rimRuns s = true → p < 32 → n < (portOf s p).partials.length → exec (.egressReassemblyTimeout p n) s =
    .next (updPortCtr (updPort s p fun x => { x with partials := x.partials.eraseIdx n }) p fun c =>
      { c with egressDrops := (c.egressDrops + 1) % 2 ^ 32 }))

/-! The resident runtime and the model slots (chapter 13). -/

/-- R39, R308, R374, R386 to R397, R399, R400: the runtime takes a frame from its ring, and what it sends a client leaves its tile
as segments for the client's port; a good REQUEST takes a place in the stream table, is accepted once its prompt is whole, or
is answered with error 2, 3, 4 or 5 where its slot takes no requests, its prompt does not fit, a field is wrong or the queue
is full; PROMPT_MORE completes it; CANCEL, RESEND and PING answer as the protocol gives; a prompt late at its limit fails with
6; a queued request is admitted to a lane and instance; chunks and tokens are injected by turn, and a stream whose last chunk
has passed is in DECODE; a token sampled here, or at the last stage once every stage has resumed, is sent unless it was, and
the last one ends the stream; the last stage of a pipeline passes its tokens on. Model's choices: log 41, 42, 53, 54, 102,
110. -/
def Obligations.RequestsAndStreams : Prop := ∀ (s : State) (c : Client) (f : List Byte) (x : Stream) (id m inst n tok : Nat)
    (source : TokenSource),
  let frame := fun typ : Nat => runtimeRuns s = true ∧ (c, f) ∈ s.steward.inbox ∧ egressId s c.port ≠ 0xFFFF ∧ 16 ≤ f.length ∧
    fld f 0 2 = 0x5247 ∧ fld f 2 1 = 1 ∧ grpShapeOk f = true ∧ fld f 3 1 = typ
  let b := takeInbox s c f
  let req := grpReqId f
  let k := fld f 0x10 1
  let h := slotHeader s k
  let err := fun code : Nat => sendError b c req code 0xFFFFFFFF 0
  let sends := fun (u : State) (c : Client) (frame : List Byte) => ∀ t, carrier s 364150 = some t →
    ∃ l, (tileOf u t).msg.outPk = (tileOf s t).msg.outPk ++ l ∧ ((grpSegments s c frame).map fun k => ({ pkt := k } : OutPacket)) <:+: l
  let named := s.steward.streams.find? (fun x => x.id = id) = some x
  let new := fun typ : Nat => frame typ ∧ streamOf s c req = none
  let fits := takesRequests s k = true ∧ fld f 0x28 4 < bhContext h ∧ fld f 0x2E 2 ≤ fld f 0x28 4
  let good := fits ∧ requestParamsOk f (bhVocab h) = true ∧ (streamsIn s k .queued).length < queueLimit s
  let kept := x.kept.filter fun e => e.1 < x.sent
  let asked := kept.filter fun e => fld f 0x10 4 ≤ e.1
  let waiting := (instStreams s m inst).filter fun x => x.st = .decode && !x.inFlight && !x.paused
  let chunk := slotRuns s m = true ∧ waiting = [] ∧
    (instStreams s m inst).find? (fun x => x.st = .prefill && x.injected < x.promptLen && !x.paused) = some x
  let inject := fun v : State => updStream { v with steward := { v.steward with chunkNo := v.steward.chunkNo + 1 } } x.id fun y =>
    { y with injected := min y.promptLen (y.injected + 32), flying := y.flying ++ [v.steward.chunkNo] }
  let hm := slotHeader s m
  let owns := slotRuns s m = true ∧ isLastStage hm = false ∧ s.steward.streams.find? (fun x => x.id = id && x.slot = m) = some x ∧
    ((x.st = .decode ∧ x.inFlight = true) ∨ (x.st = .prefill ∧ x.promptLen ≤ x.injected ∧ x.flying ≠ [])) ∧ x.paused = false
  let given := match source with
    | .tiles l => if bhNdev hm ≤ 1 then some (sampleToken x l) else none
    | .lastStage v resumed => if 1 < bhNdev hm ∧ resumed = true then some v else none
  let token := owns ∧ given = some tok
  (new 1 → good → fld f 0x2E 2 ≠ fld f 0x28 4 → ∃ u z, exec (.grpRequest c f) s = .next u ∧
    u.steward.streams = s.steward.streams ++ [z] ∧ z.id = s.steward.nextStream ∧ z.client = c ∧ z.reqId = req ∧ z.slot = k ∧
    z.st = .partPrompt ∧ z.promptLen = fld f 0x28 4 ∧ z.maxNew = fld f 0x1C 4 ∧ z.startTb = s.time.tb ∧ u.out = s.out ∧
    u.steward.inbox = s.steward.inbox.erase (c, f)) ∧
  (new 1 → good → fld f 0x2E 2 = fld f 0x28 4 → ∃ u z, exec (.grpRequest c f) s = .next u ∧
    z ∈ u.steward.streams ∧ z.id = s.steward.nextStream ∧ z.st = .queued ∧ z.rxTb = s.time.tb ∧
    u.steward.accepted = s.steward.accepted + 1 ∧
    sends u c (grpFrame 0x81 req (natLe 4 z.id ++ natLe 4 (queuePos u z) ++ natLe 8 s.time.tb))) ∧
  (new 1 → takesRequests s k = false → exec (.grpRequest c f) s = .next (err 2)) ∧
  (new 1 → takesRequests s k = true → (bhContext h ≤ fld f 0x28 4 ∨ fld f 0x28 4 < fld f 0x2E 2) →
    exec (.grpRequest c f) s = .next (err 3)) ∧
  (new 1 → fits → requestParamsOk f (bhVocab h) = false → exec (.grpRequest c f) s = .next (err 4)) ∧
  (new 1 → fits → requestParamsOk f (bhVocab h) = true → queueLimit s ≤ (streamsIn s k .queued).length →
    exec (.grpRequest c f) s = .next (err 5)) ∧
  (frame 2 → streamOf s c req = some x → x.st = .partPrompt → x.promptLen < fld f 0x10 4 + fld f 0x14 2 →
    exec (.grpPromptMore c f) s = .next (sendError b c x.reqId 3 0xFFFFFFFF 0)) ∧
  (frame 2 → streamOf s c req = some x → x.st = .partPrompt → fld f 0x10 4 + fld f 0x14 2 ≤ x.promptLen →
    (grpTokens f 0x18 (fld f 0x14 2)).all (· < bhVocab (slotHeader s x.slot)) = true →
    (List.range (fld f 0x14 2)).all (fun i => (smGet x.prompt (fld f 0x10 4 + i)).isSome) = false →
    let p := (grpTokens f 0x18 (fld f 0x14 2)).zipIdx.foldl (fun p e => smSet p (fld f 0x10 4 + e.2) e.1) x.prompt
    let z := { x with prompt := p }
    exec (.grpPromptMore c f) s = .next (if z.prompt.length = x.promptLen then queueStream (updStream b x.id fun _ => z) z
      else updStream b x.id fun _ => z)) ∧
  (frame 3 → streamOf s c req = some x → exec (.grpCancel c f) s = .next (failStream b x 7)) ∧
  (new 3 → exec (.grpCancel c f) s = .next (err 0xC)) ∧
  (frame 4 → streamOf s c req = some x → (kept.head?.all fun e => e.1 ≤ fld f 0x10 4) = true →
    exec (.grpResend c f) s = .next (asked.foldl (fun s e => sendToken s x e.1 e.2.1 e.2.2.1 e.2.2.2) b)) ∧
  (∀ e l, frame 4 → streamOf s c req = some x → kept = e :: l → fld f 0x10 4 < e.1 → exec (.grpResend c f) s =
    .next (asked.foldl (fun s e => sendToken s x e.1 e.2.1 e.2.2.1 e.2.2.2) (sendError b c x.reqId 0xB x.id x.sent))) ∧
  (new 4 → exec (.grpResend c f) s = .next (err 0xC)) ∧
  (frame 5 → k ≤ 7 → ∃ u, exec (.grpPing c f) s = .next u ∧ sends u c (grpFrame 0x85 req (natLe 1 (devCode s.dev.st)
    ++ natLe 1 (modelSlot s k).st ++ natLe 2 (activeStreams s k).length
    ++ natLe 4 (streamsIn s k .queued).length ++ natLe 8 s.time.tb)) ∧ u.mem = s.mem ∧ u.out = s.out) ∧
  (named → runtimeRuns s = true → x.st = .partPrompt → x.startTb + promptMs s * msTicks ≤ s.time.tb →
    exec (.promptTimeout id) s = .next (failStream s x 6)) ∧
  (∀ lane i is, slotRuns s m = true → streamsIn s m .queued ≠ [] →
    (List.range (bhKvLanes hm)).find? (fun l => !(activeStreams s m).any fun x => x.lane = l) = some lane →
    (List.range (bhNinst hm)).filter (fun i =>
      decide ((instStreams s m i).length < bhInstLimit hm)) = i :: is → ∃ j z,
    (j ∈ i :: is) ∧ (∀ k ∈ i :: is, (instStreams s m j).length ≤ (instStreams s m k).length) ∧
    z ∈ streamsIn s m .queued ∧ (∀ y ∈ streamsIn s m .queued, admitsBefore s y z = false) ∧
    exec (.streamAdmit m) s = .next (startMessage (sendAccept (updStream s z.id fun _ => { z with
      st := .prefill, inst := j, lane := lane }) { z with st := .prefill, inst := j, lane := lane } 0) m j)) ∧
  (chunk → ((instStreams s m inst).flatMap (·.flying)).length < 2 →
    exec (.prefillChunkInject m inst) s = .next (inject s)) ∧
  (chunk → 2 ≤ ((instStreams s m inst).flatMap (·.flying)).length →
    exec (.prefillChunkInject m inst) s = .next (inject (chunkPasses s m inst))) ∧
  (x ∈ s.steward.streams → x.slot = m → x.inst = inst → x.st = .prefill → x.flying ≠ [] → (∀ j ∈ x.flying, j ≤ n) →
    x.promptLen ≤ x.injected →
    { x with flying := [], st := .decode, inFlight := true } ∈ (chunksPass s m inst n).steward.streams) ∧
  (slotRuns s m = true → waiting ≠ [] → ∃ y, y ∈ waiting ∧
    (∀ z ∈ waiting, z.priority < y.priority ∨ (z.priority = y.priority ∧ y.waitTb ≤ z.waitTb)) ∧
    exec (.decodeTokenInject m inst) s = .next (startMessage (updStream s y.id fun z => { z with inFlight := true }) m inst)) ∧
  (token → x.sent ≤ x.generated → tokenReason s x tok = n → n ≠ 0 → ∃ u, exec (.tokenSampled m id source) s = .next u ∧
      sends u x.client (grpFrame 0x82 x.reqId (natLe 4 x.id ++ natLe 4 x.generated ++ natLe 4 tok ++ natLe 1 n
        ++ natLe 3 0 ++ natLe 8 s.time.tb)) ∧ (∀ z ∈ u.steward.streams, z.id ≠ id)) ∧
  (token → x.sent ≤ x.generated → tokenReason s x tok = 0 → ∃ u z, exec (.tokenSampled m id source) s = .next u ∧
      z ∈ u.steward.streams ∧ z.id = id ∧ z.st = .decode ∧ z.generated = x.generated + 1 ∧ z.sent = x.generated + 1 ∧
      z.inFlight = false ∧ u.steward.tokens = s.steward.tokens + 1) ∧
  (token → x.generated < x.sent → tokenReason s x tok = 0 → ∃ u z, exec (.tokenSampled m id source) s = .next u ∧
      z ∈ u.steward.streams ∧ z.id = id ∧ z.generated = x.generated + 1 ∧ z.kept = x.kept ∧ u.steward.tokens = s.steward.tokens) ∧
  (owns → exec (.tokenSampled m id (.lastStage tok false)) s = .next s) ∧
  (∀ g l, slotRuns s m = true → isLastStage hm = true → (modelSlot s m).bundle = some g →
    exec (.tokenSampled m id (.tiles l)) s = .next (tokenMessage s g))

/-- R383, R384, R458: load takes an EMPTY slot to LOADING and its image in; the load ends LOADED, or EMPTY with SOURCE; serve
takes a LOADED slot to SERVING, as the end of an autoload does, stop to STOPPING, unload to EMPTY; in any other state of the
slot or the module the command is answered STATE; a bundle copy ends with the image that the window holds at its offset, or
with its failure. Model's choices: log 14, 77, 78. -/
def Obligations.ModelSlotCommands : Prop := ∀ (s : State) (m f off : Nat) (q : Req) (image : Option Bundle) (g : Bundle)
    (window : List (Nat × Bundle)) (peers : List PeerReport),
  let i := 0x2700 + m
  let x := modelSlot s m
  let on := fun v : Nat => m < 8 ∧ NewWrite s q i 2 v ∧ slotCommands s = true ∧ s.steward.running = true
  let loads := slotCommands s = true ∧ s.steward.running = true ∧ x.st = 1 ∧ x.bindEpoch ≠ 0 ∧ x.bundle = some g ∧
    (x.loadSrc ≠ none ∨ x.arrived = true)
  let copying := f < 2 ∧ eyepieceRuns s = true ∧ s.boot.copyState[f]? = some 1
  let found := window.find? fun e => e.1 = s.boot.copyOff.getD f 0
  (on 1 → x.st = 0 → exec (.slotLoad q m image) s = .next (acked (startLoad s m image) q 2 i 2 stOk)) ∧
  (on 1 → x.st ≠ 0 → exec (.slotLoad q m image) s = .next (acked s q 2 i 2 stState)) ∧
  (on 2 → mayServe s m peers = true → exec (.slotServe q m peers) s = .next (acked (serveSlot s m) q 2 i 2 stOk)) ∧
  (on 2 → mayServe s m peers = false → exec (.slotServe q m peers) s = .next (acked s q 2 i 2 stState)) ∧
  (on 3 → x.st = 3 → exec (.slotStop q m) s = .next (acked (stopSlot s m) q 2 i 2 stOk)) ∧
  (on 4 → (x.st = 2 ∨ x.st = 4) → exec (.slotUnload q m) s = .next (acked (unloadSlot s m) q 2 i 2 stOk)) ∧
  (on 3 → x.st ≠ 3 → exec (.slotStop q m) s = .next (acked s q 2 i 2 stState)) ∧
  (on 4 → x.st ≠ 2 → x.st ≠ 4 → exec (.slotUnload q m) s = .next (acked s q 2 i 2 stState)) ∧
  (m < 8 → slotCommands s = false →
    (NewWrite s q i 2 1 → exec (.slotLoad q m image) s = .next (acked s q 2 i 2 stState)) ∧
    (NewWrite s q i 2 2 → exec (.slotServe q m peers) s = .next (acked s q 2 i 2 stState)) ∧
    (NewWrite s q i 2 3 → exec (.slotStop q m) s = .next (acked s q 2 i 2 stState)) ∧
    (NewWrite s q i 2 4 → exec (.slotUnload q m) s = .next (acked s q 2 i 2 stState))) ∧
  (loads → g.extents.all (extentGood g) = true → x.autoServe = false →
    exec (.slotLoadDone m true peers) s = .next (finishLoad s m g)) ∧
  (loads → g.extents.all (extentGood g) = true → x.autoServe = true → exec (.slotLoadDone m true peers) s =
    .next (if mayServe (finishLoad s m g) m peers then serveSlot (finishLoad s m g) m else finishLoad s m g)) ∧
  (loads → exec (.slotLoadDone m false peers) s = .next (failLoad s m 5 0)) ∧
  (loads → g.extents.all (extentGood g) = false → exec (.slotLoadDone m true peers) s = .next (failLoad s m 5 0)) ∧
  ((modelSlot (finishLoad s m g) m).st = 2 ∧ (modelSlot (failLoad s m 5 0) m).st = 0 ∧
    (modelSlot (failLoad s m 5 0) m).code = 5) ∧
  (f < 2 → NewWrite s q (0x2360 + f) 2 off → s.boot.copyState[f]? ≠ some 1 → s.boot.copyState.length = 2 →
    exec (.bundleFlashCopy q f off) s = .next (acked { s with boot := { s.boot with
      flashBundle := s.boot.flashBundle.set f none, copyState := s.boot.copyState.set f 1, copyOff := s.boot.copyOff.set f off } }
      q 2 (0x2360 + f) 2 stOk)) ∧
  (copying → found = some (s.boot.copyOff.getD f 0, g) → (bit (bhFlags g.header) 0 = true → signatureGood s g = true) →
    exec (.bundleFlashCopyDone f window) s = .next { s with boot := { s.boot with
      flashBundle := s.boot.flashBundle.set f (some g), copyState := s.boot.copyState.set f 0 } }) ∧
  (copying → (found = none ∨ (found = some (s.boot.copyOff.getD f 0, g) ∧ bit (bhFlags g.header) 0 = true ∧
      signatureGood s g = false)) → exec (.bundleFlashCopyDone f window) s =
    .next { s with boot := { s.boot with
      flashBundle := s.boot.flashBundle.set f none, copyState := s.boot.copyState.set f 2 } })

/-! The object dictionary (chapter 14). -/

/-- R407 to R409, R412, R414 to R417: a request is answered once and its retries from the kept response, one beyond its client's
limit with BUSY, a reserved command with RESERVED; a datagram without its MAGIC is counted and a damaged frame is an error of
its bus; READ answers the object's value, WRITE applies a value of the object's type or refuses it; the D-commands latch,
stage, commit and abort; sessions and latched copies end in time, and a session whose commit its source may no longer make
ends with it. Model's choices: log 44, 79, 88. -/
def Obligations.DictionaryRequests : Prop := ∀ (s : State) (q : Req) (i sub typ n off crc client src cmd : Nat) (b : List Byte)
    (d : ObjDef) (r : Response) (x : Session) (c : Instr),
  let k := objKey i sub
  let live := objBytes s q.src i sub
  let latched := { s with dict := { s.dict with copies :=
    (s.dict.copies.filter fun e => !(e.1 = q.src && e.2.1 = q.client && e.2.2.1 = k)) ++ [(q.src, q.client, k, live)] } }
  let opened : Session := { src := q.src, client := q.client, total := n, data := [], next := 0 }
  let mine := smGet s.dict.sessions k = some x ∧ x.src = q.src ∧ x.client = q.client
  let asks := (c = .read q i sub ∧ cmd = 1) ∨ (c = .write q i sub typ b ∧ cmd = 2) ∨ (c = .dread q i sub off n ∧ cmd = 3) ∨
    (c = .dopen q i sub n ∧ cmd = 4) ∨ (c = .dwrite q i sub off b ∧ cmd = 5) ∨ (c = .dcommit q i sub crc ∧ cmd = 6) ∨
    (c = .dabort q i sub ∧ cmd = 7)
  let heard := asks ∧ reachable s q = true ∧ garbled s q = none
  let fresh := heard ∧ keptResponse s q = none
  (heard → keptResponse s q = some r → exec c s =
    .next (emit { s with dict := { s.dict with retries := (s.dict.retries + 1) % 2 ^ 32 } } (.response r))) ∧
  (∀ u, asks → reachable s q = true → garbled s q = some u → exec c s = .next u) ∧
  ((q.src = 3 ∨ q.src = 4) → q.env.magic ≠ 0x4F44 → garbled s q =
    some { s with dict := { s.dict with malformed := (s.dict.malformed + 1) % 2 ^ 32 } }) ∧
  ((q.src = 1 ∨ q.src = 2) → q.env.damaged = true → garbled s q = some (canError s (q.src - 1))) ∧
  (fresh → q.src ≠ 0 → mostOutstanding q.src ≤ q.env.ahead → exec c s = .next (acked s q cmd i sub stBusy)) ∧
  (∀ x, fresh → (q.src = 0 ∨ q.env.ahead < mostOutstanding q.src) → q.env.reserved = some x → (x % 128 = 0 ∨ 7 < x % 128) →
    exec c s = .next (acked s q (x % 128) i sub stReserved)) ∧
  (asks → reachable s q = false → exec c s = .next s) ∧
  (NewRequest s q → objDef i sub = some d → isLong d = false → d.acc ≠ .wo → exec (.read q i sub) s =
    .next (answer s q 1 i sub { status := stOk, typ := d.typ, data := natLe (typeBytes d.typ) (objNum s q.src i sub) })) ∧
  (NewRequest s q → objDef i sub = none → exec (.read q i sub) s = .next (answer s q 1 i sub { status := stNoObject })) ∧
  (NewRequest s q → objDef i sub = some d → isLong d = false → typ = d.typ → b.length = typeBytes d.typ →
    exec (.write q i sub typ b) s = .next (acked (writeNumber s q.src i sub (leNat b) none []).1 q 2 i sub
      (writeNumber s q.src i sub (leNat b) none []).2)) ∧
  (NewRequest s q → objDef i sub = some d → writable d.acc = true → mayWrite s q.src = true → isLong d = false →
    (typ ≠ d.typ ∨ b.length ≠ typeBytes d.typ) →
    exec (.write q i sub typ b) s = .next (acked s q 2 i sub stType)) ∧
  (NewRequest s q → objDef i sub = some d → isLong d = true → d.acc ≠ .wo → live.length ≤ 2 ^ 20 →
    exec (.dread q i sub 0 n) s = .next (answer latched q 3 i sub { status := stOk, typ := d.typ, offset := 0
                                                                    fin := decide (live.length ≤ min n (dreadMax q.src))
                                                                    data := slice live 0 (min n (dreadMax q.src)) })) ∧
  (NewRequest s q → checkLong s q.src i sub = stOk → heldByOther s q.src q.client k = false → streamed i sub = false →
    n ≤ 2 ^ 20 → i ≠ 0x1011 → (i < 0x3000 ∨ 0x3020 ≤ i) → exec (.dopen q i sub n) s =
      .next (acked { s with dict := { s.dict with sessions := smSet s.dict.sessions k opened } } q 4 i sub stOk)) ∧
  (NewRequest s q → checkLong s q.src i sub = stOk → heldByOther s q.src q.client k = true →
    exec (.dopen q i sub n) s = .next (acked s q 4 i sub stBusy)) ∧
  (NewRequest s q → checkLong s q.src i sub = stOk → mine → streamed i sub = false → off + b.length ≤ x.total →
    exec (.dwrite q i sub off b) s = .next (answer { s with dict := { s.dict with
      sessions := smSet s.dict.sessions k (putSession x off b) } } q 5 i sub { status := stOk })) ∧
  (NewRequest s q → checkLong s q.src i sub = stOk → mine → streamed i sub = false → x.data.length = x.total →
    crc32 (sessionBytes x) = crc →
    let v := writeBytes { s with dict := { s.dict with sessions := smDel s.dict.sessions k } } q.src i sub (sessionBytes x)
    exec (.dcommit q i sub crc) s = .next (acked v.1 q 6 i sub v.2)) ∧
  (NewRequest s q → checkLong s q.src i sub = stOk → mine → streamed i sub = false → x.data.length = x.total →
    crc32 (sessionBytes x) ≠ crc → exec (.dcommit q i sub crc) s = .next (acked s q 6 i sub stCrc)) ∧
  (NewRequest s q → checkLong s q.src i sub = stAccess → mine → exec (.dcommit q i sub crc) s =
    .next (acked (dropSession s i sub) q 6 i sub stAccess)) ∧
  (NewRequest s q → checkLong s q.src i sub = stOk → mine → streamed i sub = false → exec (.dabort q i sub) s =
    .next (acked { s with dict := { s.dict with sessions := smDel s.dict.sessions k } } q 7 i sub stOk)) ∧
  (eyepieceRuns s = true → (smGet s.dict.sessions k).isSome = true → streamed i sub = false → exec (.sessionTimeout i sub) s =
    .next { s with dict := { s.dict with sessions := smDel s.dict.sessions k } }) ∧
  (exec (.readCopyExpiry src client i sub) s = .next { s with dict := { s.dict with
    copies := s.dict.copies.filter fun e => !(e.1 = src && e.2.1 = client && e.2.2.1 = k) } })

/-- R407: the objects kept per source hold a value for each source, which a client of another source does not move; so do the
copies that DREAD latches. -/
def Obligations.SelectionsPerSource : Prop := ∀ (s : State) (q : Req) (i sub src client k off len : Nat) (b : List Byte) (d : ObjDef),
  let kept := (i = 0x1031 ∧ sub = 1) ∨ (i = 0x6000 ∧ sub = 3) ∨ (i = 0x6100 ∧ sub = 0x10)
  let w := setSelection s q.src i sub (leNat b)
  (kept → objDef i sub = some d → b.length = typeBytes d.typ → NewWrite s q i sub (leNat b) →
    exec (.write q i sub d.typ b) s = .next (acked w q 2 i sub stOk) ∧ selection w q.src i sub = leNat b ∧
    (q.src ≤ 4 → src ≤ 4 → src ≠ q.src → ∀ j n, selection w src j n = selection s src j n)) ∧
  (kept → objNum s src i sub = selection s src i sub) ∧
  (src ≠ q.src → ∃ u, exec (.dread q i sub off len) s = .next u ∧ copyOf u src client k = copyOf s src client k)

/-- R298, R420, R428 to R431: the alert bits written as 1 clear but where their condition holds; restore-defaults and compaction
act on the store; erasing the log needs its permission and starts SEQ anew; Loupe buffers clear; a stored value is in force
once its record is written, and a write that the store or its flash cannot take is counted and refused with STORE. Model's
choices: log 8, 79. -/
def Obligations.DeviceManagement : Prop := ∀ (s w : State) (q : Req) (mask i sub v : Nat),
  let mark := sealRec tRestore 0 0 s.store.seq (.bytes [])
  (NewWrite s q 0x2000 6 mask → exec (.alertSummaryClear q mask) s = .next (acked { s with dev := { s.dev with
    alert := s.dev.alert &&& ~~~(BitVec.ofNat 32 mask &&& ~~~BitVec.ofNat 32 (alertHolds s)) } } q 2 0x2000 6 stOk)) ∧
  (NewWrite s q 0x1020 1 1 → appendRec s mark = (w, true) →
    exec (.restoreDefaults q) s = .next (acked w q 2 0x1020 1 stOk)) ∧
  (NewWrite s q 0x1020 1 1 → appendRec s mark = (w, false) →
    exec (.restoreDefaults q) s = .next (acked w q 2 0x1020 1 stStore)) ∧
  (eyepieceRuns s = true → s.store.broken = false → (theBank s).generation + 1 < 2 ^ 32 → ∃ u, exec .storeCompaction s = .next u ∧
    (theBank u).generation = (theBank s).generation + 1 ∧ (theBank u).recs = compactRecs s ∧ bankValid (theBank u) = true ∧
    u.store.compactions = (s.store.compactions + 1) % 2 ^ 32 ∧ u = { s with store := u.store }) ∧
  (eyepieceRuns s = true → s.store.broken = true → exec .storeCompaction s = .next (storeFails s 0 0)) ∧
  (NewWrite s q 0x6000 7 1 → s.boot.perms.getLsbD 2 = true → exec (.logErase q) s =
    .next (acked { s with log := { s.log with flash := [], mem := [], seq := 0 } } q 2 0x6000 7 stOk)) ∧
  (NewWrite s q 0x6000 7 1 → s.boot.perms.getLsbD 2 = false →
    exec (.logErase q) s = .next (acked s q 2 0x6000 7 stLocked)) ∧
  (NewWrite s q 0x6100 3 1 → exec (.loupeClearAll q) s = .next (acked { s with
    regions := s.regions.map fun e => (e.1, { e.2 with loupe := [] }) } q 2 0x6100 3 stOk)) ∧
  (NewWrite s q 0x6100 3 2 → exec (.loupeClearRegion q) s = .next (acked (updRegion s (selection s q.src 0x6100 0x10) fun r =>
    { r with loupe := [] }) q 2 0x6100 3 stOk)) ∧
  (NewWrite s q i sub v → (i = 0x2010 ∨ i = 0x2200 ∨ i = 0x2410 ∨ i = 0x2600) → isRws i sub = true →
    appendRec s (recordOf (objKey i sub) s.store.seq (.num v)) = (w, true) → ∃ u,
    writeNumber s q.src i sub v none [] = (u, stOk) ∧ dnum u i sub 0 = v ∧ u.store = w.store ∧ u.mem = w.mem) ∧
  (NewWrite s q i sub v → (i = 0x2010 ∨ i = 0x2200 ∨ i = 0x2410 ∨ i = 0x2600) → isRws i sub = true →
    appendRec s (recordOf (objKey i sub) s.store.seq (.num v)) = (w, false) →
    writeNumber s q.src i sub v none [] = (w, stStore)) ∧
  (s.store.broken = false → hasRoom s mark = true → ∃ u, appendRec s mark = (u, true) ∧
    (theBank u).recs = (theBank s).recs ++ [mark] ∧ u.dict = s.dict) ∧
  (s.store.broken = true → appendRec s mark = (storeFails s 0 0, false) ∧
    (storeFails s i sub).store.failures = (s.store.failures + 1) % 2 ^ 32)

/-! Bring-up and security (chapter 15). -/

/-- R6, R300, R436 to R451, R460: BRINGUP starts from AUX, or in one that a reset began, with an image of the flashes in their
order, a trial that the preferred one fails being reverted; the field groups are powered and calibrated in turn; the monitor
is loaded and starts T0; each region trains by the short test or in full, and in full where the short test fails; the known-
answer run decides who is healthy; the steward pair is chosen; unless a reported cause of FAULT or SAFE-HOLD comes first, the
criteria lead to READY, to a second training, or to KEEP-ALIVE, and an unrecoverable cause to FAULT. Model's choices: log 9,
43, 64, 80, 81, 82, 83, 84. -/
def Obligations.BringupSteps : Prop := ∀ (s : State) (sel f p : Nat) (fails : List (Nat × Nat)) (cals : List CrossingCal)
    (march : List (Nat × Nat × Nat × Nat)) (lost spares : List (Nat × Nat × Nat)) (results again : List (Nat × Nat))
    (defective : List Nat) (images : List (Nat × Bundle)) (pass : Bool),
  let at_ := fun n : Nat => bringupRuns s = true ∧ s.dev.bringupStep = n
  let r := regionOfNo s p
  let ps := trainingRegions s
  let untrained := at_ 6 ∧ p < regionCount ∧ r.st = .training ∧ r.retraining = false ∧ r.trainedFull = false ∧
    r.shortPassed = false
  let last := eyepieceRuns s = true ∧ s.dev.st = .bringup ∧ s.dev.bringupStep = 9
  let tested := last ∧ outranked s = false
  let enough := s.steward.running = true ∧ dnum s 0x2000 5 4544 ≤ healthyCount s
  let clocked := s.clock.locked = true ∧ s.clock.holdStep = 0
  (eyepieceRuns s = true → s.dev.rstHigh = true → s.clock.locked = true → s.dev.st = .aux → s.power.vinOk = true →
    s.power.tripped = false → let u := beginBringup s (s.dev.heldReset.getD .cold);
    exec (.bringupStart sel fails) s = .next (selectImage { u with dev := { u.dev with stagesOffWait := false } } sel fails)) ∧
  (at_ 1 → s.dev.rstHigh = true → s.dev.stagesOffWait = false →
    exec (.bringupStart sel fails) s = .next (selectImage s sel fails)) ∧
  (∀ pref fs,
    let why := imageReason s f ((fails.filter fun e => e.2 = f).map (·.1));
    let u := logEvent (setReason s f why) 0x0800 2 f why;
    tryFlashes s pref fails (f :: fs) = if why = 0 then (acceptImage s f (imageIn s f), true)
      else tryFlashes (if f = pref then revertTrial u else u) pref fails fs) ∧
  (at_ 3 → f = s.dev.nextGroup → f < 48 → ∃ u, exec (.fieldGroupPower f) s = .next u ∧ u.dev.nextGroup = f + 1 ∧
    smGet u.recov.fieldFenced f = none ∧ u.mem = s.mem ∧
    u.regions = ((fieldRegions f).foldl powerStep s).regions) ∧
  (at_ 3 → f = s.dev.nextCal → f < s.dev.nextGroup → ∃ u, exec (.groupCalibrate f cals) s = .next u ∧
    u.dev.nextCal = f + 1 ∧ u.dev.bringupStep = (if f = 47 then 5 else 3) ∧
    u.regions = (calibrateGroup s f cals).regions ∧ u.tiles = (calibrateGroup s f cals).tiles) ∧
  (at_ 5 → let u := ps.foldl (monitorRegion march lost) s;
    exec (.monitorBroadcast march lost) s = .next (trainPorts { u with dev := { u.dev with bringupStep := 6 } })) ∧
  (∀ t, (slotAt (tileOf s t).core 0).st ≠ .running → (tileOf s t).core.slots.length = 4 →
    (slotAt (tileOf (startMonitor s t) t).core 0).pc = 0 ∧ (tileOf (startMonitor s t) t).core.cur = 0 ∧
    (slotAt (tileOf (startMonitor s t) t).core 0).st = .running ∧
    readSpad (startMonitor s t) t 0 s.boot.monitor.length = s.boot.monitor) ∧
  (untrained → (s.dev.fullTraining = true ∨ r.lostInKat = true) → exec (.regionTraining p true defective spares pass) s =
    .next (fullTraining s p defective spares pass)) ∧
  (untrained → s.dev.fullTraining = false → r.lostInKat = false → (∀ x, savedRecord s = some x → p ∉ x.failed) → r.defect = [] →
    sidesBad s p = false →
    exec (.regionTraining p false [] spares pass) s = .next (updRegion s p fun r => { r with shortPassed := true })) ∧
  (untrained → s.dev.fullTraining = false → r.lostInKat = false → exec (.regionTraining p true defective spares pass) s =
    .next (fullTraining (logEvent { s with boot := { s.boot with trainingUsed := 2 } } 0x0803 1 p 0) p defective spares pass)) ∧
  (at_ 6 → (∀ x ∈ ps, (regionOfNo s x).trainedFull = true ∨ (regionOfNo s x).shortPassed = true) →
    ∃ u, exec (.knownAnswerRun results again) s = .next u ∧ u.dev.bringupStep = 8 ∧
      u.regions = (ps.foldl (katRegion results again) s).regions ∧ u.mem = (ps.foldl (katRegion results again) s).mem) ∧
  (at_ 8 → s.steward.running = false → s.steward.standby = 0xFFFF → ∀ x y, choosePrimary (freshRegions s) = some x →
    ∃ u, exec .stewardStart s = .next u ∧ u.dev.bringupStep = 9 ∧ u.steward.running = true ∧ u.steward.primary = x ∧
      (regionOfNo u x).binding = 0xFFFE ∧ u.mem = s.mem ∧ (∀ t, (tileOf u t).core = (tileOf s t).core) ∧
      (u.steward.standby = y → y ≠ 0xFFFF → y ≠ x → (regionOfNo u y).binding = 0xFFFD)) ∧
  (last → outranked s = true → exec (.readyCriteria images) s = .next (decideState s)) ∧
  (tested → unrecoverable s = true → exec (.readyCriteria images) s = .next (enterFault s)) ∧
  (tested → unrecoverable s = false → clocked → enough → exec (.readyCriteria images) s = .next (reachReady s images)) ∧
  (tested → unrecoverable s = false → clocked → ¬ enough → s.dev.retrainUsed = false → secondChance s ≠ [] →
    exec (.readyCriteria images) s = .next (retrainLost s)) ∧
  (tested → unrecoverable s = false → clocked → ¬ enough → (s.dev.retrainUsed = true ∨ secondChance s = []) →
    exec (.readyCriteria images) s = .next (enterKeepAlive s))

/-- R442, R459, R460: begin erases the target for its owner; chunks and fetched bytes go to the write offset; verify decides by
the image's reason; activate prefers the target on trial; commit raises the anti-rollback counter, never lowers it nor past
128; cancel ends it, undoing an activation; another source is answered BUSY. Model's choices: log 1, 9, 12, 64, 70, 81. -/
def Obligations.FirmwareUpdates : Prop := ∀ (s : State) (q : Req) (chunk : List Byte) (fails : List Nat),
  let b := s.boot
  let asks := fun n : Nat => NewWrite s q 0x2320 1 n ∧ (b.owner = none ∨ b.owner = some q.src)
  let n := dnum s 0x2320 5 0
  let idle := { s with boot := { b with update := 0, owner := none } }
  let why := imageReason s (updateTarget s) fails
  let checked := { s with boot := { b with verifyReason := why } }
  let part := fun u : State => (if updateTarget s = 0 then u.boot.imageA else u.boot.imageB).bytes
  let ok := fun u => acked u q 2 0x2320 1 stOk
  (asks 1 → (b.update = 0 ∨ b.update = 5) → ∃ u, exec (.updateBegin q) s = .next (ok u) ∧ u.boot = { (eraseImage s (updateTarget s)).boot with
    update := 1, owner := some q.src, writeOff := 0, target := updateTarget s } ∧ u.mem = s.mem ∧ u.tiles = s.tiles) ∧
  (asks 1 → b.update ≠ 0 → b.update ≠ 5 → exec (.updateBegin q) s = .next (acked s q 2 0x2320 1 stState)) ∧
  (∀ o, NewWrite s q 0x2320 1 1 → b.owner = some o → o ≠ q.src →
    exec (.updateBegin q) s = .next (acked s q 2 0x2320 1 stBusy)) ∧
  (eyepieceRuns s = true → b.update = 1 → exec .updateEraseDone s =
    .next (logEvent { s with boot := { b with update := 2 } } 0x080A 0 2 0)) ∧
  (NewRequest s q → checkLong s q.src 0x2320 3 = stOk → heldByOther s q.src q.client (objKey 0x2320 3) = false →
    chunk.length ≤ 2 ^ 20 → (b.owner = none ∨ b.owner = some q.src) → b.update = 2 → b.writeOff + chunk.length ≤ partitionBytes →
    ∃ u, exec (.imageChunkWrite q chunk) s = .next (acked u q 6 0x2320 3 stOk) ∧
      u.boot.writeOff = b.writeOff + chunk.length ∧ part u = chunk.zipIdx.foldl
        (fun m e => smSet m (b.writeOff + e.2) e.1) (part s) ∧ u.boot.update = 2 ∧ u.mem = s.mem) ∧
  (asks 6 → b.update = 2 → b.writeOff + n ≤ partitionBytes → exec (.updateFetch q) s =
    .next (ok (putTarget { s with free := s.free + 1 } ((List.range n).map fun i =>
      Config.companionByte s.free (dnum s 0x2320 4 0 + i))))) ∧
  (asks 2 → b.update = 2 → exec (.updateVerify q) s =
    .next (ok (logEvent { s with boot := { b with update := 3 } } 0x080A 0 3 0))) ∧
  (eyepieceRuns s = true → b.update = 3 → exec (.updateVerifyDone fails) s = .next (if why = 0 then
    logEvent { checked with boot := { checked.boot with update := 4 } } 0x080A 0 4 0
    else logEvent { checked with boot := { checked.boot with update := 5 } } 0x080A 2 5 why)) ∧
  (asks 3 → b.update = 4 → ∃ u, exec (.updateActivate q) s = .next (ok u) ∧ u.boot.update = 6 ∧ u.boot.trial = 1 ∧
    u.boot.preferred = updateTarget s ∧ u.boot.oldPreferred = b.preferred ∧ u.mem = s.mem) ∧
  (asks 4 → b.update = 0 → b.trial = 3 → b.booted = b.preferred + 1 → ∃ u, exec (.updateCommit q) s = .next (ok u) ∧
    u.boot.counter = max b.counter (min 128 b.secVersion) ∧ u.boot.trial = 0 ∧ u.boot.imgRevoked = b.imgRevoked) ∧
  (asks 5 → (b.update = 2 ∨ b.update = 4 ∨ b.update = 5) → exec (.updateCancel q) s = .next (ok (logEvent idle 0x080A 0 0 0))) ∧
  (asks 5 → b.update = 6 → exec (.updateCancel q) s = .next (ok (logEvent { s with boot := { b with
    preferred := b.oldPreferred, trial := 0, update := 0, owner := none } } 0x080A 0 0 0)))

/-- R453 to R457: an image key slot that neither runs nor is the last is revoked, a running one is refused; a bundle key slot is
programmed once and revoked, with the permission, and a load signed by a revoked one fails; a nonce starts an attestation
whose report is signed; a debug token gives its permissions or none, and either way the challenge is new; the unlock ends.
Model's choices: log 1, 11, 13. -/
def Obligations.FusesAttestationAndDebug : Prop := ∀ (s : State) (q : Req) (k : Nat) (hash nonce token : List Byte),
  let b := s.boot
  let whole := fun i sub : Nat => NewRequest s q ∧ checkLong s q.src i sub = stOk ∧
    heldByOther s q.src q.client (objKey i sub) = false
  let key := fun u => { u with dict := { u.dict with sessions := smDel u.dict.sessions (objKey (0x2350 + k) 2) } }
  let closed := fun (u : State) (i sub : Nat) => { u with dict := { u.dict with sessions := smDel u.dict.sessions (objKey i sub) } }
  (NewWrite s q 0x2310 3 k → (b.booted = 0 ∨ b.keySlot ≠ k) → b.imgRevoked.getLsbD k = false →
    (∃ n, n < 4 ∧ n ≠ k ∧ b.imgRevoked.getLsbD n = false) → exec (.revokeImageKey q k) s = .next (acked (logEvent { s with
      boot := { b with imgRevoked := b.imgRevoked ||| BitVec.twoPow 4 k } } 0x0808 1 0 k) q 2 0x2310 3 stOk)) ∧
  (NewWrite s q 0x2310 3 k → b.booted ≠ 0 → b.keySlot = k →
    exec (.revokeImageKey q k) s = .next (acked s q 2 0x2310 3 stState)) ∧
  (k < 8 → whole (0x2350 + k) 2 → b.perms.getLsbD 3 = true → hash.length = 48 → b.bundleKeys[k]? = some none →
    exec (.programBundleKey q k hash) s = .next (acked (key { s with boot := { b with
      bundleKeys := b.bundleKeys.set k (some hash) } }) q 6 (0x2350 + k) 2 stOk)) ∧
  (∀ h, k < 8 → whole (0x2350 + k) 2 → b.perms.getLsbD 3 = true → hash.length = 48 → b.bundleKeys[k]? = some (some h) →
    exec (.programBundleKey q k hash) s = .next (acked (key s) q 6 (0x2350 + k) 2 stState)) ∧
  (k < 8 → whole (0x2350 + k) 2 → b.perms.getLsbD 3 = false → hash.length = 48 →
    exec (.programBundleKey q k hash) s = .next (acked (key s) q 6 (0x2350 + k) 2 stLocked)) ∧
  (k < 8 → NewWrite s q (0x2350 + k) 4 1 → b.perms.getLsbD 3 = true → b.bdlRevoked.getLsbD k = false →
    exec (.revokeBundleKey q k) s = .next (acked (logEvent { s with boot := { b with
      bdlRevoked := b.bdlRevoked ||| BitVec.twoPow 8 k } } 0x0808 1 1 k) q 2 (0x2350 + k) 4 stOk)) ∧
  (k < 8 → NewWrite s q (0x2350 + k) 4 1 → b.perms.getLsbD 3 = false →
    exec (.revokeBundleKey q k) s = .next (acked s q 2 (0x2350 + k) 4 stLocked)) ∧
  (∀ (g : Bundle) (x : BundleSig), g.signature = some x → b.bdlRevoked.getLsbD (fld x.header 4 1) = true →
    signatureGood s g = false) ∧
  (whole 0x2330 1 → b.attest ≠ 1 → nonce.length = 32 → exec (.attestationNonce q nonce) s =
    .next (acked (closed { s with boot := { b with attest := 1, nonce := nonce } } 0x2330 1) q 6 0x2330 1 stOk)) ∧
  (eyepieceRuns s = true → b.attest = 1 → exec .attestationReady s = .next { s with boot := { b with
    attest := 2, attestReport := attestBody s ++ padTo 16608 (Config.identitySign Config.identitySeed (attestBody s)) } }) ∧
  (whole 0x2340 2 → token.length ≤ 2 ^ 20 → ∃ u, exec (.debugToken q token) s =
    .next (acked u q 6 0x2340 2 (if tokenGood s token then stOk else stRange)) ∧
    u.boot.challenge = freshBytes s.free 32 ∧
    u.boot.perms = (if tokenGood s token then BitVec.ofNat 32 (fld token 0xC 4) else b.perms) ∧ u.mem = s.mem) ∧
  (NewWrite s q 0x2340 4 1 → b.perms ≠ 0 → exec (.debugUnlockEnd q) s =
    .next (acked (logEvent { s with boot := { b with perms := 0 } } 0x0807 1 b.perms.toNat 0) q 2 0x2340 4 stOk))
end

