-- ==== Sys2Proof/Laws/State.lean ====
section
/-! SUPPORT. What the updates of Machine/Ops.lean leave of a state: one lemma for each field that an update does not change, and
the readers of tiles, regions, ports and model slots after an update. -/

namespace Sys2Proof.Laws

open Sys2Proof.Machine

variable (s : State)

/-! Sparse maps. -/

@[simp] theorem smGet_set_same {α : Type} (m : SMap α) (a : Nat) (v : α) : smGet (smSet m a v) a = some v := by
  induction m with
  | nil => simp [smSet, smGet]
  | cons x m ih =>
    simp only [smSet]
    split
    · simp [smGet]
    · split
      · simp [smGet]
      · rename_i h1 h2
        simp [smGet, h2, ih]

@[simp] theorem smGet_set_ne {α : Type} (m : SMap α) {a b : Nat} (v : α) (h : b ≠ a) :
    smGet (smSet m a v) b = smGet m b := by
  induction m with
  | nil => simp [smSet, smGet, h]
  | cons x m ih =>
    simp only [smSet]
    split
    · simp [smGet, h]
    · split
      · rename_i h2
        simp [smGet, h, ← h2]
      · simp only [smGet, ih]

@[simp] theorem smGetD_upd_same {α : Type} (m : SMap α) (a : Nat) (d : α) (f : α → α) :
    smGetD (smUpd m a d f) a d = f (smGetD m a d) := by
  simp [smGetD, smUpd]

@[simp] theorem smGetD_upd_ne {α : Type} (m : SMap α) {a b : Nat} (d e : α) (f : α → α) (h : b ≠ a) :
    smGetD (smUpd m a d f) b e = smGetD m b e := by
  simp [smGetD, smUpd, h]

theorem smSet_set {α : Type} (m : SMap α) (a : Nat) (v w : α) : smSet (smSet m a v) a w = smSet m a w := by
  induction m with
  | nil => simp [smSet]
  | cons x m ih =>
    by_cases h1 : a < x.1
    · simp [smSet, h1]
    · by_cases h2 : a = x.1
      · simp [smSet, h2]
      · simp [smSet, h1, h2, ih]

/-! Readers after an update. -/

@[simp] theorem tileOf_updTile_same (t : Nat) (f : Tile → Tile) : tileOf (updTile s t f) t = f (tileOf s t) :=
  smGetD_upd_same _ _ _ _

@[simp] theorem tileOf_updTile_ne {t t' : Nat} (f : Tile → Tile) (h : t' ≠ t) : tileOf (updTile s t f) t' = tileOf s t' :=
  smGetD_upd_ne _ _ _ _ h

@[simp] theorem tileOf_updCore_same (t : Nat) (f : Core → Core) :
    tileOf (updCore s t f) t = { tileOf s t with core := f (tileOf s t).core } := tileOf_updTile_same _ _ _

@[simp] theorem tileOf_updCore_ne {t t' : Nat} (f : Core → Core) (h : t' ≠ t) : tileOf (updCore s t f) t' = tileOf s t' :=
  tileOf_updTile_ne _ _ h

@[simp] theorem tileOf_updLat_same (t : Nat) (f : Lattice → Lattice) :
    tileOf (updLat s t f) t = { tileOf s t with lat := f (tileOf s t).lat } := tileOf_updTile_same _ _ _

@[simp] theorem tileOf_updMsg_same (t : Nat) (f : MsgEngine → MsgEngine) :
    tileOf (updMsg s t f) t = { tileOf s t with msg := f (tileOf s t).msg } := tileOf_updTile_same _ _ _

@[simp] theorem tileOf_updRouter_same (t : Nat) (f : Router → Router) :
    tileOf (updRouter s t f) t = { tileOf s t with router := f (tileOf s t).router } := tileOf_updTile_same _ _ _

@[simp] theorem tileOf_updRegion (t p : Nat) (f : Region → Region) : tileOf (updRegion s p f) t = tileOf s t := rfl

@[simp] theorem regionOfNo_updRegion_same (p : Nat) (f : Region → Region) :
    regionOfNo (updRegion s p f) p = f (regionOfNo s p) := smGetD_upd_same _ _ _ _

@[simp] theorem regionOfNo_updRegion_ne {p q : Nat} (f : Region → Region) (h : q ≠ p) :
    regionOfNo (updRegion s p f) q = regionOfNo s q := smGetD_upd_ne _ _ _ _ h

@[simp] theorem regionOfNo_updTile (t p : Nat) (f : Tile → Tile) : regionOfNo (updTile s t f) p = regionOfNo s p := rfl

@[simp] theorem portOf_updPort_same (p : Nat) (f : Port → Port) : portOf (updPort s p f) p = f (portOf s p) :=
  smGetD_upd_same _ _ _ _

@[simp] theorem portOf_updPort_ne {p q : Nat} (f : Port → Port) (h : q ≠ p) : portOf (updPort s p f) q = portOf s q :=
  smGetD_upd_ne _ _ _ _ h

@[simp] theorem modelSlot_updModel_same (m : Nat) (f : ModelSlot → ModelSlot) :
    modelSlot (updModel s m f) m = f (modelSlot s m) := smGetD_upd_same _ _ _ _

@[simp] theorem modelSlot_updModel_ne {m n : Nat} (f : ModelSlot → ModelSlot) (h : n ≠ m) :
    modelSlot (updModel s m f) n = modelSlot s n := smGetD_upd_ne _ _ _ _ h

@[simp] theorem dnum_setNum_same (i j n d : Nat) : dnum (setNum s i j n) i j d = n := by
  simp [dnum, setNum]

/-! The fields an update leaves. -/

@[simp] theorem updTile_dev (t : Nat) (f : Tile → Tile) : (updTile s t f).dev = s.dev := rfl
@[simp] theorem updTile_power (t : Nat) (f : Tile → Tile) : (updTile s t f).power = s.power := rfl
@[simp] theorem updTile_clock (t : Nat) (f : Tile → Tile) : (updTile s t f).clock = s.clock := rfl
@[simp] theorem updTile_time (t : Nat) (f : Tile → Tile) : (updTile s t f).time = s.time := rfl
@[simp] theorem updTile_beam (t : Nat) (f : Tile → Tile) : (updTile s t f).beam = s.beam := rfl
@[simp] theorem updTile_sig (t : Nat) (f : Tile → Tile) : (updTile s t f).sig = s.sig := rfl
@[simp] theorem updTile_dict (t : Nat) (f : Tile → Tile) : (updTile s t f).dict = s.dict := rfl
@[simp] theorem updTile_log (t : Nat) (f : Tile → Tile) : (updTile s t f).log = s.log := rfl
@[simp] theorem updTile_store (t : Nat) (f : Tile → Tile) : (updTile s t f).store = s.store := rfl
@[simp] theorem updTile_boot (t : Nat) (f : Tile → Tile) : (updTile s t f).boot = s.boot := rfl
@[simp] theorem updTile_fabric (t : Nat) (f : Tile → Tile) : (updTile s t f).fabric = s.fabric := rfl
@[simp] theorem updTile_steward (t : Nat) (f : Tile → Tile) : (updTile s t f).steward = s.steward := rfl
@[simp] theorem updTile_recov (t : Nat) (f : Tile → Tile) : (updTile s t f).recov = s.recov := rfl
@[simp] theorem updTile_regions (t : Nat) (f : Tile → Tile) : (updTile s t f).regions = s.regions := rfl
@[simp] theorem updTile_mem (t : Nat) (f : Tile → Tile) : (updTile s t f).mem = s.mem := rfl
@[simp] theorem updTile_out (t : Nat) (f : Tile → Tile) : (updTile s t f).out = s.out := rfl
@[simp] theorem updTile_free (t : Nat) (f : Tile → Tile) : (updTile s t f).free = s.free := rfl
@[simp] theorem updTile_pending (t : Nat) (f : Tile → Tile) : (updTile s t f).pending = s.pending := rfl

@[simp] theorem updCore_dev (t : Nat) (f : Core → Core) : (updCore s t f).dev = s.dev := rfl
@[simp] theorem updCore_power (t : Nat) (f : Core → Core) : (updCore s t f).power = s.power := rfl
@[simp] theorem updCore_clock (t : Nat) (f : Core → Core) : (updCore s t f).clock = s.clock := rfl
@[simp] theorem updCore_time (t : Nat) (f : Core → Core) : (updCore s t f).time = s.time := rfl
@[simp] theorem updCore_beam (t : Nat) (f : Core → Core) : (updCore s t f).beam = s.beam := rfl
@[simp] theorem updCore_sig (t : Nat) (f : Core → Core) : (updCore s t f).sig = s.sig := rfl
@[simp] theorem updCore_dict (t : Nat) (f : Core → Core) : (updCore s t f).dict = s.dict := rfl
@[simp] theorem updCore_log (t : Nat) (f : Core → Core) : (updCore s t f).log = s.log := rfl
@[simp] theorem updCore_store (t : Nat) (f : Core → Core) : (updCore s t f).store = s.store := rfl
@[simp] theorem updCore_boot (t : Nat) (f : Core → Core) : (updCore s t f).boot = s.boot := rfl
@[simp] theorem updCore_fabric (t : Nat) (f : Core → Core) : (updCore s t f).fabric = s.fabric := rfl
@[simp] theorem updCore_steward (t : Nat) (f : Core → Core) : (updCore s t f).steward = s.steward := rfl
@[simp] theorem updCore_recov (t : Nat) (f : Core → Core) : (updCore s t f).recov = s.recov := rfl
@[simp] theorem updCore_regions (t : Nat) (f : Core → Core) : (updCore s t f).regions = s.regions := rfl
@[simp] theorem updCore_mem (t : Nat) (f : Core → Core) : (updCore s t f).mem = s.mem := rfl
@[simp] theorem updCore_out (t : Nat) (f : Core → Core) : (updCore s t f).out = s.out := rfl
@[simp] theorem updCore_free (t : Nat) (f : Core → Core) : (updCore s t f).free = s.free := rfl
@[simp] theorem updCore_pending (t : Nat) (f : Core → Core) : (updCore s t f).pending = s.pending := rfl

@[simp] theorem updLat_dev (t : Nat) (f : Lattice → Lattice) : (updLat s t f).dev = s.dev := rfl
@[simp] theorem updLat_power (t : Nat) (f : Lattice → Lattice) : (updLat s t f).power = s.power := rfl
@[simp] theorem updLat_clock (t : Nat) (f : Lattice → Lattice) : (updLat s t f).clock = s.clock := rfl
@[simp] theorem updLat_time (t : Nat) (f : Lattice → Lattice) : (updLat s t f).time = s.time := rfl
@[simp] theorem updLat_beam (t : Nat) (f : Lattice → Lattice) : (updLat s t f).beam = s.beam := rfl
@[simp] theorem updLat_sig (t : Nat) (f : Lattice → Lattice) : (updLat s t f).sig = s.sig := rfl
@[simp] theorem updLat_dict (t : Nat) (f : Lattice → Lattice) : (updLat s t f).dict = s.dict := rfl
@[simp] theorem updLat_log (t : Nat) (f : Lattice → Lattice) : (updLat s t f).log = s.log := rfl
@[simp] theorem updLat_store (t : Nat) (f : Lattice → Lattice) : (updLat s t f).store = s.store := rfl
@[simp] theorem updLat_boot (t : Nat) (f : Lattice → Lattice) : (updLat s t f).boot = s.boot := rfl
@[simp] theorem updLat_fabric (t : Nat) (f : Lattice → Lattice) : (updLat s t f).fabric = s.fabric := rfl
@[simp] theorem updLat_steward (t : Nat) (f : Lattice → Lattice) : (updLat s t f).steward = s.steward := rfl
@[simp] theorem updLat_recov (t : Nat) (f : Lattice → Lattice) : (updLat s t f).recov = s.recov := rfl
@[simp] theorem updLat_regions (t : Nat) (f : Lattice → Lattice) : (updLat s t f).regions = s.regions := rfl
@[simp] theorem updLat_mem (t : Nat) (f : Lattice → Lattice) : (updLat s t f).mem = s.mem := rfl
@[simp] theorem updLat_out (t : Nat) (f : Lattice → Lattice) : (updLat s t f).out = s.out := rfl
@[simp] theorem updLat_free (t : Nat) (f : Lattice → Lattice) : (updLat s t f).free = s.free := rfl
@[simp] theorem updLat_pending (t : Nat) (f : Lattice → Lattice) : (updLat s t f).pending = s.pending := rfl

@[simp] theorem updMsg_dev (t : Nat) (f : MsgEngine → MsgEngine) : (updMsg s t f).dev = s.dev := rfl
@[simp] theorem updMsg_power (t : Nat) (f : MsgEngine → MsgEngine) : (updMsg s t f).power = s.power := rfl
@[simp] theorem updMsg_clock (t : Nat) (f : MsgEngine → MsgEngine) : (updMsg s t f).clock = s.clock := rfl
@[simp] theorem updMsg_time (t : Nat) (f : MsgEngine → MsgEngine) : (updMsg s t f).time = s.time := rfl
@[simp] theorem updMsg_beam (t : Nat) (f : MsgEngine → MsgEngine) : (updMsg s t f).beam = s.beam := rfl
@[simp] theorem updMsg_sig (t : Nat) (f : MsgEngine → MsgEngine) : (updMsg s t f).sig = s.sig := rfl
@[simp] theorem updMsg_dict (t : Nat) (f : MsgEngine → MsgEngine) : (updMsg s t f).dict = s.dict := rfl
@[simp] theorem updMsg_log (t : Nat) (f : MsgEngine → MsgEngine) : (updMsg s t f).log = s.log := rfl
@[simp] theorem updMsg_store (t : Nat) (f : MsgEngine → MsgEngine) : (updMsg s t f).store = s.store := rfl
@[simp] theorem updMsg_boot (t : Nat) (f : MsgEngine → MsgEngine) : (updMsg s t f).boot = s.boot := rfl
@[simp] theorem updMsg_fabric (t : Nat) (f : MsgEngine → MsgEngine) : (updMsg s t f).fabric = s.fabric := rfl
@[simp] theorem updMsg_steward (t : Nat) (f : MsgEngine → MsgEngine) : (updMsg s t f).steward = s.steward := rfl
@[simp] theorem updMsg_recov (t : Nat) (f : MsgEngine → MsgEngine) : (updMsg s t f).recov = s.recov := rfl
@[simp] theorem updMsg_regions (t : Nat) (f : MsgEngine → MsgEngine) : (updMsg s t f).regions = s.regions := rfl
@[simp] theorem updMsg_mem (t : Nat) (f : MsgEngine → MsgEngine) : (updMsg s t f).mem = s.mem := rfl
@[simp] theorem updMsg_out (t : Nat) (f : MsgEngine → MsgEngine) : (updMsg s t f).out = s.out := rfl
@[simp] theorem updMsg_free (t : Nat) (f : MsgEngine → MsgEngine) : (updMsg s t f).free = s.free := rfl
@[simp] theorem updMsg_pending (t : Nat) (f : MsgEngine → MsgEngine) : (updMsg s t f).pending = s.pending := rfl

@[simp] theorem updRouter_dev (t : Nat) (f : Router → Router) : (updRouter s t f).dev = s.dev := rfl
@[simp] theorem updRouter_power (t : Nat) (f : Router → Router) : (updRouter s t f).power = s.power := rfl
@[simp] theorem updRouter_clock (t : Nat) (f : Router → Router) : (updRouter s t f).clock = s.clock := rfl
@[simp] theorem updRouter_time (t : Nat) (f : Router → Router) : (updRouter s t f).time = s.time := rfl
@[simp] theorem updRouter_beam (t : Nat) (f : Router → Router) : (updRouter s t f).beam = s.beam := rfl
@[simp] theorem updRouter_sig (t : Nat) (f : Router → Router) : (updRouter s t f).sig = s.sig := rfl
@[simp] theorem updRouter_dict (t : Nat) (f : Router → Router) : (updRouter s t f).dict = s.dict := rfl
@[simp] theorem updRouter_log (t : Nat) (f : Router → Router) : (updRouter s t f).log = s.log := rfl
@[simp] theorem updRouter_store (t : Nat) (f : Router → Router) : (updRouter s t f).store = s.store := rfl
@[simp] theorem updRouter_boot (t : Nat) (f : Router → Router) : (updRouter s t f).boot = s.boot := rfl
@[simp] theorem updRouter_fabric (t : Nat) (f : Router → Router) : (updRouter s t f).fabric = s.fabric := rfl
@[simp] theorem updRouter_steward (t : Nat) (f : Router → Router) : (updRouter s t f).steward = s.steward := rfl
@[simp] theorem updRouter_recov (t : Nat) (f : Router → Router) : (updRouter s t f).recov = s.recov := rfl
@[simp] theorem updRouter_regions (t : Nat) (f : Router → Router) : (updRouter s t f).regions = s.regions := rfl
@[simp] theorem updRouter_mem (t : Nat) (f : Router → Router) : (updRouter s t f).mem = s.mem := rfl
@[simp] theorem updRouter_out (t : Nat) (f : Router → Router) : (updRouter s t f).out = s.out := rfl
@[simp] theorem updRouter_free (t : Nat) (f : Router → Router) : (updRouter s t f).free = s.free := rfl
@[simp] theorem updRouter_pending (t : Nat) (f : Router → Router) : (updRouter s t f).pending = s.pending := rfl

@[simp] theorem updRegion_dev (p : Nat) (f : Region → Region) : (updRegion s p f).dev = s.dev := rfl
@[simp] theorem updRegion_power (p : Nat) (f : Region → Region) : (updRegion s p f).power = s.power := rfl
@[simp] theorem updRegion_clock (p : Nat) (f : Region → Region) : (updRegion s p f).clock = s.clock := rfl
@[simp] theorem updRegion_time (p : Nat) (f : Region → Region) : (updRegion s p f).time = s.time := rfl
@[simp] theorem updRegion_beam (p : Nat) (f : Region → Region) : (updRegion s p f).beam = s.beam := rfl
@[simp] theorem updRegion_sig (p : Nat) (f : Region → Region) : (updRegion s p f).sig = s.sig := rfl
@[simp] theorem updRegion_dict (p : Nat) (f : Region → Region) : (updRegion s p f).dict = s.dict := rfl
@[simp] theorem updRegion_log (p : Nat) (f : Region → Region) : (updRegion s p f).log = s.log := rfl
@[simp] theorem updRegion_store (p : Nat) (f : Region → Region) : (updRegion s p f).store = s.store := rfl
@[simp] theorem updRegion_boot (p : Nat) (f : Region → Region) : (updRegion s p f).boot = s.boot := rfl
@[simp] theorem updRegion_fabric (p : Nat) (f : Region → Region) : (updRegion s p f).fabric = s.fabric := rfl
@[simp] theorem updRegion_steward (p : Nat) (f : Region → Region) : (updRegion s p f).steward = s.steward := rfl
@[simp] theorem updRegion_recov (p : Nat) (f : Region → Region) : (updRegion s p f).recov = s.recov := rfl
@[simp] theorem updRegion_tiles (p : Nat) (f : Region → Region) : (updRegion s p f).tiles = s.tiles := rfl
@[simp] theorem updRegion_mem (p : Nat) (f : Region → Region) : (updRegion s p f).mem = s.mem := rfl
@[simp] theorem updRegion_out (p : Nat) (f : Region → Region) : (updRegion s p f).out = s.out := rfl
@[simp] theorem updRegion_free (p : Nat) (f : Region → Region) : (updRegion s p f).free = s.free := rfl
@[simp] theorem updRegion_pending (p : Nat) (f : Region → Region) : (updRegion s p f).pending = s.pending := rfl

@[simp] theorem updCtr_dev (p : Nat) (f : Counters → Counters) : (updCtr s p f).dev = s.dev := rfl
@[simp] theorem updCtr_power (p : Nat) (f : Counters → Counters) : (updCtr s p f).power = s.power := rfl
@[simp] theorem updCtr_clock (p : Nat) (f : Counters → Counters) : (updCtr s p f).clock = s.clock := rfl
@[simp] theorem updCtr_time (p : Nat) (f : Counters → Counters) : (updCtr s p f).time = s.time := rfl
@[simp] theorem updCtr_beam (p : Nat) (f : Counters → Counters) : (updCtr s p f).beam = s.beam := rfl
@[simp] theorem updCtr_sig (p : Nat) (f : Counters → Counters) : (updCtr s p f).sig = s.sig := rfl
@[simp] theorem updCtr_dict (p : Nat) (f : Counters → Counters) : (updCtr s p f).dict = s.dict := rfl
@[simp] theorem updCtr_log (p : Nat) (f : Counters → Counters) : (updCtr s p f).log = s.log := rfl
@[simp] theorem updCtr_store (p : Nat) (f : Counters → Counters) : (updCtr s p f).store = s.store := rfl
@[simp] theorem updCtr_boot (p : Nat) (f : Counters → Counters) : (updCtr s p f).boot = s.boot := rfl
@[simp] theorem updCtr_fabric (p : Nat) (f : Counters → Counters) : (updCtr s p f).fabric = s.fabric := rfl
@[simp] theorem updCtr_steward (p : Nat) (f : Counters → Counters) : (updCtr s p f).steward = s.steward := rfl
@[simp] theorem updCtr_recov (p : Nat) (f : Counters → Counters) : (updCtr s p f).recov = s.recov := rfl
@[simp] theorem updCtr_tiles (p : Nat) (f : Counters → Counters) : (updCtr s p f).tiles = s.tiles := rfl
@[simp] theorem updCtr_mem (p : Nat) (f : Counters → Counters) : (updCtr s p f).mem = s.mem := rfl
@[simp] theorem updCtr_out (p : Nat) (f : Counters → Counters) : (updCtr s p f).out = s.out := rfl
@[simp] theorem updCtr_free (p : Nat) (f : Counters → Counters) : (updCtr s p f).free = s.free := rfl
@[simp] theorem updCtr_pending (p : Nat) (f : Counters → Counters) : (updCtr s p f).pending = s.pending := rfl

@[simp] theorem updPort_dev (p : Nat) (f : Port → Port) : (updPort s p f).dev = s.dev := rfl
@[simp] theorem updPort_power (p : Nat) (f : Port → Port) : (updPort s p f).power = s.power := rfl
@[simp] theorem updPort_clock (p : Nat) (f : Port → Port) : (updPort s p f).clock = s.clock := rfl
@[simp] theorem updPort_time (p : Nat) (f : Port → Port) : (updPort s p f).time = s.time := rfl
@[simp] theorem updPort_beam (p : Nat) (f : Port → Port) : (updPort s p f).beam = s.beam := rfl
@[simp] theorem updPort_sig (p : Nat) (f : Port → Port) : (updPort s p f).sig = s.sig := rfl
@[simp] theorem updPort_dict (p : Nat) (f : Port → Port) : (updPort s p f).dict = s.dict := rfl
@[simp] theorem updPort_log (p : Nat) (f : Port → Port) : (updPort s p f).log = s.log := rfl
@[simp] theorem updPort_store (p : Nat) (f : Port → Port) : (updPort s p f).store = s.store := rfl
@[simp] theorem updPort_boot (p : Nat) (f : Port → Port) : (updPort s p f).boot = s.boot := rfl
@[simp] theorem updPort_steward (p : Nat) (f : Port → Port) : (updPort s p f).steward = s.steward := rfl
@[simp] theorem updPort_recov (p : Nat) (f : Port → Port) : (updPort s p f).recov = s.recov := rfl
@[simp] theorem updPort_regions (p : Nat) (f : Port → Port) : (updPort s p f).regions = s.regions := rfl
@[simp] theorem updPort_tiles (p : Nat) (f : Port → Port) : (updPort s p f).tiles = s.tiles := rfl
@[simp] theorem updPort_mem (p : Nat) (f : Port → Port) : (updPort s p f).mem = s.mem := rfl
@[simp] theorem updPort_out (p : Nat) (f : Port → Port) : (updPort s p f).out = s.out := rfl
@[simp] theorem updPort_free (p : Nat) (f : Port → Port) : (updPort s p f).free = s.free := rfl
@[simp] theorem updPort_pending (p : Nat) (f : Port → Port) : (updPort s p f).pending = s.pending := rfl

@[simp] theorem updPortCtr_dev (p : Nat) (f : PortCounters → PortCounters) : (updPortCtr s p f).dev = s.dev := rfl
@[simp] theorem updPortCtr_power (p : Nat) (f : PortCounters → PortCounters) : (updPortCtr s p f).power = s.power := rfl
@[simp] theorem updPortCtr_clock (p : Nat) (f : PortCounters → PortCounters) : (updPortCtr s p f).clock = s.clock := rfl
@[simp] theorem updPortCtr_time (p : Nat) (f : PortCounters → PortCounters) : (updPortCtr s p f).time = s.time := rfl
@[simp] theorem updPortCtr_beam (p : Nat) (f : PortCounters → PortCounters) : (updPortCtr s p f).beam = s.beam := rfl
@[simp] theorem updPortCtr_sig (p : Nat) (f : PortCounters → PortCounters) : (updPortCtr s p f).sig = s.sig := rfl
@[simp] theorem updPortCtr_dict (p : Nat) (f : PortCounters → PortCounters) : (updPortCtr s p f).dict = s.dict := rfl
@[simp] theorem updPortCtr_log (p : Nat) (f : PortCounters → PortCounters) : (updPortCtr s p f).log = s.log := rfl
@[simp] theorem updPortCtr_store (p : Nat) (f : PortCounters → PortCounters) : (updPortCtr s p f).store = s.store := rfl
@[simp] theorem updPortCtr_boot (p : Nat) (f : PortCounters → PortCounters) : (updPortCtr s p f).boot = s.boot := rfl
@[simp] theorem updPortCtr_steward (p : Nat) (f : PortCounters → PortCounters) : (updPortCtr s p f).steward = s.steward := rfl
@[simp] theorem updPortCtr_recov (p : Nat) (f : PortCounters → PortCounters) : (updPortCtr s p f).recov = s.recov := rfl
@[simp] theorem updPortCtr_regions (p : Nat) (f : PortCounters → PortCounters) : (updPortCtr s p f).regions = s.regions := rfl
@[simp] theorem updPortCtr_tiles (p : Nat) (f : PortCounters → PortCounters) : (updPortCtr s p f).tiles = s.tiles := rfl
@[simp] theorem updPortCtr_mem (p : Nat) (f : PortCounters → PortCounters) : (updPortCtr s p f).mem = s.mem := rfl
@[simp] theorem updPortCtr_out (p : Nat) (f : PortCounters → PortCounters) : (updPortCtr s p f).out = s.out := rfl
@[simp] theorem updPortCtr_free (p : Nat) (f : PortCounters → PortCounters) : (updPortCtr s p f).free = s.free := rfl
@[simp] theorem updPortCtr_pending (p : Nat) (f : PortCounters → PortCounters) : (updPortCtr s p f).pending = s.pending := rfl

@[simp] theorem updModel_dev (m : Nat) (f : ModelSlot → ModelSlot) : (updModel s m f).dev = s.dev := rfl
@[simp] theorem updModel_power (m : Nat) (f : ModelSlot → ModelSlot) : (updModel s m f).power = s.power := rfl
@[simp] theorem updModel_clock (m : Nat) (f : ModelSlot → ModelSlot) : (updModel s m f).clock = s.clock := rfl
@[simp] theorem updModel_time (m : Nat) (f : ModelSlot → ModelSlot) : (updModel s m f).time = s.time := rfl
@[simp] theorem updModel_beam (m : Nat) (f : ModelSlot → ModelSlot) : (updModel s m f).beam = s.beam := rfl
@[simp] theorem updModel_sig (m : Nat) (f : ModelSlot → ModelSlot) : (updModel s m f).sig = s.sig := rfl
@[simp] theorem updModel_dict (m : Nat) (f : ModelSlot → ModelSlot) : (updModel s m f).dict = s.dict := rfl
@[simp] theorem updModel_log (m : Nat) (f : ModelSlot → ModelSlot) : (updModel s m f).log = s.log := rfl
@[simp] theorem updModel_store (m : Nat) (f : ModelSlot → ModelSlot) : (updModel s m f).store = s.store := rfl
@[simp] theorem updModel_boot (m : Nat) (f : ModelSlot → ModelSlot) : (updModel s m f).boot = s.boot := rfl
@[simp] theorem updModel_fabric (m : Nat) (f : ModelSlot → ModelSlot) : (updModel s m f).fabric = s.fabric := rfl
@[simp] theorem updModel_recov (m : Nat) (f : ModelSlot → ModelSlot) : (updModel s m f).recov = s.recov := rfl
@[simp] theorem updModel_regions (m : Nat) (f : ModelSlot → ModelSlot) : (updModel s m f).regions = s.regions := rfl
@[simp] theorem updModel_tiles (m : Nat) (f : ModelSlot → ModelSlot) : (updModel s m f).tiles = s.tiles := rfl
@[simp] theorem updModel_mem (m : Nat) (f : ModelSlot → ModelSlot) : (updModel s m f).mem = s.mem := rfl
@[simp] theorem updModel_out (m : Nat) (f : ModelSlot → ModelSlot) : (updModel s m f).out = s.out := rfl
@[simp] theorem updModel_free (m : Nat) (f : ModelSlot → ModelSlot) : (updModel s m f).free = s.free := rfl
@[simp] theorem updModel_pending (m : Nat) (f : ModelSlot → ModelSlot) : (updModel s m f).pending = s.pending := rfl

@[simp] theorem setNum_dev (i j n : Nat) : (setNum s i j n).dev = s.dev := rfl
@[simp] theorem setNum_power (i j n : Nat) : (setNum s i j n).power = s.power := rfl
@[simp] theorem setNum_clock (i j n : Nat) : (setNum s i j n).clock = s.clock := rfl
@[simp] theorem setNum_time (i j n : Nat) : (setNum s i j n).time = s.time := rfl
@[simp] theorem setNum_beam (i j n : Nat) : (setNum s i j n).beam = s.beam := rfl
@[simp] theorem setNum_sig (i j n : Nat) : (setNum s i j n).sig = s.sig := rfl
@[simp] theorem setNum_log (i j n : Nat) : (setNum s i j n).log = s.log := rfl
@[simp] theorem setNum_store (i j n : Nat) : (setNum s i j n).store = s.store := rfl
@[simp] theorem setNum_boot (i j n : Nat) : (setNum s i j n).boot = s.boot := rfl
@[simp] theorem setNum_fabric (i j n : Nat) : (setNum s i j n).fabric = s.fabric := rfl
@[simp] theorem setNum_steward (i j n : Nat) : (setNum s i j n).steward = s.steward := rfl
@[simp] theorem setNum_recov (i j n : Nat) : (setNum s i j n).recov = s.recov := rfl
@[simp] theorem setNum_regions (i j n : Nat) : (setNum s i j n).regions = s.regions := rfl
@[simp] theorem setNum_tiles (i j n : Nat) : (setNum s i j n).tiles = s.tiles := rfl
@[simp] theorem setNum_mem (i j n : Nat) : (setNum s i j n).mem = s.mem := rfl
@[simp] theorem setNum_out (i j n : Nat) : (setNum s i j n).out = s.out := rfl
@[simp] theorem setNum_free (i j n : Nat) : (setNum s i j n).free = s.free := rfl
@[simp] theorem setNum_pending (i j n : Nat) : (setNum s i j n).pending = s.pending := rfl

@[simp] theorem emit_dev (o : Out) : (emit s o).dev = s.dev := rfl
@[simp] theorem emit_power (o : Out) : (emit s o).power = s.power := rfl
@[simp] theorem emit_clock (o : Out) : (emit s o).clock = s.clock := rfl
@[simp] theorem emit_time (o : Out) : (emit s o).time = s.time := rfl
@[simp] theorem emit_beam (o : Out) : (emit s o).beam = s.beam := rfl
@[simp] theorem emit_sig (o : Out) : (emit s o).sig = s.sig := rfl
@[simp] theorem emit_dict (o : Out) : (emit s o).dict = s.dict := rfl
@[simp] theorem emit_log (o : Out) : (emit s o).log = s.log := rfl
@[simp] theorem emit_store (o : Out) : (emit s o).store = s.store := rfl
@[simp] theorem emit_boot (o : Out) : (emit s o).boot = s.boot := rfl
@[simp] theorem emit_fabric (o : Out) : (emit s o).fabric = s.fabric := rfl
@[simp] theorem emit_steward (o : Out) : (emit s o).steward = s.steward := rfl
@[simp] theorem emit_recov (o : Out) : (emit s o).recov = s.recov := rfl
@[simp] theorem emit_regions (o : Out) : (emit s o).regions = s.regions := rfl
@[simp] theorem emit_tiles (o : Out) : (emit s o).tiles = s.tiles := rfl
@[simp] theorem emit_mem (o : Out) : (emit s o).mem = s.mem := rfl
@[simp] theorem emit_free (o : Out) : (emit s o).free = s.free := rfl
@[simp] theorem emit_pending (o : Out) : (emit s o).pending = s.pending := rfl

@[simp] theorem setAlert_power (k : Nat) : (setAlert s k).power = s.power := rfl
@[simp] theorem setAlert_clock (k : Nat) : (setAlert s k).clock = s.clock := rfl
@[simp] theorem setAlert_time (k : Nat) : (setAlert s k).time = s.time := rfl
@[simp] theorem setAlert_beam (k : Nat) : (setAlert s k).beam = s.beam := rfl
@[simp] theorem setAlert_sig (k : Nat) : (setAlert s k).sig = s.sig := rfl
@[simp] theorem setAlert_dict (k : Nat) : (setAlert s k).dict = s.dict := rfl
@[simp] theorem setAlert_log (k : Nat) : (setAlert s k).log = s.log := rfl
@[simp] theorem setAlert_store (k : Nat) : (setAlert s k).store = s.store := rfl
@[simp] theorem setAlert_boot (k : Nat) : (setAlert s k).boot = s.boot := rfl
@[simp] theorem setAlert_fabric (k : Nat) : (setAlert s k).fabric = s.fabric := rfl
@[simp] theorem setAlert_steward (k : Nat) : (setAlert s k).steward = s.steward := rfl
@[simp] theorem setAlert_recov (k : Nat) : (setAlert s k).recov = s.recov := rfl
@[simp] theorem setAlert_regions (k : Nat) : (setAlert s k).regions = s.regions := rfl
@[simp] theorem setAlert_tiles (k : Nat) : (setAlert s k).tiles = s.tiles := rfl
@[simp] theorem setAlert_mem (k : Nat) : (setAlert s k).mem = s.mem := rfl
@[simp] theorem setAlert_out (k : Nat) : (setAlert s k).out = s.out := rfl
@[simp] theorem setAlert_free (k : Nat) : (setAlert s k).free = s.free := rfl
@[simp] theorem setAlert_pending (k : Nat) : (setAlert s k).pending = s.pending := rfl

@[simp] theorem countCycles_dev (t : Nat) : (countCycles s t).dev = s.dev := rfl
@[simp] theorem countCycles_power (t : Nat) : (countCycles s t).power = s.power := rfl
@[simp] theorem countCycles_clock (t : Nat) : (countCycles s t).clock = s.clock := rfl
@[simp] theorem countCycles_time (t : Nat) : (countCycles s t).time = s.time := rfl
@[simp] theorem countCycles_beam (t : Nat) : (countCycles s t).beam = s.beam := rfl
@[simp] theorem countCycles_sig (t : Nat) : (countCycles s t).sig = s.sig := rfl
@[simp] theorem countCycles_dict (t : Nat) : (countCycles s t).dict = s.dict := rfl
@[simp] theorem countCycles_log (t : Nat) : (countCycles s t).log = s.log := rfl
@[simp] theorem countCycles_store (t : Nat) : (countCycles s t).store = s.store := rfl
@[simp] theorem countCycles_boot (t : Nat) : (countCycles s t).boot = s.boot := rfl
@[simp] theorem countCycles_fabric (t : Nat) : (countCycles s t).fabric = s.fabric := rfl
@[simp] theorem countCycles_steward (t : Nat) : (countCycles s t).steward = s.steward := rfl
@[simp] theorem countCycles_recov (t : Nat) : (countCycles s t).recov = s.recov := rfl
@[simp] theorem countCycles_regions (t : Nat) : (countCycles s t).regions = s.regions := rfl
@[simp] theorem countCycles_mem (t : Nat) : (countCycles s t).mem = s.mem := rfl
@[simp] theorem countCycles_out (t : Nat) : (countCycles s t).out = s.out := rfl
@[simp] theorem countCycles_pending (t : Nat) : (countCycles s t).pending = s.pending := rfl

/-! The event log, Loupe and the wafer-wide operations: what each one can change. -/

/-- A record changes the log, the EVENT queue and what leaves the module, nothing else (R432, R434, R487). -/
theorem logAt_shape (tb source code sev a b : Nat) (late : Bool) :
    ∃ lg sg o, logAt s tb source code sev a b late = { s with log := lg, sig := sg, out := o } := by
  unfold logAt
  dsimp only
  repeat' split
  all_goals exact ⟨_, _, _, rfl⟩

@[simp] theorem logAt_dev (tb source code sev a b : Nat) (late : Bool) :
    (logAt s tb source code sev a b late).dev = s.dev := by
  obtain ⟨_, _, _, e⟩ := logAt_shape s tb source code sev a b late
  rw [e]

@[simp] theorem logAt_power (tb source code sev a b : Nat) (late : Bool) :
    (logAt s tb source code sev a b late).power = s.power := by
  obtain ⟨_, _, _, e⟩ := logAt_shape s tb source code sev a b late
  rw [e]

@[simp] theorem logAt_clock (tb source code sev a b : Nat) (late : Bool) :
    (logAt s tb source code sev a b late).clock = s.clock := by
  obtain ⟨_, _, _, e⟩ := logAt_shape s tb source code sev a b late
  rw [e]

@[simp] theorem logAt_time (tb source code sev a b : Nat) (late : Bool) :
    (logAt s tb source code sev a b late).time = s.time := by
  obtain ⟨_, _, _, e⟩ := logAt_shape s tb source code sev a b late
  rw [e]

@[simp] theorem logAt_beam (tb source code sev a b : Nat) (late : Bool) :
    (logAt s tb source code sev a b late).beam = s.beam := by
  obtain ⟨_, _, _, e⟩ := logAt_shape s tb source code sev a b late
  rw [e]

@[simp] theorem logAt_dict (tb source code sev a b : Nat) (late : Bool) :
    (logAt s tb source code sev a b late).dict = s.dict := by
  obtain ⟨_, _, _, e⟩ := logAt_shape s tb source code sev a b late
  rw [e]

@[simp] theorem logAt_store (tb source code sev a b : Nat) (late : Bool) :
    (logAt s tb source code sev a b late).store = s.store := by
  obtain ⟨_, _, _, e⟩ := logAt_shape s tb source code sev a b late
  rw [e]

@[simp] theorem logAt_boot (tb source code sev a b : Nat) (late : Bool) :
    (logAt s tb source code sev a b late).boot = s.boot := by
  obtain ⟨_, _, _, e⟩ := logAt_shape s tb source code sev a b late
  rw [e]

@[simp] theorem logAt_fabric (tb source code sev a b : Nat) (late : Bool) :
    (logAt s tb source code sev a b late).fabric = s.fabric := by
  obtain ⟨_, _, _, e⟩ := logAt_shape s tb source code sev a b late
  rw [e]

@[simp] theorem logAt_steward (tb source code sev a b : Nat) (late : Bool) :
    (logAt s tb source code sev a b late).steward = s.steward := by
  obtain ⟨_, _, _, e⟩ := logAt_shape s tb source code sev a b late
  rw [e]

@[simp] theorem logAt_recov (tb source code sev a b : Nat) (late : Bool) :
    (logAt s tb source code sev a b late).recov = s.recov := by
  obtain ⟨_, _, _, e⟩ := logAt_shape s tb source code sev a b late
  rw [e]

@[simp] theorem logAt_regions (tb source code sev a b : Nat) (late : Bool) :
    (logAt s tb source code sev a b late).regions = s.regions := by
  obtain ⟨_, _, _, e⟩ := logAt_shape s tb source code sev a b late
  rw [e]

@[simp] theorem logAt_tiles (tb source code sev a b : Nat) (late : Bool) :
    (logAt s tb source code sev a b late).tiles = s.tiles := by
  obtain ⟨_, _, _, e⟩ := logAt_shape s tb source code sev a b late
  rw [e]

@[simp] theorem logAt_mem (tb source code sev a b : Nat) (late : Bool) :
    (logAt s tb source code sev a b late).mem = s.mem := by
  obtain ⟨_, _, _, e⟩ := logAt_shape s tb source code sev a b late
  rw [e]

@[simp] theorem logAt_free (tb source code sev a b : Nat) (late : Bool) :
    (logAt s tb source code sev a b late).free = s.free := by
  obtain ⟨_, _, _, e⟩ := logAt_shape s tb source code sev a b late
  rw [e]

@[simp] theorem logAt_pending (tb source code sev a b : Nat) (late : Bool) :
    (logAt s tb source code sev a b late).pending = s.pending := by
  obtain ⟨_, _, _, e⟩ := logAt_shape s tb source code sev a b late
  rw [e]


@[simp] theorem logEvent_dev (code sev a b : Nat) : (logEvent s code sev a b).dev = s.dev :=
  logAt_dev _ _ _ _ _ _ _ _
@[simp] theorem logEvent_power (code sev a b : Nat) : (logEvent s code sev a b).power = s.power :=
  logAt_power _ _ _ _ _ _ _ _
@[simp] theorem logEvent_clock (code sev a b : Nat) : (logEvent s code sev a b).clock = s.clock :=
  logAt_clock _ _ _ _ _ _ _ _
@[simp] theorem logEvent_time (code sev a b : Nat) : (logEvent s code sev a b).time = s.time :=
  logAt_time _ _ _ _ _ _ _ _
@[simp] theorem logEvent_beam (code sev a b : Nat) : (logEvent s code sev a b).beam = s.beam :=
  logAt_beam _ _ _ _ _ _ _ _
@[simp] theorem logEvent_dict (code sev a b : Nat) : (logEvent s code sev a b).dict = s.dict :=
  logAt_dict _ _ _ _ _ _ _ _
@[simp] theorem logEvent_store (code sev a b : Nat) : (logEvent s code sev a b).store = s.store :=
  logAt_store _ _ _ _ _ _ _ _
@[simp] theorem logEvent_boot (code sev a b : Nat) : (logEvent s code sev a b).boot = s.boot :=
  logAt_boot _ _ _ _ _ _ _ _
@[simp] theorem logEvent_fabric (code sev a b : Nat) : (logEvent s code sev a b).fabric = s.fabric :=
  logAt_fabric _ _ _ _ _ _ _ _
@[simp] theorem logEvent_steward (code sev a b : Nat) : (logEvent s code sev a b).steward = s.steward :=
  logAt_steward _ _ _ _ _ _ _ _
@[simp] theorem logEvent_recov (code sev a b : Nat) : (logEvent s code sev a b).recov = s.recov :=
  logAt_recov _ _ _ _ _ _ _ _
@[simp] theorem logEvent_regions (code sev a b : Nat) : (logEvent s code sev a b).regions = s.regions :=
  logAt_regions _ _ _ _ _ _ _ _
@[simp] theorem logEvent_tiles (code sev a b : Nat) : (logEvent s code sev a b).tiles = s.tiles :=
  logAt_tiles _ _ _ _ _ _ _ _
@[simp] theorem logEvent_mem (code sev a b : Nat) : (logEvent s code sev a b).mem = s.mem :=
  logAt_mem _ _ _ _ _ _ _ _
@[simp] theorem logEvent_free (code sev a b : Nat) : (logEvent s code sev a b).free = s.free :=
  logAt_free _ _ _ _ _ _ _ _
@[simp] theorem logEvent_pending (code sev a b : Nat) : (logEvent s code sev a b).pending = s.pending :=
  logAt_pending _ _ _ _ _ _ _ _

@[simp] theorem logRegion_dev (p code sev a b : Nat) : (logRegion s p code sev a b).dev = s.dev :=
  logAt_dev _ _ _ _ _ _ _ _
@[simp] theorem logRegion_power (p code sev a b : Nat) : (logRegion s p code sev a b).power = s.power :=
  logAt_power _ _ _ _ _ _ _ _
@[simp] theorem logRegion_clock (p code sev a b : Nat) : (logRegion s p code sev a b).clock = s.clock :=
  logAt_clock _ _ _ _ _ _ _ _
@[simp] theorem logRegion_time (p code sev a b : Nat) : (logRegion s p code sev a b).time = s.time :=
  logAt_time _ _ _ _ _ _ _ _
@[simp] theorem logRegion_beam (p code sev a b : Nat) : (logRegion s p code sev a b).beam = s.beam :=
  logAt_beam _ _ _ _ _ _ _ _
@[simp] theorem logRegion_dict (p code sev a b : Nat) : (logRegion s p code sev a b).dict = s.dict :=
  logAt_dict _ _ _ _ _ _ _ _
@[simp] theorem logRegion_store (p code sev a b : Nat) : (logRegion s p code sev a b).store = s.store :=
  logAt_store _ _ _ _ _ _ _ _
@[simp] theorem logRegion_boot (p code sev a b : Nat) : (logRegion s p code sev a b).boot = s.boot :=
  logAt_boot _ _ _ _ _ _ _ _
@[simp] theorem logRegion_fabric (p code sev a b : Nat) : (logRegion s p code sev a b).fabric = s.fabric :=
  logAt_fabric _ _ _ _ _ _ _ _
@[simp] theorem logRegion_steward (p code sev a b : Nat) : (logRegion s p code sev a b).steward = s.steward :=
  logAt_steward _ _ _ _ _ _ _ _
@[simp] theorem logRegion_recov (p code sev a b : Nat) : (logRegion s p code sev a b).recov = s.recov :=
  logAt_recov _ _ _ _ _ _ _ _
@[simp] theorem logRegion_regions (p code sev a b : Nat) : (logRegion s p code sev a b).regions = s.regions :=
  logAt_regions _ _ _ _ _ _ _ _
@[simp] theorem logRegion_tiles (p code sev a b : Nat) : (logRegion s p code sev a b).tiles = s.tiles :=
  logAt_tiles _ _ _ _ _ _ _ _
@[simp] theorem logRegion_mem (p code sev a b : Nat) : (logRegion s p code sev a b).mem = s.mem :=
  logAt_mem _ _ _ _ _ _ _ _
@[simp] theorem logRegion_free (p code sev a b : Nat) : (logRegion s p code sev a b).free = s.free :=
  logAt_free _ _ _ _ _ _ _ _
@[simp] theorem logRegion_pending (p code sev a b : Nat) : (logRegion s p code sev a b).pending = s.pending :=
  logAt_pending _ _ _ _ _ _ _ _

@[simp] theorem loupe_dev (p tile kind arg data : Nat) :
    (loupe s p tile kind arg data).dev = s.dev := by
  unfold loupe
  split <;> rfl

@[simp] theorem loupe_power (p tile kind arg data : Nat) :
    (loupe s p tile kind arg data).power = s.power := by
  unfold loupe
  split <;> rfl

@[simp] theorem loupe_clock (p tile kind arg data : Nat) :
    (loupe s p tile kind arg data).clock = s.clock := by
  unfold loupe
  split <;> rfl

@[simp] theorem loupe_time (p tile kind arg data : Nat) :
    (loupe s p tile kind arg data).time = s.time := by
  unfold loupe
  split <;> rfl

@[simp] theorem loupe_beam (p tile kind arg data : Nat) :
    (loupe s p tile kind arg data).beam = s.beam := by
  unfold loupe
  split <;> rfl

@[simp] theorem loupe_sig (p tile kind arg data : Nat) :
    (loupe s p tile kind arg data).sig = s.sig := by
  unfold loupe
  split <;> rfl

@[simp] theorem loupe_dict (p tile kind arg data : Nat) :
    (loupe s p tile kind arg data).dict = s.dict := by
  unfold loupe
  split <;> rfl

@[simp] theorem loupe_log (p tile kind arg data : Nat) :
    (loupe s p tile kind arg data).log = s.log := by
  unfold loupe
  split <;> rfl

@[simp] theorem loupe_store (p tile kind arg data : Nat) :
    (loupe s p tile kind arg data).store = s.store := by
  unfold loupe
  split <;> rfl

@[simp] theorem loupe_boot (p tile kind arg data : Nat) :
    (loupe s p tile kind arg data).boot = s.boot := by
  unfold loupe
  split <;> rfl

@[simp] theorem loupe_fabric (p tile kind arg data : Nat) :
    (loupe s p tile kind arg data).fabric = s.fabric := by
  unfold loupe
  split <;> rfl

@[simp] theorem loupe_steward (p tile kind arg data : Nat) :
    (loupe s p tile kind arg data).steward = s.steward := by
  unfold loupe
  split <;> rfl

@[simp] theorem loupe_recov (p tile kind arg data : Nat) :
    (loupe s p tile kind arg data).recov = s.recov := by
  unfold loupe
  split <;> rfl

@[simp] theorem loupe_tiles (p tile kind arg data : Nat) :
    (loupe s p tile kind arg data).tiles = s.tiles := by
  unfold loupe
  split <;> rfl

@[simp] theorem loupe_mem (p tile kind arg data : Nat) :
    (loupe s p tile kind arg data).mem = s.mem := by
  unfold loupe
  split <;> rfl

@[simp] theorem loupe_out (p tile kind arg data : Nat) :
    (loupe s p tile kind arg data).out = s.out := by
  unfold loupe
  split <;> rfl

@[simp] theorem loupe_free (p tile kind arg data : Nat) :
    (loupe s p tile kind arg data).free = s.free := by
  unfold loupe
  split <;> rfl

@[simp] theorem loupe_pending (p tile kind arg data : Nat) :
    (loupe s p tile kind arg data).pending = s.pending := by
  unfold loupe
  split <;> rfl


@[simp] theorem loupeTile_dev (t kind arg data : Nat) : (loupeTile s t kind arg data).dev = s.dev :=
  loupe_dev _ _ _ _ _ _
@[simp] theorem loupeTile_power (t kind arg data : Nat) : (loupeTile s t kind arg data).power = s.power :=
  loupe_power _ _ _ _ _ _
@[simp] theorem loupeTile_clock (t kind arg data : Nat) : (loupeTile s t kind arg data).clock = s.clock :=
  loupe_clock _ _ _ _ _ _
@[simp] theorem loupeTile_time (t kind arg data : Nat) : (loupeTile s t kind arg data).time = s.time :=
  loupe_time _ _ _ _ _ _
@[simp] theorem loupeTile_beam (t kind arg data : Nat) : (loupeTile s t kind arg data).beam = s.beam :=
  loupe_beam _ _ _ _ _ _
@[simp] theorem loupeTile_sig (t kind arg data : Nat) : (loupeTile s t kind arg data).sig = s.sig :=
  loupe_sig _ _ _ _ _ _
@[simp] theorem loupeTile_dict (t kind arg data : Nat) : (loupeTile s t kind arg data).dict = s.dict :=
  loupe_dict _ _ _ _ _ _
@[simp] theorem loupeTile_log (t kind arg data : Nat) : (loupeTile s t kind arg data).log = s.log :=
  loupe_log _ _ _ _ _ _
@[simp] theorem loupeTile_store (t kind arg data : Nat) : (loupeTile s t kind arg data).store = s.store :=
  loupe_store _ _ _ _ _ _
@[simp] theorem loupeTile_boot (t kind arg data : Nat) : (loupeTile s t kind arg data).boot = s.boot :=
  loupe_boot _ _ _ _ _ _
@[simp] theorem loupeTile_fabric (t kind arg data : Nat) : (loupeTile s t kind arg data).fabric = s.fabric :=
  loupe_fabric _ _ _ _ _ _
@[simp] theorem loupeTile_steward (t kind arg data : Nat) : (loupeTile s t kind arg data).steward = s.steward :=
  loupe_steward _ _ _ _ _ _
@[simp] theorem loupeTile_recov (t kind arg data : Nat) : (loupeTile s t kind arg data).recov = s.recov :=
  loupe_recov _ _ _ _ _ _
@[simp] theorem loupeTile_tiles (t kind arg data : Nat) : (loupeTile s t kind arg data).tiles = s.tiles :=
  loupe_tiles _ _ _ _ _ _
@[simp] theorem loupeTile_mem (t kind arg data : Nat) : (loupeTile s t kind arg data).mem = s.mem :=
  loupe_mem _ _ _ _ _ _
@[simp] theorem loupeTile_out (t kind arg data : Nat) : (loupeTile s t kind arg data).out = s.out :=
  loupe_out _ _ _ _ _ _
@[simp] theorem loupeTile_free (t kind arg data : Nat) : (loupeTile s t kind arg data).free = s.free :=
  loupe_free _ _ _ _ _ _
@[simp] theorem loupeTile_pending (t kind arg data : Nat) : (loupeTile s t kind arg data).pending = s.pending :=
  loupe_pending _ _ _ _ _ _

@[simp] theorem report_power (c : Condition) :
    (report s c).power = s.power := by
  unfold report
  split <;> rfl

@[simp] theorem report_clock (c : Condition) :
    (report s c).clock = s.clock := by
  unfold report
  split <;> rfl

@[simp] theorem report_time (c : Condition) :
    (report s c).time = s.time := by
  unfold report
  split <;> rfl

@[simp] theorem report_beam (c : Condition) :
    (report s c).beam = s.beam := by
  unfold report
  split <;> rfl

@[simp] theorem report_sig (c : Condition) :
    (report s c).sig = s.sig := by
  unfold report
  split <;> rfl

@[simp] theorem report_dict (c : Condition) :
    (report s c).dict = s.dict := by
  unfold report
  split <;> rfl

@[simp] theorem report_log (c : Condition) :
    (report s c).log = s.log := by
  unfold report
  split <;> rfl

@[simp] theorem report_store (c : Condition) :
    (report s c).store = s.store := by
  unfold report
  split <;> rfl

@[simp] theorem report_boot (c : Condition) :
    (report s c).boot = s.boot := by
  unfold report
  split <;> rfl

@[simp] theorem report_fabric (c : Condition) :
    (report s c).fabric = s.fabric := by
  unfold report
  split <;> rfl

@[simp] theorem report_steward (c : Condition) :
    (report s c).steward = s.steward := by
  unfold report
  split <;> rfl

@[simp] theorem report_recov (c : Condition) :
    (report s c).recov = s.recov := by
  unfold report
  split <;> rfl

@[simp] theorem report_regions (c : Condition) :
    (report s c).regions = s.regions := by
  unfold report
  split <;> rfl

@[simp] theorem report_tiles (c : Condition) :
    (report s c).tiles = s.tiles := by
  unfold report
  split <;> rfl

@[simp] theorem report_mem (c : Condition) :
    (report s c).mem = s.mem := by
  unfold report
  split <;> rfl

@[simp] theorem report_out (c : Condition) :
    (report s c).out = s.out := by
  unfold report
  split <;> rfl

@[simp] theorem report_free (c : Condition) :
    (report s c).free = s.free := by
  unfold report
  split <;> rfl

@[simp] theorem report_pending (c : Condition) :
    (report s c).pending = s.pending := by
  unfold report
  split <;> rfl


/-! The training record written (R447). -/

@[simp] theorem writeRecord_dev :
    (writeRecord s).dev = s.dev := rfl

@[simp] theorem writeRecord_power :
    (writeRecord s).power = s.power := rfl

@[simp] theorem writeRecord_clock :
    (writeRecord s).clock = s.clock := rfl

@[simp] theorem writeRecord_time :
    (writeRecord s).time = s.time := rfl

@[simp] theorem writeRecord_beam :
    (writeRecord s).beam = s.beam := rfl

@[simp] theorem writeRecord_sig :
    (writeRecord s).sig = s.sig := rfl

@[simp] theorem writeRecord_dict :
    (writeRecord s).dict = s.dict := rfl

@[simp] theorem writeRecord_log :
    (writeRecord s).log = s.log := rfl

@[simp] theorem writeRecord_store :
    (writeRecord s).store = s.store := rfl

@[simp] theorem writeRecord_fabric :
    (writeRecord s).fabric = s.fabric := rfl

@[simp] theorem writeRecord_steward :
    (writeRecord s).steward = s.steward := rfl

@[simp] theorem writeRecord_recov :
    (writeRecord s).recov = s.recov := rfl

@[simp] theorem writeRecord_regions :
    (writeRecord s).regions = s.regions := rfl

@[simp] theorem writeRecord_tiles :
    (writeRecord s).tiles = s.tiles := rfl

@[simp] theorem writeRecord_mem :
    (writeRecord s).mem = s.mem := rfl

@[simp] theorem writeRecord_out :
    (writeRecord s).out = s.out := rfl

@[simp] theorem writeRecord_free :
    (writeRecord s).free = s.free := rfl

@[simp] theorem writeRecord_pending :
    (writeRecord s).pending = s.pending := rfl

/-! Entry to a device state (R4, R447). -/

@[simp] theorem enterState_power (n : DevState) :
    (enterState s n).power = s.power := by
  unfold enterState
  dsimp only
  split <;> simp <;> split <;> simp

@[simp] theorem enterState_clock (n : DevState) :
    (enterState s n).clock = s.clock := by
  unfold enterState
  dsimp only
  split <;> simp <;> split <;> simp

@[simp] theorem enterState_time (n : DevState) :
    (enterState s n).time = s.time := by
  unfold enterState
  dsimp only
  split <;> simp <;> split <;> simp

@[simp] theorem enterState_beam (n : DevState) :
    (enterState s n).beam = s.beam := by
  unfold enterState
  dsimp only
  split <;> simp <;> split <;> simp

@[simp] theorem enterState_dict (n : DevState) :
    (enterState s n).dict = s.dict := by
  unfold enterState
  dsimp only
  split <;> simp <;> split <;> simp

@[simp] theorem enterState_store (n : DevState) :
    (enterState s n).store = s.store := by
  unfold enterState
  dsimp only
  split <;> simp <;> split <;> simp

@[simp] theorem enterState_fabric (n : DevState) :
    (enterState s n).fabric = s.fabric := by
  unfold enterState
  dsimp only
  split <;> simp <;> split <;> simp

@[simp] theorem enterState_steward (n : DevState) :
    (enterState s n).steward = s.steward := by
  unfold enterState
  dsimp only
  split <;> simp <;> split <;> simp

@[simp] theorem enterState_recov (n : DevState) :
    (enterState s n).recov = s.recov := by
  unfold enterState
  dsimp only
  split <;> simp <;> split <;> simp

@[simp] theorem enterState_regions (n : DevState) :
    (enterState s n).regions = s.regions := by
  unfold enterState
  dsimp only
  split <;> simp <;> split <;> simp

@[simp] theorem enterState_tiles (n : DevState) :
    (enterState s n).tiles = s.tiles := by
  unfold enterState
  dsimp only
  split <;> simp <;> split <;> simp

@[simp] theorem enterState_mem (n : DevState) :
    (enterState s n).mem = s.mem := by
  unfold enterState
  dsimp only
  split <;> simp <;> split <;> simp

@[simp] theorem enterState_free (n : DevState) :
    (enterState s n).free = s.free := by
  unfold enterState
  dsimp only
  split <;> simp <;> split <;> simp

@[simp] theorem enterState_pending (n : DevState) :
    (enterState s n).pending = s.pending := by
  unfold enterState
  dsimp only
  split <;> simp <;> split <;> simp

@[simp] theorem enterState_boot (n : DevState) :
    (enterState s n).boot = if n = .ready then (writeRecord s).boot else s.boot := by
  unfold enterState
  dsimp only
  split <;> simp <;> split <;> simp

/-! A message engine's packets (R224, R255). -/

@[simp] theorem queueOut_dev (t : Nat) (k : Packet) :
    (queueOut s t k).dev = s.dev := rfl

@[simp] theorem queueOut_power (t : Nat) (k : Packet) :
    (queueOut s t k).power = s.power := rfl

@[simp] theorem queueOut_clock (t : Nat) (k : Packet) :
    (queueOut s t k).clock = s.clock := rfl

@[simp] theorem queueOut_time (t : Nat) (k : Packet) :
    (queueOut s t k).time = s.time := rfl

@[simp] theorem queueOut_beam (t : Nat) (k : Packet) :
    (queueOut s t k).beam = s.beam := rfl

@[simp] theorem queueOut_sig (t : Nat) (k : Packet) :
    (queueOut s t k).sig = s.sig := rfl

@[simp] theorem queueOut_dict (t : Nat) (k : Packet) :
    (queueOut s t k).dict = s.dict := rfl

@[simp] theorem queueOut_log (t : Nat) (k : Packet) :
    (queueOut s t k).log = s.log := rfl

@[simp] theorem queueOut_store (t : Nat) (k : Packet) :
    (queueOut s t k).store = s.store := rfl

@[simp] theorem queueOut_boot (t : Nat) (k : Packet) :
    (queueOut s t k).boot = s.boot := rfl

@[simp] theorem queueOut_fabric (t : Nat) (k : Packet) :
    (queueOut s t k).fabric = s.fabric := rfl

@[simp] theorem queueOut_steward (t : Nat) (k : Packet) :
    (queueOut s t k).steward = s.steward := rfl

@[simp] theorem queueOut_recov (t : Nat) (k : Packet) :
    (queueOut s t k).recov = s.recov := rfl

@[simp] theorem queueOut_regions (t : Nat) (k : Packet) :
    (queueOut s t k).regions = s.regions := rfl

@[simp] theorem queueOut_mem (t : Nat) (k : Packet) :
    (queueOut s t k).mem = s.mem := rfl

@[simp] theorem queueOut_out (t : Nat) (k : Packet) :
    (queueOut s t k).out = s.out := rfl

@[simp] theorem queueOut_free (t : Nat) (k : Packet) :
    (queueOut s t k).free = s.free := rfl

@[simp] theorem queueOut_pending (t : Nat) (k : Packet) :
    (queueOut s t k).pending = s.pending := rfl

/-! A remote write of an engine (R323). -/

@[simp] theorem bulkWrite_dev (t a : Nat) (bs : List Byte) :
    (bulkWrite s t a bs).dev = s.dev := rfl

@[simp] theorem bulkWrite_power (t a : Nat) (bs : List Byte) :
    (bulkWrite s t a bs).power = s.power := rfl

@[simp] theorem bulkWrite_clock (t a : Nat) (bs : List Byte) :
    (bulkWrite s t a bs).clock = s.clock := rfl

@[simp] theorem bulkWrite_time (t a : Nat) (bs : List Byte) :
    (bulkWrite s t a bs).time = s.time := rfl

@[simp] theorem bulkWrite_beam (t a : Nat) (bs : List Byte) :
    (bulkWrite s t a bs).beam = s.beam := rfl

@[simp] theorem bulkWrite_sig (t a : Nat) (bs : List Byte) :
    (bulkWrite s t a bs).sig = s.sig := rfl

@[simp] theorem bulkWrite_dict (t a : Nat) (bs : List Byte) :
    (bulkWrite s t a bs).dict = s.dict := rfl

@[simp] theorem bulkWrite_log (t a : Nat) (bs : List Byte) :
    (bulkWrite s t a bs).log = s.log := rfl

@[simp] theorem bulkWrite_store (t a : Nat) (bs : List Byte) :
    (bulkWrite s t a bs).store = s.store := rfl

@[simp] theorem bulkWrite_boot (t a : Nat) (bs : List Byte) :
    (bulkWrite s t a bs).boot = s.boot := rfl

@[simp] theorem bulkWrite_fabric (t a : Nat) (bs : List Byte) :
    (bulkWrite s t a bs).fabric = s.fabric := rfl

@[simp] theorem bulkWrite_steward (t a : Nat) (bs : List Byte) :
    (bulkWrite s t a bs).steward = s.steward := rfl

@[simp] theorem bulkWrite_recov (t a : Nat) (bs : List Byte) :
    (bulkWrite s t a bs).recov = s.recov := rfl

@[simp] theorem bulkWrite_regions (t a : Nat) (bs : List Byte) :
    (bulkWrite s t a bs).regions = s.regions := rfl

@[simp] theorem bulkWrite_mem (t a : Nat) (bs : List Byte) :
    (bulkWrite s t a bs).mem = s.mem := rfl

@[simp] theorem bulkWrite_out (t a : Nat) (bs : List Byte) :
    (bulkWrite s t a bs).out = s.out := rfl

@[simp] theorem bulkWrite_free (t a : Nat) (bs : List Byte) :
    (bulkWrite s t a bs).free = s.free := rfl

@[simp] theorem bulkWrite_pending (t a : Nat) (bs : List Byte) :
    (bulkWrite s t a bs).pending = s.pending := rfl

/-- What no step of a fold changes, the fold does not. -/
theorem foldl_same {α β γ : Type} (g : α → γ) {f : α → β → α} (h : ∀ a b, g (f a b) = g a) (l : List β) (a : α) :
    g (l.foldl f a) = g a := by
  induction l generalizing a with
  | nil => rfl
  | cons b l ih => rw [List.foldl_cons, ih, h]

/-! Blocks copied to a staging window, and the wait for them (R323). -/

@[simp] theorem stageBlock_dev (t l n : Nat) (b : List Byte) :
    (stageBlock s t l n b).dev = s.dev := by
  unfold stageBlock
  split
  · split
    · refine foldl_same State.dev (fun _ _ => ?_) _ _
      rfl
    · rfl
  · rfl

@[simp] theorem stageBlock_power (t l n : Nat) (b : List Byte) :
    (stageBlock s t l n b).power = s.power := by
  unfold stageBlock
  split
  · split
    · refine foldl_same State.power (fun _ _ => ?_) _ _
      rfl
    · rfl
  · rfl

@[simp] theorem stageBlock_clock (t l n : Nat) (b : List Byte) :
    (stageBlock s t l n b).clock = s.clock := by
  unfold stageBlock
  split
  · split
    · refine foldl_same State.clock (fun _ _ => ?_) _ _
      rfl
    · rfl
  · rfl

@[simp] theorem stageBlock_time (t l n : Nat) (b : List Byte) :
    (stageBlock s t l n b).time = s.time := by
  unfold stageBlock
  split
  · split
    · refine foldl_same State.time (fun _ _ => ?_) _ _
      rfl
    · rfl
  · rfl

@[simp] theorem stageBlock_beam (t l n : Nat) (b : List Byte) :
    (stageBlock s t l n b).beam = s.beam := by
  unfold stageBlock
  split
  · split
    · refine foldl_same State.beam (fun _ _ => ?_) _ _
      rfl
    · rfl
  · rfl

@[simp] theorem stageBlock_sig (t l n : Nat) (b : List Byte) :
    (stageBlock s t l n b).sig = s.sig := by
  unfold stageBlock
  split
  · split
    · refine foldl_same State.sig (fun _ _ => ?_) _ _
      rfl
    · rfl
  · rfl

@[simp] theorem stageBlock_dict (t l n : Nat) (b : List Byte) :
    (stageBlock s t l n b).dict = s.dict := by
  unfold stageBlock
  split
  · split
    · refine foldl_same State.dict (fun _ _ => ?_) _ _
      rfl
    · rfl
  · rfl

@[simp] theorem stageBlock_log (t l n : Nat) (b : List Byte) :
    (stageBlock s t l n b).log = s.log := by
  unfold stageBlock
  split
  · split
    · refine foldl_same State.log (fun _ _ => ?_) _ _
      rfl
    · rfl
  · rfl

@[simp] theorem stageBlock_store (t l n : Nat) (b : List Byte) :
    (stageBlock s t l n b).store = s.store := by
  unfold stageBlock
  split
  · split
    · refine foldl_same State.store (fun _ _ => ?_) _ _
      rfl
    · rfl
  · rfl

@[simp] theorem stageBlock_boot (t l n : Nat) (b : List Byte) :
    (stageBlock s t l n b).boot = s.boot := by
  unfold stageBlock
  split
  · split
    · refine foldl_same State.boot (fun _ _ => ?_) _ _
      rfl
    · rfl
  · rfl

@[simp] theorem stageBlock_fabric (t l n : Nat) (b : List Byte) :
    (stageBlock s t l n b).fabric = s.fabric := by
  unfold stageBlock
  split
  · split
    · refine foldl_same State.fabric (fun _ _ => ?_) _ _
      rfl
    · rfl
  · rfl

@[simp] theorem stageBlock_steward (t l n : Nat) (b : List Byte) :
    (stageBlock s t l n b).steward = s.steward := by
  unfold stageBlock
  split
  · split
    · refine foldl_same State.steward (fun _ _ => ?_) _ _
      rfl
    · rfl
  · rfl

@[simp] theorem stageBlock_recov (t l n : Nat) (b : List Byte) :
    (stageBlock s t l n b).recov = s.recov := by
  unfold stageBlock
  split
  · split
    · refine foldl_same State.recov (fun _ _ => ?_) _ _
      rfl
    · rfl
  · rfl

@[simp] theorem stageBlock_regions (t l n : Nat) (b : List Byte) :
    (stageBlock s t l n b).regions = s.regions := by
  unfold stageBlock
  split
  · split
    · refine foldl_same State.regions (fun _ _ => ?_) _ _
      rfl
    · rfl
  · rfl

@[simp] theorem stageBlock_mem (t l n : Nat) (b : List Byte) :
    (stageBlock s t l n b).mem = s.mem := by
  unfold stageBlock
  split
  · split
    · refine foldl_same State.mem (fun _ _ => ?_) _ _
      rfl
    · rfl
  · rfl

@[simp] theorem stageBlock_out (t l n : Nat) (b : List Byte) :
    (stageBlock s t l n b).out = s.out := by
  unfold stageBlock
  split
  · split
    · refine foldl_same State.out (fun _ _ => ?_) _ _
      rfl
    · rfl
  · rfl

@[simp] theorem stageBlock_free (t l n : Nat) (b : List Byte) :
    (stageBlock s t l n b).free = s.free := by
  unfold stageBlock
  split
  · split
    · refine foldl_same State.free (fun _ _ => ?_) _ _
      rfl
    · rfl
  · rfl

@[simp] theorem stageBlock_pending (t l n : Nat) (b : List Byte) :
    (stageBlock s t l n b).pending = s.pending := by
  unfold stageBlock
  split
  · split
    · refine foldl_same State.pending (fun _ _ => ?_) _ _
      rfl
    · rfl
  · rfl

@[simp] theorem copyBlock_dev (t b : Nat) :
    (copyBlock s t b).dev = s.dev := by
  unfold copyBlock
  dsimp only
  split
  · split <;> simp
  · rfl

@[simp] theorem copyBlock_power (t b : Nat) :
    (copyBlock s t b).power = s.power := by
  unfold copyBlock
  dsimp only
  split
  · split <;> simp
  · rfl

@[simp] theorem copyBlock_clock (t b : Nat) :
    (copyBlock s t b).clock = s.clock := by
  unfold copyBlock
  dsimp only
  split
  · split <;> simp
  · rfl

@[simp] theorem copyBlock_time (t b : Nat) :
    (copyBlock s t b).time = s.time := by
  unfold copyBlock
  dsimp only
  split
  · split <;> simp
  · rfl

@[simp] theorem copyBlock_beam (t b : Nat) :
    (copyBlock s t b).beam = s.beam := by
  unfold copyBlock
  dsimp only
  split
  · split <;> simp
  · rfl

@[simp] theorem copyBlock_sig (t b : Nat) :
    (copyBlock s t b).sig = s.sig := by
  unfold copyBlock
  dsimp only
  split
  · split <;> simp
  · rfl

@[simp] theorem copyBlock_dict (t b : Nat) :
    (copyBlock s t b).dict = s.dict := by
  unfold copyBlock
  dsimp only
  split
  · split <;> simp
  · rfl

@[simp] theorem copyBlock_log (t b : Nat) :
    (copyBlock s t b).log = s.log := by
  unfold copyBlock
  dsimp only
  split
  · split <;> simp
  · rfl

@[simp] theorem copyBlock_store (t b : Nat) :
    (copyBlock s t b).store = s.store := by
  unfold copyBlock
  dsimp only
  split
  · split <;> simp
  · rfl

@[simp] theorem copyBlock_boot (t b : Nat) :
    (copyBlock s t b).boot = s.boot := by
  unfold copyBlock
  dsimp only
  split
  · split <;> simp
  · rfl

@[simp] theorem copyBlock_fabric (t b : Nat) :
    (copyBlock s t b).fabric = s.fabric := by
  unfold copyBlock
  dsimp only
  split
  · split <;> simp
  · rfl

@[simp] theorem copyBlock_steward (t b : Nat) :
    (copyBlock s t b).steward = s.steward := by
  unfold copyBlock
  dsimp only
  split
  · split <;> simp
  · rfl

@[simp] theorem copyBlock_regions (t b : Nat) :
    (copyBlock s t b).regions = s.regions := by
  unfold copyBlock
  dsimp only
  split
  · split <;> simp
  · rfl

@[simp] theorem copyBlock_mem (t b : Nat) :
    (copyBlock s t b).mem = s.mem := by
  unfold copyBlock
  dsimp only
  split
  · split <;> simp
  · rfl

@[simp] theorem copyBlock_out (t b : Nat) :
    (copyBlock s t b).out = s.out := by
  unfold copyBlock
  dsimp only
  split
  · split <;> simp
  · rfl

@[simp] theorem copyBlock_free (t b : Nat) :
    (copyBlock s t b).free = s.free := by
  unfold copyBlock
  dsimp only
  split
  · split <;> simp
  · rfl

@[simp] theorem copyBlock_pending (t b : Nat) :
    (copyBlock s t b).pending = s.pending := by
  unfold copyBlock
  dsimp only
  split
  · split <;> simp
  · rfl

/-! Holds counted (R116, R174). -/

@[simp] theorem addHolds_dev (t n : Nat) :
    (addHolds s t n).dev = s.dev := rfl

@[simp] theorem addHolds_power (t n : Nat) :
    (addHolds s t n).power = s.power := rfl

@[simp] theorem addHolds_clock (t n : Nat) :
    (addHolds s t n).clock = s.clock := rfl

@[simp] theorem addHolds_time (t n : Nat) :
    (addHolds s t n).time = s.time := rfl

@[simp] theorem addHolds_beam (t n : Nat) :
    (addHolds s t n).beam = s.beam := rfl

@[simp] theorem addHolds_sig (t n : Nat) :
    (addHolds s t n).sig = s.sig := rfl

@[simp] theorem addHolds_dict (t n : Nat) :
    (addHolds s t n).dict = s.dict := rfl

@[simp] theorem addHolds_log (t n : Nat) :
    (addHolds s t n).log = s.log := rfl

@[simp] theorem addHolds_store (t n : Nat) :
    (addHolds s t n).store = s.store := rfl

@[simp] theorem addHolds_boot (t n : Nat) :
    (addHolds s t n).boot = s.boot := rfl

@[simp] theorem addHolds_fabric (t n : Nat) :
    (addHolds s t n).fabric = s.fabric := rfl

@[simp] theorem addHolds_steward (t n : Nat) :
    (addHolds s t n).steward = s.steward := rfl

@[simp] theorem addHolds_recov (t n : Nat) :
    (addHolds s t n).recov = s.recov := rfl

@[simp] theorem addHolds_mem (t n : Nat) :
    (addHolds s t n).mem = s.mem := rfl

@[simp] theorem addHolds_out (t n : Nat) :
    (addHolds s t n).out = s.out := rfl

@[simp] theorem addHolds_free (t n : Nat) :
    (addHolds s t n).free = s.free := rfl

@[simp] theorem addHolds_pending (t n : Nat) :
    (addHolds s t n).pending = s.pending := rfl

/-- Entry to a device state: the state it names (R4, R419). -/
@[simp] theorem enterState_st (n : DevState) : (enterState s n).dev.st = n := by
  unfold enterState
  dsimp only
  split
  · unfold setAlert
    simp
  · simp

end Sys2Proof.Laws
end

