-- ==== Sys2Proof/Laws/Core.lean ====
section
/-! SUPPORT. A command of the control core at its instruction: what atOp and atXnt run there, and what counting its cycles
leaves. -/

namespace Sys2Proof.Laws

open Sys2Proof.Machine

variable {s : State} {t : Nat}

/-- An update of a tile is what it makes of that tile. -/
theorem updTile_congr {f g : Tile → Tile} (h : f (tileOf s t) = g (tileOf s t)) : updTile s t f = updTile s t g := by
  have e : f (smGetD s.tiles t {}) = g (smGetD s.tiles t {}) := h
  simp only [updTile, smUpd, e]

/-- An update of a core is what it makes of that core. -/
theorem updCore_congr {f g : Core → Core} (h : f (tileOf s t).core = g (tileOf s t).core) :
    updCore s t f = updCore s t g := updTile_congr (by rw [h])

/-- Two updates of one tile are one. -/
theorem updTile_updTile (f g : Tile → Tile) : updTile (updTile s t f) t g = updTile s t fun k => g (f k) := by
  simp only [updTile, smUpd, smGetD, smGet_set_same, Option.getD_some, smSet_set]

/-- atOp at an instruction that it chooses runs its body, after the cycles are counted. -/
theorem atOp_at {op : CoreOp} {len : Nat} {sel : CoreOp → Bool} {f : State → CoreOp → Nat → State}
    (h : AtInstr s t op len) (hs : sel op = true) : atOp s t sel f = f (countCycles s t) op len := by
  obtain ⟨⟨ha, hw⟩, hf⟩ := h
  obtain ⟨g, hg, e⟩ := Option.map_eq_some_iff.mp hf
  obtain ⟨w, o, n⟩ := g
  cases e
  simp [atOp, ha, hw, hg, hs]

/-- atOp elsewhere does nothing. -/
theorem atOp_other {op : CoreOp} {len : Nat} {sel : CoreOp → Bool} {f : State → CoreOp → Nat → State}
    (h : AtInstr s t op len) (hs : sel op = false) : atOp s t sel f = s := by
  obtain ⟨⟨ha, hw⟩, hf⟩ := h
  obtain ⟨g, hg, e⟩ := Option.map_eq_some_iff.mp hf
  obtain ⟨w, o, n⟩ := g
  cases e
  simp [atOp, ha, hw, hg, hs]

/-- atXnt at an Xnt instruction that it chooses. -/
theorem atXnt_at {x : XntOp} {len : Nat} {sel : XntOp → Bool} {f : State → XntOp → Nat → State}
    (h : AtInstr s t (.xnt x) len) (hs : sel x = true) : atXnt s t sel f = f (countCycles s t) x len :=
  atOp_at h hs

/-- The core after its cycles are counted: only mcycle and the watchdog's count move (R42, R75). -/
theorem countCycles_core : ∃ n, (tileOf (countCycles s t) t).core =
    { (tileOf s t).core with
      mcycle := (tileOf s t).core.mcycle + BitVec.ofNat 64 n
      wdogCount := if (tileOf s t).core.wdogPeriod = 0 then (tileOf s t).core.wdogCount else (tileOf s t).core.wdogCount + n } :=
  ⟨_, by simp only [countCycles, fresh, tileOf_updCore_same]; rfl⟩

@[simp] theorem countCycles_cur : (tileOf (countCycles s t) t).core.cur = (tileOf s t).core.cur := by
  obtain ⟨n, e⟩ := countCycles_core (s := s) (t := t); rw [e]

@[simp] theorem countCycles_slots : (tileOf (countCycles s t) t).core.slots = (tileOf s t).core.slots := by
  obtain ⟨n, e⟩ := countCycles_core (s := s) (t := t); rw [e]

@[simp] theorem curSlot_countCycles : curSlot (countCycles s t) t = curSlot s t := by
  simp [curSlot, slotAt]

@[simp] theorem xcur_countCycles (r : Nat) : xcur (countCycles s t) t r = xcur s t r := by
  simp [xcur]

@[simp] theorem countCycles_msg : (tileOf (countCycles s t) t).msg = (tileOf s t).msg := by
  simp [countCycles, fresh]; rfl

@[simp] theorem countCycles_rings : (tileOf (countCycles s t) t).rings = (tileOf s t).rings := by
  simp [countCycles, fresh]; rfl

@[simp] theorem countCycles_lat : (tileOf (countCycles s t) t).lat = (tileOf s t).lat := by
  simp [countCycles, fresh]; rfl

@[simp] theorem countCycles_mxQ : (tileOf (countCycles s t) t).mxQ = (tileOf s t).mxQ := by
  simp [countCycles, fresh]; rfl

@[simp] theorem countCycles_pzQ : (tileOf (countCycles s t) t).pzQ = (tileOf s t).pzQ := by
  simp [countCycles, fresh]; rfl

@[simp] theorem readSpad_countCycles (a n : Nat) : readSpad (countCycles s t) t a n = readSpad s t a n := rfl

@[simp] theorem readNum_countCycles (a n : Nat) : readNum (countCycles s t) t a n = readNum s t a n := rfl

@[simp] theorem tileTb_countCycles : tileTb (countCycles s t) t = tileTb s t := rfl

/-- An Xnt CSR does not see the cycles counted. -/
@[simp] theorem xntRead_countCycles (slot a : Nat) : xntRead (countCycles s t) t slot a = xntRead s t slot a := by
  obtain ⟨n, e⟩ := countCycles_core (s := s) (t := t)
  simp only [xntRead, e, countCycles_rings, countCycles_lat, ringAt, ringCtl, ringEpochs, tileTb_countCycles, selSlot,
    slotAt, tileId, taskStat]
  rfl

end Sys2Proof.Laws
end

