-- ==== Sys2Proof/Laws/Folds.lean ====
section
/-! SUPPORT. What a fold keeps that each of its steps keeps, and what a sparse map reads after a removal. -/

namespace Sys2Proof.Laws

open Sys2Proof.Machine

/-- A view of the state that each step of a fold leaves is left by the fold. -/
theorem foldl_keep {σ α β : Type} (g : σ → β) {f : σ → α → σ} (h : ∀ s a, g (f s a) = g s) (l : List α) (s : σ) :
    g (l.foldl f s) = g s := by
  induction l generalizing s with
  | nil => rfl
  | cons a l ih => rw [List.foldl_cons, ih, h]

/-- A fold of sums starts where its start value stands. -/
theorem foldl_add (l : List Nat) (a : Nat) : l.foldl (· + ·) a = a + l.foldl (· + ·) 0 := by
  induction l generalizing a with
  | nil => rfl
  | cons b l ih => rw [List.foldl_cons, List.foldl_cons, ih, ih (0 + b)]; omega

end Sys2Proof.Laws
end

