-- ==== Sys2Proof/Laws/Keeps.lean ====
section
/-! SUPPORT. What every operation of the model keeps: the queue, the canonical form of memory, the order of the sparse
maps, the fuses that only burn, what has left the module. One relation, reflexive and transitive, that each operation's
lemma concludes; and the lemmas by which record updates, conditions and folds keep it. -/

namespace Sys2Proof.Laws

open Sys2Proof.Machine

/-- Memory stays canonical. -/
def MemOk (m n : Memory) : Prop := m.wf = true → n.wf = true

/-- A sparse map stays in order. -/
def MapOk {α : Type} (m n : SMap α) : Prop := m.sorted = true → n.sorted = true

/-- The fuses of R452 only burn: the counter does not fall, a revoked slot stays revoked, an image key slot stays
unrevoked, a programmed slot keeps its hash. -/
structure FusesOk (b c : Boot) : Prop where
  counter : b.counter ≤ c.counter
  image : ∀ k, b.imgRevoked.getLsbD k = true → c.imgRevoked.getLsbD k = true
  last : b.imgRevoked ≠ 15#4 → c.imgRevoked ≠ 15#4
  bundle : ∀ k, b.bdlRevoked.getLsbD k = true → c.bdlRevoked.getLsbD k = true
  keys : ∀ (k : Nat) (h : List Byte), b.bundleKeys[k]? = some (some h) → c.bundleKeys[k]? = some (some h)

/-- What every operation keeps between the state before and the state after it. -/
structure Keeps (s t : State) : Prop where
  queue : t.pending = s.pending
  mem : MemOk s.mem t.mem
  regions : MapOk s.regions t.regions
  tiles : MapOk s.tiles t.tiles
  fuses : FusesOk s.boot t.boot
  out : s.out <+: t.out
  free : s.free ≤ t.free

theorem MemOk.rfl {m : Memory} : MemOk m m := id
theorem MapOk.rfl {α : Type} {m : SMap α} : MapOk m m := id
theorem FusesOk.rfl {b : Boot} : FusesOk b b := ⟨Nat.le_refl _, fun _ => id, id, fun _ => id, fun _ _ => id⟩

/-- A boot state with the same fuses. -/
theorem FusesOk.same {b c : Boot} (h : c.counter = b.counter) (hi : c.imgRevoked = b.imgRevoked)
    (hb : c.bdlRevoked = b.bdlRevoked) (hk : c.bundleKeys = b.bundleKeys) : FusesOk b c :=
  ⟨by rw [h], fun _ => by rw [hi]; exact id, by rw [hi]; exact id, fun _ => by rw [hb]; exact id, fun _ _ => by rw [hk]; exact id⟩

theorem FusesOk.trans {a b c : Boot} (h : FusesOk a b) (k : FusesOk b c) : FusesOk a c :=
  ⟨h.counter.trans k.counter, fun n x => k.image n (h.image n x), fun x => k.last (h.last x), fun n x => k.bundle n (h.bundle n x),
    fun n v x => k.keys n v (h.keys n v x)⟩

theorem Keeps.rfl {s : State} : Keeps s s :=
  ⟨Eq.refl _, .rfl, .rfl, .rfl, .rfl, List.prefix_refl _, Nat.le_refl _⟩

theorem Keeps.trans {s t u : State} (h : Keeps s t) (k : Keeps t u) : Keeps s u :=
  ⟨k.queue.trans h.queue, fun x => k.mem (h.mem x), fun x => k.regions (h.regions x), fun x => k.tiles (h.tiles x),
    h.fuses.trans k.fuses, h.out.trans k.out, h.free.trans k.free⟩

/-! Sparse maps. -/

/-- Every key of a map is above a bound. -/
def above {α : Type} (a : Nat) (m : SMap α) : Prop := ∀ e ∈ m, a < e.1

theorem smSet_above {α : Type} {m : SMap α} {a k : Nat} {v : α} (h : above k m) (hk : k < a) : above k (smSet m a v) := by
  induction m with
  | nil => intro e he; simp [smSet] at he; simp [he, hk]
  | cons x m ih =>
    have hx : k < x.1 := h x (by simp)
    have hm : above k m := fun e he => h e (by simp [he])
    intro e he
    simp only [smSet] at he
    split at he
    · simp at he; obtain rfl | rfl | he := he
      · exact hk
      · exact hx
      · exact hm e he
    · split at he
      · simp at he; obtain rfl | he := he
        · exact hk
        · exact hm e he
      · simp at he; obtain rfl | he := he
        · exact hx
        · exact ih hm e he

theorem smSet_sorted {α : Type} {m : SMap α} (a : Nat) (v : α) (h : m.sorted = true) : (smSet m a v).sorted = true := by
  simp only [SMap.sorted, decide_eq_true_eq] at *
  induction m with
  | nil => simp [smSet]
  | cons x m ih =>
    obtain ⟨hx, hm⟩ := List.pairwise_cons.mp h
    simp only [smSet]
    split
    · rename_i lt
      exact List.pairwise_cons.mpr ⟨fun e he => by
        simp at he; obtain rfl | he := he
        · exact lt
        · exact Nat.lt_trans lt (hx e he), h⟩
    · split
      · rename_i eq; exact List.pairwise_cons.mpr ⟨fun e he => eq ▸ hx e he, hm⟩
      · exact List.pairwise_cons.mpr ⟨fun e he => smSet_above hx (by omega) e he, ih hm⟩

theorem MapOk.set {α : Type} {m n : SMap α} {a : Nat} {v : α} (h : MapOk m n) : MapOk m (smSet n a v) :=
  fun x => smSet_sorted a v (h x)

theorem MapOk.upd {α : Type} {m n : SMap α} {a : Nat} {d : α} {f : α → α} (h : MapOk m n) : MapOk m (smUpd n a d f) :=
  h.set

theorem MapOk.filter {α : Type} {m n : SMap α} {p : Nat × α → Bool} (h : MapOk m n) : MapOk m (n.filter p) := by
  intro x
  have := h x
  simp only [SMap.sorted, decide_eq_true_eq] at *
  exact this.filter _

theorem MapOk.map {α : Type} {m n : SMap α} {f : Nat × α → Nat × α} (hf : ∀ e, (f e).1 = e.1) (h : MapOk m n) :
    MapOk m (n.map f) := by
  intro x
  have := h x
  simp only [SMap.sorted, decide_eq_true_eq, List.pairwise_map, hf] at *
  exact this

theorem MapOk.nil {α : Type} {m : SMap α} : MapOk m [] := fun _ => by simp [SMap.sorted]

/-! Memory: one canonical form. -/

theorem Memory.wf_iff (m : Memory) : m.wf = true ↔ SMap.sorted m = true ∧ ∀ e ∈ m, e.2 ≠ memDefault := by
  simp [Memory.wf, SMap.sorted]

theorem mem_smSet {α : Type} {m : SMap α} {a : Nat} {v : α} {e : Nat × α} (h : e ∈ smSet m a v) : e = (a, v) ∨ e ∈ m := by
  induction m with
  | nil => simpa [smSet] using h
  | cons x m ih =>
    simp only [smSet] at h
    split at h
    · simpa using h
    · split at h
      · simp at h ⊢; tauto
      · simp at h ⊢
        obtain rfl | h := h
        · simp
        · have := ih h; tauto

theorem memWrite_wf {m : Memory} (a : Nat) (b : Byte) (h : m.wf = true) : (memWrite m a b).wf = true := by
  rw [Memory.wf_iff] at *
  unfold memWrite
  split
  · exact ⟨MapOk.filter MapOk.rfl h.1, fun e he => h.2 e (List.mem_of_mem_filter he)⟩
  · rename_i nb
    refine ⟨smSet_sorted a b h.1, fun e he => ?_⟩
    obtain rfl | he := mem_smSet he
    · exact nb
    · exact h.2 e he

theorem memWrites_wf {m : Memory} (a : Nat) (bs : List Byte) (h : m.wf = true) : (memWrites m a bs).wf = true := by
  induction bs generalizing m a with
  | nil => exact h
  | cons b bs ih => exact ih _ (memWrite_wf a b h)

theorem filter_wf {m : Memory} (p : Host.Cell → Bool) (h : m.wf = true) : Memory.wf (m.filter p) = true := by
  rw [Memory.wf_iff] at *
  exact ⟨MapOk.filter MapOk.rfl h.1, fun e he => h.2 e (List.mem_of_mem_filter he)⟩

theorem MemOk.writes {m n : Memory} {a : Nat} {bs : List Byte} (h : MemOk m n) : MemOk m (memWrites n a bs) :=
  fun x => memWrites_wf a bs (h x)

theorem MemOk.zero {m n : Memory} {a k : Nat} (h : MemOk m n) : MemOk m (memZero n a k) :=
  fun x => filter_wf _ (h x)

theorem MemOk.filter {m n : Memory} {p : Host.Cell → Bool} (h : MemOk m n) : MemOk m (n.filter p) :=
  fun x => filter_wf p (h x)

theorem MemOk.nil {m : Memory} : MemOk m [] := fun _ => by decide

theorem MemOk.foldl {α : Type} {m n : Memory} {l : List α} {f : Memory → α → Memory} (hf : ∀ k a, MemOk k (f k a))
    (h : MemOk m n) : MemOk m (l.foldl f n) := by
  induction l generalizing n with
  | nil => exact h
  | cons a l ih => exact ih fun x => hf _ _ (h x)

/-! Answers that hold a state beside something else. -/

/-- The state of a pair. -/
def Keeps1 {α : Type} (s : State) (r : State × α) : Prop := Keeps s r.1

/-- The state behind a value. -/
def Keeps2 {α : Type} (s : State) (r : α × State) : Prop := Keeps s r.2

/-- The state, if there is one. -/
def KeepsO (s : State) (o : Option State) : Prop := ∀ t, o = some t → Keeps s t

/-- The state behind a value, if there is one. -/
def KeepsP {α : Type} (s : State) (o : Option (α × State)) : Prop := ∀ r, o = some r → Keeps s r.2

/-- The next state of a step. -/
def KeepsR (s : State) (r : Res) : Prop := ∀ t, r = .next t → Keeps s t

/-! The shapes of an operation's body. -/

/-- A record update of a state keeps what its changed fields keep. -/
theorem keeps_mk {s u : State} {dev : Device} {power : Power} {clock : Clock} {time : Timebase} {beam : Beam} {sig : Signals}
    {dict : Dict} {log : EventLog} {store : Store} {boot : Boot} {fabric : Fabric} {steward : Steward} {recov : Recovery}
    {regions : SMap Region} {tiles : SMap Tile} {mem : Memory} {out : List Out} {free : Nat}
    (h : Keeps s u) (hr : MapOk u.regions regions) (ht : MapOk u.tiles tiles) (hm : MemOk u.mem mem)
    (hb : FusesOk u.boot boot) (ho : u.out <+: out) (hf : u.free ≤ free) :
    Keeps s (State.mk dev power clock time beam sig dict log store boot fabric steward recov regions tiles mem out free
      u.pending) :=
  h.trans ⟨Eq.refl _, hm, hr, ht, hb, ho, hf⟩

theorem keeps_ite {s a b : State} {c : Prop} [Decidable c] (ha : Keeps s a) (hb : Keeps s b) :
    Keeps s (if c then a else b) := by
  split
  · exact ha
  · exact hb

theorem keeps_foldl {α : Type} {s u : State} {l : List α} {f : State → α → State} (hf : ∀ v a, Keeps v (f v a))
    (h : Keeps s u) : Keeps s (l.foldl f u) := by
  induction l generalizing u with
  | nil => exact h
  | cons a l ih => exact ih (h.trans (hf u a))

theorem keeps1_mk {α : Type} {s u : State} {a : α} (h : Keeps s u) : Keeps1 s (u, a) := h

theorem keeps2_mk {α : Type} {s u : State} {a : α} (h : Keeps s u) : Keeps2 s (a, u) := h

theorem keeps1_of {α : Type} {s u : State} {a : α} {r : State × α} (h : Keeps1 s r) (e : r = (u, a)) : Keeps s u := by
  cases e; exact h

theorem keeps2_of {α : Type} {s u : State} {a : α} {r : α × State} (h : Keeps2 s r) (e : r = (a, u)) : Keeps s u := by
  cases e; exact h

theorem keeps_next {s u : State} (h : Keeps s u) : KeepsR s (.next u) := fun _ e => by cases e; exact h

theorem keepsO_none {s : State} : KeepsO s none := fun _ e => by cases e

theorem keepsO_some {s u : State} (h : Keeps s u) : KeepsO s (some u) := fun _ e => by cases e; exact h

theorem keepsP_none {α : Type} {s : State} : KeepsP (α := α) s none := fun _ e => by cases e

theorem keepsP_some {α : Type} {s u : State} {a : α} (h : Keeps s u) : KeepsP s (some (a, u)) := fun _ e => by
  cases e; exact h

theorem keeps1_ite {α : Type} {s : State} {a b : State × α} {c : Prop} [Decidable c] (ha : Keeps1 s a) (hb : Keeps1 s b) :
    Keeps1 s (if c then a else b) := by
  split
  · exact ha
  · exact hb

theorem keepsO_bind {s0 : State} {o : Option State} {f : State → Option State} (ho : KeepsO s0 o) (hf : ∀ s, KeepsO s (f s)) :
    KeepsO s0 (o.bind f) := fun t e => by
  obtain ⟨u, rfl, e⟩ := Option.bind_eq_some_iff.mp e
  exact (ho u (Eq.refl _)).trans (hf u t e)

theorem keepsO_bindMap {s0 : State} {o : Option State} {f : State → State} (ho : KeepsO s0 o) (hf : ∀ s, Keeps s (f s)) :
    KeepsO s0 (o.map f) := fun t e => by
  obtain ⟨u, rfl, rfl⟩ := Option.map_eq_some_iff.mp e
  exact (ho u (Eq.refl _)).trans (hf u)

theorem keepsO_map {α : Type} {s0 : State} {o : Option α} {f : α → State} (hf : ∀ a, Keeps s0 (f a)) : KeepsO s0 (o.map f) :=
  fun t e => by
    obtain ⟨a, -, rfl⟩ := Option.map_eq_some_iff.mp e
    exact hf a

theorem keepsO_foldl {α : Type} {s0 : State} {f : State → α → Option State} (hf : ∀ s a, KeepsO s (f s a)) {l : List α}
    {o : Option State} (ho : KeepsO s0 o) : KeepsO s0 (l.foldl (fun acc a => acc.bind fun s => f s a) o) := by
  induction l generalizing o with
  | nil => exact ho
  | cons a l ih => exact ih (keepsO_bind ho fun s => hf s a)

theorem keeps_getD {s0 s : State} {o : Option State} (ho : KeepsO s o) (h : Keeps s0 s) : Keeps s0 (o.getD s) := by
  cases o with
  | none => exact h
  | some u => exact h.trans (ho u (Eq.refl _))

theorem keepsO_ite {s : State} {a b : Option State} {c : Prop} [Decidable c] (ha : KeepsO s a) (hb : KeepsO s b) :
    KeepsO s (if c then a else b) := by
  split
  · exact ha
  · exact hb

theorem keepsR_ite {s : State} {a b : Res} {c : Prop} [Decidable c] (ha : KeepsR s a) (hb : KeepsR s b) :
    KeepsR s (if c then a else b) := by
  split
  · exact ha
  · exact hb

theorem keepsP_ite {α : Type} {s : State} {a b : Option (α × State)} {c : Prop} [Decidable c] (ha : KeepsP s a) (hb : KeepsP s b) :
    KeepsP s (if c then a else b) := by
  split
  · exact ha
  · exact hb

theorem keeps2_ite {α : Type} {s : State} {a b : α × State} {c : Prop} [Decidable c] (ha : Keeps2 s a)
    (hb : Keeps2 s b) : Keeps2 s (if c then a else b) := by
  split
  · exact ha
  · exact hb

end Sys2Proof.Laws
end

