-- ==== Sys2Proof/Laws/KeepsOps.lean ====
section
/-! SUPPORT. Every operation of Machine/Ops.lean keeps what Laws/Keeps.lean says: one lemma each, by the shape of its body. -/

namespace Sys2Proof.Laws

open Sys2Proof.Machine

theorem fresh_keeps {s0 s : State} (h : Keeps s0 s) : Keeps2 s0 (fresh s) := by
  unfold fresh
  exact keeps2_mk (keeps_mk h .rfl .rfl .rfl .rfl (List.prefix_refl _) (Nat.le_add_right _ _))

theorem updTile_keeps {s0 s : State} {t : Nat} {f : Tile → Tile} (h : Keeps s0 s) : Keeps s0 (updTile s t f) := by
  unfold updTile
  exact keeps_mk h .rfl (.upd .rfl) .rfl .rfl (List.prefix_refl _) (Nat.le_refl _)

theorem updCore_keeps {s0 s : State} {t : Nat} {f : Core → Core} (h : Keeps s0 s) : Keeps s0 (updCore s t f) := by
  unfold updCore
  exact updTile_keeps h

theorem updRegion_keeps {s0 s : State} {p : Nat} {f : Region → Region} (h : Keeps s0 s) :
    Keeps s0 (updRegion s p f) := by
  unfold updRegion
  exact keeps_mk h (.upd .rfl) .rfl .rfl .rfl (List.prefix_refl _) (Nat.le_refl _)

theorem updCtr_keeps {s0 s : State} {p : Nat} {f : Counters → Counters} (h : Keeps s0 s) :
    Keeps s0 (updCtr s p f) := by
  unfold updCtr
  exact updRegion_keeps h

theorem updPort_keeps {s0 s : State} {p : Nat} {f : Port → Port} (h : Keeps s0 s) : Keeps s0 (updPort s p f) := by
  unfold updPort
  exact keeps_mk h .rfl .rfl .rfl .rfl (List.prefix_refl _) (Nat.le_refl _)

theorem updPortCtr_keeps {s0 s : State} {p : Nat} {f : PortCounters → PortCounters} (h : Keeps s0 s) :
    Keeps s0 (updPortCtr s p f) := by
  unfold updPortCtr
  exact updPort_keeps h

theorem updModel_keeps {s0 s : State} {m : Nat} {f : ModelSlot → ModelSlot} (h : Keeps s0 s) :
    Keeps s0 (updModel s m f) := by
  unfold updModel
  exact keeps_mk h .rfl .rfl .rfl .rfl (List.prefix_refl _) (Nat.le_refl _)

theorem updLat_keeps {s0 s : State} {t : Nat} {f : Lattice → Lattice} (h : Keeps s0 s) :
    Keeps s0 (updLat s t f) := by
  unfold updLat
  exact updTile_keeps h

theorem updMsg_keeps {s0 s : State} {t : Nat} {f : MsgEngine → MsgEngine} (h : Keeps s0 s) :
    Keeps s0 (updMsg s t f) := by
  unfold updMsg
  exact updTile_keeps h

theorem updRouter_keeps {s0 s : State} {t : Nat} {f : Router → Router} (h : Keeps s0 s) :
    Keeps s0 (updRouter s t f) := by
  unfold updRouter
  exact updTile_keeps h

theorem setNum_keeps {s0 s : State} {index sub n : Nat} (h : Keeps s0 s) : Keeps s0 (setNum s index sub n) := by
  unfold setNum
  exact keeps_mk h .rfl .rfl .rfl .rfl (List.prefix_refl _) (Nat.le_refl _)

theorem queueOut_keeps {s0 s : State} {t : Nat} {k : Packet} (h : Keeps s0 s) : Keeps s0 (queueOut s t k) := by
  unfold queueOut
  exact updMsg_keeps h

theorem bulkWrite_keeps {s0 s : State} {t addr : Nat} {bs : List Byte} (h : Keeps s0 s) :
    Keeps s0 (bulkWrite s t addr bs) := by
  unfold bulkWrite
  exact queueOut_keeps (updTile_keeps h)

theorem stageBlock_keeps {s0 s : State} {t l n : Nat} {data : List Byte} (h : Keeps s0 s) :
    Keeps s0 (stageBlock s t l n data) := by
  unfold stageBlock
  split
  · exact keeps_ite (keeps_foldl (fun _ _ => bulkWrite_keeps Keeps.rfl) h) h
  · exact h

theorem copyBlock_keeps {s0 s : State} {t b : Nat} (h : Keeps s0 s) : Keeps s0 (copyBlock s t b) := by
  unfold copyBlock
  extract_lets -underBinder -merge -useContext +onlyGivenNames x1 x2 x3 x4 s5 x6 s7
  have k8 : Keeps s0 s5 := updTile_keeps h
  clear_value s5
  have k9 : Keeps s0 s7 := keeps_mk k8 .rfl .rfl .rfl .rfl (List.prefix_refl _) (Nat.le_refl _)
  clear_value s7
  exact keeps_ite (keeps_ite k9 (stageBlock_keeps k9)) h

theorem addHolds_keeps {s0 s : State} {t n : Nat} (h : Keeps s0 s) : Keeps s0 (addHolds s t n) := by
  unfold addHolds
  exact updTile_keeps (updRegion_keeps h)

theorem copyFirst_keeps {s0 s : State} {t b : Nat} (h : Keeps s0 s) : Keeps s0 (copyFirst s t b) := by
  unfold copyFirst
  extract_lets -underBinder -merge -useContext +onlyGivenNames x1
  refine keeps_ite ?_ ?_
  · split
    rename_i e3
    have k2 := keeps2_of (fresh_keeps h) e3
    exact copyBlock_keeps (addHolds_keeps k2)
  · exact copyBlock_keeps h

theorem copyWaits_keeps {s0 s : State} {t : Nat} {writes : List (Nat × List Byte)} (h : Keeps s0 s) :
    Keeps2 s0 (copyWaits s t writes) := by
  unfold copyWaits
  exact keeps2_ite (fresh_keeps h) (keeps2_mk h)

theorem writeSpad_keeps {s0 s : State} {t off : Nat} {bs : List Byte} (h : Keeps s0 s) :
    Keeps s0 (writeSpad s t off bs) := by
  unfold writeSpad
  extract_lets -underBinder -merge -useContext +onlyGivenNames x1 s2 s3
  have k4 : Keeps s0 s2 := keeps_foldl (fun _ _ => copyFirst_keeps Keeps.rfl) h
  clear_value s2
  have k5 : Keeps s0 s3 := updCore_keeps k4
  clear_value s3
  exact keeps_mk k5 .rfl .rfl (.writes .rfl) .rfl (List.prefix_refl _) (Nat.le_refl _)

theorem writeNum_keeps {s0 s : State} {t off : Nat} {n v : Nat} (h : Keeps s0 s) :
    Keeps s0 (writeNum s t off n v) := by
  unfold writeNum
  exact writeSpad_keeps h

theorem zeroSpad_keeps {s0 s : State} {t a2 : Nat} (h : Keeps s0 s) : Keeps s0 (zeroSpad s t a2) := by
  unfold zeroSpad
  exact keeps_mk (updCore_keeps h) .rfl .rfl (show MemOk s.mem _ from .zero .rfl) .rfl (List.prefix_refl _)
    (Nat.le_refl _)

theorem emit_keeps {s0 s : State} {o : Out} (h : Keeps s0 s) : Keeps s0 (emit s o) := by
  unfold emit
  exact keeps_mk h .rfl .rfl .rfl .rfl (List.prefix_append _ _) (Nat.le_refl _)

theorem logAt_keeps {s0 s : State} {tb source : Nat} {code sev : Nat} {a5 a6 : Nat} {late : Bool} (h : Keeps s0 s) :
    Keeps s0 (logAt s tb source code sev a5 a6 late) := by
  unfold logAt
  refine keeps_ite ?_ ?_
  · exact h
  · extract_lets -underBinder -merge -useContext +onlyGivenNames x1 x2 x3 x4
    refine keeps_ite ?_ ?_
    · exact keeps_mk h .rfl .rfl .rfl .rfl (List.prefix_refl _) (Nat.le_refl _)
    · split
      · extract_lets -underBinder -merge -useContext +onlyGivenNames x5 x6 x7 x8 s9 x10
        have k11 : Keeps s0 s9 := keeps_mk h .rfl .rfl .rfl .rfl (List.prefix_append _ _) (Nat.le_refl _)
        clear_value s9
        exact keeps_mk k11 .rfl .rfl .rfl .rfl (List.prefix_refl _) (Nat.le_refl _)

theorem logEvent_keeps {s0 s : State} {code sev : Nat} {a3 a4 : Nat} (h : Keeps s0 s) :
    Keeps s0 (logEvent s code sev a3 a4) := by
  unfold logEvent
  exact logAt_keeps h

theorem logRegion_keeps {s0 s : State} {p code : Nat} {sev a4 a5 : Nat} (h : Keeps s0 s) :
    Keeps s0 (logRegion s p code sev a4 a5) := by
  unfold logRegion
  exact logAt_keeps h

theorem logSource_keeps {s0 s : State} {source code : Nat} {sev a4 a5 : Nat} (h : Keeps s0 s) :
    Keeps s0 (logSource s source code sev a4 a5) := by
  unfold logSource
  exact logAt_keeps h

theorem setAlert_keeps {s0 s : State} {k : Nat} (h : Keeps s0 s) : Keeps s0 (setAlert s k) := by
  unfold setAlert
  exact keeps_mk h .rfl .rfl .rfl .rfl (List.prefix_refl _) (Nat.le_refl _)

theorem loupe_keeps {s0 s : State} {p tile : Nat} {kind arg data : Nat} (h : Keeps s0 s) :
    Keeps s0 (loupe s p tile kind arg data) := by
  unfold loupe
  exact keeps_ite (updRegion_keeps h) h

theorem loupeTile_keeps {s0 s : State} {t kind : Nat} {arg data : Nat} (h : Keeps s0 s) :
    Keeps s0 (loupeTile s t kind arg data) := by
  unfold loupeTile
  exact loupe_keeps h

theorem writeRecord_keeps {s0 s : State} (h : Keeps s0 s) : Keeps s0 (writeRecord s) := by
  unfold writeRecord
  exact keeps_mk h .rfl .rfl .rfl (by split <;> exact .same rfl rfl rfl rfl) (List.prefix_refl _) (Nat.le_refl _)

theorem enterState_keeps {s0 s : State} {n : DevState} (h : Keeps s0 s) : Keeps s0 (enterState s n) := by
  unfold enterState
  extract_lets -underBinder -merge -useContext +onlyGivenNames s1 x2 s3 s4
  have k5 : Keeps s0 s1 := keeps_ite (writeRecord_keeps h) h
  clear_value s1
  have k6 : Keeps s0 s3 := keeps_mk k5 .rfl .rfl .rfl .rfl (List.prefix_refl _) (Nat.le_refl _)
  clear_value s3
  have k7 : Keeps s0 s4 := logEvent_keeps k6
  clear_value s4
  exact keeps_ite (setAlert_keeps k7) k7

theorem report_keeps {s0 s : State} {c : Condition} (h : Keeps s0 s) : Keeps s0 (report s c) := by
  unfold report
  exact keeps_ite h (keeps_mk h .rfl .rfl .rfl .rfl (List.prefix_refl _) (Nat.le_refl _))

theorem arriveTile_keeps {s0 s : State} {t ch : Nat} (h : Keeps s0 s) : Keeps s0 (arriveTile s t ch) := by
  unfold arriveTile
  exact loupeTile_keeps (updCore_keeps h)

theorem clampRegion_keeps {s0 s : State} {p : Nat} (h : Keeps s0 s) : Keeps s0 (clampRegion s p) := by
  unfold clampRegion
  exact keeps_mk h .rfl (.map (fun e => by split <;> rfl) .rfl) .rfl .rfl (List.prefix_refl _) (Nat.le_refl _)

theorem latchRegion_keeps {s0 s : State} {p code : Nat} (h : Keeps s0 s) : Keeps s0 (latchRegion s p code) := by
  unfold latchRegion
  exact keeps_ite (keeps_foldl (fun _ _ => updCore_keeps Keeps.rfl) h) h

theorem dropRegion_keeps {s0 s : State} {p : Nat} (h : Keeps s0 s) : Keeps s0 (dropRegion s p) := by
  unfold dropRegion
  extract_lets -underBinder -merge -useContext +onlyGivenNames x1 s2
  have k3 : Keeps s0 s2 := updRegion_keeps h
  clear_value s2
  exact keeps_mk k3 .rfl (.map (fun _ => Eq.refl _) (.filter .rfl)) (.filter .rfl) .rfl (List.prefix_refl _)
    (Nat.le_refl _)

theorem markDead_keeps {s0 s : State} {p : Nat} (h : Keeps s0 s) : Keeps s0 (markDead s p) := by
  unfold markDead
  extract_lets -underBinder -merge -useContext +onlyGivenNames s1 x2
  have k3 : Keeps s0 s1 := updRegion_keeps h
  clear_value s1
  exact keeps_mk k3 .rfl .rfl .rfl .rfl (List.prefix_refl _) (Nat.le_refl _)

theorem trainingFault_keeps {s0 s : State} {p code addr : Nat} (h : Keeps s0 s) :
    Keeps s0 (trainingFault s p code addr) := by
  unfold trainingFault
  extract_lets -underBinder -merge -useContext +onlyGivenNames x1 s2 s3 s4
  have k5 : Keeps s0 s2 := logRegion_keeps h
  clear_value s2
  have k6 : Keeps s0 s3 := setAlert_keeps k5
  clear_value s3
  have k7 : Keeps s0 s4 := updRegion_keeps (dropRegion_keeps k6)
  clear_value s4
  exact keeps_ite (markDead_keeps k7) k7

theorem regionFault_keeps {s0 s : State} {p code addr : Nat} {tile : Option Nat} {slot : Nat} (h : Keeps s0 s) :
    Keeps s0 (regionFault s p code addr tile slot) := by
  unfold regionFault
  extract_lets -underBinder -merge -useContext +onlyGivenNames x1 x2 x3 x4 x5 s6 s7 s8 x9 s10 s11 s12 s13
  have k14 : Keeps s0 s6 := by
    unfold s6
    split
    · exact updCore_keeps h
    · exact latchRegion_keeps h
  clear_value s6
  have k15 : Keeps s0 s7 := clampRegion_keeps k14
  clear_value s7
  have k16 : Keeps s0 s8 := updRegion_keeps k15
  clear_value s8
  have k17 : Keeps s0 s10 := keeps_mk k16 .rfl .rfl .rfl .rfl (List.prefix_refl _) (Nat.le_refl _)
  clear_value s10
  have k18 : Keeps s0 s11 := logRegion_keeps k17
  clear_value s11
  have k19 : Keeps s0 s12 := loupe_keeps k18
  clear_value s12
  have k20 : Keeps s0 s13 := setAlert_keeps k19
  clear_value s13
  refine keeps_ite ?_ ?_
  · exact trainingFault_keeps h
  · refine keeps_ite ?_ ?_
    · exact keeps_ite (report_keeps k20) k20
    · split
      · exact keeps_ite (updCore_keeps h) h
      · exact h

theorem tileFault_keeps {s0 s : State} {t slot code : Nat} {addr : Word} {store : Bool} (h : Keeps s0 s) :
    Keeps s0 (tileFault s t slot code addr store) := by
  unfold tileFault
  exact keeps_ite (regionFault_keeps h) (updCore_keeps h)

theorem countCorrected_keeps {s0 s : State} {t : Nat} (h : Keeps s0 s) : Keeps s0 (countCorrected s t) := by
  unfold countCorrected
  exact updCtr_keeps (updCore_keeps h)

theorem onLine_keeps {s0 s : State} {t line : Nat} {err : EccOutcome} {ok : State → State} (h : Keeps s0 s) (h4 : ∀
    b0, Keeps b0 (ok b0)) : Keeps s0 (onLine s t line err ok) := by
  unfold onLine
  split
  · exact Keeps.trans h (h4 _)
  · exact Keeps.trans (countCorrected_keeps h) (h4 _)
  · exact regionFault_keeps h

theorem onLines_keeps {s0 s : State} {t : Nat} {ranges : List (Nat × Nat)} {errs : LineErrors} {ok : State → State}
    (h : Keeps s0 s) (h4 : ∀ b0, Keeps b0 (ok b0)) : Keeps s0 (onLines s t ranges errs ok) := by
  unfold onLines
  extract_lets -underBinder -merge -useContext +onlyGivenNames s1
  have k2 : Keeps s0 s1 := keeps_foldl (fun _ _ => countCorrected_keeps Keeps.rfl) h
  clear_value s1
  split
  · exact regionFault_keeps k2
  · exact Keeps.trans k2 (h4 _)

theorem addFlags_keeps {s0 s : State} {t f : Nat} (h : Keeps s0 s) : Keeps s0 (addFlags s t f) := by
  unfold addFlags
  exact updCore_keeps h

theorem stagesOff_keeps {s0 s : State} (h : Keeps s0 s) : Keeps s0 (stagesOff s) := by
  unfold stagesOff
  exact keeps_mk h (.map (fun _ => Eq.refl _) .rfl) .nil .nil .rfl (List.prefix_refl _) (Nat.le_refl _)

end Sys2Proof.Laws
end

