-- ==== Sys2Proof/Laws/KeepsRoutes.lean ====
section
/-! SUPPORT. Every operation of Machine/Routes.lean keeps what Laws/Keeps.lean says: one lemma each, by the shape of its body. -/

namespace Sys2Proof.Laws

open Sys2Proof.Machine

theorem leaveBuffer_keeps {s0 s : State} {p vc n : Nat} (h : Keeps s0 s) : Keeps s0 (leaveBuffer s p vc n) := by
  unfold leaveBuffer
  exact updPort_keeps h

theorem freeHeld_keeps {s0 s : State} {k : Packet} (h : Keeps s0 s) : Keeps s0 (freeHeld s k) := by
  unfold freeHeld
  split
  · exact leaveBuffer_keeps h
  · exact h

theorem loupeNak_keeps {s0 s : State} {t : Nat} {k : Packet} {reason : Nat} (h : Keeps s0 s) :
    Keeps s0 (loupeNak s t k reason) := by
  unfold loupeNak
  exact loupeTile_keeps h

theorem arriveAt_keeps {s0 s : State} {t : Nat} {k : Packet} (h : Keeps s0 s) : Keeps s0 (arriveAt s t k) := by
  unfold arriveAt
  exact updMsg_keeps h

end Sys2Proof.Laws
end

