-- ==== Sys2Proof/Laws/KeepsRim.lean ====
section
/-! SUPPORT. Every operation of Machine/Rim.lean keeps what Laws/Keeps.lean says: one lemma each, by the shape of its body. -/

namespace Sys2Proof.Laws

open Sys2Proof.Machine

theorem rimDeliver_keeps {s0 s : State} {x : RimItem} (h : Keeps s0 s) : Keeps s0 (rimDeliver s x) := by
  unfold rimDeliver
  exact updPort_keeps h

theorem rimFree_keeps {s0 s : State} {x : RimItem} (h : Keeps s0 s) : Keeps s0 (rimFree s x) := by
  unfold rimFree
  split
  · exact freeHeld_keeps h
  · exact h

theorem rimSend_keeps {s0 s : State} {src : Nat} {x : RimItem} (h : Keeps s0 s) : Keeps s0 (rimSend s src x) := by
  unfold rimSend
  exact keeps_ite (rimDeliver_keeps (rimFree_keeps h)) (keeps_mk h .rfl .rfl .rfl .rfl (List.prefix_refl _)
    (Nat.le_refl _))

theorem rimAdvance_keeps {s0 s : State} {ring b : Nat} {x : RimItem} (h : Keeps s0 s) :
    Keeps s0 (rimAdvance s ring b x) := by
  unfold rimAdvance
  exact keeps_mk h .rfl .rfl .rfl .rfl (List.prefix_refl _) (Nat.le_refl _)

theorem rimBridge_keeps {s0 : State} {old : Fabric} {s : State} {ring b : Nat} (h : Keeps s0 s) :
    Keeps s0 (rimBridge old s ring b) := by
  unfold rimBridge
  extract_lets -underBinder -merge -useContext +onlyGivenNames x1 x2 x3 x4 x5 x6 x7 x8
  have k9 : ∀ a0, Keeps a0 (x6 a0) := by
    intro a0
    exact keeps_mk Keeps.rfl .rfl .rfl .rfl .rfl (List.prefix_refl _) (Nat.le_refl _)
  clear_value x6
  have k10 : ∀ a0 a1, Keeps a0 (x7 a0 a1) := by
    intro a0 a1
    unfold x7
    refine rimAdvance_keeps ?_
    extract_lets -underBinder -merge -useContext +onlyGivenNames s11 x12
    have k13 : Keeps a0 s11 := rimFree_keeps Keeps.rfl
    clear_value s11
    exact keeps_mk k13 .rfl .rfl .rfl .rfl (List.prefix_refl _) (Nat.le_refl _)
  clear_value x7
  have k14 : ∀ a0, Keeps a0 (x8 a0) := by
    intro a0
    unfold x8
    clear_value x3
    split
    · exact keeps_ite (Keeps.trans Keeps.rfl (k10 _ _)) Keeps.rfl
    · exact Keeps.rfl
  clear_value x8
  clear_value x2
  split
  · exact Keeps.trans h (k14 _)
  · refine keeps_ite ?_ ?_
    · exact Keeps.trans (rimDeliver_keeps (Keeps.trans h (k9 _))) (k14 _)
    · refine keeps_ite ?_ ?_
      · exact h
      · clear_value x3
        split
        · refine keeps_ite ?_ ?_
          · exact Keeps.trans h (k10 _ _)
          · refine rimAdvance_keeps ?_
            extract_lets -underBinder -merge -useContext +onlyGivenNames s15 x16
            have k17 : Keeps s0 s15 := Keeps.trans h (k9 _)
            clear_value s15
            exact keeps_mk k17 .rfl .rfl .rfl .rfl (List.prefix_refl _) (Nat.le_refl _)
        · exact rimAdvance_keeps (Keeps.trans h (k9 _))

theorem rimMove_keeps {s0 s : State} (h : Keeps s0 s) : Keeps s0 (rimMove s) := by
  unfold rimMove
  exact keeps_ite h (keeps_foldl (fun _ _ => rimBridge_keeps Keeps.rfl) h)

theorem rimReroute_keeps {s0 s : State} {ring : Nat} (h : Keeps s0 s) : Keeps s0 (rimReroute s ring) := by
  unfold rimReroute
  extract_lets -underBinder -merge -useContext +onlyGivenNames x1 x2 x3 x4 s5
  have k6 : Keeps s0 s5 := keeps_mk h .rfl .rfl .rfl .rfl (List.prefix_refl _) (Nat.le_refl _)
  clear_value s5
  exact keeps_foldl (fun _ _ => rimSend_keeps Keeps.rfl) k6

end Sys2Proof.Laws
end

