-- ==== Sys2Proof/Laws/KeepsMesh.lean ====
section
/-! SUPPORT. Every operation of Machine/Mesh.lean keeps what Laws/Keeps.lean says: one lemma each, by the shape of its body. -/

namespace Sys2Proof.Laws

open Sys2Proof.Machine

theorem toRim_keeps {s0 s : State} {src p : Nat} {f : LinkFrame} (h : Keeps s0 s) : Keeps s0 (toRim s src p f) := by
  unfold toRim
  exact rimSend_keeps h

theorem sendTo_keeps {s0 s : State} {src p : Nat} {f : LinkFrame} (h : Keeps s0 s) :
    Keeps s0 (sendTo s src p f) := by
  unfold sendTo
  split
  · exact keeps_ite (rimSend_keeps h) (toRim_keeps h)
  · exact toRim_keeps h

theorem eventNak_keeps {s0 s : State} {k : Packet} (h : Keeps s0 s) : Keeps s0 (eventNak s k) := by
  unfold eventNak
  extract_lets -underBinder -merge -useContext +onlyGivenNames x1 x2
  split
  · exact keeps_mk h .rfl .rfl .rfl .rfl (List.prefix_refl _) (Nat.le_refl _)
  · exact h

theorem toEyepiece_keeps {s0 s : State} {k : Packet} (h : Keeps s0 s) : Keeps s0 (toEyepiece s k) := by
  unfold toEyepiece
  exact keeps_ite (keeps_mk h .rfl .rfl .rfl .rfl (List.prefix_refl _) (Nat.le_refl _)) (keeps_ite (eventNak_keeps
    h) (keeps_ite (keeps_mk h .rfl .rfl .rfl .rfl (List.prefix_refl _) (Nat.le_refl _)) h))

theorem bridgeSend_keeps {s0 s : State} {p : Nat} {k : Packet} (h : Keeps s0 s) : Keeps s0 (bridgeSend s p k) := by
  unfold bridgeSend
  refine keeps_ite ?_ ?_
  · exact toEyepiece_keeps h
  · refine keeps_ite ?_ ?_
    · exact updPort_keeps h
    · split
      · exact sendTo_keeps h
      · exact updPortCtr_keeps h

theorem floodPacket_keeps {s0 s : State} {srcLtile : Nat} (h : Keeps s0 s) :
    Keeps2 s0 (floodPacket s srcLtile) := by
  unfold floodPacket
  exact keeps2_mk (keeps_mk h .rfl .rfl .rfl .rfl (List.prefix_refl _) (Nat.le_add_right _ _))

theorem sendBy_keeps {s0 s : State} {p : Nat} {k : Packet} (h : Keeps s0 s) : Keeps s0 (sendBy s p k) := by
  unfold sendBy
  exact rimSend_keeps h

theorem eyepieceSend_keeps {s0 s : State} {k : Packet} (h : Keeps s0 s) : Keeps s0 (eyepieceSend s k) := by
  unfold eyepieceSend
  split
  · exact sendBy_keeps h
  · exact h

theorem eyepieceBroadcast_keeps {s0 s : State} (h : Keeps s0 s) : Keeps s0 (eyepieceBroadcast s) := by
  unfold eyepieceBroadcast
  split
  rename_i e2
  have k1 := keeps2_of (floodPacket_keeps h) e2
  exact eyepieceSend_keeps k1

theorem floodTables_keeps {s0 s : State} {srcLtile : Nat} (h : Keeps s0 s) :
    Keeps2 s0 (floodTables s srcLtile) := by
  unfold floodTables
  extract_lets -underBinder -merge -useContext +onlyGivenNames x1 s2
  have k3 : Keeps s0 s2 := keeps_mk h .rfl .rfl .rfl .rfl (List.prefix_refl _) (Nat.le_refl _)
  clear_value s2
  split
  rename_i e5
  have k4 := keeps2_of (floodPacket_keeps k3) e5
  exact keeps2_mk k4

theorem takeTables_keeps {s0 s : State} {p : Nat} {k : Packet} (h : Keeps s0 s) : Keeps s0 (takeTables s p k) := by
  unfold takeTables
  split
  · exact h
  · exact updRegion_keeps h

theorem mapBroadcast_keeps {s0 s : State} (h : Keeps s0 s) : Keeps s0 (mapBroadcast s) := by
  unfold mapBroadcast
  split
  rename_i e2
  have k1 := keeps2_of (floodTables_keeps h) e2
  exact eyepieceSend_keeps k1

theorem mapReached_keeps {s0 s : State} (h : Keeps s0 s) : Keeps s0 (mapReached s) := by
  unfold mapReached
  exact keeps_mk h (.map (fun _ => Eq.refl _) .rfl) .rfl .rfl .rfl (List.prefix_refl _) (Nat.le_refl _)

theorem noteTo_keeps {s0 s : State} {t own : Nat} {dstDev dst : Nat} (h : Keeps s0 s) :
    Keeps s0 (noteTo s t own dstDev dst) := by
  unfold noteTo
  exact queueOut_keeps (keeps_mk h .rfl .rfl .rfl .rfl (List.prefix_refl _) (Nat.le_add_right _ _))

theorem tellStandby_keeps {s0 s : State} (h : Keeps s0 s) : Keeps s0 (tellStandby s) := by
  unfold tellStandby
  split
  · exact noteTo_keeps h
  · exact h

theorem stewardBroadcast_keeps {s0 s : State} (h : Keeps s0 s) : Keeps s0 (stewardBroadcast s) := by
  unfold stewardBroadcast
  split
  · split
    rename_i e2
    have k1 := keeps2_of (floodTables_keeps (tellStandby_keeps h)) e2
    exact queueOut_keeps k1
  · exact h

theorem fenceNotice_keeps {s0 s : State} {p : Nat} (h : Keeps s0 s) : Keeps s0 (fenceNotice s p) := by
  unfold fenceNotice
  exact eyepieceSend_keeps h

theorem floodOut_keeps {s0 s : State} {p : Nat} {k : Packet} (h : Keeps s0 s) : Keeps s0 (floodOut s p k) := by
  unfold floodOut
  extract_lets -underBinder -merge -useContext +onlyGivenNames x1 x2 s3
  have k4 : Keeps s0 s3 := keeps_mk h .rfl .rfl .rfl .rfl (List.prefix_refl _) (Nat.le_refl _)
  clear_value s3
  exact keeps_foldl (fun _ _ => toRim_keeps Keeps.rfl) k4

theorem leaveMesh_keeps {s0 s : State} {p : Nat} {k : Packet} (h : Keeps s0 s) : Keeps s0 (leaveMesh s p k) := by
  unfold leaveMesh
  refine keeps_ite ?_ ?_
  · exact toEyepiece_keeps h
  · refine keeps_ite ?_ ?_
    · extract_lets -underBinder -merge -useContext +onlyGivenNames x1 s2
      have k3 : Keeps s0 s2 := keeps_ite (keeps_mk h .rfl .rfl .rfl .rfl (List.prefix_refl _) (Nat.le_refl _)) h
      clear_value s2
      exact keeps_ite (floodOut_keeps k3) k3
    · exact keeps_ite (toEyepiece_keeps h) (keeps_ite (updPort_keeps h) (updPort_keeps h))

theorem countLink_keeps {s0 s : State} {t key : Nat} {a b c : Nat} (h : Keeps s0 s) :
    Keeps s0 (countLink s t key a b c) := by
  unfold countLink
  exact updCtr_keeps h

theorem countTileDown_keeps {s0 s : State} {p : Nat} (h : Keeps s0 s) : Keeps s0 (countTileDown s p) := by
  unfold countTileDown
  exact updCtr_keeps h

theorem countDiscard_keeps {s0 s : State} {p : Nat} (h : Keeps s0 s) : Keeps s0 (countDiscard s p) := by
  unfold countDiscard
  exact updCtr_keeps h

theorem removePacket_keeps {s0 s : State} {k : Packet} (h : Keeps s0 s) : Keeps s0 (removePacket s k) := by
  unfold removePacket
  exact keeps_mk h .rfl (.map (fun _ => Eq.refl _) .rfl) .rfl .rfl (List.prefix_refl _) (Nat.le_refl _)

theorem stopPacket_keeps {s0 s : State} {t : Nat} {k : Packet} (h : Keeps s0 s) : Keeps s0 (stopPacket s t k) := by
  unfold stopPacket
  extract_lets -underBinder -merge -useContext +onlyGivenNames x1 s2
  have k3 : Keeps s0 s2 := countDiscard_keeps h
  clear_value s2
  exact keeps_ite (queueOut_keeps (loupeNak_keeps (countTileDown_keeps k3))) k3

theorem stampPacket_keeps {s0 s : State} {k : Packet} (h : Keeps s0 s) : Keeps1 s0 (stampPacket s k) := by
  unfold stampPacket
  exact keeps1_mk (keeps_mk h .rfl .rfl .rfl .rfl (List.prefix_refl _) (Nat.le_refl _))

theorem pushPacket_keeps {s0 s : State} {t : Nat} {k : Packet} (h : Keeps s0 s) : KeepsO s0 (pushPacket s t k) := by
  unfold pushPacket
  extract_lets -underBinder -merge -useContext +onlyGivenNames x1
  refine keepsO_ite ?_ ?_
  · split
    rename_i e3
    have k2 := keeps1_of (stampPacket_keeps h) e3
    exact keepsO_some (updRouter_keeps k2)
  · exact keepsO_none

theorem msgDone_keeps {s0 s : State} {t : Nat} {m : SendMsg} {status cycles : Nat} (h : Keeps s0 s) :
    Keeps s0 (msgDone s t m status cycles) := by
  unfold msgDone
  extract_lets -underBinder -merge -useContext +onlyGivenNames x1 x2 s3
  have k4 : Keeps s0 s3 := keeps_ite (writeNum_keeps h) h
  clear_value s3
  exact keeps_ite (arriveTile_keeps k4) k4

theorem cplDone_keeps {s0 s : State} {t : Nat} {o : OutPacket} {status : Nat} {errs : LineErrors} (h : Keeps s0 s) :
    Keeps s0 (cplDone s t o status errs) := by
  unfold cplDone
  split
  · exact onLines_keeps h (fun _ => msgDone_keeps Keeps.rfl)
  · exact h

theorem refuseAtSource_keeps {s0 s : State} {t : Nat} {o : OutPacket} {errs : LineErrors} (h : Keeps s0 s) :
    Keeps s0 (refuseAtSource s t o errs) := by
  unfold refuseAtSource
  extract_lets -underBinder -merge -useContext +onlyGivenNames x1 s2
  have k3 : Keeps s0 s2 := updCtr_keeps (countTileDown_keeps h)
  clear_value s2
  exact keeps_ite (cplDone_keeps (arriveAt_keeps (loupeNak_keeps k3))) (cplDone_keeps (countDiscard_keeps h))

theorem injectTile_keeps {s0 s : State} {t : Nat} {errs : LineErrors} (h : Keeps s0 s) :
    Keeps s0 (injectTile s t errs) := by
  unfold injectTile
  split
  · exact h
  · extract_lets -underBinder -merge -useContext +onlyGivenNames x1 x2 s3
    have k1 : ∀ u, Keeps u (x1 u) := fun _ => updMsg_keeps Keeps.rfl
    have k2 : ∀ k, KeepsO s (x2 k) := fun _ =>
      keepsO_bindMap (pushPacket_keeps Keeps.rfl) fun _ => cplDone_keeps (k1 _)
    have k3 : Keeps s0 s3 := refuseAtSource_keeps (Keeps.trans h (k1 _))
    clear_value s3 x2
    refine keeps_ite (keeps_getD (k2 _) h) ?_
    split
    · exact keeps_getD (k2 _) h
    · extract_lets -underBinder -merge -useContext +onlyGivenNames x7
      split
      · split
        · rename_i e
          exact updPort_keeps (h.trans (k2 _ _ e))
        · exact h
      · exact k3
    · exact k3

theorem sendFlit_keeps {s0 s : State} {t net out : Nat} {f : Flit} (h : Keeps s0 s) :
    Keeps s0 (sendFlit s t net out f) := by
  unfold sendFlit
  split
  · exact h
  · exact updRouter_keeps (updRouter_keeps h)

theorem exitFlit_keeps {s0 s : State} {t net out : Nat} {f : Flit} (h : Keeps s0 s) :
    Keeps s0 (exitFlit s t net out f) := by
  unfold exitFlit
  exact updRouter_keeps h

theorem bridgeFlit_keeps {s0 s : State} {t side : Nat} {f : Flit} (h : Keeps s0 s) :
    Keeps s0 (bridgeFlit s t side f) := by
  unfold bridgeFlit
  exact updRouter_keeps h

theorem pumpFlits_keeps {s0 s : State} {n p : Nat} (h : Keeps s0 s) : Keeps s0 (pumpFlits n s p) := by
  induction n generalizing s with
  | zero => exact h
  | succ n ih =>
    unfold pumpFlits
    split
    · exact h
    · exact keeps_ite (updPort_keeps h) (keeps_ite (ih (bridgeFlit_keeps (updPort_keeps h))) h)

theorem settleBorrow_keeps {s0 : State} {up : List Nat} {s : State} {p : Nat} (h : Keeps s0 s) :
    Keeps s0 (settleBorrow up s p) := by
  unfold settleBorrow
  refine keeps_ite ?_ ?_
  · split
    · extract_lets -underBinder -merge -useContext +onlyGivenNames s1
      have k2 : Keeps s0 s1 := keeps_ite h (updPortCtr_keeps h)
      clear_value s1
      exact updPort_keeps k2
    · exact h
  · exact keeps_ite (updPort_keeps h) h

theorem undelivered_keeps {s0 s : State} {p : Nat} {k : Packet} (h : Keeps s0 s) :
    Keeps s0 (undelivered s p k) := by
  unfold undelivered
  extract_lets -underBinder -merge -useContext +onlyGivenNames s1
  have k2 : Keeps s0 s1 := freeHeld_keeps h
  clear_value s1
  refine keeps_ite ?_ ?_
  · exact bridgeSend_keeps k2
  · split
    · exact countDiscard_keeps k2
    · exact k2

theorem startInject_keeps {s0 s : State} {p : Nat} {rest : List Packet} {k : Packet} (h : Keeps s0 s) :
    Keeps s0 (startInject s p rest k) := by
  unfold startInject
  extract_lets -underBinder -merge -useContext +onlyGivenNames x1
  split
  · split
    rename_i e3
    have k2 := keeps1_of (stampPacket_keeps (freeHeld_keeps h)) e3
    exact pumpFlits_keeps (updPort_keeps k2)
  · exact h

theorem injectPort_keeps {s0 s : State} {p : Nat} (h : Keeps s0 s) : Keeps s0 (injectPort s p) := by
  unfold injectPort
  refine keeps_ite ?_ ?_
  · exact pumpFlits_keeps h
  · split
    · exact h
    · extract_lets -underBinder -merge -useContext +onlyGivenNames s1
      have k2 : Keeps s0 s1 := settleBorrow_keeps h
      clear_value s1
      split
      · exact rimSend_keeps (updPort_keeps k2)
      · refine keeps_ite ?_ ?_
        · exact startInject_keeps k2
        · split
          · exact startInject_keeps k2
          · exact undelivered_keeps (updPort_keeps k2)

theorem execPacketInject_keeps {s0 : State} {source : InjectSource} {errs : LineErrors} {s : State} (h : Keeps s0
    s) : KeepsR s0 (execPacketInject source errs s) := by
  unfold execPacketInject
  refine keeps_next ?_
  split
  · exact keeps_ite (injectTile_keeps h) h
  · exact keeps_ite (injectPort_keeps h) h

theorem popFlit_keeps {s0 s : State} {t out : Nat} {c : Cand} (h : Keeps s0 s) : Keeps s0 (popFlit s t out c) := by
  unfold popFlit
  extract_lets -underBinder -merge -useContext +onlyGivenNames x1 x2 x3 x4 x5 s6
  have k7 : Keeps s0 s6 := keeps_ite (updCtr_keeps h) h
  clear_value s6
  exact updRouter_keeps k7

theorem grantFlit_keeps {s0 s : State} {t out : Nat} {c : Cand} (h : Keeps s0 s) :
    Keeps s0 (grantFlit s t out c) := by
  unfold grantFlit
  extract_lets -underBinder -merge -useContext +onlyGivenNames x1 x2 x3 x4 s5 s6 x7 x8
  have k9 : Keeps s0 s5 := popFlit_keeps h
  clear_value s5
  have k10 : Keeps s0 s6 := keeps_ite (updCtr_keeps k9) k9
  clear_value s6
  exact keeps_ite (updRouter_keeps k10) (keeps_ite (exitFlit_keeps k10) (sendFlit_keeps k10))

theorem execFlitGrant_keeps {s0 : State} {t : Nat} {net : MeshNet} {out : Nat} {s : State} (h : Keeps s0 s) :
    KeepsR s0 (execFlitGrant t net out s) := by
  unfold execFlitGrant
  refine keeps_next ?_
  refine keeps_ite ?_ ?_
  · exact h
  · extract_lets -underBinder -merge -useContext +onlyGivenNames x1
    split
    · exact stopPacket_keeps (removePacket_keeps h)
    · extract_lets -underBinder -merge -useContext +onlyGivenNames x2
      clear_value x2
      split
      · exact h
      · exact grantFlit_keeps h

theorem ackFlit_keeps {s0 s : State} {t n inp : Nat} {f : Flit} (h : Keeps s0 s) :
    Keeps s0 (ackFlit s t n inp f) := by
  unfold ackFlit
  extract_lets -underBinder -merge -useContext +onlyGivenNames x1 s2
  have k3 : Keeps s0 s2 := updRouter_keeps h
  clear_value s2
  split
  · exact updRouter_keeps k3
  · exact k3

theorem bridgeTakes_keeps {s0 s : State} {t p n : Nat} {f : Flit} (h : Keeps s0 s) :
    Keeps s0 (bridgeTakes s t p n f) := by
  unfold bridgeTakes
  exact keeps_ite (leaveMesh_keeps (updRouter_keeps h)) (updRouter_keeps h)

theorem acceptFlit_keeps {s0 s : State} {t : Nat} {net : MeshNet} {inp : Nat} {f : Flit} (h : Keeps s0 s) :
    Keeps s0 (acceptFlit s t net inp f) := by
  unfold acceptFlit
  extract_lets -underBinder -merge -useContext +onlyGivenNames x1 x2 x3 s4 x5
  have k6 : Keeps s0 s4 := ackFlit_keeps h
  clear_value s4
  refine keeps_ite ?_ ?_
  · exact k6
  · refine keeps_ite ?_ ?_
    · split
      · exact bridgeTakes_keeps k6
      · exact k6
    · exact updRouter_keeps k6

theorem rejectFlit_keeps {s0 s : State} {t : Nat} {net : MeshNet} {inp : Nat} {f : Flit} (h : Keeps s0 s) :
    Keeps s0 (rejectFlit s t net inp f) := by
  unfold rejectFlit
  extract_lets -underBinder -merge -useContext +onlyGivenNames x1 x2 s3
  have k4 : Keeps s0 s3 := updRouter_keeps h
  clear_value s3
  split
  · exact updRouter_keeps k4
  · exact k4

theorem skipFlit_keeps {s0 s : State} {t key : Nat} (h : Keeps s0 s) : Keeps s0 (skipFlit s t key) := by
  unfold skipFlit
  exact updRouter_keeps h

theorem execFlitReceive_keeps {s0 : State} {t : Nat} {net : MeshNet} {inp : Nat} {err : EccOutcome} {s : State} (h
    : Keeps s0 s) : KeepsR s0 (execFlitReceive t net inp err s) := by
  unfold execFlitReceive
  refine keeps_next ?_
  extract_lets -underBinder -merge -useContext +onlyGivenNames x1
  refine keeps_ite ?_ ?_
  · exact h
  · split
    · exact h
    · refine keeps_ite ?_ ?_
      · exact skipFlit_keeps h
      · split
        · exact acceptFlit_keeps h
        · exact countLink_keeps (acceptFlit_keeps h)
        · exact rejectFlit_keeps h

theorem execReplayRequest_keeps {s0 : State} {t : Nat} {net : MeshNet} {out : Nat} {s : State} (h : Keeps s0 s) :
    KeepsR s0 (execReplayRequest t net out s) := by
  unfold execReplayRequest
  refine keeps_next ?_
  extract_lets -underBinder -merge -useContext +onlyGivenNames x1
  split
  · exact h
  · extract_lets -underBinder -merge -useContext +onlyGivenNames x2 x3 s4 s5
    have k6 : Keeps s0 s4 := updRouter_keeps h
    clear_value s4
    have k7 : Keeps s0 s5 := updRouter_keeps k6
    clear_value s5
    exact keeps_ite (countLink_keeps k7) h

theorem execLinkRetrain_keeps {s0 : State} {t : Nat} {net : MeshNet} {inp : Nat} {ok : Bool} {s : State} (h : Keeps
    s0 s) : KeepsR s0 (execLinkRetrain t net inp ok s) := by
  unfold execLinkRetrain
  refine keeps_next ?_
  extract_lets -underBinder -merge -useContext +onlyGivenNames x1 s2 s3 x4
  have k5 : Keeps s0 s2 := updRouter_keeps h
  clear_value s2
  have k6 : Keeps s0 s3 := countLink_keeps k5
  clear_value s3
  exact keeps_ite (keeps_ite k6 (regionFault_keeps (updCtr_keeps k6))) h

theorem floodPop_keeps {s0 s : State} {t inp : Nat} {f : Flit} {plan : FloodPlan} (h : Keeps s0 s) :
    Keeps s0 (floodPop s t inp f plan) := by
  unfold floodPop
  extract_lets -underBinder -merge -useContext +onlyGivenNames x1 x2 s3
  have k4 : Keeps s0 s3 := keeps_ite (keeps_mk h .rfl .rfl .rfl .rfl (List.prefix_refl _) (Nat.le_refl _)) h
  clear_value s3
  exact updRouter_keeps k4

theorem execBroadcastFlood_keeps {s0 : State} {t inp : Nat} {s : State} (h : Keeps s0 s) :
    KeepsR s0 (execBroadcastFlood t inp s) := by
  unfold execBroadcastFlood
  refine keeps_next ?_
  refine keeps_ite ?_ ?_
  · exact h
  · split
    · exact h
    · exact keeps_ite h (keeps_foldl (fun _ _ => sendFlit_keeps Keeps.rfl) (floodPop_keeps h))

theorem execPacketEject_keeps {s0 : State} {t : Nat} {net : MeshNet} {s : State} (h : Keeps s0 s) :
    KeepsR s0 (execPacketEject t net s) := by
  unfold execPacketEject
  refine keeps_next ?_
  refine keeps_ite ?_ ?_
  · exact h
  · split
    · exact h
    · extract_lets -underBinder -merge -useContext +onlyGivenNames x1 s2
      have k3 : Keeps s0 s2 := updRouter_keeps h
      clear_value s2
      exact keeps_ite (takeTables_keeps k3) (keeps_ite (stopPacket_keeps k3) (keeps_ite k3 (keeps_ite
        (countDiscard_keeps k3) (arriveAt_keeps k3))))

theorem mergeAtPort_keeps {s0 s : State} {p : Nat} (h : Keeps s0 s) : Keeps s0 (mergeAtPort s p) := by
  unfold mergeAtPort
  split
  · exact h
  · extract_lets -underBinder -merge -useContext +onlyGivenNames x1 x2 s3
    have k4 : Keeps s0 s3 := updPort_keeps h
    clear_value s3
    exact updPortCtr_keeps k4

theorem execVc2Merge_keeps {s0 : State} {place : InjectSource} {s : State} (h : Keeps s0 s) :
    KeepsR s0 (execVc2Merge place s) := by
  unfold execVc2Merge
  refine keeps_next ?_
  split
  · exact keeps_ite (mergeAtPort_keeps h) h
  · refine keeps_ite ?_ ?_
    · exact h
    · split
      · exact h
      · extract_lets -underBinder -merge -useContext +onlyGivenNames s1
        have k2 : Keeps s0 s1 := updRouter_keeps h
        clear_value s1
        exact updCtr_keeps k2

theorem takeArrived_keeps {s0 s : State} {t : Nat} {sel : Packet → Bool} (h : Keeps s0 s) :
    KeepsP s0 (takeArrived s t sel) := by
  unfold takeArrived
  split
  · exact keepsP_some (updMsg_keeps h)
  · exact keepsP_none

theorem writeLane_keeps {s0 s : State} {t rec_ i : Nat} {v : Option (BitVec 128)} (h : Keeps s0 s) :
    Keeps s0 (writeLane s t rec_ i v) := by
  unfold writeLane
  extract_lets -underBinder -merge -useContext +onlyGivenNames x1
  split
  · extract_lets -underBinder -merge -useContext +onlyGivenNames s2
    have k3 : Keeps s0 s2 := updTile_keeps h
    clear_value s2
    exact writeNum_keeps k3
  · split
    rename_i e5
    have k4 := keeps2_of (fresh_keeps h) e5
    extract_lets -underBinder -merge -useContext +onlyGivenNames s6
    have k7 : Keeps s0 s6 := updTile_keeps k4
    clear_value s6
    exact writeNum_keeps k7

theorem combineRecord_keeps {s0 s : State} {t rec_ : Nat} {r : Reduction} (h : Keeps s0 s) :
    Keeps s0 (combineRecord s t rec_ r) := by
  unfold combineRecord
  extract_lets -underBinder -merge -useContext +onlyGivenNames x1 x2 x3 x4 s5 s6 s7
  have k8 : Keeps s0 s5 := keeps_foldl (fun _ _ => writeLane_keeps Keeps.rfl) h
  clear_value s5
  have k9 : Keeps s0 s6 := writeNum_keeps k8
  clear_value s6
  have k10 : Keeps s0 s7 := writeNum_keeps k9
  clear_value s7
  exact keeps_ite (updTile_keeps k10) k10

theorem execReductionPacketArrival_keeps {s0 : State} {t : Nat} {errs : LineErrors} {s : State} (h : Keeps s0 s) :
    KeepsR s0 (execReductionPacketArrival t errs s) := by
  unfold execReductionPacketArrival
  refine keeps_next ?_
  refine keeps_ite ?_ ?_
  · exact h
  · split
    · exact h
    · rename_i e1
      have k2 := (takeArrived_keeps h) _ e1
      split
      · exact k2
      · extract_lets -underBinder -merge -useContext +onlyGivenNames x3 x4 x5
        have k6 : ∀ a0 a1, Keeps a0 (x4 a0 a1) := by
          intro a0 a1
          exact writeNum_keeps Keeps.rfl
        clear_value x4
        refine onLines_keeps k2 (fun v7 => ?_)
        refine keeps_ite ?_ ?_
        · extract_lets -underBinder -merge -useContext +onlyGivenNames s8
          have k9 : Keeps v7 s8 := updCtr_keeps Keeps.rfl
          clear_value s8
          exact logRegion_keeps k9
        · exact keeps_ite (Keeps.trans Keeps.rfl (k6 _ _)) (keeps_ite (Keeps.trans Keeps.rfl (k6 _ _))
            (combineRecord_keeps Keeps.rfl))

theorem execReductionComplete_keeps {s0 : State} {t : Nat} {errs : LineErrors} {s : State} (h : Keeps s0 s) :
    KeepsR s0 (execReductionComplete t errs s) := by
  unfold execReductionComplete
  refine keeps_next ?_
  refine keeps_ite ?_ ?_
  · exact h
  · split
    · exact h
    · refine onLines_keeps h (fun v1 => ?_)
      extract_lets -underBinder -merge -useContext +onlyGivenNames x2 x3 x4 x5 x6 x7 s8 x9 x10 s11 s12
      have k13 : Keeps v1 s8 := updTile_keeps Keeps.rfl
      clear_value s8
      have k14 : Keeps v1 s11 := keeps_ite (writeNum_keeps (writeSpad_keeps k13)) k13
      clear_value s11
      have k15 : Keeps v1 s12 := writeNum_keeps k14
      clear_value s12
      exact keeps_ite (arriveTile_keeps k15) k15

end Sys2Proof.Laws
end

