-- ==== Sys2Proof/Laws/KeepsLinks.lean ====
section
/-! SUPPORT. Every operation of Machine/Links.lean keeps what Laws/Keeps.lean says: one lemma each, by the shape of its body. -/

namespace Sys2Proof.Laws

open Sys2Proof.Machine

theorem onBlock_keeps {s0 s : State} {p kind : Nat} {b : List Byte} {f : State → State} (h : Keeps s0 s) (h4 : ∀
    b0, Keeps b0 (f b0)) : Keeps s0 (onBlock s p kind b f) := by
  unfold onBlock
  exact keeps_ite h (keeps_ite (updPortCtr_keeps h) (keeps_ite (Keeps.trans h (h4 _)) h))

theorem beamLink_keeps {s0 s : State} {p : Nat} {up : Bool} (h : Keeps s0 s) : Keeps s0 (beamLink s p up) := by
  unfold beamLink
  exact keeps_ite (keeps_ite (logSource_keeps (keeps_mk h .rfl .rfl .rfl .rfl (List.prefix_refl _) (Nat.le_refl
    _))) (keeps_ite (logSource_keeps (keeps_mk h .rfl .rfl .rfl .rfl (List.prefix_refl _) (Nat.le_refl _))) h)) h

theorem setPort_keeps {s0 s : State} {p st cause : Nat} (h : Keeps s0 s) : Keeps s0 (setPort s p st cause) := by
  unfold setPort
  extract_lets -underBinder -merge -useContext +onlyGivenNames x1 s2 s3 s4
  have k5 : Keeps s0 s2 := updPort_keeps h
  clear_value s2
  have k6 : Keeps s0 s3 := logSource_keeps k5
  clear_value s3
  have k7 : Keeps s0 s4 := keeps_ite (setAlert_keeps k6) k6
  clear_value s4
  exact keeps_ite k5 (beamLink_keeps k7)

theorem startTraining_keeps {s0 s : State} {p : Nat} (h : Keeps s0 s) : Keeps s0 (startTraining s p) := by
  unfold startTraining
  extract_lets -underBinder -merge -useContext +onlyGivenNames s1 x2 s3
  have k4 : Keeps s0 s1 := keeps_ite (updPort_keeps h) h
  clear_value s1
  have k5 : Keeps s0 s3 := setPort_keeps k4
  clear_value s3
  exact keeps_ite (setPort_keeps k4) (keeps_ite (setPort_keeps k4) (keeps_ite (setPort_keeps k4) (keeps_ite
    (emit_keeps k5) k5)))

theorem portStart_keeps {s0 s : State} {p : Nat} (h : Keeps s0 s) : Keeps s0 (portStart s p) := by
  unfold portStart
  extract_lets -underBinder -merge -useContext +onlyGivenNames s1 s2
  have k3 : Keeps s0 s1 := setNum_keeps h
  clear_value s1
  have k4 : Keeps s0 s2 := updPort_keeps k3
  clear_value s2
  exact keeps_ite (setPort_keeps k4) (startTraining_keeps k4)

theorem portStop_keeps {s0 s : State} {p : Nat} (h : Keeps s0 s) : Keeps s0 (portStop s p) := by
  unfold portStop
  exact setPort_keeps (updPort_keeps (setNum_keeps h))

theorem recheckSets_keeps {s0 s : State} (h : Keeps s0 s) : Keeps s0 (recheckSets s) := by
  unfold recheckSets
  exact keeps_foldl (fun _ _ => keeps_ite (keeps_ite (keeps_ite Keeps.rfl (setPort_keeps Keeps.rfl)) (keeps_ite
    (startTraining_keeps Keeps.rfl) Keeps.rfl)) (keeps_ite (startTraining_keeps Keeps.rfl) Keeps.rfl)) h

theorem forgetPartner_keeps {s0 s : State} {p : Nat} (h : Keeps s0 s) : Keeps s0 (forgetPartner s p) := by
  unfold forgetPartner
  exact updPort_keeps h

theorem retrainPort_keeps {s0 s : State} {p : Nat} (h : Keeps s0 s) : Keeps s0 (retrainPort s p) := by
  unfold retrainPort
  extract_lets -underBinder -merge -useContext +onlyGivenNames s1 s2
  have k3 : Keeps s0 s1 := updPortCtr_keeps h
  clear_value s1
  have k4 : Keeps s0 s2 := setPort_keeps (updPort_keeps k3)
  clear_value s2
  exact keeps_ite (emit_keeps k4) k4

theorem enterService_keeps {s0 s : State} {p st : Nat} (h : Keeps s0 s) : Keeps s0 (enterService s p st) := by
  unfold enterService
  extract_lets -underBinder -merge -useContext +onlyGivenNames s1 s2 s3
  have k4 : Keeps s0 s1 := setPort_keeps h
  clear_value s1
  have k5 : Keeps s0 s2 := updPort_keeps k4
  clear_value s2
  have k6 : Keeps s0 s3 := keeps_ite (updPort_keeps k5) k5
  clear_value s3
  exact keeps_ite (keeps_foldl (fun _ _ => emit_keeps Keeps.rfl) k6) k6

theorem equalise_keeps {s0 s : State} {p : Nat} (h : Keeps s0 s) : Keeps s0 (equalise s p) := by
  unfold equalise
  exact updPort_keeps (keeps_mk h .rfl .rfl .rfl .rfl (List.prefix_refl _) (Nat.le_add_right _ _))

theorem execPortTrainingDone_keeps {s0 : State} {p txPass rxPass : Nat} {s : State} (h : Keeps s0 s) :
    KeepsR s0 (execPortTrainingDone p txPass rxPass s) := by
  unfold execPortTrainingDone
  refine keeps_next ?_
  refine keeps_ite ?_ ?_
  · exact h
  · extract_lets -underBinder -merge -useContext +onlyGivenNames s1
    have k2 : Keeps s0 s1 := equalise_keeps h
    clear_value s1
    refine keeps_ite ?_ ?_
    · split
      · exact setPort_keeps k2
      · extract_lets -underBinder -merge -useContext +onlyGivenNames x3 s4
        have k5 : Keeps s0 s4 := updPort_keeps k2
        clear_value s4
        exact keeps_ite (enterService_keeps k5) (setPort_keeps k5)
    · split
      · exact setPort_keeps k2
      · extract_lets -underBinder -merge -useContext +onlyGivenNames s6 x7 x8 x9 x10 x11 s12 s13 s14
        have k15 : Keeps s0 s6 := updPort_keeps k2
        clear_value s6
        have k16 : Keeps s0 s12 := keeps_ite (updPortCtr_keeps k15) k15
        clear_value s12
        have k17 : Keeps s0 s13 := updPort_keeps k16
        clear_value s13
        have k18 : Keeps s0 s14 := enterService_keeps k17
        clear_value s14
        exact keeps_ite (setPort_keeps k15) (keeps_ite (setPort_keeps k15) (keeps_ite (emit_keeps k18) k18))

theorem execPortTrainingRetry_keeps {s0 : State} {p : Nat} {s : State} (h : Keeps s0 s) :
    KeepsR s0 (execPortTrainingRetry p s) := by
  unfold execPortTrainingRetry
  exact keeps_next (keeps_ite (startTraining_keeps (forgetPartner_keeps h)) h)

theorem execPartnerSignalDetected_keeps {s0 : State} {p : Nat} {s : State} (h : Keeps s0 s) :
    KeepsR s0 (execPartnerSignalDetected p s) := by
  unfold execPartnerSignalDetected
  exact keeps_next (keeps_ite h (keeps_ite (startTraining_keeps (forgetPartner_keeps h)) (keeps_ite
    (startTraining_keeps h) h)))

theorem execPortRetrain_keeps {s0 : State} {p lane : Nat} {s : State} (h : Keeps s0 s) :
    KeepsR s0 (execPortRetrain p lane s) := by
  unfold execPortRetrain
  exact keeps_next (keeps_ite (retrainPort_keeps h) h)

theorem takeWaiting_keeps {s0 s : State} {p : Nat} {w : Waiting} (h : Keeps s0 s) :
    Keeps s0 (takeWaiting s p w) := by
  unfold takeWaiting
  exact updPort_keeps h

theorem sendFrame_keeps {s0 s : State} {p : Nat} {f : LinkFrame} (h : Keeps s0 s) : Keeps s0 (sendFrame s p f) := by
  unfold sendFrame
  extract_lets -underBinder -merge -useContext +onlyGivenNames x1 s2 s3
  have k4 : Keeps s0 s2 := updPort_keeps h
  clear_value s2
  have k5 : Keeps s0 s3 := updPortCtr_keeps k4
  clear_value s3
  exact emit_keeps k5

theorem csUnplaced_keeps {s0 s : State} {p : Nat} {k : Packet} (h : Keeps s0 s) : Keeps s0 (csUnplaced s p k) := by
  unfold csUnplaced
  exact keeps_ite (bridgeSend_keeps h) h

theorem sendStream_keeps {s0 s : State} {p : Nat} (h : Keeps s0 s) : Keeps s0 (sendStream s p) := by
  unfold sendStream
  split
  · exact h
  · extract_lets -underBinder -merge -useContext +onlyGivenNames x1
    have k2 : ∀ q c, KeepsO s (x1 s q c) := by
      intro q c
      exact keepsO_ite (keepsO_some (sendFrame_keeps (updPort_keeps Keeps.rfl))) keepsO_none
    have go (o : Option State) (f : State → State) (ko : KeepsO s o) (kf : ∀ v, Keeps v (f v)) : Keeps s0 ((o.map
      f).getD s) := by
      cases o with
      | none => exact h
      | some u => exact (h.trans (ko u (Eq.refl _))).trans (kf u)
    clear_value x1
    split
    · exact go _ _ (k2 _ _) fun _ => updPort_keeps Keeps.rfl
    · split
      · exact h
      · split
        · exact takeWaiting_keeps h
        · split
          · exact csUnplaced_keeps (takeWaiting_keeps h)
          · exact go _ _ (k2 _ _) fun _ => takeWaiting_keeps Keeps.rfl

theorem sendLink_keeps {s0 s : State} {p : Nat} (h : Keeps s0 s) : Keeps s0 (sendLink s p) := by
  unfold sendLink
  split
  · exact keeps_ite (sendFrame_keeps (updPort_keeps h)) h
  · extract_lets -underBinder -merge -useContext +onlyGivenNames x1 x2 x3 x4 x5
    refine keeps_ite ?_ ?_
    · exact h
    · split
      · exact h
      · extract_lets -underBinder -merge -useContext +onlyGivenNames s6 x7 s8 s9 x10
        have k11 : Keeps s0 s6 := takeWaiting_keeps h
        clear_value s6
        have k12 : Keeps s0 s8 := updPort_keeps k11
        clear_value s8
        have k13 : Keeps s0 s9 := keeps_foldl (fun _ _ => updPort_keeps Keeps.rfl) k12
        clear_value s9
        exact keeps_ite (sendFrame_keeps k13) (sendFrame_keeps k11)

theorem execFrameTx_keeps {s0 : State} {p : Nat} {s : State} (h : Keeps s0 s) : KeepsR s0 (execFrameTx p s) := by
  unfold execFrameTx
  refine keeps_next ?_
  refine keeps_ite ?_ ?_
  · exact h
  · split
    · exact emit_keeps (updPort_keeps h)
    · exact keeps_ite h (keeps_ite (sendLink_keeps h) (keeps_ite (sendStream_keeps h) h))

theorem deliverLocal_keeps {s0 s : State} {p : Nat} {k : Packet} (h : Keeps s0 s) :
    Keeps s0 (deliverLocal s p k) := by
  unfold deliverLocal
  refine keeps_ite ?_ ?_
  · extract_lets -underBinder -merge -useContext +onlyGivenNames s1 x2
    have k3 : Keeps s0 s1 := freeHeld_keeps h
    clear_value s1
    exact keeps_mk k3 .rfl .rfl .rfl .rfl (List.prefix_refl _) (Nat.le_refl _)
  · refine keeps_ite ?_ ?_
    · split
      · exact toRim_keeps h
      · exact csUnplaced_keeps (freeHeld_keeps h)
    · exact updPort_keeps h

theorem broadcastFrame_keeps {s0 s : State} {p : Nat} {f : LinkFrame} {k : Packet} (h : Keeps s0 s) :
    Keeps s0 (broadcastFrame s p f k) := by
  unfold broadcastFrame
  extract_lets -underBinder -merge -useContext +onlyGivenNames x1 x2 s3 s4
  have k5 : Keeps s0 s3 := keeps_mk h .rfl .rfl .rfl .rfl (List.prefix_refl _) (Nat.le_refl _)
  clear_value s3
  have k6 : Keeps s0 s4 := deliverLocal_keeps k5
  clear_value s4
  exact keeps_ite (updPortCtr_keeps (freeHeld_keeps h)) (keeps_ite k6 (keeps_foldl (fun _ _ => toRim_keeps
    Keeps.rfl) k6))

theorem deliverFrame_keeps {s0 s : State} {p : Nat} {f : LinkFrame} (h : Keeps s0 s) :
    Keeps s0 (deliverFrame s p f) := by
  unfold deliverFrame
  split
  · exact updPort_keeps h
  · extract_lets -underBinder -merge -useContext +onlyGivenNames x1
    refine keeps_ite ?_ ?_
    · exact broadcastFrame_keeps h
    · refine keeps_ite ?_ ?_
      · exact deliverLocal_keeps h
      · refine keeps_ite ?_ ?_
        · exact updPortCtr_keeps (freeHeld_keeps h)
        · split
          · exact sendTo_keeps h
          · extract_lets -underBinder -merge -useContext +onlyGivenNames s2
            have k3 : Keeps s0 s2 := updPortCtr_keeps (freeHeld_keeps h)
            clear_value s2
            exact keeps_ite (bridgeSend_keeps k3) k3

theorem deliverOrdered_keeps {s0 s : State} {b n : Nat} (h : Keeps s0 s) : Keeps s0 (deliverOrdered s b n) := by
  induction n generalizing s with
  | zero => exact h
  | succ n ih =>
    unfold deliverOrdered
    split
    · exact h
    · exact ih (deliverFrame_keeps (updPort_keeps h))

theorem acceptFrame_keeps {s0 s : State} {p : Nat} {f : LinkFrame} (h : Keeps s0 s) :
    Keeps s0 (acceptFrame s p f) := by
  unfold acceptFrame
  extract_lets -underBinder -merge -useContext +onlyGivenNames x1 x2 s3
  have k4 : Keeps s0 s3 := updPort_keeps h
  clear_value s3
  exact keeps_ite (keeps_ite (deliverOrdered_keeps k4) (leaveBuffer_keeps h)) (deliverFrame_keeps h)

theorem sendAck_keeps {s0 s : State} {p : Nat} (h : Keeps s0 s) : Keeps s0 (sendAck s p) := by
  unfold sendAck
  exact emit_keeps (updPort_keeps h)

theorem sendNak_keeps {s0 s : State} {p : Nat} (h : Keeps s0 s) : Keeps s0 (sendNak s p) := by
  unfold sendNak
  exact emit_keeps (updPort_keeps h)

theorem execFrameRx_keeps {s0 : State} {p : Nat} {f : LinkFrame} {crc fixed lost : Nat} {s : State} (h : Keeps s0
    s) : KeepsR s0 (execFrameRx p f crc fixed lost s) := by
  unfold execFrameRx
  refine keeps_next ?_
  refine keeps_ite ?_ ?_
  · exact h
  · extract_lets -underBinder -merge -useContext +onlyGivenNames s1 s2 s3 s4
    have k5 : Keeps s0 s1 := updPortCtr_keeps h
    clear_value s1
    have k6 : Keeps s0 s2 := updPort_keeps k5
    clear_value s2
    have k7 : Keeps s0 s3 := updPortCtr_keeps k6
    clear_value s3
    have k8 : Keeps s0 s4 := keeps_ite (sendAck_keeps k7) k7
    clear_value s4
    exact keeps_ite (sendNak_keeps k5) (keeps_ite (keeps_ite k5 (sendNak_keeps k5)) (acceptFrame_keeps k8))

theorem execIdleBlockRx_keeps {s0 : State} {p : Nat} {block : List Byte} {s : State} (h : Keeps s0 s) :
    KeepsR s0 (execIdleBlockRx p block s) := by
  unfold execIdleBlockRx
  exact keeps_next (onBlock_keeps h (fun _ => Keeps.rfl))

theorem execAlignBlockRx_keeps {s0 : State} {p : Nat} {block : List Byte} {s : State} (h : Keeps s0 s) :
    KeepsR s0 (execAlignBlockRx p block s) := by
  unfold execAlignBlockRx
  exact keeps_next (onBlock_keeps h (fun _ => Keeps.rfl))

theorem execAckBlockRx_keeps {s0 : State} {p : Nat} {block : List Byte} {s : State} (h : Keeps s0 s) :
    KeepsR s0 (execAckBlockRx p block s) := by
  unfold execAckBlockRx
  refine keeps_next ?_
  refine onBlock_keeps h (fun v1 => ?_)
  extract_lets -underBinder -merge -useContext +onlyGivenNames x2 x3
  split
  · exact Keeps.rfl
  · exact updPort_keeps Keeps.rfl

theorem execNakBlockRx_keeps {s0 : State} {p : Nat} {block : List Byte} {s : State} (h : Keeps s0 s) :
    KeepsR s0 (execNakBlockRx p block s) := by
  unfold execNakBlockRx
  refine keeps_next ?_
  refine onBlock_keeps h (fun v1 => ?_)
  extract_lets -underBinder -merge -useContext +onlyGivenNames x2 s3 s4
  have k5 : Keeps v1 s3 := updPortCtr_keeps Keeps.rfl
  clear_value s3
  have k6 : Keeps v1 s4 := updPort_keeps k5
  clear_value s4
  exact keeps_ite (retrainPort_keeps k6) k6

theorem execCreditBlockRx_keeps {s0 : State} {p : Nat} {block : List Byte} {s : State} (h : Keeps s0 s) :
    KeepsR s0 (execCreditBlockRx p block s) := by
  unfold execCreditBlockRx
  exact keeps_next (onBlock_keeps h (fun _ => updPort_keeps Keeps.rfl))

theorem execTrainBlockRx_keeps {s0 : State} {p : Nat} {block : List Byte} {s : State} (h : Keeps s0 s) :
    KeepsR s0 (execTrainBlockRx p block s) := by
  unfold execTrainBlockRx
  refine keeps_next ?_
  refine onBlock_keeps h (fun v1 => ?_)
  extract_lets -underBinder -merge -useContext +onlyGivenNames x2 x3 s4
  have k5 : Keeps v1 s4 := updPort_keeps Keeps.rfl
  clear_value s4
  exact keeps_ite (emit_keeps k5) (keeps_ite (startTraining_keeps k5) k5)

theorem execLinkAckTimer_keeps {s0 : State} {p : Nat} {s : State} (h : Keeps s0 s) :
    KeepsR s0 (execLinkAckTimer p s) := by
  unfold execLinkAckTimer
  exact keeps_next (keeps_ite (sendAck_keeps h) h)

theorem execLinkCreditTimer_keeps {s0 : State} {p : Nat} {s : State} (h : Keeps s0 s) :
    KeepsR s0 (execLinkCreditTimer p s) := by
  unfold execLinkCreditTimer
  exact keeps_next (keeps_ite (emit_keeps (updPort_keeps h)) h)

theorem execTrunkMemberDown_keeps {s0 : State} {p : Nat} {s : State} (h : Keeps s0 s) :
    KeepsR s0 (execTrunkMemberDown p s) := by
  unfold execTrunkMemberDown
  refine keeps_next ?_
  extract_lets -underBinder -merge -useContext +onlyGivenNames x1 x2
  split
  · refine keeps_ite ?_ ?_
    · extract_lets -underBinder -merge -useContext +onlyGivenNames x3 x4 s5
      have k6 : Keeps s0 s5 := updPort_keeps h
      clear_value s5
      exact updPort_keeps k6
    · exact h
  · exact h

theorem onStream_keeps {s0 s : State} {p op : Nat} {f : State → CsFrame → State} (h : Keeps s0 s) (h3 : ∀ b0 b1,
    Keeps b0 (f b0 b1)) : Keeps s0 (onStream s p op f) := by
  unfold onStream
  split
  · split
    · exact keeps_ite (Keeps.trans (leaveBuffer_keeps (updPort_keeps h)) (h3 _ _)) h
    · exact h
  · exact h

theorem countCs_keeps {s0 s : State} {p : Nat} {c : CsFrame} (h : Keeps s0 s) : Keeps s0 (countCs s p c) := by
  unfold countCs
  exact keeps_ite h (updPortCtr_keeps h)

theorem endTag_keeps {s0 s : State} {p tag : Nat} (h : Keeps s0 s) : Keeps s0 (endTag s p tag) := by
  unfold endTag
  exact updPort_keeps h

theorem csNak_keeps {s0 s : State} {p : Nat} {k : Packet} {status : Nat} (h : Keeps s0 s) :
    Keeps s0 (csNak s p k status) := by
  unfold csNak
  exact bridgeSend_keeps h

theorem streamWrite_keeps {s0 s : State} {p l off : Nat} {data : List Byte} (h : Keeps s0 s) :
    Keeps s0 (streamWrite s p l off data) := by
  unfold streamWrite
  exact bridgeSend_keeps h

theorem streamData_keeps {s0 s : State} {p : Nat} {dests : List (Nat × Nat × Nat × Nat)} {c : CsFrame} (h : Keeps
    s0 s) : Keeps s0 (streamData s p dests c) := by
  unfold streamData
  exact keeps_foldl (fun _ _ => keeps_ite (streamWrite_keeps Keeps.rfl) Keeps.rfl) h

theorem execCsRdata_keeps {s0 : State} {p : Nat} {s : State} (h : Keeps s0 s) : KeepsR s0 (execCsRdata p s) := by
  unfold execCsRdata
  refine keeps_next ?_
  refine onStream_keeps h (fun v1 _ => ?_)
  extract_lets -underBinder -merge -useContext +onlyGivenNames s2
  have k3 : Keeps v1 s2 := countCs_keeps Keeps.rfl
  clear_value s2
  split
  · exact k3
  · extract_lets -underBinder -merge -useContext +onlyGivenNames s4
    have k5 : Keeps v1 s4 := keeps_ite (endTag_keeps k3) k3
    clear_value s4
    split
    · exact keeps_ite (csNak_keeps k5) (bridgeSend_keeps k5)
    · exact keeps_ite (streamData_keeps k5) k5
    · exact k5
    · exact k5

theorem execCsWack_keeps {s0 : State} {p : Nat} {s : State} (h : Keeps s0 s) : KeepsR s0 (execCsWack p s) := by
  unfold execCsWack
  refine keeps_next ?_
  refine onStream_keeps h (fun v1 _ => ?_)
  extract_lets -underBinder -merge -useContext +onlyGivenNames s2
  have k3 : Keeps v1 s2 := countCs_keeps Keeps.rfl
  clear_value s2
  split
  · extract_lets -underBinder -merge -useContext +onlyGivenNames s4
    have k5 : Keeps v1 s4 := endTag_keeps k3
    clear_value s4
    exact keeps_ite (csNak_keeps k5) (keeps_ite k5 (bridgeSend_keeps k5))
  · exact k3

theorem execCsCack_keeps {s0 : State} {p : Nat} {s : State} (h : Keeps s0 s) : KeepsR s0 (execCsCack p s) := by
  unfold execCsCack
  refine keeps_next ?_
  refine onStream_keeps h (fun v1 _ => ?_)
  extract_lets -underBinder -merge -useContext +onlyGivenNames s2
  have k3 : Keeps v1 s2 := countCs_keeps Keeps.rfl
  clear_value s2
  split
  · extract_lets -underBinder -merge -useContext +onlyGivenNames s4
    have k5 : Keeps v1 s4 := endTag_keeps k3
    clear_value s4
    exact updModel_keeps k5
  · exact k3

theorem execCsInfor_keeps {s0 : State} {p : Nat} {s : State} (h : Keeps s0 s) : KeepsR s0 (execCsInfor p s) := by
  unfold execCsInfor
  refine keeps_next ?_
  refine onStream_keeps h (fun v1 _ => ?_)
  extract_lets -underBinder -merge -useContext +onlyGivenNames s2
  have k3 : Keeps v1 s2 := countCs_keeps Keeps.rfl
  clear_value s2
  split
  · extract_lets -underBinder -merge -useContext +onlyGivenNames s4
    have k5 : Keeps v1 s4 := endTag_keeps k3
    clear_value s4
    exact keeps_ite (updPort_keeps k5) k5
  · exact k3

theorem compileRoutes_keeps {s0 s : State} (h : Keeps s0 s) : Keeps s0 (compileRoutes s) := by
  unfold compileRoutes
  exact keeps_mk h .rfl .rfl .rfl .rfl (List.prefix_refl _) (Nat.le_refl _)

theorem applyRoutes_keeps {s0 s : State} (h : Keeps s0 s) : Keeps s0 (applyRoutes s) := by
  unfold applyRoutes
  exact eyepieceBroadcast_keeps (compileRoutes_keeps h)

end Sys2Proof.Laws
end

