-- ==== Sys2Proof/Laws/KeepsOperands.lean ====
section
/-! SUPPORT. Every operation of Machine/Operands.lean keeps what Laws/Keeps.lean says: one lemma each, by the shape of its body. -/

namespace Sys2Proof.Laws

open Sys2Proof.Machine

theorem countCycles_keeps {s0 s : State} {t : Nat} (h : Keeps s0 s) : Keeps s0 (countCycles s t) := by
  unfold countCycles
  split
  rename_i e2
  have k1 := keeps2_of (fresh_keeps h) e2
  exact updCore_keeps k1

theorem atOp_keeps {s0 s : State} {t : Nat} {sel : CoreOp → Bool} {f : State → CoreOp → Nat → State} (h : Keeps s0
    s) (h3 : ∀ b0 b1 b2, Keeps b0 (f b0 b1 b2)) : Keeps s0 (atOp s t sel f) := by
  unfold atOp
  refine keeps_ite ?_ ?_
  · split
    · exact keeps_ite (Keeps.trans (countCycles_keeps h) (h3 _ _ _)) h
    · exact h
  · exact h

theorem atXnt_keeps {s0 s : State} {t : Nat} {sel : XntOp → Bool} {f : State → XntOp → Nat → State} (h : Keeps s0
    s) (h3 : ∀ b0 b1 b2, Keeps b0 (f b0 b1 b2)) : Keeps s0 (atXnt s t sel f) := by
  unfold atXnt
  refine atOp_keeps h (fun v1 _ _ => ?_)
  split
  · exact Keeps.trans Keeps.rfl (h3 _ _ _)
  · exact Keeps.rfl

theorem faultHere_keeps {s0 s : State} {t code : Nat} {addr : Word} {store : Bool} (h : Keeps s0 s) :
    Keeps s0 (faultHere s t code addr store) := by
  unfold faultHere
  exact tileFault_keeps h

end Sys2Proof.Laws
end

