-- ==== Sys2Proof/Laws/KeepsProcessor.lean ====
section
/-! SUPPORT. Every operation of Machine/Processor.lean keeps what Laws/Keeps.lean says: one lemma each, by the shape of its body. -/

namespace Sys2Proof.Laws

open Sys2Proof.Machine

theorem doFetch_keeps {s0 s : State} {t : Nat} {err : EccOutcome} (h : Keeps s0 s) :
    Keeps s0 (doFetch s t err) := by
  unfold doFetch
  extract_lets -underBinder -merge -useContext +onlyGivenNames x1
  split
  · exact h
  · exact faultHere_keeps (countCycles_keeps h)
  · exact onLine_keeps (countCycles_keeps h) (fun _ => updCore_keeps Keeps.rfl)

theorem execFetchInstruction_keeps {s0 : State} {t : Nat} {err : EccOutcome} {s : State} (h : Keeps s0 s) :
    KeepsR s0 (execFetchInstruction t err s) := by
  unfold execFetchInstruction
  exact keeps_next (keeps_ite (doFetch_keeps h) h)

theorem onAccess_keeps {s0 s : State} {t : Nat} {addr : Word} {size : Nat} {store : Bool} {ok : Nat → State} (h :
    Keeps s0 s) (h5 : ∀ b0, Keeps s0 (ok b0)) : Keeps s0 (onAccess s t addr size store ok) := by
  unfold onAccess
  exact keeps_ite (faultHere_keeps h) (keeps_ite (faultHere_keeps h) (h5 _))

theorem doLoad_keeps {s0 s : State} {t : Nat} {err : EccOutcome} {rd : Nat} {addr : Word} {size : Nat} {signed :
    Bool} {len : Nat} (h : Keeps s0 s) : Keeps s0 (doLoad s t err rd addr size signed len) := by
  unfold doLoad
  exact onAccess_keeps h (fun _ => onLine_keeps h (fun _ => updCore_keeps Keeps.rfl))

theorem execCoreLoad_keeps {s0 : State} {t : Nat} {err : EccOutcome} {s : State} (h : Keeps s0 s) :
    KeepsR s0 (execCoreLoad t err s) := by
  unfold execCoreLoad
  refine keeps_next ?_
  refine atOp_keeps h (fun v1 _ _ => ?_)
  split
  · exact doLoad_keeps Keeps.rfl
  · exact Keeps.rfl

theorem doStore_keeps {s0 s : State} {t : Nat} {err : EccOutcome} {addr v : Word} {size len : Nat} (h : Keeps s0 s)
    :
    Keeps s0 (doStore s t err addr v size len) := by
  unfold doStore
  exact onAccess_keeps h (fun _ => onLine_keeps h (fun _ => updCore_keeps (writeNum_keeps Keeps.rfl)))

theorem execCoreStore_keeps {s0 : State} {t : Nat} {err : EccOutcome} {s : State} (h : Keeps s0 s) :
    KeepsR s0 (execCoreStore t err s) := by
  unfold execCoreStore
  refine keeps_next ?_
  refine atOp_keeps h (fun v1 _ _ => ?_)
  split
  · exact doStore_keeps Keeps.rfl
  · exact Keeps.rfl

theorem execCoreCompute_keeps {s0 : State} {t : Nat} {s : State} (h : Keeps s0 s) :
    KeepsR s0 (execCoreCompute t s) := by
  unfold execCoreCompute
  refine keeps_next ?_
  refine keeps_ite ?_ ?_
  · split
    · exact faultHere_keeps (countCycles_keeps h)
    · exact atOp_keeps h (fun _ _ _ => updCore_keeps Keeps.rfl)
  · exact h

theorem execFence_keeps {s0 : State} {t : Nat} {s : State} (h : Keeps s0 s) : KeepsR s0 (execFence t s) := by
  unfold execFence
  exact keeps_next (atOp_keeps h (fun _ _ _ => updCore_keeps Keeps.rfl))

theorem execFenceI_keeps {s0 : State} {t : Nat} {s : State} (h : Keeps s0 s) : KeepsR s0 (execFenceI t s) := by
  unfold execFenceI
  exact keeps_next (atOp_keeps h (fun _ _ _ => updCore_keeps Keeps.rfl))

theorem execWfi_keeps {s0 : State} {t : Nat} {s : State} (h : Keeps s0 s) : KeepsR s0 (execWfi t s) := by
  unfold execWfi
  exact keeps_next (atOp_keeps h (fun _ _ _ => updCore_keeps Keeps.rfl))

theorem execEcall_keeps {s0 : State} {t : Nat} {s : State} (h : Keeps s0 s) : KeepsR s0 (execEcall t s) := by
  unfold execEcall
  exact keeps_next (atOp_keeps h (fun _ _ _ => keeps_ite (faultHere_keeps Keeps.rfl) (updCore_keeps Keeps.rfl)))

theorem execEbreak_keeps {s0 : State} {t : Nat} {s : State} (h : Keeps s0 s) : KeepsR s0 (execEbreak t s) := by
  unfold execEbreak
  exact keeps_next (atOp_keeps h (fun _ _ _ => keeps_ite (updCore_keeps Keeps.rfl) (faultHere_keeps Keeps.rfl)))

theorem execMret_keeps {s0 : State} {t : Nat} {s : State} (h : Keeps s0 s) : KeepsR s0 (execMret t s) := by
  unfold execMret
  exact keeps_next (atOp_keeps h (fun _ _ _ => keeps_ite (updCore_keeps Keeps.rfl) (faultHere_keeps Keeps.rfl)))

end Sys2Proof.Laws
end

