-- ==== Sys2Proof/Laws/KeepsCsr.lean ====
section
/-! SUPPORT. Every operation of Machine/Csr.lean keeps what Laws/Keeps.lean says: one lemma each, by the shape of its body. -/

namespace Sys2Proof.Laws

open Sys2Proof.Machine

theorem csrLatch_keeps {s0 s : State} {t slot a : Nat} (h : Keeps s0 s) : Keeps s0 (csrLatch s t slot a) := by
  unfold csrLatch
  exact keeps_ite (updCore_keeps h) (keeps_ite (updCore_keeps h) h)

theorem doReset_keeps {s0 s : State} {t n : Nat} {done : Core → Core} (h : Keeps s0 s) :
    Keeps s0 (doReset s t n done) := by
  unfold doReset
  extract_lets -underBinder -merge -useContext +onlyGivenNames s1
  have k2 : Keeps s0 s1 := keeps_ite h (updTile_keeps h)
  clear_value s1
  exact keeps_ite k2 (updCore_keeps k2)

theorem doCsr_keeps {s0 s : State} {t : Nat} {f : CsrFn} {rd src : Nat} {isImm : Bool} {a len : Nat} (h : Keeps s0
    s) : Keeps s0 (doCsr s t f rd src isImm a len) := by
  unfold doCsr
  extract_lets -underBinder -merge -useContext +onlyGivenNames x1 x2 x3
  have k4 : ∀ a0, Keeps a0 (x3 a0) := by
    intro a0
    exact keeps_ite (csrLatch_keeps Keeps.rfl) Keeps.rfl
  clear_value x3
  split
  · exact faultHere_keeps h
  · split
    · exact updCore_keeps (Keeps.trans h (k4 _))
    · refine keeps_ite ?_ ?_
      · exact faultHere_keeps h
      · refine keeps_ite ?_ ?_
        · exact faultHere_keeps h
        · extract_lets -underBinder -merge -useContext +onlyGivenNames s5
          have k6 : Keeps s0 s5 := Keeps.trans h (k4 _)
          clear_value s5
          exact keeps_ite (keeps_ite (doReset_keeps k6) (keeps_ite (updCore_keeps k6) (updCore_keeps (updTile_keeps
            k6)))) (updCore_keeps k6)

theorem csrCommand_keeps {s0 s : State} {t : Nat} {sel : State → Nat → Option Word → Bool} (h : Keeps s0 s) :
    Keeps s0 (csrCommand s t sel) := by
  unfold csrCommand
  refine atOp_keeps h (fun v1 _ _ => ?_)
  split
  · exact doCsr_keeps Keeps.rfl
  · exact Keeps.rfl

theorem execCsrInstruction_keeps {s0 : State} {t : Nat} {s : State} (h : Keeps s0 s) :
    KeepsR s0 (execCsrInstruction t s) := by
  unfold execCsrInstruction
  exact keeps_next (csrCommand_keeps h)

theorem execCsrReadLowLatch_keeps {s0 : State} {t : Nat} {s : State} (h : Keeps s0 s) :
    KeepsR s0 (execCsrReadLowLatch t s) := by
  unfold execCsrReadLowLatch
  exact keeps_next (csrCommand_keeps h)

theorem execTaskWindowWrite_keeps {s0 : State} {t : Nat} {s : State} (h : Keeps s0 s) :
    KeepsR s0 (execTaskWindowWrite t s) := by
  unfold execTaskWindowWrite
  exact keeps_next (csrCommand_keeps h)

theorem execTaskCtlRst_keeps {s0 : State} {t : Nat} {s : State} (h : Keeps s0 s) :
    KeepsR s0 (execTaskCtlRst t s) := by
  unfold execTaskCtlRst
  exact keeps_next (csrCommand_keeps h)

theorem execRingOpen_keeps {s0 : State} {t : Nat} {s : State} (h : Keeps s0 s) : KeepsR s0 (execRingOpen t s) := by
  unfold execRingOpen
  exact keeps_next (csrCommand_keeps h)

theorem execRingClose_keeps {s0 : State} {t : Nat} {s : State} (h : Keeps s0 s) :
    KeepsR s0 (execRingClose t s) := by
  unfold execRingClose
  exact keeps_next (csrCommand_keeps h)

theorem execRingHeadWrite_keeps {s0 : State} {t : Nat} {s : State} (h : Keeps s0 s) :
    KeepsR s0 (execRingHeadWrite t s) := by
  unfold execRingHeadWrite
  exact keeps_next (csrCommand_keeps h)

theorem execRingEpochWrite_keeps {s0 : State} {t : Nat} {s : State} (h : Keeps s0 s) :
    KeepsR s0 (execRingEpochWrite t s) := by
  unfold execRingEpochWrite
  exact keeps_next (csrCommand_keeps h)

theorem execBeamMaskWrite_keeps {s0 : State} {t : Nat} {s : State} (h : Keeps s0 s) :
    KeepsR s0 (execBeamMaskWrite t s) := by
  unfold execBeamMaskWrite
  exact keeps_next (csrCommand_keeps h)

theorem execDirtyValClear_keeps {s0 : State} {t : Nat} {s : State} (h : Keeps s0 s) :
    KeepsR s0 (execDirtyValClear t s) := by
  unfold execDirtyValClear
  exact keeps_next (csrCommand_keeps h)

theorem execFflagsXClear_keeps {s0 : State} {t : Nat} {s : State} (h : Keeps s0 s) :
    KeepsR s0 (execFflagsXClear t s) := by
  unfold execFflagsXClear
  exact keeps_next (csrCommand_keeps h)

theorem execFaultCauseClear_keeps {s0 : State} {t : Nat} {s : State} (h : Keeps s0 s) :
    KeepsR s0 (execFaultCauseClear t s) := by
  unfold execFaultCauseClear
  exact keeps_next (csrCommand_keeps h)

end Sys2Proof.Laws
end

