-- ==== Sys2Proof/Laws/KeepsPlanes.lean ====
section
/-! SUPPORT. Every operation of Machine/Planes.lean keeps what Laws/Keeps.lean says: one lemma each, by the shape of its body. -/

namespace Sys2Proof.Laws

open Sys2Proof.Machine

theorem emitToken_keeps {s0 s : State} {t net port : Nat} {k : Token} (h : Keeps s0 s) :
    Keeps s0 (emitToken s t net port k) := by
  unfold emitToken
  split
  · exact h
  · exact updLat_keeps h

theorem takePlane_keeps {s0 s : State} {t len : Nat} {img : List Byte} (h : Keeps s0 s) :
    Keeps s0 (takePlane s t len img) := by
  unfold takePlane
  extract_lets -underBinder -merge -useContext +onlyGivenNames x1 x2 x3
  split
  · exact updLat_keeps h
  · extract_lets -underBinder -merge -useContext +onlyGivenNames s4 x5 s6
    have k7 : Keeps s0 s4 := updLat_keeps h
    clear_value s4
    have k8 : Keeps s0 s6 := updCtr_keeps k7
    clear_value s6
    exact logRegion_keeps k8

theorem loadPlane_keeps {s0 s : State} {t off len : Nat} (h : Keeps s0 s) : Keeps s0 (loadPlane s t off len) := by
  unfold loadPlane
  exact takePlane_keeps h

theorem trigger_keeps {s0 s : State} {t : Nat} {cut : Bool} (h : Keeps s0 s) : Keeps s0 (trigger s t cut) := by
  unfold trigger
  extract_lets -underBinder -merge -useContext +onlyGivenNames x1 x2
  refine keeps_ite ?_ ?_
  · exact logRegion_keeps (updCtr_keeps h)
  · split
    · exact updLat_keeps h
    · exact keeps_ite (updLat_keeps h) h
    · exact h

end Sys2Proof.Laws
end

