-- ==== Sys2Proof/Laws/KeepsBeams.lean ====
section
/-! SUPPORT. Every operation of Machine/Beams.lean keeps what Laws/Keeps.lean says: one lemma each, by the shape of its body. -/

namespace Sys2Proof.Laws

open Sys2Proof.Machine

theorem applyStash_keeps {s0 s : State} {l : Nat} (h : Keeps s0 s) : Keeps s0 (applyStash s l) := by
  unfold applyStash
  split
  · exact h
  · extract_lets -underBinder -merge -useContext +onlyGivenNames x1 s2 x3
    have k4 : Keeps s0 s2 := by
      unfold s2
      refine keeps_foldl (fun v5 _ => ?_) h
      split
      · exact writeSpad_keeps Keeps.rfl
      · exact Keeps.rfl
    clear_value s2
    exact keeps_mk k4 .rfl .rfl .rfl .rfl (List.prefix_refl _) (Nat.le_refl _)

theorem cutTile_keeps {s0 s : State} {t : Nat} (h : Keeps s0 s) : Keeps s0 (cutTile s t) := by
  unfold cutTile
  exact keeps_ite h (updTile_keeps h)

theorem snapshotCut_keeps {s0 s : State} (h : Keeps s0 s) : Keeps s0 (snapshotCut s) := by
  unfold snapshotCut
  refine keeps_ite ?_ ?_
  · exact h
  · extract_lets -underBinder -merge -useContext +onlyGivenNames x1 s2 s3 x4 x5
    have k6 : Keeps s0 s2 := keeps_foldl (fun _ _ => cutTile_keeps Keeps.rfl) h
    clear_value s2
    have k7 : Keeps s0 s3 := keeps_foldl (fun _ _ => updModel_keeps Keeps.rfl) k6
    clear_value s3
    exact keeps_mk k7 .rfl .rfl .rfl .rfl (List.prefix_refl _) (Nat.le_refl _)

theorem migrationsQuiesced_keeps {s0 s : State} (h : Keeps s0 s) : Keeps s0 (migrationsQuiesced s) := by
  unfold migrationsQuiesced
  exact keeps_mk h (.map (fun _ => Eq.refl _) .rfl) .rfl .rfl .rfl (List.prefix_refl _) (Nat.le_refl _)

theorem releaseTile_keeps {s0 s : State} {t ch : Nat} {event : Bool} (h : Keeps s0 s) :
    Keeps s0 (releaseTile s t ch event) := by
  unfold releaseTile
  extract_lets -underBinder -merge -useContext +onlyGivenNames s1 x2
  have k3 : Keeps s0 s1 := updCore_keeps h
  clear_value s1
  split
  · exact keeps_ite (trigger_keeps k3) k3
  · exact k3

theorem releaseRegion_keeps {s0 s : State} {p ch : Nat} {ts : List Nat} {event : Bool} (h : Keeps s0 s) :
    Keeps s0 (releaseRegion s p ch ts event) := by
  unfold releaseRegion
  refine keeps_ite ?_ ?_
  · exact h
  · refine keeps_ite ?_ ?_
    · exact updRegion_keeps h
    · extract_lets -underBinder -merge -useContext +onlyGivenNames s1 s2
      have k3 : Keeps s0 s1 := updCtr_keeps h
      clear_value s1
      have k4 : Keeps s0 s2 := loupe_keeps k3
      clear_value s2
      exact keeps_foldl (fun _ _ => keeps_ite Keeps.rfl (releaseTile_keeps Keeps.rfl)) k4

theorem countRelease_keeps {s0 s : State} {ch : Nat} (h : Keeps s0 s) : Keeps s0 (countRelease s ch) := by
  unfold countRelease
  exact keeps_mk h .rfl .rfl .rfl .rfl (List.prefix_refl _) (Nat.le_refl _)

theorem releaseWafer_keeps {s0 s : State} {ch : Nat} (h : Keeps s0 s) : Keeps s0 (releaseWafer s ch) := by
  unfold releaseWafer
  extract_lets -underBinder -merge -useContext +onlyGivenNames s1 s2
  have k3 : Keeps s0 s1 := countRelease_keeps h
  clear_value s1
  have k4 : Keeps s0 s2 := keeps_foldl (fun _ _ => releaseRegion_keeps Keeps.rfl) k3
  clear_value s2
  exact keeps_ite (migrationsQuiesced_keeps (snapshotCut_keeps k4)) k4

theorem deliverReleases_keeps {s0 s : State} (h : Keeps s0 s) : Keeps s0 (deliverReleases s) := by
  unfold deliverReleases
  extract_lets -underBinder -merge -useContext +onlyGivenNames x1 x2 s3 s4
  have k5 : Keeps s0 s3 := keeps_mk h (.map (fun _ => Eq.refl _) .rfl) .rfl .rfl .rfl (List.prefix_refl _)
    (Nat.le_refl _)
  clear_value s3
  have k6 : Keeps s0 s4 := keeps_foldl (fun _ _ => releaseRegion_keeps Keeps.rfl) k5
  clear_value s4
  exact keeps_ite (migrationsQuiesced_keeps (snapshotCut_keeps k6)) k6

theorem releaseSystem_keeps {s0 s : State} {ch count : Nat} (h : Keeps s0 s) :
    Keeps s0 (releaseSystem s ch count) := by
  unfold releaseSystem
  extract_lets -underBinder -merge -useContext +onlyGivenNames x1 s2 s3
  have k4 : Keeps s0 s2 := keeps_mk h .rfl .rfl .rfl .rfl (List.prefix_refl _) (Nat.le_refl _)
  clear_value s2
  have k5 : Keeps s0 s3 := releaseWafer_keeps k4
  clear_value s3
  exact keeps_foldl (fun _ _ => emit_keeps Keeps.rfl) k5

theorem decideSystem_keeps {s0 s : State} {ch : Nat} (h : Keeps s0 s) : Keeps s0 (decideSystem s ch) := by
  unfold decideSystem
  exact keeps_ite (keeps_ite (releaseSystem_keeps h) h) (keeps_ite (emit_keeps (keeps_mk h .rfl .rfl .rfl .rfl
    (List.prefix_refl _) (Nat.le_refl _))) h)

theorem execBeamRelease_keeps {s0 : State} {ch : Nat} {s : State} (h : Keeps s0 s) :
    KeepsR s0 (execBeamRelease ch s) := by
  unfold execBeamRelease
  exact keeps_next (keeps_ite h (keeps_ite (decideSystem_keeps h) (keeps_ite (releaseWafer_keeps h) h)))

theorem fenceField_keeps {s0 s : State} {f : Nat} (h : Keeps s0 s) : Keeps s0 (fenceField s f) := by
  unfold fenceField
  extract_lets -underBinder -merge -useContext +onlyGivenNames s1 x2 s3
  have k4 : Keeps s0 s1 := keeps_foldl (fun _ _ => regionFault_keeps Keeps.rfl) h
  clear_value s1
  have k5 : Keeps s0 s3 := keeps_mk k4 .rfl .rfl .rfl .rfl (List.prefix_refl _) (Nat.le_refl _)
  clear_value s3
  exact logEvent_keeps k5

theorem execBeamCopyFail_keeps {s0 : State} {segment copy : Nat} {s : State} (h : Keeps s0 s) :
    KeepsR s0 (execBeamCopyFail segment copy s) := by
  unfold execBeamCopyFail
  refine keeps_next ?_
  extract_lets -underBinder -merge -useContext +onlyGivenNames x1 x2 s3 s4
  have k5 : Keeps s0 s3 := keeps_mk h .rfl .rfl .rfl .rfl (List.prefix_refl _) (Nat.le_refl _)
  clear_value s3
  have k6 : Keeps s0 s4 := logEvent_keeps k5
  clear_value s4
  exact keeps_ite h (keeps_ite k6 (keeps_ite (fenceField_keeps k6) (regionFault_keeps k6)))

theorem execBeamUpFrameRx_keeps {s0 : State} {p : Nat} {block : List Byte} {s : State} (h : Keeps s0 s) :
    KeepsR s0 (execBeamUpFrameRx p block s) := by
  unfold execBeamUpFrameRx
  refine keeps_next ?_
  refine onBlock_keeps h (fun v1 => ?_)
  extract_lets -underBinder -merge -useContext +onlyGivenNames x2 x3 s4
  have k5 : Keeps v1 s4 := keeps_mk Keeps.rfl .rfl .rfl .rfl .rfl (List.prefix_refl _) (Nat.le_refl _)
  clear_value s4
  exact keeps_ite (keeps_ite (decideSystem_keeps k5) k5) Keeps.rfl

theorem execBeamReleaseFrameRx_keeps {s0 : State} {p : Nat} {block : List Byte} {s : State} (h : Keeps s0 s) :
    KeepsR s0 (execBeamReleaseFrameRx p block s) := by
  unfold execBeamReleaseFrameRx
  exact keeps_next (onBlock_keeps h (fun _ => keeps_ite (releaseSystem_keeps Keeps.rfl) Keeps.rfl))

theorem execBeamBlockRepeat_keeps {s0 : State} {p : Nat} {s : State} (h : Keeps s0 s) :
    KeepsR s0 (execBeamBlockRepeat p s) := by
  unfold execBeamBlockRepeat
  refine keeps_next ?_
  refine keeps_ite ?_ ?_
  · exact h
  · refine keeps_foldl (fun v1 _ => ?_) h
    extract_lets -underBinder -merge -useContext +onlyGivenNames s2
    have k3 : Keeps v1 s2 := keeps_ite (emit_keeps Keeps.rfl) Keeps.rfl
    clear_value s2
    split
    · exact keeps_ite (emit_keeps k3) k3
    · exact k3

end Sys2Proof.Laws
end

