-- ==== Sys2Proof/Laws/KeepsEngines.lean ====
section
/-! SUPPORT. Every operation of Machine/Engines.lean keeps what Laws/Keeps.lean says: one lemma each, by the shape of its body. -/

namespace Sys2Proof.Laws

open Sys2Proof.Machine

theorem countEngine_keeps {s0 s : State} {t : Nat} {prism ok : Bool} {busy displaced : Nat} (h : Keeps s0 s) :
    Keeps s0 (countEngine s t prism ok busy displaced) := by
  unfold countEngine
  exact updCtr_keeps h

theorem completeOp_keeps {s0 s : State} {t : Nat} {prism : Bool} {op : EngOp} {cycles status : Nat} (h : Keeps s0
    s) : Keeps s0 (completeOp s t prism op cycles status) := by
  unfold completeOp
  extract_lets -underBinder -merge -useContext +onlyGivenNames x1 s2
  have k3 : Keeps s0 s2 := by
    unfold s2
    split
    · exact writeNum_keeps h
    · exact h
  clear_value s2
  split
  · exact arriveTile_keeps k3
  · exact k3

theorem checkOp_keeps {s0 s : State} {t : Nat} {prism : Bool} (h : Keeps s0 s) : Keeps s0 (checkOp s t prism) := by
  unfold checkOp
  split
  · exact h
  · split
    · exact h
    · extract_lets -underBinder -merge -useContext +onlyGivenNames x1 s2 s3
      have k4 : Keeps s0 s2 := updTile_keeps h
      clear_value s2
      have k5 : Keeps s0 s3 := countEngine_keeps (completeOp_keeps k4)
      clear_value s3
      exact keeps_ite (updTile_keeps h) (keeps_ite (tileFault_keeps k5) k5)

theorem execMxdCheck_keeps {s0 : State} {t : Nat} {errs : LineErrors} {s : State} (h : Keeps s0 s) :
    KeepsR s0 (execMxdCheck t errs s) := by
  unfold execMxdCheck
  exact keeps_next (keeps_ite (onLines_keeps h (fun _ => checkOp_keeps Keeps.rfl)) h)

theorem execPzdCheck_keeps {s0 : State} {t : Nat} {errs : LineErrors} {s : State} (h : Keeps s0 s) :
    KeepsR s0 (execPzdCheck t errs s) := by
  unfold execPzdCheck
  exact keeps_next (keeps_ite (onLines_keeps h (fun _ => checkOp_keeps Keeps.rfl)) h)

theorem readAhead_keeps {s0 s : State} {t : Nat} {prism : Bool} {op : EngOp} (h : Keeps s0 s) :
    Keeps2 s0 (readAhead s t prism op) := by
  unfold readAhead
  extract_lets -underBinder -merge -useContext +onlyGivenNames x1
  refine keeps2_ite ?_ ?_
  · exact keeps2_mk h
  · split
    rename_i e3
    have k2 := keeps2_of (fresh_keeps h) e3
    exact keeps2_mk k2

theorem engineWrites_keeps {s0 s : State} {t : Nat} {writes : List (Nat × List Byte)} (h : Keeps s0 s) :
    Keeps s0 (engineWrites s t writes) := by
  unfold engineWrites
  split
  rename_i e2
  have k1 := keeps2_of (fresh_keeps h) e2
  extract_lets -underBinder -merge -useContext +onlyGivenNames x3 s4
  have k5 : Keeps s0 s4 := updTile_keeps k1
  clear_value s4
  exact keeps_foldl (fun _ _ => writeSpad_keeps Keeps.rfl) k5

theorem finishOp_keeps {s0 s : State} {t : Nat} {prism : Bool} {op : EngOp} {extra : Nat} (h : Keeps s0 s) :
    Keeps s0 (finishOp s t prism op extra) := by
  unfold finishOp
  split
  rename_i e2
  have k1 := keeps2_of (readAhead_keeps h) e2
  extract_lets -underBinder -merge -useContext +onlyGivenNames x3
  split
  rename_i e5
  have k4 := keeps2_of (copyWaits_keeps k1) e5
  extract_lets -underBinder -merge -useContext +onlyGivenNames s6 x7 x8 s9
  have k10 : Keeps s0 s6 := addFlags_keeps (engineWrites_keeps k4)
  clear_value s6
  have k11 : Keeps s0 s9 := updTile_keeps k10
  clear_value s9
  exact countEngine_keeps (completeOp_keeps k11)

theorem finishHead_keeps {s0 s : State} {t : Nat} {prism : Bool} {extra : Nat} {errs : LineErrors} (h : Keeps s0 s)
    :
    Keeps s0 (finishHead s t prism extra errs) := by
  unfold finishHead
  split
  · exact keeps_ite (onLines_keeps h (fun _ => finishOp_keeps Keeps.rfl)) h
  · exact h

theorem execMatrixCompletion_keeps {s0 : State} {t extra : Nat} {errs : LineErrors} {s : State} (h : Keeps s0 s) :
    KeepsR s0 (execMatrixCompletion t extra errs s) := by
  unfold execMatrixCompletion
  exact keeps_next (keeps_ite (finishHead_keeps h) h)

theorem execPrismCompletion_keeps {s0 : State} {t extra : Nat} {errs : LineErrors} {s : State} (h : Keeps s0 s) :
    KeepsR s0 (execPrismCompletion t extra errs s) := by
  unfold execPrismCompletion
  exact keeps_next (keeps_ite (finishHead_keeps h) h)

theorem residueFault_keeps {s0 s : State} {t : Nat} {prism behind : Bool} {code : Nat} (h : Keeps s0 s) :
    Keeps s0 (residueFault s t prism behind code) := by
  unfold residueFault
  split
  · refine keeps_ite ?_ ?_
    · exact h
    · extract_lets -underBinder -merge -useContext +onlyGivenNames s1
      have k2 : Keeps s0 s1 := updCtr_keeps h
      clear_value s1
      exact regionFault_keeps k2
  · exact h

theorem execResidueMx_keeps {s0 : State} {t : Nat} {behind : Bool} {s : State} (h : Keeps s0 s) :
    KeepsR s0 (execResidueMx t behind s) := by
  unfold execResidueMx
  exact keeps_next (keeps_ite (residueFault_keeps h) h)

theorem execResiduePz_keeps {s0 : State} {t : Nat} {inReduction behind : Bool} {s : State} (h : Keeps s0 s) :
    KeepsR s0 (execResiduePz t inReduction behind s) := by
  unfold execResiduePz
  refine keeps_next ?_
  refine keeps_ite ?_ ?_
  · exact h
  · refine keeps_ite ?_ ?_
    · split
      · extract_lets -underBinder -merge -useContext +onlyGivenNames s1
        have k2 : Keeps s0 s1 := updCtr_keeps h
        clear_value s1
        exact regionFault_keeps k2
      · exact h
    · exact residueFault_keeps h

end Sys2Proof.Laws
end

