-- ==== Sys2Proof/Laws/KeepsLattice.lean ====
section
/-! SUPPORT. Every operation of Machine/Lattice.lean keeps what Laws/Keeps.lean says: one lemma each, by the shape of its body. -/

namespace Sys2Proof.Laws

open Sys2Proof.Machine

theorem noteEnd_keeps {s0 s : State} {t : Nat} {cut : Bool} (h : Keeps s0 s) : Keeps s0 (noteEnd s t cut) := by
  unfold noteEnd
  exact updRegion_keeps h

theorem noteSwap_keeps {s0 s : State} {t g : Nat} (h : Keeps s0 s) : Keeps s0 (noteSwap s t g) := by
  unfold noteSwap
  exact updRegion_keeps h

theorem joinSection_keeps {s0 s : State} {t : Nat} (h : Keeps s0 s) : Keeps s0 (joinSection s t) := by
  unfold joinSection
  exact keeps_ite h (keeps_ite (updRegion_keeps h) (noteSwap_keeps h))

theorem holdCycle_keeps {s0 s : State} {t cause : Nat} (h : Keeps s0 s) : Keeps s0 (holdCycle s t cause) := by
  unfold holdCycle
  exact updLat_keeps (addHolds_keeps h)

theorem doRecv_keeps {s0 s : State} {t : Nat} {p : Plane} {e : DWord} {k : Nat} (h : Keeps s0 s) :
    Keeps s0 (doRecv s t p e k) := by
  unfold doRecv
  extract_lets -underBinder -merge -useContext +onlyGivenNames x1
  split
  · exact h
  · extract_lets -underBinder -merge -useContext +onlyGivenNames s2
    have k3 : Keeps s0 s2 := updLat_keeps h
    clear_value s2
    exact writeNum_keeps k3

theorem doSteer_keeps {s0 s : State} {t : Nat} {p : Plane} (h : Keeps s0 s) : Keeps s0 (doSteer s t p) := by
  unfold doSteer
  split
  · exact h
  · extract_lets -underBinder -merge -useContext +onlyGivenNames s1 x2 x3 x4 x5 s6
    have k7 : Keeps s0 s1 := updLat_keeps h
    clear_value s1
    have k8 : ∀ a0, Keeps a0 (x3 a0) := by
      intro a0
      exact updLat_keeps Keeps.rfl
    clear_value x3
    have k9 : Keeps s0 s6 := updLat_keeps k7
    clear_value s6
    exact keeps_ite (Keeps.trans k7 (k8 _)) (keeps_ite (emitToken_keeps k7) (keeps_ite (writeNum_keeps k9)
      (tileFault_keeps (Keeps.trans k7 (k8 _)))))

theorem doAct_keeps {s0 s : State} {t : Nat} {p : Plane} {x : DWord × Nat} (h : Keeps s0 s) :
    Keeps s0 (doAct s t p x) := by
  unfold doAct
  split
  · exact doRecv_keeps h
  · exact doSteer_keeps h
  · exact arriveTile_keeps h
  · exact h

theorem sectionEnd_keeps {s0 s : State} {t : Nat} (h : Keeps s0 s) : Keeps s0 (sectionEnd s t) := by
  unfold sectionEnd
  extract_lets -underBinder -merge -useContext +onlyGivenNames s1
  have k2 : Keeps s0 s1 := noteEnd_keeps h
  clear_value s1
  exact updTile_keeps k2

theorem takeStep_keeps {s0 s : State} {t : Nat} {p : Plane} {due : List (DWord × Nat)} {vals : List Nat} (h : Keeps
    s0 s) : Keeps s0 (takeStep s t p due vals) := by
  unfold takeStep
  extract_lets -underBinder -merge -useContext +onlyGivenNames x1 x2 s3 s4 s5 s6 s7
  have k8 : Keeps s0 s3 := keeps_foldl (fun _ _ => emitToken_keeps Keeps.rfl) h
  clear_value s3
  have k9 : Keeps s0 s4 := keeps_foldl (fun _ _ => doAct_keeps Keeps.rfl) k8
  clear_value s4
  have k10 : Keeps s0 s5 := updTile_keeps k9
  clear_value s5
  have k11 : Keeps s0 s6 := keeps_foldl (fun _ _ => updTile_keeps Keeps.rfl) k10
  clear_value s6
  have k12 : Keeps s0 s7 := updTile_keeps k11
  clear_value s7
  exact keeps_ite (sectionEnd_keeps k12) k12

theorem displacedCycle_keeps {s0 s : State} {t : Nat} {prism : Bool} (h : Keeps s0 s) :
    Keeps s0 (displacedCycle s t prism) := by
  unfold displacedCycle
  exact holdCycle_keeps (updCtr_keeps h)

theorem sectionCycle_keeps {s0 s : State} {t : Nat} {p : Plane} {denied : Nat} {displaced : Option Bool} {errs :
    LineErrors} (h : Keeps s0 s) : Keeps s0 (sectionCycle s t p denied displaced errs) := by
  unfold sectionCycle
  extract_lets -underBinder -merge -useContext +onlyGivenNames x1 x2 x3 x4 x5 x6 x7 x8
  refine keeps_ite ?_ ?_
  · exact holdCycle_keeps h
  · refine onLines_keeps h (fun v9 => ?_)
    extract_lets -underBinder -merge -useContext +onlyGivenNames x10 s11
    have k12 : Keeps v9 s11 := updLat_keeps Keeps.rfl
    clear_value s11
    refine keeps_ite ?_ ?_
    · exact holdCycle_keeps k12
    · split
      · exact keeps_ite (displacedCycle_keeps k12) (takeStep_keeps Keeps.rfl)
      · exact takeStep_keeps Keeps.rfl

theorem execStep_keeps {s0 : State} {t denied : Nat} {planeUe : Bool} {displaced : Option Bool} {errs : LineErrors}
    {s : State} (h : Keeps s0 s) : KeepsR s0 (execStep t denied planeUe displaced errs s) := by
  unfold execStep
  refine keeps_next ?_
  split
  · exact h
  · exact keeps_ite (regionFault_keeps h) (keeps_ite h (sectionCycle_keeps h))

theorem execStallEvent_keeps {s0 : State} {t : Nat} {s : State} (h : Keeps s0 s) :
    KeepsR s0 (execStallEvent t s) := by
  unfold execStallEvent
  refine keeps_next ?_
  split
  · exact h
  · extract_lets -underBinder -merge -useContext +onlyGivenNames x1 x2 s3 s4
    have k5 : Keeps s0 s3 := updLat_keeps h
    clear_value s3
    have k6 : Keeps s0 s4 := logRegion_keeps k5
    clear_value s4
    exact keeps_ite (loupeTile_keeps k6) h

theorem execLatticeTokenArrival_keeps {s0 : State} {t inp : Nat} {s : State} (h : Keeps s0 s) :
    KeepsR s0 (execLatticeTokenArrival t inp s) := by
  unfold execLatticeTokenArrival
  refine keeps_next ?_
  refine keeps_ite ?_ ?_
  · exact h
  · split
    · exact h
    · exact updTile_keeps h

theorem execRoutedForward_keeps {s0 : State} {t inp : Nat} {s : State} (h : Keeps s0 s) :
    KeepsR s0 (execRoutedForward t inp s) := by
  unfold execRoutedForward
  refine keeps_next ?_
  refine keeps_ite ?_ ?_
  · exact h
  · split
    · extract_lets -underBinder -merge -useContext +onlyGivenNames x1 s2
      have k3 : Keeps s0 s2 := keeps_foldl (fun _ _ => emitToken_keeps Keeps.rfl) h
      clear_value s2
      exact keeps_ite (updTile_keeps k3) h
    · exact h

theorem execPairingQueueMove_keeps {s0 : State} {t : Nat} {control : Bool} {s : State} (h : Keeps s0 s) :
    KeepsR s0 (execPairingQueueMove t control s) := by
  unfold execPairingQueueMove
  refine keeps_next ?_
  refine keeps_ite ?_ ?_
  · exact h
  · split
    · exact h
    · extract_lets -underBinder -merge -useContext +onlyGivenNames x1 x2
      split
      · exact h
      · exact keeps_ite (updTile_keeps h) h

theorem swapPlane_keeps {s0 s : State} {t : Nat} {p : Plane} {cut : Bool} (h : Keeps s0 s) :
    Keeps s0 (swapPlane s t p cut) := by
  unfold swapPlane
  extract_lets -underBinder -merge -useContext +onlyGivenNames x1 x2 x3 s4 s5 s6 s7
  have k8 : Keeps s0 s4 := keeps_ite (noteEnd_keeps h) h
  clear_value s4
  have k9 : Keeps s0 s5 := noteSwap_keeps k8
  clear_value s5
  have k10 : Keeps s0 s6 := updTile_keeps k9
  clear_value s6
  have k11 : Keeps s0 s7 := loupeTile_keeps k10
  clear_value s7
  exact keeps_ite (sectionEnd_keeps k11) k11

theorem execPlaneSwap_keeps {s0 : State} {t : Nat} {s : State} (h : Keeps s0 s) :
    KeepsR s0 (execPlaneSwap t s) := by
  unfold execPlaneSwap
  refine keeps_next ?_
  refine keeps_ite ?_ ?_
  · exact h
  · extract_lets -underBinder -merge -useContext +onlyGivenNames x1
    split
    · exact keeps_ite (swapPlane_keeps h) h
    · exact h

end Sys2Proof.Laws
end

