-- ==== Sys2Proof/Laws/KeepsStore.lean ====
section
/-! SUPPORT. Every operation of Machine/Store.lean keeps what Laws/Keeps.lean says: one lemma each, by the shape of its body. -/

namespace Sys2Proof.Laws

open Sys2Proof.Machine

theorem setBank_keeps {s0 s : State} {n : Nat} {b : Bank} (h : Keeps s0 s) : Keeps s0 (setBank s n b) := by
  unfold setBank
  exact keeps_mk h .rfl .rfl .rfl .rfl (List.prefix_refl _) (Nat.le_refl _)

theorem storeFails_keeps {s0 s : State} {index sub : Nat} (h : Keeps s0 s) : Keeps s0 (storeFails s index sub) := by
  unfold storeFails
  extract_lets -underBinder -merge -useContext +onlyGivenNames x1 s2
  have k3 : Keeps s0 s2 := keeps_mk h .rfl .rfl .rfl .rfl (List.prefix_refl _) (Nat.le_refl _)
  clear_value s2
  exact setAlert_keeps (logEvent_keeps k3)

theorem compact_keeps {s0 s : State} (h : Keeps s0 s) : Keeps s0 (compact s) := by
  unfold compact
  refine keeps_ite ?_ ?_
  · exact storeFails_keeps h
  · extract_lets -underBinder -merge -useContext +onlyGivenNames x1 x2 s3 x4
    have k5 : Keeps s0 s3 := setBank_keeps h
    clear_value s3
    exact keeps_mk k5 .rfl .rfl .rfl .rfl (List.prefix_refl _) (Nat.le_refl _)

theorem appendRec_keeps {s0 s : State} {r : StoreRec} (h : Keeps s0 s) : Keeps1 s0 (appendRec s r) := by
  unfold appendRec
  extract_lets -underBinder -merge -useContext +onlyGivenNames x1 s2
  have k3 : ∀ a0, Keeps a0 (x1 a0) := by
    intro a0
    unfold x1
    extract_lets -underBinder -merge -useContext +onlyGivenNames x4 s5 x6
    have k7 : Keeps a0 s5 := setBank_keeps Keeps.rfl
    clear_value s5
    exact keeps_mk k7 .rfl .rfl .rfl .rfl (List.prefix_refl _) (Nat.le_refl _)
  clear_value x1
  have k8 : Keeps s0 s2 := compact_keeps h
  clear_value s2
  exact keeps1_ite (keeps1_mk (storeFails_keeps h)) (keeps1_ite (keeps1_mk (Keeps.trans h (k3 _))) (keeps1_ite
    (keeps1_mk (Keeps.trans k8 (k3 _))) (keeps1_mk (storeFails_keeps k8))))

theorem tearStore_keeps {s0 s : State} {x : Torn} (h : Keeps s0 s) : Keeps s0 (tearStore s x) := by
  unfold tearStore
  split
  · exact keeps_ite (setBank_keeps h) h
  · exact setBank_keeps h
  · exact h

theorem mgmtTakes_keeps {s0 s : State} {port : Nat} (h : Keeps s0 s) : Keeps s0 (mgmtTakes s port) := by
  unfold mgmtTakes
  exact keeps_mk h .rfl .rfl .rfl .rfl (List.prefix_refl _) (Nat.le_refl _)

theorem scanStore_keeps {s0 s : State} (h : Keeps s0 s) : Keeps s0 (scanStore s) := by
  unfold scanStore
  exact mgmtTakes_keeps (mgmtTakes_keeps (keeps_mk h .rfl .rfl .rfl .rfl (List.prefix_refl _) (Nat.le_refl _)))

end Sys2Proof.Laws
end

