-- ==== Sys2Proof/Laws/KeepsMessages.lean ====
section
/-! SUPPORT. Every operation of Machine/Messages.lean keeps what Laws/Keeps.lean says: one lemma each, by the shape of its body. -/

namespace Sys2Proof.Laws

open Sys2Proof.Machine

theorem msgFail_keeps {s0 s : State} {t : Nat} {m : SendMsg} {status : Nat} (h : Keeps s0 s) :
    Keeps s0 (msgFail s t m status) := by
  unfold msgFail
  exact keeps_ite h (keeps_ite (keeps_ite (arriveTile_keeps h) h) (msgDone_keeps h))

theorem execSendQueueValidate_keeps {s0 : State} {t : Nat} {errs : LineErrors} {s : State} (h : Keeps s0 s) :
    KeepsR s0 (execSendQueueValidate t errs s) := by
  unfold execSendQueueValidate
  refine keeps_next ?_
  refine keeps_ite ?_ ?_
  · exact h
  · split
    · exact h
    · refine keeps_ite ?_ ?_
      · exact h
      · extract_lets -underBinder -merge -useContext +onlyGivenNames x1 s2 s3
        have k4 : Keeps s0 s2 := updMsg_keeps h
        clear_value s2
        have k5 : Keeps s0 s3 := updCtr_keeps k4
        clear_value s3
        refine keeps_ite ?_ ?_
        · exact updMsg_keeps h
        · refine onLines_keeps k5 (fun v6 => ?_)
          extract_lets -underBinder -merge -useContext +onlyGivenNames s7
          have k8 : Keeps v6 s7 := msgFail_keeps Keeps.rfl
          clear_value s7
          exact keeps_ite (tileFault_keeps k8) k8

theorem queuePackets_keeps {s0 s : State} {t : Nat} {ks : List Packet} {cpl : Option SendMsg} (h : Keeps s0 s) :
    Keeps s0 (queuePackets s t ks cpl) := by
  unfold queuePackets
  exact updMsg_keeps h

theorem takeTrack_keeps {s0 s : State} {t e : Nat} {m : SendMsg} (h : Keeps s0 s) :
    Keeps1 s0 (takeTrack s t e m) := by
  unfold takeTrack
  exact keeps1_mk (updMsg_keeps h)

theorem injectHead_keeps {s0 s : State} {t : Nat} {m : SendMsg} {rest : List SendMsg} {errs : LineErrors} (h :
    Keeps s0 s) :
    Keeps s0 (injectHead s t m rest errs) := by
  unfold injectHead
  extract_lets -underBinder -merge -useContext +onlyGivenNames x1 s2
  have k3 : Keeps s0 s2 := updMsg_keeps h
  clear_value s2
  refine keeps_ite h (keeps_ite (queuePackets_keeps k3) ?_)
  have kp : ∀ (r : State × Nat), Keeps1 s0 r → Keeps s0 (match r with
      | (s, txid) =>
        let cpl := if isTracked m then none else some m
        if isMsg m then
          let k := msgPacket s t m txid
          if k.dstDev = s.fabric.devId && (tileOf s t).core.ltile = some k.dstLtile then
            cplDone (arriveAt s t k) t { pkt := k, cpl := cpl, start := cyclesNow s t } 0 errs
          else queuePackets s t [k] cpl
        else queuePackets s t (putGetPackets s t m txid) cpl) := fun r k =>
    keeps_ite (keeps_ite (cplDone_keeps (arriveAt_keeps k)) (queuePackets_keeps k)) (queuePackets_keeps k)
  refine kp _ ?_
  split
  · exact takeTrack_keeps k3
  · exact keeps1_mk k3

theorem execMsgInjection_keeps {s0 : State} {t : Nat} {errs : LineErrors} {s : State} (h : Keeps s0 s) :
    KeepsR s0 (execMsgInjection t errs s) := by
  unfold execMsgInjection
  refine keeps_next ?_
  refine keeps_ite ?_ ?_
  · exact h
  · split
    · exact keeps_ite h (queuePackets_keeps (updMsg_keeps h))
    · refine keeps_ite ?_ ?_
      · exact h
      · split
        · exact h
        · exact keeps_ite h (keeps_ite h (onLines_keeps h (fun _ => injectHead_keeps Keeps.rfl)))

theorem trackDone_keeps {s0 s : State} {t e : Nat} {x : Track} {status : Nat} (h : Keeps s0 s) :
    Keeps s0 (trackDone s t e x status) := by
  unfold trackDone
  extract_lets -underBinder -merge -useContext +onlyGivenNames x1 s2 s3
  have k4 : Keeps s0 s2 := updMsg_keeps h
  clear_value s2
  have k5 : Keeps s0 s3 := by
    unfold s3
    split
    · exact writeNum_keeps k4
    · exact k4
  clear_value s3
  split
  · exact arriveTile_keeps k5
  · exact k5

theorem responseIn_keeps {s0 s : State} {t e : Nat} {x : Track} (h : Keeps s0 s) :
    Keeps s0 (responseIn s t e x) := by
  unfold responseIn
  exact keeps_ite (trackDone_keeps h) (updMsg_keeps h)

theorem countLate_keeps {s0 s : State} {t : Nat} (h : Keeps s0 s) : Keeps s0 (countLate s t) := by
  unfold countLate
  exact updCtr_keeps h

theorem ctlReply_keeps {s0 s : State} {t : Nat} {k : Packet} {errs : LineErrors} (h : Keeps s0 s) :
    Keeps s0 (ctlReply s t k errs) := by
  unfold ctlReply
  split
  · exact countLate_keeps h
  · refine keeps_ite ?_ ?_
    · exact onLines_keeps h (fun _ => trackDone_keeps Keeps.rfl)
    · extract_lets -underBinder -merge -useContext +onlyGivenNames x1 x2
      refine onLines_keeps h (fun v3 => ?_)
      extract_lets -underBinder -merge -useContext +onlyGivenNames s4
      have k5 : Keeps v3 s4 := by
        unfold s4
        clear_value x2
        split
        · exact writeSpad_keeps Keeps.rfl
        · exact Keeps.rfl
      clear_value s4
      exact responseIn_keeps k5

theorem copyAnswered_keeps {s0 s : State} {t : Nat} (h : Keeps s0 s) : Keeps s0 (copyAnswered s t) := by
  unfold copyAnswered
  exact updTile_keeps h

theorem execAckArrival_keeps {s0 : State} {t : Nat} {errs : LineErrors} {s : State} (h : Keeps s0 s) :
    KeepsR s0 (execAckArrival t errs s) := by
  unfold execAckArrival
  refine keeps_next ?_
  refine keeps_ite ?_ ?_
  · exact h
  · split
    · exact h
    · rename_i e1
      have k2 := (takeArrived_keeps h) _ e1
      refine keeps_ite ?_ ?_
      · split
        · exact onLines_keeps k2 (fun _ => responseIn_keeps Keeps.rfl)
        · exact keeps_ite (copyAnswered_keeps k2) (countLate_keeps k2)
      · exact ctlReply_keeps k2

theorem execReadReplyArrival_keeps {s0 : State} {t : Nat} {errs : LineErrors} {s : State} (h : Keeps s0 s) :
    KeepsR s0 (execReadReplyArrival t errs s) := by
  unfold execReadReplyArrival
  refine keeps_next ?_
  refine keeps_ite ?_ ?_
  · exact h
  · split
    · exact h
    · rename_i e1
      have k2 := (takeArrived_keeps h) _ e1
      refine keeps_ite ?_ ?_
      · split
        · exact onLines_keeps k2 (fun _ => responseIn_keeps (writeSpad_keeps Keeps.rfl))
        · exact countLate_keeps k2
      · exact ctlReply_keeps k2

theorem execSenderTimeout_keeps {s0 : State} {t entry : Nat} {errs : LineErrors} {s : State} (h : Keeps s0 s) :
    KeepsR s0 (execSenderTimeout t entry errs s) := by
  unfold execSenderTimeout
  refine keeps_next ?_
  refine keeps_ite ?_ ?_
  · exact h
  · split
    · extract_lets -underBinder -merge -useContext +onlyGivenNames s1
      have k2 : Keeps s0 s1 := updCtr_keeps h
      clear_value s1
      exact onLines_keeps k2 (fun _ => trackDone_keeps Keeps.rfl)
    · exact h

theorem acceptMsg_keeps {s0 s : State} {t : Nat} {k : Packet} {ring place : Nat} {skip : Option (Nat × Nat)} (h :
    Keeps s0 s) : Keeps s0 (acceptMsg s t k ring place skip) := by
  unfold acceptMsg
  exact updMsg_keeps h

theorem refuseMsg_keeps {s0 s : State} {t : Nat} {k : Packet} {reason : Nat} {ring : Option Nat} (h : Keeps s0 s) :
    Keeps s0 (refuseMsg s t k reason ring) := by
  unfold refuseMsg
  extract_lets -underBinder -merge -useContext +onlyGivenNames s1 s2 s3
  have k4 : Keeps s0 s1 := loupeNak_keeps h
  clear_value s1
  have k5 : Keeps s0 s2 := updCtr_keeps k4
  clear_value s2
  have k6 : Keeps s0 s3 := by
    unfold s3
    split
    · exact updTile_keeps k5
    · exact k5
  clear_value s3
  exact queueOut_keeps k6

theorem execMsgArrival_keeps {s0 : State} {t : Nat} {s : State} (h : Keeps s0 s) :
    KeepsR s0 (execMsgArrival t s) := by
  unfold execMsgArrival
  refine keeps_next ?_
  refine keeps_ite ?_ ?_
  · exact h
  · split
    · exact h
    · extract_lets -underBinder -merge -useContext +onlyGivenNames s1
      have k2 : Keeps s0 s1 := updMsg_keeps h
      clear_value s1
      split
      · exact acceptMsg_keeps k2
      · exact refuseMsg_keeps k2
      · refine keeps_ite ?_ ?_
        · exact refuseMsg_keeps k2
        · extract_lets -underBinder -merge -useContext +onlyGivenNames s3
          have k4 : Keeps s0 s3 := updCtr_keeps k2
          clear_value s3
          exact updMsg_keeps k4

theorem execHoldRegisterRetry_keeps {s0 : State} {t : Nat} {s : State} (h : Keeps s0 s) :
    KeepsR s0 (execHoldRegisterRetry t s) := by
  unfold execHoldRegisterRetry
  refine keeps_next ?_
  refine keeps_ite ?_ ?_
  · exact h
  · split
    · exact h
    · extract_lets -underBinder -merge -useContext +onlyGivenNames s1 x2 s3
      have k4 : Keeps s0 s1 := updCtr_keeps h
      clear_value s1
      have k5 : ∀ a0, Keeps a0 (x2 a0) := by
        intro a0
        exact updMsg_keeps Keeps.rfl
      clear_value x2
      have k6 : Keeps s0 s3 := updMsg_keeps k4
      clear_value s3
      split
      · exact refuseMsg_keeps (Keeps.trans k4 (k5 _))
      · exact keeps_ite k6 (acceptMsg_keeps (Keeps.trans k4 (k5 _)))
      · exact k6

theorem execHoldTimeout_keeps {s0 : State} {t : Nat} {s : State} (h : Keeps s0 s) :
    KeepsR s0 (execHoldTimeout t s) := by
  unfold execHoldTimeout
  refine keeps_next ?_
  refine keeps_ite ?_ ?_
  · exact h
  · split
    · exact h
    · exact keeps_ite (refuseMsg_keeps (updMsg_keeps h)) h

theorem countLostNak_keeps {s0 s : State} {t : Nat} (h : Keeps s0 s) : Keeps s0 (countLostNak s t) := by
  unfold countLostNak
  exact updCtr_keeps h

theorem noteSegment_keeps {s0 s : State} {t : Nat} {k : Packet} (h : Keeps s0 s) :
    Keeps s0 (noteSegment s t k) := by
  unfold noteSegment
  exact keeps_ite h (keeps_ite (keeps_mk h .rfl .rfl .rfl .rfl (List.prefix_refl _) (Nat.le_refl _)) (keeps_mk h
    .rfl .rfl .rfl .rfl (List.prefix_refl _) (Nat.le_refl _)))

theorem execRingTailUpdate_keeps {s0 : State} {t : Nat} {errs : LineErrors} {s : State} (h : Keeps s0 s) :
    KeepsR s0 (execRingTailUpdate t errs s) := by
  unfold execRingTailUpdate
  refine keeps_next ?_
  refine keeps_ite ?_ ?_
  · exact h
  · split
    · exact h
    · extract_lets -underBinder -merge -useContext +onlyGivenNames s1 x2
      have k3 : Keeps s0 s1 := updMsg_keeps h
      clear_value s1
      refine keeps_ite ?_ ?_
      · exact keeps_ite (countLostNak_keeps k3) (refuseMsg_keeps k3)
      · refine onLines_keeps k3 (fun v4 => ?_)
        extract_lets -underBinder -merge -useContext +onlyGivenNames s5 s6 s7 s8 s9
        have k10 : Keeps v4 s5 := by
          unfold s5
          split
          · exact writeSpad_keeps Keeps.rfl
          · exact Keeps.rfl
        clear_value s5
        have k11 : Keeps v4 s6 := writeSpad_keeps k10
        clear_value s6
        have k12 : Keeps v4 s7 := updTile_keeps k11
        clear_value s7
        have k13 : Keeps v4 s8 := updCore_keeps k12
        clear_value s8
        have k14 : Keeps v4 s9 := keeps_ite k13 (noteSegment_keeps (updCtr_keeps k13))
        clear_value s9
        exact keeps_ite (queueOut_keeps k14) k14

theorem nakEntry_keeps {s0 s : State} {t : Nat} {k : Packet} {tag seq : Nat} (h : Keeps s0 s) :
    Keeps s0 (nakEntry s t k tag seq) := by
  unfold nakEntry
  extract_lets -underBinder -merge -useContext +onlyGivenNames x1 x2 x3
  split
  · exact updMsg_keeps h
  · exact countLostNak_keeps h

theorem copyFailed_keeps {s0 s : State} {t : Nat} (h : Keeps s0 s) : Keeps s0 (copyFailed s t) := by
  unfold copyFailed
  extract_lets -underBinder -merge -useContext +onlyGivenNames x1 s2 x3 x4
  have k5 : Keeps s0 s2 := copyAnswered_keeps h
  clear_value s2
  exact keeps_mk k5 .rfl .rfl .rfl .rfl (List.prefix_refl _) (Nat.le_refl _)

theorem execNakArrival_keeps {s0 : State} {t : Nat} {errs : LineErrors} {s : State} (h : Keeps s0 s) :
    KeepsR s0 (execNakArrival t errs s) := by
  unfold execNakArrival
  refine keeps_next ?_
  refine keeps_ite ?_ ?_
  · exact h
  · split
    · exact h
    · rename_i e1
      have k2 := (takeArrived_keeps h) _ e1
      refine keeps_ite ?_ ?_
      · exact copyFailed_keeps k2
      · refine keeps_ite ?_ ?_
        · exact nakEntry_keeps k2
        · split
          · exact onLines_keeps k2 (fun _ => nakEntry_keeps (trackDone_keeps Keeps.rfl))
          · exact countLate_keeps k2

theorem countServed_keeps {s0 s : State} {t : Nat} (h : Keeps s0 s) : Keeps s0 (countServed s t) := by
  unfold countServed
  exact updCtr_keeps h

theorem execRemoteWrite_keeps {s0 : State} {t : Nat} {errs : LineErrors} {s : State} (h : Keeps s0 s) :
    KeepsR s0 (execRemoteWrite t errs s) := by
  unfold execRemoteWrite
  refine keeps_next ?_
  refine keeps_ite ?_ ?_
  · exact h
  · split
    · exact h
    · rename_i e1
      have k2 := (takeArrived_keeps h) _ e1
      extract_lets -underBinder -merge -useContext +onlyGivenNames x3 x4 x5
      refine keeps_ite ?_ ?_
      · exact keeps_ite (countDiscard_keeps k2) (refuseMsg_keeps k2)
      · refine onLines_keeps k2 (fun v6 => ?_)
        extract_lets -underBinder -merge -useContext +onlyGivenNames s7
        have k8 : Keeps v6 s7 := countServed_keeps (writeSpad_keeps Keeps.rfl)
        clear_value s7
        exact keeps_ite k8 (queueOut_keeps k8)

theorem execRemoteRead_keeps {s0 : State} {t : Nat} {errs : LineErrors} {s : State} (h : Keeps s0 s) :
    KeepsR s0 (execRemoteRead t errs s) := by
  unfold execRemoteRead
  refine keeps_next ?_
  refine keeps_ite ?_ ?_
  · exact h
  · split
    · exact h
    · rename_i e1
      have k2 := (takeArrived_keeps h) _ e1
      exact keeps_ite (refuseMsg_keeps k2) (onLines_keeps k2 (fun _ => countServed_keeps (queueOut_keeps
        Keeps.rfl)))

end Sys2Proof.Laws
end

