-- ==== Sys2Proof/Laws/KeepsEthernet.lean ====
section
/-! SUPPORT. Every operation of Machine/Ethernet.lean keeps what Laws/Keeps.lean says: one lemma each, by the shape of its body. -/

namespace Sys2Proof.Laws

open Sys2Proof.Machine

theorem ethSend_keeps {s0 s : State} {p bytes : Nat} {x : Out} (h : Keeps s0 s) :
    Keeps s0 (ethSend s p bytes x) := by
  unfold ethSend
  exact emit_keeps (updPortCtr_keeps h)

theorem ethDiscard_keeps {s0 s : State} {p : Nat} (h : Keeps s0 s) : Keeps s0 (ethDiscard s p) := by
  unfold ethDiscard
  exact updPortCtr_keeps h

theorem onIface_keeps {s0 s : State} {p i : Nat} {f : State → State} (h : Keeps s0 s) (h3 : ∀ b0, Keeps b0 (f b0)) :
    Keeps s0 (onIface s p i f) := by
  unfold onIface
  exact keeps_ite (Keeps.trans h (h3 _)) h

theorem onFrame_keeps {s0 s : State} {p i : Nat} {e : EthHead} {f : State → State} (h : Keeps s0 s) (h4 : ∀ b0,
    Keeps b0 (f b0)) : Keeps s0 (onFrame s p i e f) := by
  unfold onFrame
  exact onIface_keeps h (fun _ => keeps_ite (Keeps.trans (updPortCtr_keeps Keeps.rfl) (h4 _)) (ethDiscard_keeps
    Keeps.rfl))

theorem execArpRequest_keeps {s0 : State} {p i : Nat} {eth : EthHead} {askMac askIp targetIp : Nat} {s : State} (h
    : Keeps s0 s) : KeepsR s0 (execArpRequest p i eth askMac askIp targetIp s) := by
  unfold execArpRequest
  exact keeps_next (onFrame_keeps h (fun _ => keeps_ite (ethSend_keeps Keeps.rfl) (ethDiscard_keeps Keeps.rfl)))

theorem execNeighbourSolicitation_keeps {s0 : State} {p i : Nat} {eth : EthHead} {askMac askIp targetIp : Nat} {s :
    State} (h : Keeps s0 s) : KeepsR s0 (execNeighbourSolicitation p i eth askMac askIp targetIp s) := by
  unfold execNeighbourSolicitation
  exact keeps_next (onFrame_keeps h (fun _ => keeps_ite (ethSend_keeps Keeps.rfl) (ethDiscard_keeps Keeps.rfl)))

theorem execIcmpEchoRequest_keeps {s0 : State} {p i : Nat} {eth : EthHead} {a3 : Bool} {askMac askIp targetIp :
    Nat} {data : List Byte} {s : State} (h : Keeps s0 s) : KeepsR s0 (execIcmpEchoRequest p i eth a3 askMac askIp
    targetIp data s) := by
  unfold execIcmpEchoRequest
  exact keeps_next (onFrame_keeps h (fun _ => keeps_ite (ethSend_keeps Keeps.rfl) (ethDiscard_keeps Keeps.rfl)))

theorem execEthFrameDiscard_keeps {s0 : State} {p i : Nat} {s : State} (h : Keeps s0 s) :
    KeepsR s0 (execEthFrameDiscard p i s) := by
  unfold execEthFrameDiscard
  exact keeps_next (onIface_keeps h (fun _ => ethDiscard_keeps Keeps.rfl))

theorem execGatewayResolve_keeps {s0 : State} {p i : Nat} {s : State} (h : Keeps s0 s) :
    KeepsR s0 (execGatewayResolve p i s) := by
  unfold execGatewayResolve
  refine keeps_next ?_
  refine onIface_keeps h (fun v1 => ?_)
  extract_lets -underBinder -merge -useContext +onlyGivenNames x2 s3
  have k4 : Keeps v1 s3 := keeps_ite (ethSend_keeps Keeps.rfl) Keeps.rfl
  clear_value s3
  exact keeps_ite (ethSend_keeps k4) k4

theorem execGatewayResolutionReply_keeps {s0 : State} {p i : Nat} {eth : EthHead} {a3 : Bool} {ip mac : Nat} {s :
    State} (h : Keeps s0 s) : KeepsR s0 (execGatewayResolutionReply p i eth a3 ip mac s) := by
  unfold execGatewayResolutionReply
  exact keeps_next (onFrame_keeps h (fun _ => keeps_ite (updPort_keeps Keeps.rfl) (ethDiscard_keeps Keeps.rfl)))

theorem ingressDrop_keeps {s0 s : State} {p : Nat} (h : Keeps s0 s) : Keeps s0 (ingressDrop s p) := by
  unfold ingressDrop
  exact updPortCtr_keeps h

theorem execUdpDatagramRx_keeps {s0 : State} {p i : Nat} {eth : EthHead} {g : Datagram} {s : State} (h : Keeps s0
    s) : KeepsR s0 (execUdpDatagramRx p i eth g s) := by
  unfold execUdpDatagramRx
  refine keeps_next ?_
  refine onFrame_keeps h (fun v1 => ?_)
  refine keeps_ite ?_ ?_
  · exact ethDiscard_keeps Keeps.rfl
  · extract_lets -underBinder -merge -useContext +onlyGivenNames x2 s3
    have k4 : Keeps v1 s3 := updPort_keeps Keeps.rfl
    clear_value s3
    exact keeps_ite (ingressDrop_keeps k4) (updPort_keeps k4)

theorem egressNak_keeps {s0 s : State} {p : Nat} {k : Packet} {reason : Nat} (h : Keeps s0 s) :
    Keeps s0 (egressNak s p k reason) := by
  unfold egressNak
  exact bridgeSend_keeps h

theorem sendDatagram_keeps {s0 s : State} {p : Nat} {x : Partial} (h : Keeps s0 s) :
    Keeps s0 (sendDatagram s p x) := by
  unfold sendDatagram
  extract_lets -underBinder -merge -useContext +onlyGivenNames x1 x2
  split
  · exact ethSend_keeps h
  · exact updPortCtr_keeps h

theorem takeSegment_keeps {s0 s : State} {p : Nat} {k : Packet} {x : Partial} {seg : Nat} {data : List Byte} (h :
    Keeps s0 s) : Keeps s0 (takeSegment s p k x seg data) := by
  unfold takeSegment
  extract_lets -underBinder -merge -useContext +onlyGivenNames s1 x2 x3
  have k4 : Keeps s0 s1 := keeps_ite (bridgeSend_keeps h) h
  clear_value s1
  exact keeps_ite (sendDatagram_keeps (updPort_keeps k4)) (updPort_keeps k4)

theorem egressMessage_keeps {s0 s : State} {p : Nat} {k : Packet} (h : Keeps s0 s) :
    Keeps s0 (egressMessage s p k) := by
  unfold egressMessage
  extract_lets -underBinder -merge -useContext +onlyGivenNames x1 x2 x3
  refine keeps_ite ?_ ?_
  · exact egressNak_keeps h
  · split
    · exact takeSegment_keeps h
    · exact keeps_ite (egressNak_keeps h) (takeSegment_keeps h)

theorem ingressNak_keeps {s0 s : State} {p : Nat} {k : Packet} (h : Keeps s0 s) : Keeps s0 (ingressNak s p k) := by
  unfold ingressNak
  extract_lets -underBinder -merge -useContext +onlyGivenNames x1
  split
  · exact h
  · exact keeps_ite h (ingressDrop_keeps (updPort_keeps h))

theorem execEgressSegment_keeps {s0 : State} {p : Nat} {s : State} (h : Keeps s0 s) :
    KeepsR s0 (execEgressSegment p s) := by
  unfold execEgressSegment
  refine keeps_next ?_
  refine keeps_ite ?_ ?_
  · exact h
  · split
    · exact h
    · extract_lets -underBinder -merge -useContext +onlyGivenNames s1
      have k2 : Keeps s0 s1 := updPort_keeps h
      clear_value s1
      exact keeps_ite (egressMessage_keeps k2) (keeps_ite (ingressNak_keeps k2) (keeps_ite (egressNak_keeps k2)
        (countDiscard_keeps k2)))

theorem execEgressReassemblyTimeout_keeps {s0 : State} {p n : Nat} {s : State} (h : Keeps s0 s) :
    KeepsR s0 (execEgressReassemblyTimeout p n s) := by
  unfold execEgressReassemblyTimeout
  refine keeps_next ?_
  refine keeps_ite ?_ ?_
  · extract_lets -underBinder -merge -useContext +onlyGivenNames s1
    have k2 : Keeps s0 s1 := updPort_keeps h
    clear_value s1
    exact updPortCtr_keeps k2
  · exact h

end Sys2Proof.Laws
end

