-- ==== Sys2Proof/Laws/KeepsTimebase.lean ====
section
/-! SUPPORT. Every operation of Machine/Timebase.lean keeps what Laws/Keeps.lean says: one lemma each, by the shape of its body. -/

namespace Sys2Proof.Laws

open Sys2Proof.Machine

theorem stepTb_keeps {s0 s : State} {new : Nat} (h : Keeps s0 s) : Keeps s0 (stepTb s new) := by
  unfold stepTb
  exact logEvent_keeps (keeps_mk h (.map (fun _ => Eq.refl _) .rfl) .rfl .rfl .rfl (List.prefix_refl _)
    (Nat.le_refl _))

theorem leaveHoldover_keeps {s0 s : State} (h : Keeps s0 s) : Keeps s0 (leaveHoldover s) := by
  unfold leaveHoldover
  exact keeps_ite (logEvent_keeps (keeps_mk h .rfl .rfl .rfl .rfl (List.prefix_refl _) (Nat.le_refl _))) h

theorem discipline_keeps {s0 s : State} {offset : ℤ} (h : Keeps s0 s) : Keeps s0 (discipline s offset) := by
  unfold discipline
  extract_lets -underBinder -merge -useContext +onlyGivenNames s1 x2 x3 s4 x5
  have k6 : Keeps s0 s1 := leaveHoldover_keeps h
  clear_value s1
  have k7 : Keeps s0 s4 := keeps_mk k6 .rfl .rfl .rfl .rfl (List.prefix_refl _) (Nat.le_refl _)
  clear_value s4
  exact keeps_ite (stepTb_keeps k7) (keeps_mk k7 .rfl .rfl .rfl .rfl (List.prefix_refl _) (Nat.le_refl _))

theorem execTbResync_keeps {s0 : State} {p : Nat} {skew : ℤ} {s : State} (h : Keeps s0 s) :
    KeepsR s0 (execTbResync p skew s) := by
  unfold execTbResync
  exact keeps_next (keeps_ite (updRegion_keeps h) h)

theorem execTbReferenceMeasure_keeps {s0 : State} {offset : ℤ} {s : State} (h : Keeps s0 s) :
    KeepsR s0 (execTbReferenceMeasure offset s) := by
  unfold execTbReferenceMeasure
  exact keeps_next (keeps_ite (discipline_keeps h) h)

theorem execTbHoldover_keeps {s0 s : State} (h : Keeps s0 s) : KeepsR s0 (execTbHoldover s) := by
  unfold execTbHoldover
  exact keeps_next (keeps_ite (setAlert_keeps (logEvent_keeps (keeps_mk h .rfl .rfl .rfl .rfl (List.prefix_refl _)
    (Nat.le_refl _)))) h)

theorem execPpsEdge_keeps {s0 s : State} (h : Keeps s0 s) : KeepsR s0 (execPpsEdge s) := by
  unfold execPpsEdge
  exact keeps_next (keeps_ite h (discipline_keeps (keeps_mk h .rfl .rfl .rfl .rfl (List.prefix_refl _) (Nat.le_refl
    _))))

theorem ptpSynced_keeps {s0 s : State} {port a2 a3 : Nat} (h : Keeps s0 s) : Keeps s0 (ptpSynced s port a2 a3) := by
  unfold ptpSynced
  exact emit_keeps (keeps_mk h .rfl .rfl .rfl .rfl (List.prefix_refl _) (Nat.le_refl _))

theorem execPtpMessage_keeps {s0 : State} {port : Nat} {m : PtpMsg} {s : State} (h : Keeps s0 s) :
    KeepsR s0 (execPtpMessage port m s) := by
  unfold execPtpMessage
  refine keeps_next ?_
  refine keeps_ite ?_ ?_
  · exact h
  · split
    · exact keeps_ite (keeps_mk h .rfl .rfl .rfl .rfl (List.prefix_refl _) (Nat.le_refl _)) (ptpSynced_keeps h)
    · split
      · exact keeps_ite (ptpSynced_keeps h) h
      · exact h
    · split
      · exact keeps_ite (discipline_keeps (keeps_mk h .rfl .rfl .rfl .rfl (List.prefix_refl _) (Nat.le_refl _))) h
      · exact h
    · exact h

theorem execPpsOutPulse_keeps {s0 s : State} (h : Keeps s0 s) : KeepsR s0 (execPpsOutPulse s) := by
  unfold execPpsOutPulse
  exact keeps_next (keeps_ite (keeps_mk h .rfl .rfl .rfl .rfl (List.prefix_refl _) (Nat.le_refl _)) h)

theorem execTimeBlockTx_keeps {s0 : State} {p : Nat} {s : State} (h : Keeps s0 s) :
    KeepsR s0 (execTimeBlockTx p s) := by
  unfold execTimeBlockTx
  exact keeps_next (keeps_ite h (emit_keeps h))

theorem execTimeBlockRx_keeps {s0 : State} {p : Nat} {block : List Byte} {s : State} (h : Keeps s0 s) :
    KeepsR s0 (execTimeBlockRx p block s) := by
  unfold execTimeBlockRx
  refine keeps_next ?_
  refine onBlock_keeps h (fun v1 => ?_)
  extract_lets -underBinder -merge -useContext +onlyGivenNames x2 x3 x4 x5 s6
  have k7 : Keeps v1 s6 := updPort_keeps Keeps.rfl
  clear_value s6
  exact keeps_ite (discipline_keeps k7) k7

theorem tick_keeps {s0 s : State} (h : Keeps s0 s) : Keeps s0 (tick s) := by
  unfold tick
  refine keeps_ite ?_ ?_
  · exact h
  · extract_lets -underBinder -merge -useContext +onlyGivenNames s1 x2 x3 x4 x5
    have k6 : Keeps s0 s1 := rimMove_keeps (keeps_foldl (fun _ _ => settleBorrow_keeps Keeps.rfl) h)
    clear_value s1
    exact keeps_mk k6 .rfl .rfl .rfl .rfl (List.prefix_refl _) (Nat.le_refl _)

theorem updTimed_keeps {s0 s : State} {n : Nat} {f : TimedSlot → TimedSlot} (h : Keeps s0 s) :
    Keeps s0 (updTimed s n f) := by
  unfold updTimed
  exact keeps_mk h .rfl .rfl .rfl .rfl (List.prefix_refl _) (Nat.le_refl _)

theorem armSlot_keeps {s0 s : State} {src n : Nat} (h : Keeps s0 s) : Keeps s0 (armSlot s src n) := by
  unfold armSlot
  exact keeps_ite h (updTimed_keeps (keeps_mk h .rfl .rfl .rfl .rfl (List.prefix_refl _) (Nat.le_refl _)))

theorem cancelSlot_keeps {s0 s : State} {n : Nat} (h : Keeps s0 s) : Keeps s0 (cancelSlot s n) := by
  unfold cancelSlot
  exact keeps_ite (updTimed_keeps h) h

theorem giveAction_keeps {s0 s : State} {n : Nat} {ps : List Nat} (h : Keeps s0 s) :
    Keeps s0 (giveAction s n ps) := by
  unfold giveAction
  extract_lets -underBinder -merge -useContext +onlyGivenNames x1 s2
  have k3 : Keeps s0 s2 := keeps_foldl (fun _ _ => updRegion_keeps Keeps.rfl) h
  clear_value s2
  exact updTimed_keeps (eyepieceBroadcast_keeps k3)

theorem armInternal_keeps {s0 s : State} {n t op : Nat} {ps : List Nat} (h : Keeps s0 s) :
    Keeps s0 (armInternal s n t op ps) := by
  unfold armInternal
  exact giveAction_keeps (updTimed_keeps h)

theorem execTimedActionDistribute_keeps {s0 : State} {slot : Nat} {s : State} (h : Keeps s0 s) :
    KeepsR s0 (execTimedActionDistribute slot s) := by
  unfold execTimedActionDistribute
  exact keeps_next (keeps_ite (giveAction_keeps h) h)

end Sys2Proof.Laws
end

