-- ==== Sys2Proof/Laws/KeepsStreams.lean ====
section
/-! SUPPORT. Every operation of Machine/Streams.lean keeps what Laws/Keeps.lean says: one lemma each, by the shape of its body. -/

namespace Sys2Proof.Laws

open Sys2Proof.Machine

theorem grpSend_keeps {s0 s : State} {c : Client} {frame : List Byte} (h : Keeps s0 s) :
    Keeps s0 (grpSend s c frame) := by
  unfold grpSend
  split
  · exact keeps_foldl (fun _ _ => queueOut_keeps Keeps.rfl) (keeps_mk h .rfl .rfl .rfl .rfl (List.prefix_refl _)
      (Nat.le_refl _))
  · exact h

theorem countError_keeps {s0 s : State} (h : Keeps s0 s) : Keeps s0 (countError s) := by
  unfold countError
  exact keeps_mk h .rfl .rfl .rfl .rfl (List.prefix_refl _) (Nat.le_refl _)

theorem sendError_keeps {s0 s : State} {c : Client} {reqId code : Nat} {stream sent : Nat} (h : Keeps s0 s) :
    Keeps s0 (sendError s c reqId code stream sent) := by
  unfold sendError
  exact countError_keeps (grpSend_keeps h)

theorem eyepieceError_keeps {s0 s : State} {c : Client} {reqId code : Nat} {stream sent : Nat} (h : Keeps s0 s) :
    Keeps s0 (eyepieceError s c reqId code stream sent) := by
  unfold eyepieceError
  exact countError_keeps (emit_keeps h)

theorem sendAccept_keeps {s0 s : State} {x : Stream} {qpos : Nat} (h : Keeps s0 s) :
    Keeps s0 (sendAccept s x qpos) := by
  unfold sendAccept
  exact grpSend_keeps h

theorem sendToken_keeps {s0 s : State} {x : Stream} {index token : Nat} {reason stamp : Nat} (h : Keeps s0 s) :
    Keeps s0 (sendToken s x index token reason stamp) := by
  unfold sendToken
  extract_lets -underBinder -merge -useContext +onlyGivenNames s1 x2
  have k3 : Keeps s0 s1 := grpSend_keeps h
  clear_value s1
  exact keeps_mk k3 .rfl .rfl .rfl .rfl (List.prefix_refl _) (Nat.le_refl _)

theorem discardFrame_keeps {s0 s : State} (h : Keeps s0 s) : Keeps s0 (discardFrame s) := by
  unfold discardFrame
  exact keeps_mk h .rfl .rfl .rfl .rfl (List.prefix_refl _) (Nat.le_refl _)

theorem updStream_keeps {s0 s : State} {id : Nat} {f : Stream → Stream} (h : Keeps s0 s) :
    Keeps s0 (updStream s id f) := by
  unfold updStream
  extract_lets -underBinder -merge -useContext +onlyGivenNames s1 x2
  have k3 : Keeps s0 s1 := tellStandby_keeps h
  clear_value s1
  exact keeps_mk k3 .rfl .rfl .rfl .rfl (List.prefix_refl _) (Nat.le_refl _)

theorem settleServing_keeps {s0 s : State} (h : Keeps s0 s) : Keeps s0 (settleServing s) := by
  unfold settleServing
  exact keeps_ite (enterState_keeps h) (keeps_ite (enterState_keeps h) h)

theorem settleStopping_keeps {s0 s : State} {m : Nat} (h : Keeps s0 s) : Keeps s0 (settleStopping s m) := by
  unfold settleStopping
  exact keeps_ite (settleServing_keeps (updModel_keeps h)) h

theorem endStream_keeps {s0 s : State} {x : Stream} (h : Keeps s0 s) : Keeps s0 (endStream s x) := by
  unfold endStream
  extract_lets -underBinder -merge -useContext +onlyGivenNames s1 x2
  have k3 : Keeps s0 s1 := tellStandby_keeps h
  clear_value s1
  exact settleStopping_keeps (keeps_mk k3 .rfl .rfl .rfl .rfl (List.prefix_refl _) (Nat.le_refl _))

theorem failStream_keeps {s0 s : State} {x : Stream} {code : Nat} (h : Keeps s0 s) :
    Keeps s0 (failStream s x code) := by
  unfold failStream
  exact endStream_keeps (sendError_keeps h)

theorem failSlot_keeps {s0 s : State} {m code : Nat} (h : Keeps s0 s) : Keeps s0 (failSlot s m code) := by
  unfold failSlot
  exact keeps_foldl (fun _ _ => failStream_keeps Keeps.rfl) h

theorem failRecorded_keeps {s0 s : State} {code : Nat} (h : Keeps s0 s) : Keeps s0 (failRecorded s code) := by
  unfold failRecorded
  extract_lets -underBinder -merge -useContext +onlyGivenNames s1 x2
  have k3 : Keeps s0 s1 := keeps_foldl (fun _ _ => eyepieceError_keeps Keeps.rfl) h
  clear_value s1
  exact keeps_mk k3 .rfl .rfl .rfl .rfl (List.prefix_refl _) (Nat.le_refl _)

theorem takeInbox_keeps {s0 s : State} {c : Client} {f : List Byte} (h : Keeps s0 s) :
    Keeps s0 (takeInbox s c f) := by
  unfold takeInbox
  exact keeps_mk h .rfl .rfl .rfl .rfl (List.prefix_refl _) (Nat.le_refl _)

theorem onGrp_keeps {s0 s : State} {c : Client} {f : List Byte} {typ : Nat} {ok : State → State} (h : Keeps s0 s)
    (h4 : ∀ b0, Keeps b0 (ok b0)) : Keeps s0 (onGrp s c f typ ok) := by
  unfold onGrp
  refine keeps_ite ?_ ?_
  · exact h
  · extract_lets -underBinder -merge -useContext +onlyGivenNames s1
    have k2 : Keeps s0 s1 := takeInbox_keeps h
    clear_value s1
    exact keeps_ite (discardFrame_keeps k2) (keeps_ite (discardFrame_keeps k2) (keeps_ite (sendError_keeps k2)
      (keeps_ite (sendError_keeps k2) (Keeps.trans k2 (h4 _)))))

theorem currentAccept_keeps {s0 s : State} {x : Stream} (h : Keeps s0 s) : Keeps s0 (currentAccept s x) := by
  unfold currentAccept
  exact sendAccept_keeps h

theorem queueStream_keeps {s0 s : State} {x : Stream} (h : Keeps s0 s) : Keeps s0 (queueStream s x) := by
  unfold queueStream
  extract_lets -underBinder -merge -useContext +onlyGivenNames x1 s2 x3 s4
  have k5 : Keeps s0 s2 := tellStandby_keeps h
  clear_value s2
  have k6 : Keeps s0 s4 := keeps_mk k5 .rfl .rfl .rfl .rfl (List.prefix_refl _) (Nat.le_refl _)
  clear_value s4
  exact currentAccept_keeps k6

theorem execGrpRequest_keeps {s0 : State} {c : Client} {frame : List Byte} {s : State} (h : Keeps s0 s) :
    KeepsR s0 (execGrpRequest c frame s) := by
  unfold execGrpRequest
  refine keeps_next ?_
  refine onGrp_keeps h (fun v1 => ?_)
  extract_lets -underBinder -merge -useContext +onlyGivenNames x2 x3 x4 x5 x6 x7
  have k8 : ∀ a0, Keeps v1 (x7 a0) := by
    intro a0
    exact sendError_keeps Keeps.rfl
  clear_value x7
  split
  · exact keeps_ite (discardFrame_keeps Keeps.rfl) (currentAccept_keeps Keeps.rfl)
  · refine keeps_ite ?_ ?_
    · exact k8 _
    · refine keeps_ite ?_ ?_
      · exact k8 _
      · refine keeps_ite ?_ ?_
        · exact k8 _
        · refine keeps_ite ?_ ?_
          · exact k8 _
          · extract_lets -underBinder -merge -useContext +onlyGivenNames x9 x10 s11
            have k12 : Keeps v1 s11 := keeps_mk Keeps.rfl .rfl .rfl .rfl .rfl (List.prefix_refl _) (Nat.le_refl _)
            clear_value s11
            exact keeps_ite (queueStream_keeps k12) k12

theorem execGrpPromptMore_keeps {s0 : State} {c : Client} {frame : List Byte} {s : State} (h : Keeps s0 s) :
    KeepsR s0 (execGrpPromptMore c frame s) := by
  unfold execGrpPromptMore
  refine keeps_next ?_
  refine onGrp_keeps h (fun v1 => ?_)
  extract_lets -underBinder -merge -useContext +onlyGivenNames x2 x3
  split
  · exact discardFrame_keeps Keeps.rfl
  · refine keeps_ite ?_ ?_
    · exact discardFrame_keeps Keeps.rfl
    · refine keeps_ite ?_ ?_
      · exact sendError_keeps Keeps.rfl
      · refine keeps_ite ?_ ?_
        · exact sendError_keeps Keeps.rfl
        · refine keeps_ite ?_ ?_
          · exact discardFrame_keeps Keeps.rfl
          · extract_lets -underBinder -merge -useContext +onlyGivenNames x4 x5 s6
            have k7 : Keeps v1 s6 := updStream_keeps Keeps.rfl
            clear_value s6
            exact keeps_ite (queueStream_keeps k7) k7

theorem execGrpCancel_keeps {s0 : State} {c : Client} {frame : List Byte} {s : State} (h : Keeps s0 s) :
    KeepsR s0 (execGrpCancel c frame s) := by
  unfold execGrpCancel
  refine keeps_next ?_
  refine onGrp_keeps h (fun v1 => ?_)
  split
  · exact failStream_keeps Keeps.rfl
  · exact sendError_keeps Keeps.rfl

theorem execGrpResend_keeps {s0 : State} {c : Client} {frame : List Byte} {s : State} (h : Keeps s0 s) :
    KeepsR s0 (execGrpResend c frame s) := by
  unfold execGrpResend
  refine keeps_next ?_
  refine onGrp_keeps h (fun v1 => ?_)
  extract_lets -underBinder -merge -useContext +onlyGivenNames x2
  split
  · exact sendError_keeps Keeps.rfl
  · extract_lets -underBinder -merge -useContext +onlyGivenNames x3 x4 s5
    have k6 : Keeps v1 s5 := keeps_ite (sendError_keeps Keeps.rfl) Keeps.rfl
    clear_value s5
    exact keeps_foldl (fun _ _ => sendToken_keeps Keeps.rfl) k6

theorem execGrpPing_keeps {s0 : State} {c : Client} {frame : List Byte} {s : State} (h : Keeps s0 s) :
    KeepsR s0 (execGrpPing c frame s) := by
  unfold execGrpPing
  exact keeps_next (onGrp_keeps h (fun _ => keeps_ite (sendError_keeps Keeps.rfl) (grpSend_keeps Keeps.rfl)))

theorem execPromptTimeout_keeps {s0 : State} {stream : Nat} {s : State} (h : Keeps s0 s) :
    KeepsR s0 (execPromptTimeout stream s) := by
  unfold execPromptTimeout
  refine keeps_next ?_
  split
  · exact keeps_ite (failStream_keeps h) h
  · exact h

theorem startMessage_keeps {s0 s : State} {m inst : Nat} (h : Keeps s0 s) : Keeps s0 (startMessage s m inst) := by
  unfold startMessage
  split
  · exact noteTo_keeps h
  · exact h

theorem execStreamAdmit_keeps {s0 : State} {m : Nat} {s : State} (h : Keeps s0 s) :
    KeepsR s0 (execStreamAdmit m s) := by
  unfold execStreamAdmit
  refine keeps_next ?_
  refine keeps_ite ?_ ?_
  · exact h
  · extract_lets -underBinder -merge -useContext +onlyGivenNames x1 x2 x3
    clear_value x3
    clear_value x2
    split
    · exact startMessage_keeps (sendAccept_keeps (updStream_keeps h))
    · exact h

theorem chunksPass_keeps {s0 s : State} {m inst n : Nat} (h : Keeps s0 s) : Keeps s0 (chunksPass s m inst n) := by
  unfold chunksPass
  extract_lets -underBinder -merge -useContext +onlyGivenNames x1 s2 x3
  have k4 : Keeps s0 s2 := tellStandby_keeps h
  clear_value s2
  exact keeps_mk k4 .rfl .rfl .rfl .rfl (List.prefix_refl _) (Nat.le_refl _)

theorem chunkPasses_keeps {s0 s : State} {m inst : Nat} (h : Keeps s0 s) : Keeps s0 (chunkPasses s m inst) := by
  unfold chunkPasses
  split
  · exact h
  · exact chunksPass_keeps h

theorem execPrefillChunkInject_keeps {s0 : State} {m inst : Nat} {s : State} (h : Keeps s0 s) :
    KeepsR s0 (execPrefillChunkInject m inst s) := by
  unfold execPrefillChunkInject
  refine keeps_next ?_
  refine keeps_ite ?_ ?_
  · exact h
  · extract_lets -underBinder -merge -useContext +onlyGivenNames x1
    refine keeps_ite ?_ ?_
    · exact h
    · split
      · exact h
      · extract_lets -underBinder -merge -useContext +onlyGivenNames s2 x3 x4
        have k5 : Keeps s0 s2 := keeps_ite (chunkPasses_keeps h) h
        clear_value s2
        exact updStream_keeps (keeps_mk k5 .rfl .rfl .rfl .rfl (List.prefix_refl _) (Nat.le_refl _))

theorem execDecodeTokenInject_keeps {s0 : State} {m inst : Nat} {s : State} (h : Keeps s0 s) :
    KeepsR s0 (execDecodeTokenInject m inst s) := by
  unfold execDecodeTokenInject
  refine keeps_next ?_
  refine keeps_ite ?_ ?_
  · exact h
  · split
    · exact h
    · exact startMessage_keeps (updStream_keeps h)

theorem streamToken_keeps {s0 s : State} {x : Stream} {token : Nat} (h : Keeps s0 s) :
    Keeps s0 (streamToken s x token) := by
  unfold streamToken
  extract_lets -underBinder -merge -useContext +onlyGivenNames s1 x2 x3 s4 s5
  have k6 : Keeps s0 s1 := by
    unfold s1
    split
    · exact chunksPass_keeps h
    · exact h
  clear_value s1
  have k7 : Keeps s0 s4 := updStream_keeps k6
  clear_value s4
  have k8 : Keeps s0 s5 := keeps_ite (sendToken_keeps k7) k7
  clear_value s5
  exact keeps_ite (endStream_keeps k8) k8

theorem tokenMessage_keeps {s0 s : State} {g : Bundle} (h : Keeps s0 s) : Keeps s0 (tokenMessage s g) := by
  unfold tokenMessage
  split
  · exact noteTo_keeps h
  · exact h

theorem execTokenSampled_keeps {s0 : State} {m stream : Nat} {source : TokenSource} {s : State} (h : Keeps s0 s) :
    KeepsR s0 (execTokenSampled m stream source s) := by
  unfold execTokenSampled
  refine keeps_next ?_
  refine keeps_ite ?_ ?_
  · exact h
  · extract_lets -underBinder -merge -useContext +onlyGivenNames x1
    refine keeps_ite ?_ ?_
    · split
      · exact tokenMessage_keeps h
      · exact h
    · split
      · exact h
      · extract_lets -underBinder -merge -useContext +onlyGivenNames x2
        refine keeps_ite ?_ ?_
        · exact h
        · split
          · exact keeps_ite (streamToken_keeps h) h
          · exact keeps_ite (streamToken_keeps h) h

end Sys2Proof.Laws
end

