-- ==== Sys2Proof/Laws/KeepsTransitions.lean ====
section
/-! SUPPORT. Every operation of Machine/Transitions.lean keeps what Laws/Keeps.lean says: one lemma each, by the shape of its body. -/

namespace Sys2Proof.Laws

open Sys2Proof.Machine

theorem stopRuntime_keeps {s0 s : State} (h : Keeps s0 s) : Keeps s0 (stopRuntime s) := by
  unfold stopRuntime
  exact keeps_mk h (.map (fun _ => Eq.refl _) .rfl) .rfl .rfl .rfl (List.prefix_refl _) (Nat.le_refl _)

theorem dropRecovery_keeps {s0 s : State} (h : Keeps s0 s) : Keeps s0 (dropRecovery s) := by
  unfold dropRecovery
  exact keeps_mk h .rfl (.map (fun _ => Eq.refl _) .rfl) .rfl .rfl (List.prefix_refl _) (Nat.le_refl _)

theorem sendOwed_keeps {s0 s : State} (h : Keeps s0 s) : Keeps s0 (sendOwed s) := by
  unfold sendOwed
  extract_lets -underBinder -merge -useContext +onlyGivenNames s1 x2
  have k3 : Keeps s0 s1 := keeps_foldl (fun _ _ => eyepieceError_keeps Keeps.rfl) h
  clear_value s1
  exact keeps_mk k3 .rfl .rfl .rfl .rfl (List.prefix_refl _) (Nat.le_refl _)

theorem announceDown_keeps {s0 s : State} (h : Keeps s0 s) : Keeps s0 (announceDown s) := by
  unfold announceDown
  exact keeps_ite (keeps_mk h .rfl .rfl .rfl .rfl (List.prefix_refl _) (Nat.le_refl _)) (keeps_ite
    (failRecorded_keeps h) (keeps_mk h .rfl .rfl .rfl .rfl (List.prefix_refl _) (Nat.le_refl _)))

theorem idlePorts_keeps {s0 s : State} (h : Keeps s0 s) : Keeps s0 (idlePorts s) := by
  unfold idlePorts
  exact keeps_foldl (fun _ _ => keeps_ite (setPort_keeps Keeps.rfl) Keeps.rfl) h

theorem idleLanes_keeps {s0 s : State} (h : Keeps s0 s) : Keeps s0 (idleLanes s) := by
  unfold idleLanes
  exact keeps_foldl (fun _ _ => keeps_ite (setPort_keeps Keeps.rfl) Keeps.rfl) h

theorem trainPorts_keeps {s0 s : State} (h : Keeps s0 s) : Keeps s0 (trainPorts s) := by
  unfold trainPorts
  exact keeps_foldl (fun _ _ => keeps_ite (startTraining_keeps Keeps.rfl) Keeps.rfl) h

theorem closeHot_keeps {s0 s : State} (h : Keeps s0 s) : Keeps s0 (closeHot s) := by
  unfold closeHot
  split
  · exact h
  · exact keeps_mk h .rfl .rfl .rfl .rfl (List.prefix_refl _) (Nat.le_refl _)

theorem allOff_keeps {s0 s : State} (h : Keeps s0 s) : Keeps s0 (allOff s) := by
  unfold allOff
  exact closeHot_keeps (stagesOff_keeps (dropRecovery_keeps (stopRuntime_keeps h)))

theorem endHold_keeps {s0 s : State} (h : Keeps s0 s) : Keeps s0 (endHold s) := by
  unfold endHold
  exact keeps_mk h .rfl .rfl .rfl .rfl (List.prefix_refl _) (Nat.le_refl _)

theorem enterKeepAlive_keeps {s0 s : State} (h : Keeps s0 s) : Keeps s0 (enterKeepAlive s) := by
  unfold enterKeepAlive
  exact idlePorts_keeps (enterState_keeps (allOff_keeps (announceDown_keeps (endHold_keeps h))))

theorem enterFault_keeps {s0 s : State} (h : Keeps s0 s) : Keeps s0 (enterFault s) := by
  unfold enterFault
  exact enterState_keeps (allOff_keeps (announceDown_keeps (endHold_keeps h)))

theorem readRoutes_keeps {s0 s : State} (h : Keeps s0 s) : Keeps s0 (readRoutes s) := by
  unfold readRoutes
  exact keeps_mk h .rfl .rfl .rfl .rfl (List.prefix_refl _) (Nat.le_refl _)

theorem auxScan_keeps {s0 s : State} (h : Keeps s0 s) : Keeps s0 (auxScan s) := by
  unfold auxScan
  extract_lets -underBinder -merge -useContext +onlyGivenNames x1 s2 s3 x4
  have k5 : Keeps s0 s2 := keeps_mk h .rfl .rfl .rfl (.same rfl rfl rfl rfl) (List.prefix_refl _) (Nat.le_refl _)
  clear_value s2
  have k6 : Keeps s0 s3 := readRoutes_keeps (scanStore_keeps (keeps_ite k5 (compact_keeps k5)))
  clear_value s3
  exact keeps_mk k6 .rfl .rfl .rfl .rfl (List.prefix_refl _) (Nat.le_refl _)

theorem setUpdate_keeps {s0 s : State} {n reason : Nat} (h : Keeps s0 s) : Keeps s0 (setUpdate s n reason) := by
  unfold setUpdate
  extract_lets -underBinder -merge -useContext +onlyGivenNames x1 s2
  have k3 : Keeps s0 s2 := keeps_mk h .rfl .rfl .rfl (.same rfl rfl rfl rfl) (List.prefix_refl _) (Nat.le_refl _)
  clear_value s2
  exact logEvent_keeps k3

theorem eraseImage_keeps {s0 s : State} {f : Nat} (h : Keeps s0 s) : Keeps s0 (eraseImage s f) := by
  unfold eraseImage
  exact keeps_mk h .rfl .rfl .rfl (by split <;> exact .same rfl rfl rfl rfl) (List.prefix_refl _) (Nat.le_refl _)

theorem dropUpdate_keeps {s0 s : State} (h : Keeps s0 s) : Keeps s0 (dropUpdate s) := by
  unfold dropUpdate
  exact keeps_ite h (setUpdate_keeps (eraseImage_keeps h))

theorem endUnlock_keeps {s0 s : State} (h : Keeps s0 s) : Keeps s0 (endUnlock s) := by
  unfold endUnlock
  exact keeps_ite h (logEvent_keeps (keeps_mk h .rfl .rfl .rfl (.same rfl rfl rfl rfl) (List.prefix_refl _)
    (Nat.le_refl _)))

theorem sampleStraps_keeps {s0 s : State} {x : Straps} (h : Keeps s0 s) : Keeps s0 (sampleStraps s x) := by
  unfold sampleStraps
  extract_lets -underBinder -merge -useContext +onlyGivenNames x1 s2 x3 s4
  have k5 : Keeps s0 s2 := keeps_ite h (keeps_mk h .rfl .rfl .rfl .rfl (List.prefix_refl _) (Nat.le_refl _))
  clear_value s2
  have k6 : Keeps s0 s4 := keeps_mk k5 .rfl .rfl .rfl .rfl (List.prefix_refl _) (Nat.le_refl _)
  exact keeps_ite (logEvent_keeps k6) k6

theorem enterAux_keeps {s0 s : State} {x : Straps} (h : Keeps s0 s) : Keeps s0 (enterAux s x) := by
  unfold enterAux
  extract_lets -underBinder -merge -useContext +onlyGivenNames x1 x2 x3 s4 s5
  have k6 : Keeps s0 s4 := endHold_keeps (keeps_mk h .rfl .rfl .rfl .rfl (List.prefix_refl _) (Nat.le_refl _))
  clear_value s4
  have k7 : Keeps s0 s5 := enterState_keeps (allOff_keeps k6)
  clear_value s5
  exact sampleStraps_keeps (auxScan_keeps (idlePorts_keeps k7))

theorem toOff_keeps {s0 s : State} (h : Keeps s0 s) : Keeps s0 (toOff s) := by
  unfold toOff
  extract_lets -underBinder -merge -useContext +onlyGivenNames s1
  have k2 : Keeps s0 s1 := closeHot_keeps h
  clear_value s1
  exact keeps_mk k2 .nil .nil .nil (.same rfl rfl rfl rfl) (List.prefix_refl _) (Nat.le_refl _)

theorem settleFenced_keeps {s0 s : State} (h : Keeps s0 s) : Keeps s0 (settleFenced s) := by
  unfold settleFenced
  exact keeps_foldl (fun _ _ => keeps_ite (markDead_keeps (dropRegion_keeps Keeps.rfl)) (keeps_ite (updRegion_keeps
    (dropRegion_keeps Keeps.rfl)) Keeps.rfl)) h

theorem dropUnnamed_keeps {s0 s : State} (h : Keeps s0 s) : Keeps s0 (dropUnnamed s) := by
  unfold dropUnnamed
  exact keeps_foldl (fun _ _ => keeps_ite (setPort_keeps Keeps.rfl) Keeps.rfl) h

theorem beginBringup_keeps {s0 s : State} {k : ResetKind} (h : Keeps s0 s) : Keeps s0 (beginBringup s k) := by
  unfold beginBringup
  extract_lets -underBinder -merge -useContext +onlyGivenNames x1 x2 s3 s4 s5 s6 x7 x8 x9 x10 x11
  have k12 : Keeps s0 s3 := endUnlock_keeps (dropUpdate_keeps (dropRecovery_keeps (stopRuntime_keeps h)))
  clear_value s3
  have k13 : Keeps s0 s4 := keeps_ite (closeHot_keeps (stagesOff_keeps k12)) (settleFenced_keeps k12)
  clear_value s4
  have k14 : Keeps s0 s5 := enterState_keeps k13
  clear_value s5
  have k15 : Keeps s0 s6 := idlePorts_keeps k14
  clear_value s6
  exact dropUnnamed_keeps (compileRoutes_keeps (keeps_mk k15 (.map (fun _ => Eq.refl _) .rfl) .rfl .rfl (.same rfl
    rfl rfl rfl) (List.prefix_refl _) (Nat.le_add_right _ _)))

theorem performReset_keeps {s0 s : State} {k : ResetKind} (h : Keeps s0 s) : Keeps s0 (performReset s k) := by
  unfold performReset
  exact beginBringup_keeps (failRecorded_keeps h)

theorem acceptReset_keeps {s0 s : State} {k : ResetKind} (h : Keeps s0 s) : Keeps s0 (acceptReset s k) := by
  unfold acceptReset
  extract_lets -underBinder -merge -useContext +onlyGivenNames x1 s2
  have k3 : Keeps s0 s2 := keeps_mk h .rfl .rfl .rfl .rfl (List.prefix_refl _) (Nat.le_refl _)
  clear_value s2
  split
  · exact h
  · exact keeps_ite k3 h
  · exact keeps_ite h (keeps_ite (performReset_keeps h) k3)
  · exact k3
  · exact keeps_ite (performReset_keeps h) k3
  · exact keeps_ite (performReset_keeps h) k3
  · exact keeps_ite (performReset_keeps h) k3
  · exact keeps_ite (performReset_keeps h) k3
  · exact keeps_ite (performReset_keeps h) k3

theorem enterSafeHold_keeps {s0 s : State} (h : Keeps s0 s) : Keeps s0 (enterSafeHold s) := by
  unfold enterSafeHold
  extract_lets -underBinder -merge -useContext +onlyGivenNames x1 s2 s3 x4 x5
  have k6 : Keeps s0 s2 := logAt_keeps h
  clear_value s2
  have k7 : Keeps s0 s3 := enterState_keeps k6
  clear_value s3
  exact keeps_mk k7 (.map (fun _ => Eq.refl _) .rfl) .rfl .rfl .rfl (List.prefix_refl _) (Nat.le_refl _)

theorem enterRecovering_keeps {s0 s : State} (h : Keeps s0 s) : Keeps s0 (enterRecovering s) := by
  unfold enterRecovering
  extract_lets -underBinder -merge -useContext +onlyGivenNames x1 s2 x3
  have k4 : Keeps s0 s2 := enterState_keeps h
  clear_value s2
  exact keeps_mk k4 .rfl .rfl .rfl .rfl (List.prefix_refl _) (Nat.le_refl _)

theorem takeCondition_keeps {s0 s : State} {c : Condition} (h : Keeps s0 s) : Keeps s0 (takeCondition s c) := by
  unfold takeCondition
  extract_lets -underBinder -merge -useContext +onlyGivenNames x1 s2
  have k3 : Keeps s0 s2 := keeps_mk h .rfl .rfl .rfl .rfl (List.prefix_refl _) (Nat.le_refl _)
  clear_value s2
  split
  · exact enterFault_keeps k3
  · exact enterSafeHold_keeps k3
  · exact enterKeepAlive_keeps k3
  · exact enterRecovering_keeps k3

theorem decideState_keeps {s0 s : State} (h : Keeps s0 s) : Keeps s0 (decideState s) := by
  unfold decideState
  split
  · exact takeCondition_keeps h
  · exact h

end Sys2Proof.Laws
end

