-- ==== Sys2Proof/Laws/KeepsPower.lean ====
section
/-! SUPPORT. Every operation of Machine/Power.lean keeps what Laws/Keeps.lean says: one lemma each, by the shape of its body. -/

namespace Sys2Proof.Laws

open Sys2Proof.Machine

theorem execAuxSupplyInRange_keeps {s0 : State} {straps : Straps} {vin : Nat} {s : State} (h : Keeps s0 s) :
    KeepsR s0 (execAuxSupplyInRange straps vin s) := by
  unfold execAuxSupplyInRange
  refine keeps_next ?_
  refine keeps_ite ?_ ?_
  · exact h
  · extract_lets -underBinder -merge -useContext +onlyGivenNames x1 x2 x3 x4 s5
    have k6 : Keeps s0 s5 := keeps_mk h .rfl .rfl .rfl .rfl (List.prefix_refl _) (Nat.le_refl _)
    clear_value s5
    exact sampleStraps_keeps (setAlert_keeps (auxScan_keeps (enterState_keeps k6)))

theorem tearFlash_keeps {s0 s : State} {x : Torn} (h : Keeps s0 s) : Keeps s0 (tearFlash s x) := by
  unfold tearFlash
  split
  · split
    · exact keeps_mk h .rfl .rfl .rfl (.same rfl rfl rfl rfl) (List.prefix_refl _) (Nat.le_refl _)
    · exact keeps_mk h .rfl .rfl .rfl (.same rfl rfl rfl rfl) (List.prefix_refl _) (Nat.le_refl _)
  · exact tearStore_keeps h

theorem execAuxSupplyLost_keeps {s0 : State} {vin : Nat} {torn : Torn} {s : State} (h : Keeps s0 s) :
    KeepsR s0 (execAuxSupplyLost vin torn s) := by
  unfold execAuxSupplyLost
  exact keeps_next (keeps_ite (toOff_keeps (keeps_ite (tearFlash_keeps h) h)) h)

theorem tripBreaker_keeps {s0 s : State} {why current : Nat} (h : Keeps s0 s) :
    Keeps s0 (tripBreaker s why current) := by
  unfold tripBreaker
  exact keeps_ite h (logEvent_keeps (keeps_mk h .rfl .rfl .rfl .rfl (List.prefix_refl _) (Nat.le_refl _)))

theorem vinLeaves_keeps {s0 s : State} {why : Nat} {straps : Straps} (h : Keeps s0 s) :
    Keeps s0 (vinLeaves s why straps) := by
  unfold vinLeaves
  refine keeps_ite ?_ ?_
  · exact h
  · extract_lets -underBinder -merge -useContext +onlyGivenNames x1 s2 x3
    have k4 : Keeps s0 s2 := logEvent_keeps (keeps_mk h .rfl .rfl .rfl .rfl (List.prefix_refl _) (Nat.le_refl _))
    clear_value s2
    exact keeps_ite (keeps_mk k4 .rfl .rfl .rfl .rfl (List.prefix_refl _) (Nat.le_refl _)) (enterAux_keeps k4)

theorem execVin54OutOfRange_keeps {s0 : State} {vin : Nat} {straps : Straps} {s : State} (h : Keeps s0 s) :
    KeepsR s0 (execVin54OutOfRange vin straps s) := by
  unfold execVin54OutOfRange
  refine keeps_next ?_
  refine keeps_ite ?_ ?_
  · exact h
  · extract_lets -underBinder -merge -useContext +onlyGivenNames x1 s2 s3
    have k4 : Keeps s0 s2 := keeps_mk h .rfl .rfl .rfl .rfl (List.prefix_refl _) (Nat.le_refl _)
    clear_value s2
    have k5 : Keeps s0 s3 := keeps_ite (tripBreaker_keeps k4) k4
    clear_value s3
    exact vinLeaves_keeps k5

theorem execVin54BackInRange_keeps {s0 : State} {vin : Nat} {s : State} (h : Keeps s0 s) :
    KeepsR s0 (execVin54BackInRange vin s) := by
  unfold execVin54BackInRange
  refine keeps_next ?_
  refine keeps_ite ?_ ?_
  · exact h
  · extract_lets -underBinder -merge -useContext +onlyGivenNames x1 s2 x3
    have k4 : Keeps s0 s2 := keeps_mk h .rfl .rfl .rfl .rfl (List.prefix_refl _) (Nat.le_refl _)
    clear_value s2
    exact keeps_ite k4 (logEvent_keeps (keeps_mk k4 .rfl .rfl .rfl .rfl (List.prefix_refl _) (Nat.le_refl _)))

theorem execRstNFall_keeps {s0 s : State} (h : Keeps s0 s) : KeepsR s0 (execRstNFall s) := by
  unfold execRstNFall
  refine keeps_next ?_
  refine keeps_ite ?_ ?_
  · exact h
  · extract_lets -underBinder -merge -useContext +onlyGivenNames x1 s2 x3 s4 x5 s6
    have k7 : Keeps s0 s2 := keeps_mk h .rfl .rfl .rfl .rfl (List.prefix_refl _) (Nat.le_refl _)
    have k8 : Keeps s0 s4 := keeps_mk k7 .rfl .rfl .rfl .rfl (List.prefix_refl _) (Nat.le_refl _)
    have k9 : Keeps s0 s6 := keeps_ite k8 (auxScan_keeps (keeps_mk k8 .rfl .rfl .rfl .rfl (List.prefix_refl _)
      (Nat.le_refl _)))
    exact keeps_ite k7 (acceptReset_keeps k9)

theorem execRstNRelease_keeps {s0 s : State} (h : Keeps s0 s) : KeepsR s0 (execRstNRelease s) := by
  unfold execRstNRelease
  exact keeps_next (keeps_mk h .rfl .rfl .rfl .rfl (List.prefix_refl _) (Nat.le_refl _))

theorem execResetStagesOffExpiry_keeps {s0 s : State} (h : Keeps s0 s) :
    KeepsR s0 (execResetStagesOffExpiry s) := by
  unfold execResetStagesOffExpiry
  exact keeps_next (keeps_ite (keeps_mk h .rfl .rfl .rfl .rfl (List.prefix_refl _) (Nat.le_refl _)) h)

theorem execEyepiecePairLost_keeps {s0 : State} {pair : Nat} {s : State} (h : Keeps s0 s) :
    KeepsR s0 (execEyepiecePairLost pair s) := by
  unfold execEyepiecePairLost
  refine keeps_next ?_
  refine keeps_ite ?_ ?_
  · exact h
  · extract_lets -underBinder -merge -useContext +onlyGivenNames x1 s2 x3
    have k4 : Keeps s0 s2 := keeps_mk h .rfl .rfl .rfl .rfl (List.prefix_refl _) (Nat.le_refl _)
    clear_value s2
    exact keeps_ite k4 (enterFault_keeps (keeps_mk k4 .rfl .rfl .rfl .rfl (List.prefix_refl _) (Nat.le_refl _)))

theorem execDecisionCycle_keeps {s0 s : State} (h : Keeps s0 s) : KeepsR s0 (execDecisionCycle s) := by
  unfold execDecisionCycle
  exact keeps_next (keeps_ite (decideState_keeps h) h)

theorem execBreakerTrip_keeps {s0 : State} {byVoltage : Bool} {current : Nat} {straps : Straps} {s : State} (h :
    Keeps s0 s) : KeepsR s0 (execBreakerTrip byVoltage current straps s) := by
  unfold execBreakerTrip
  exact keeps_next (keeps_ite h (vinLeaves_keeps (tripBreaker_keeps (keeps_mk h .rfl .rfl .rfl .rfl
    (List.prefix_refl _) (Nat.le_refl _)))))

theorem permitBreaker_keeps {s0 s : State} (h : Keeps s0 s) : Keeps s0 (permitBreaker s) := by
  unfold permitBreaker
  exact keeps_mk h .rfl .rfl .rfl .rfl (List.prefix_refl _) (Nat.le_refl _)

theorem execConverterLost_keeps {s0 : State} {n : Nat} {s : State} (h : Keeps s0 s) :
    KeepsR s0 (execConverterLost n s) := by
  unfold execConverterLost
  refine keeps_next ?_
  refine keeps_ite ?_ ?_
  · exact h
  · extract_lets -underBinder -merge -useContext +onlyGivenNames x1 s2 x3 s4
    have k5 : Keeps s0 s2 := keeps_mk h .rfl .rfl .rfl .rfl (List.prefix_refl _) (Nat.le_refl _)
    clear_value s2
    have k6 : Keeps s0 s4 := setAlert_keeps (logEvent_keeps k5)
    clear_value s4
    exact keeps_ite (report_keeps k6) k6

theorem execPhaseLost_keeps {s0 : State} {p phase : Nat} {s : State} (h : Keeps s0 s) :
    KeepsR s0 (execPhaseLost p phase s) := by
  unfold execPhaseLost
  refine keeps_next ?_
  extract_lets -underBinder -merge -useContext +onlyGivenNames x1 s2
  have k3 : Keeps s0 s2 := updRegion_keeps h
  clear_value s2
  exact keeps_ite h (keeps_ite (logEvent_keeps k3) (keeps_ite (regionFault_keeps k3) k3))

theorem cutStage_keeps {s0 s : State} {p : Nat} (h : Keeps s0 s) : Keeps s0 (cutStage s p) := by
  unfold cutStage
  exact updRegion_keeps h

theorem execPowerFuseTrip_keeps {s0 : State} {p : Nat} {s : State} (h : Keeps s0 s) :
    KeepsR s0 (execPowerFuseTrip p s) := by
  unfold execPowerFuseTrip
  refine keeps_next ?_
  extract_lets -underBinder -merge -useContext +onlyGivenNames x1 x2 s3 s4
  have k5 : Keeps s0 s3 := keeps_mk h .rfl .rfl .rfl .rfl (List.prefix_refl _) (Nat.le_refl _)
  clear_value s3
  have k6 : Keeps s0 s4 := updRegion_keeps k5
  clear_value s4
  exact keeps_ite h (cutStage_keeps (regionFault_keeps k6))

theorem execVoltageFault_keeps {s0 : State} {p : Nat} {s : State} (h : Keeps s0 s) :
    KeepsR s0 (execVoltageFault p s) := by
  unfold execVoltageFault
  exact keeps_next (keeps_ite (regionFault_keeps h) h)

theorem execThermalComparator_keeps {s0 : State} {p : Nat} {s : State} (h : Keeps s0 s) :
    KeepsR s0 (execThermalComparator p s) := by
  unfold execThermalComparator
  exact keeps_next (keeps_ite (cutStage_keeps (regionFault_keeps h)) h)

theorem execPowerAverageRefresh_keeps {s0 : State} {vin iin : Nat} {power rimPower : Nat} {s : State} (h : Keeps s0
    s) : KeepsR s0 (execPowerAverageRefresh vin iin power rimPower s) := by
  unfold execPowerAverageRefresh
  refine keeps_next ?_
  refine keeps_ite ?_ ?_
  · exact h
  · extract_lets -underBinder -merge -useContext +onlyGivenNames x1 x2 x3 s4 s5
    have k6 : Keeps s0 s4 := keeps_mk h .rfl .rfl .rfl .rfl (List.prefix_refl _) (Nat.le_refl _)
    clear_value s4
    have k7 : Keeps s0 s5 := keeps_ite (setAlert_keeps (logEvent_keeps k6)) k6
    clear_value s5
    exact keeps_ite (setAlert_keeps (logEvent_keeps k7)) k7

theorem execCoolantSample_keeps {s0 : State} {inlet : ℤ} {outA : ℤ} {outB : ℤ} {flowA flowB : Nat} {s : State} (h :
    Keeps s0 s) : KeepsR s0 (execCoolantSample inlet outA outB flowA flowB s) := by
  unfold execCoolantSample
  refine keeps_next ?_
  refine keeps_ite ?_ ?_
  · exact h
  · extract_lets -underBinder -merge -useContext +onlyGivenNames x1 x2 x3 x4 s5 s6 s7 s8
    have k9 : Keeps s0 s5 := keeps_mk h .rfl .rfl .rfl .rfl (List.prefix_refl _) (Nat.le_refl _)
    clear_value s5
    have k10 : Keeps s0 s6 := keeps_ite (logEvent_keeps k9) k9
    clear_value s6
    have k11 : Keeps s0 s7 := keeps_ite (logEvent_keeps k10) k10
    clear_value s7
    have k12 : Keeps s0 s8 := keeps_ite (logEvent_keeps k11) k11
    clear_value s8
    exact keeps_ite (setAlert_keeps k12) k12

end Sys2Proof.Laws
end

