-- ==== Sys2Proof/Laws/KeepsClock.lean ====
section
/-! SUPPORT. Every operation of Machine/Clock.lean keeps what Laws/Keeps.lean says: one lemma each, by the shape of its body. -/

namespace Sys2Proof.Laws

open Sys2Proof.Machine

theorem qualify_keeps {s0 s : State} (h : Keeps s0 s) : Keeps s0 (qualify s) := by
  unfold qualify
  exact keeps_mk h .rfl .rfl .rfl .rfl (List.prefix_refl _) (Nat.le_refl _)

theorem execCrystalQualWindowEnd_keeps {s0 : State} {count : Nat} {s : State} (h : Keeps s0 s) :
    KeepsR s0 (execCrystalQualWindowEnd count s) := by
  unfold execCrystalQualWindowEnd
  refine keeps_next ?_
  refine keeps_ite ?_ ?_
  · exact h
  · extract_lets -underBinder -merge -useContext +onlyGivenNames x1 x2 x3 s4
    have k5 : Keeps s0 s4 := keeps_mk h .rfl .rfl .rfl .rfl (List.prefix_refl _) (Nat.le_refl _)
    clear_value s4
    exact keeps_ite (qualify_keeps k5) k5

theorem execCrystalNotStable_keeps {s0 s : State} (h : Keeps s0 s) : KeepsR s0 (execCrystalNotStable s) := by
  unfold execCrystalNotStable
  exact keeps_next (keeps_ite (setAlert_keeps (logEvent_keeps h)) h)

theorem execRefclkQualified_keeps {s0 s : State} (h : Keeps s0 s) : KeepsR s0 (execRefclkQualified s) := by
  unfold execRefclkQualified
  exact keeps_next (keeps_ite (qualify_keeps h) h)

theorem endHoldover_keeps {s0 s : State} (h : Keeps s0 s) : Keeps s0 (endHoldover s) := by
  unfold endHoldover
  exact keeps_ite (leaveHoldover_keeps h) h

theorem referenceBack_keeps {s0 s : State} (h : Keeps s0 s) : Keeps s0 (referenceBack s) := by
  unfold referenceBack
  extract_lets -underBinder -merge -useContext +onlyGivenNames x1 s2 s3 s4
  have k5 : Keeps s0 s2 := keeps_mk h .rfl .rfl .rfl .rfl (List.prefix_refl _) (Nat.le_refl _)
  clear_value s2
  have k6 : Keeps s0 s3 := endHoldover_keeps (logEvent_keeps k5)
  clear_value s3
  have k7 : Keeps s0 s4 := sendOwed_keeps (trainPorts_keeps k6)
  clear_value s4
  split
  · exact performReset_keeps k7
  · exact k7

theorem execPllLocked_keeps {s0 s : State} (h : Keeps s0 s) : KeepsR s0 (execPllLocked s) := by
  unfold execPllLocked
  refine keeps_next ?_
  refine keeps_ite ?_ ?_
  · exact h
  · extract_lets -underBinder -merge -useContext +onlyGivenNames x1 s2
    have k3 : Keeps s0 s2 := keeps_mk h .rfl .rfl .rfl .rfl (List.prefix_refl _) (Nat.le_refl _)
    clear_value s2
    split
    · exact endHoldover_keeps k3
    · exact keeps_mk k3 .rfl .rfl .rfl .rfl (List.prefix_refl _) (Nat.le_refl _)
    · exact referenceBack_keeps k3
    · exact referenceBack_keeps k3
    · exact k3

theorem dropReference_keeps {s0 s : State} {monitor : Nat} (h : Keeps s0 s) :
    Keeps s0 (dropReference s monitor) := by
  unfold dropReference
  extract_lets -underBinder -merge -useContext +onlyGivenNames s1 s2 x3 x4
  have k5 : Keeps s0 s1 := keeps_ite h (logEvent_keeps h)
  clear_value s1
  have k6 : Keeps s0 s2 := setAlert_keeps (setAlert_keeps k5)
  clear_value s2
  exact keeps_mk k6 .rfl .rfl .rfl .rfl (List.prefix_refl _) (Nat.le_refl _)

theorem gateRegions_keeps {s0 s : State} (h : Keeps s0 s) : Keeps s0 (gateRegions s) := by
  unfold gateRegions
  exact keeps_mk h (.map (fun _ => Eq.refl _) .rfl) .rfl .rfl .rfl (List.prefix_refl _) (Nat.le_refl _)

theorem execReferenceLost_keeps {s0 : State} {monitor : Nat} {s : State} (h : Keeps s0 s) :
    KeepsR s0 (execReferenceLost monitor s) := by
  unfold execReferenceLost
  refine keeps_next ?_
  extract_lets -underBinder -merge -useContext +onlyGivenNames x1 x2 x3 s4
  have k5 : Keeps s0 s4 := dropReference_keeps h
  clear_value s4
  refine keeps_ite ?_ ?_
  · exact h
  · refine keeps_ite ?_ ?_
    · exact keeps_ite (keeps_mk h .rfl .rfl .rfl .rfl (List.prefix_refl _) (Nat.le_refl _)) h
    · split
      · extract_lets -underBinder -merge -useContext +onlyGivenNames s6 x7 x8
        have k9 : Keeps s0 s6 := gateRegions_keeps (idleLanes_keeps k5)
        clear_value s6
        exact report_keeps (keeps_mk k9 .rfl .rfl .rfl .rfl (List.prefix_refl _) (Nat.le_refl _))
      · extract_lets -underBinder -merge -useContext +onlyGivenNames s10 x11 x12
        have k13 : Keeps s0 s10 := gateRegions_keeps (idleLanes_keeps k5)
        clear_value s10
        exact report_keeps (keeps_mk k13 .rfl .rfl .rfl .rfl (List.prefix_refl _) (Nat.le_refl _))
      · extract_lets -underBinder -merge -useContext +onlyGivenNames s14 x15 x16
        have k17 : Keeps s0 s14 := gateRegions_keeps (idleLanes_keeps k5)
        clear_value s14
        exact report_keeps (keeps_mk k17 .rfl .rfl .rfl .rfl (List.prefix_refl _) (Nat.le_refl _))
      · extract_lets -underBinder -merge -useContext +onlyGivenNames s18 x19 x20
        have k21 : Keeps s0 s18 := gateRegions_keeps (idleLanes_keeps k5)
        clear_value s18
        exact report_keeps (keeps_mk k21 .rfl .rfl .rfl .rfl (List.prefix_refl _) (Nat.le_refl _))
      · extract_lets -underBinder -merge -useContext +onlyGivenNames s22 s23 x24 x25
        have k26 : Keeps s0 s22 := gateRegions_keeps (idleLanes_keeps k5)
        clear_value s22
        have k27 : Keeps s0 s23 := logEvent_keeps k26
        clear_value s23
        exact keeps_mk k27 (.map (fun _ => Eq.refl _) .rfl) .rfl .rfl .rfl (List.prefix_refl _) (Nat.le_refl _)
      · exact idleLanes_keeps (keeps_mk k5 .rfl .rfl .rfl .rfl (List.prefix_refl _) (Nat.le_refl _))
      · exact idleLanes_keeps (keeps_mk k5 .rfl .rfl .rfl .rfl (List.prefix_refl _) (Nat.le_refl _))
      · exact k5
      · exact k5

theorem execSafeHoldEntry_keeps {s0 s : State} (h : Keeps s0 s) : KeepsR s0 (execSafeHoldEntry s) := by
  unfold execSafeHoldEntry
  exact keeps_next (keeps_ite (decideState_keeps h) h)

theorem execReferenceReturned_keeps {s0 s : State} (h : Keeps s0 s) : KeepsR s0 (execReferenceReturned s) := by
  unfold execReferenceReturned
  exact keeps_next (keeps_ite h (keeps_mk h .rfl .rfl .rfl .rfl (List.prefix_refl _) (Nat.le_refl _)))

theorem setCrossing_keeps {s0 s : State} {c : CrossingCal} {lat realign : Nat} (h : Keeps s0 s) :
    Keeps s0 (setCrossing s c lat realign) := by
  unfold setCrossing
  exact updRegion_keeps h

theorem calibrateDroop_keeps {s0 s : State} {p : Nat} (h : Keeps s0 s) : Keeps s0 (calibrateDroop s p) := by
  unfold calibrateDroop
  refine keeps_ite ?_ ?_
  · exact h
  · split
    rename_i e2
    have k1 := keeps2_of (fresh_keeps h) e2
    exact updRegion_keeps k1

theorem recalibrate_keeps {s0 s : State} {c : CrossingCal} (h : Keeps s0 s) : Keeps s0 (recalibrate s c) := by
  unfold recalibrate
  extract_lets -underBinder -merge -useContext +onlyGivenNames x1
  split
  · exact h
  · extract_lets -underBinder -merge -useContext +onlyGivenNames x2 x3 s4
    have k5 : Keeps s0 s4 := updRegion_keeps h
    clear_value s4
    exact keeps_ite (logRegion_keeps (updCtr_keeps k5)) k5

theorem execSafeHoldUngate_keeps {s0 : State} {result : List CrossingCal} {s : State} (h : Keeps s0 s) :
    KeepsR s0 (execSafeHoldUngate result s) := by
  unfold execSafeHoldUngate
  refine keeps_next ?_
  refine keeps_ite ?_ ?_
  · exact h
  · extract_lets -underBinder -merge -useContext +onlyGivenNames s1 x2 s3
    have k4 : Keeps s0 s1 := keeps_foldl (fun _ _ => recalibrate_keeps Keeps.rfl) h
    clear_value s1
    have k5 : Keeps s0 s3 := keeps_mk k4 (.map (fun _ => Eq.refl _) .rfl) .rfl .rfl .rfl (List.prefix_refl _)
      (Nat.le_refl _)
    clear_value s3
    exact trainPorts_keeps (deliverReleases_keeps k5)

theorem lateTimed_keeps {s0 s : State} (h : Keeps s0 s) : Keeps s0 (lateTimed s) := by
  unfold lateTimed
  exact keeps_mk h .rfl .rfl .rfl .rfl (List.prefix_refl _) (Nat.le_refl _)

theorem execSafeHoldTimeout_keeps {s0 s : State} (h : Keeps s0 s) : KeepsR s0 (execSafeHoldTimeout s) := by
  unfold execSafeHoldTimeout
  refine keeps_next ?_
  refine keeps_ite ?_ ?_
  · exact h
  · refine keeps_ite ?_ ?_
    · exact decideState_keeps h
    · extract_lets -underBinder -merge -useContext +onlyGivenNames s1
      have k2 : Keeps s0 s1 := enterKeepAlive_keeps (lateTimed_keeps h)
      clear_value s1
      exact keeps_ite (referenceBack_keeps k2) k2

theorem lagWhere_keeps {s0 s : State} {q : Nat} {sel : Crossing → Bool} {ext : ℚ} (h : Keeps s0 s) :
    Keeps s0 (lagWhere s q sel ext) := by
  unfold lagWhere
  extract_lets -underBinder -merge -useContext +onlyGivenNames x1 x2 x3 s4
  have k5 : Keeps s0 s4 := updRegion_keeps h
  clear_value s4
  refine keeps_foldl (fun v6 _ => ?_) k5
  extract_lets -underBinder -merge -useContext +onlyGivenNames x7 s8
  have k9 : Keeps v6 s8 := updRegion_keeps Keeps.rfl
  clear_value s8
  exact loupe_keeps k9

theorem lagInto_keeps {s0 s : State} {p q : Nat} {ext : ℚ} (h : Keeps s0 s) : Keeps s0 (lagInto s p q ext) := by
  unfold lagInto
  exact lagWhere_keeps h

theorem stretchRegion_keeps {s0 s : State} {p e : Nat} (h : Keeps s0 s) : Keeps s0 (stretchRegion s p e) := by
  unfold stretchRegion
  extract_lets -underBinder -merge -useContext +onlyGivenNames x1 s2 s3
  have k4 : Keeps s0 s2 := keeps_foldl (fun _ _ => updCore_keeps Keeps.rfl) h
  clear_value s2
  have k5 : Keeps s0 s3 := updRegion_keeps k4
  clear_value s3
  exact keeps_foldl (fun _ _ => keeps_ite Keeps.rfl (lagInto_keeps Keeps.rfl)) k5

theorem execDroopStretch_keeps {s0 : State} {p e : Nat} {s : State} (h : Keeps s0 s) :
    KeepsR s0 (execDroopStretch p e s) := by
  unfold execDroopStretch
  exact keeps_next (keeps_ite (stretchRegion_keeps h) h)

theorem execGeneratorSwitchover_keeps {s0 : State} {p : Nat} {s : State} (h : Keeps s0 s) :
    KeepsR s0 (execGeneratorSwitchover p s) := by
  unfold execGeneratorSwitchover
  refine keeps_next ?_
  refine keeps_ite ?_ ?_
  · split
    rename_i e2
    have k1 := keeps2_of (fresh_keeps h) e2
    extract_lets -underBinder -merge -useContext +onlyGivenNames s3 s4 x5
    have k6 : Keeps s0 s3 := stretchRegion_keeps k1
    clear_value s3
    have k7 : Keeps s0 s4 := updRegion_keeps k6
    clear_value s4
    exact logRegion_keeps (keeps_mk k7 .rfl .rfl .rfl .rfl (List.prefix_refl _) (Nat.le_refl _))
  · exact h

theorem execClockGeneratorFail_keeps {s0 : State} {p : Nat} {s : State} (h : Keeps s0 s) :
    KeepsR s0 (execClockGeneratorFail p s) := by
  unfold execClockGeneratorFail
  exact keeps_next (keeps_ite (regionFault_keeps h) h)

theorem execCrossingTokenRelease_keeps {s0 : State} {t inp : Nat} {s : State} (h : Keeps s0 s) :
    KeepsR s0 (execCrossingTokenRelease t inp s) := by
  unfold execCrossingTokenRelease
  refine keeps_next ?_
  refine keeps_ite ?_ ?_
  · exact h
  · split
    · exact h
    · exact keeps_ite h (updTile_keeps h)

theorem switchOffHeat_keeps {s0 s : State} {p : Nat} (h : Keeps s0 s) : Keeps s0 (switchOffHeat s p) := by
  unfold switchOffHeat
  exact updRegion_keeps (dropRegion_keeps h)

theorem noticeHeat_keeps {s0 s : State} {p : Nat} (h : Keeps s0 s) : Keeps s0 (noticeHeat s p) := by
  unfold noticeHeat
  extract_lets -underBinder -merge -useContext +onlyGivenNames x1 s2 x3
  have k4 : Keeps s0 s2 := updRegion_keeps h
  clear_value s2
  exact keeps_mk k4 .rfl .rfl .rfl .rfl (List.prefix_refl _) (Nat.le_refl _)

theorem trackHot_keeps {s0 s : State} (h : Keeps s0 s) : Keeps s0 (trackHot s) := by
  unfold trackHot
  extract_lets -underBinder -merge -useContext +onlyGivenNames x1
  split
  · exact keeps_ite (keeps_mk h .rfl .rfl .rfl .rfl (List.prefix_refl _) (Nat.le_refl _)) h
  · exact keeps_ite h (closeHot_keeps h)

theorem setDim_keeps {s0 s : State} {p k : Nat} {temp : ℤ} (h : Keeps s0 s) : Keeps s0 (setDim s p k temp) := by
  unfold setDim
  extract_lets -underBinder -merge -useContext +onlyGivenNames x1 s2
  have k3 : Keeps s0 s2 := updRegion_keeps h
  clear_value s2
  exact keeps_ite h (lagWhere_keeps (loupe_keeps k3))

theorem execTemperatureSample_keeps {s0 : State} {p : Nat} {temp : ℤ} {s : State} (h : Keeps s0 s) :
    KeepsR s0 (execTemperatureSample p temp s) := by
  unfold execTemperatureSample
  refine keeps_next ?_
  extract_lets -underBinder -merge -useContext +onlyGivenNames x1 s2 s3 s4
  have k5 : Keeps s0 s2 := updRegion_keeps h
  clear_value s2
  have k6 : Keeps s0 s3 := keeps_ite (logRegion_keeps k5) k5
  clear_value s3
  have k7 : Keeps s0 s4 := trackHot_keeps (keeps_ite (setAlert_keeps k6) k6)
  clear_value s4
  refine keeps_ite ?_ ?_
  · exact h
  · split
    · exact keeps_ite (keeps_ite (keeps_ite (noticeHeat_keeps k7) k7) (mapBroadcast_keeps (switchOffHeat_keeps
        (clampRegion_keeps k7)))) (keeps_ite (setDim_keeps k7) (keeps_ite k7 (setDim_keeps k7)))
    · exact keeps_ite (keeps_ite (keeps_ite (noticeHeat_keeps k7) k7) (mapBroadcast_keeps (switchOffHeat_keeps
        (clampRegion_keeps k7)))) (keeps_ite (setDim_keeps k7) (keeps_ite k7 (setDim_keeps k7)))
    · exact keeps_ite (keeps_ite (keeps_ite (noticeHeat_keeps k7) k7) (mapBroadcast_keeps (switchOffHeat_keeps
        (clampRegion_keeps k7)))) (keeps_ite (setDim_keeps k7) (keeps_ite k7 (setDim_keeps k7)))
    · exact keeps_ite (keeps_ite (keeps_ite (noticeHeat_keeps k7) k7) (mapBroadcast_keeps (switchOffHeat_keeps
        (clampRegion_keeps k7)))) (keeps_ite (setDim_keeps k7) (keeps_ite k7 (setDim_keeps k7)))
    · exact k7

end Sys2Proof.Laws
end

