-- ==== Sys2Proof/Laws/KeepsPlacement.lean ====
section
/-! SUPPORT. Every operation of Machine/Placement.lean keeps what Laws/Keeps.lean says: one lemma each, by the shape of its body. -/

namespace Sys2Proof.Laws

open Sys2Proof.Machine

theorem writeBinding_keeps {s0 s : State} {m : Nat} {g : Bundle} {b : Binding} {ps : List LatPath} {pl : List
    PlaneSeg} {epoch : Nat} (h : Keeps s0 s) : Keeps s0 (writeBinding s m g b ps pl epoch) := by
  unfold writeBinding
  extract_lets -underBinder -merge -useContext +onlyGivenNames s1 s2 x3
  have k4 : Keeps s0 s1 := keeps_foldl (fun _ _ => updRegion_keeps Keeps.rfl) h
  clear_value s1
  have k5 : Keeps s0 s2 := updModel_keeps k4
  clear_value s2
  exact stewardBroadcast_keeps (keeps_mk k5 .rfl .rfl .rfl .rfl (List.prefix_refl _) (Nat.le_refl _))

theorem enterBound_keeps {s0 s : State} {p : Nat} (h : Keeps s0 s) : Keeps s0 (enterBound s p) := by
  unfold enterBound
  exact updRegion_keeps h

theorem unbindRegion_keeps {s0 s : State} {p : Nat} (h : Keeps s0 s) : Keeps s0 (unbindRegion s p) := by
  unfold unbindRegion
  extract_lets -underBinder -merge -useContext +onlyGivenNames s1
  have k2 : Keeps s0 s1 := updRegion_keeps h
  clear_value s1
  exact keeps_mk k2 .rfl (.map (fun e => by split <;> rfl) .rfl) .rfl .rfl (List.prefix_refl _) (Nat.le_refl _)

theorem unbindSlot_keeps {s0 s : State} {m : Nat} (h : Keeps s0 s) : Keeps s0 (unbindSlot s m) := by
  unfold unbindSlot
  split
  · exact h
  · exact stewardBroadcast_keeps (keeps_foldl (fun _ _ => unbindRegion_keeps Keeps.rfl) h)

theorem setupTile_keeps {s0 s : State} {x : TileProg} (h : Keeps s0 s) : Keeps s0 (setupTile s x) := by
  unfold setupTile
  split
  · exact h
  · extract_lets -underBinder -merge -useContext +onlyGivenNames s1
    have k2 : Keeps s0 s1 := updTile_keeps h
    clear_value s1
    exact keeps_foldl (fun _ _ => writeSpad_keeps Keeps.rfl) k2

theorem placePlanes_keeps {s0 s : State} {m l : Nat} (h : Keeps s0 s) : Keeps s0 (placePlanes s m l) := by
  unfold placePlanes
  split
  · exact h
  · refine keeps_foldl (fun v1 _ => ?_) h
    split
    · exact writeSpad_keeps Keeps.rfl
    · exact Keeps.rfl

theorem firstPlane_keeps {s0 s : State} {m l : Nat} (h : Keeps s0 s) : Keeps s0 (firstPlane s m l) := by
  unfold firstPlane
  extract_lets -underBinder -merge -useContext +onlyGivenNames s1
  have k2 : Keeps s0 s1 := placePlanes_keeps h
  clear_value s1
  split
  · exact takePlane_keeps k2
  · exact k2

theorem writeExtents_keeps {s0 s : State} {g : Bundle} {ls : List Nat} (h : Keeps s0 s) :
    Keeps s0 (writeExtents s g ls) := by
  unfold writeExtents
  refine keeps_foldl (fun v1 _ => ?_) h
  split
  · exact writeSpad_keeps Keeps.rfl
  · exact Keeps.rfl

theorem clearWeightBits_keeps {s0 s : State} {g : Bundle} {ls : List Nat} (h : Keeps s0 s) :
    Keeps s0 (clearWeightBits s g ls) := by
  unfold clearWeightBits
  refine keeps_foldl (fun v1 _ => ?_) h
  split
  · exact updCore_keeps Keeps.rfl
  · exact Keeps.rfl

theorem dirtyAll_keeps {s0 s : State} {g : Bundle} {l : Nat} (h : Keeps s0 s) : Keeps s0 (dirtyAll s g l) := by
  unfold dirtyAll
  split
  · exact updCore_keeps h
  · exact h

theorem streamExtents_keeps {s0 s : State} {g : Bundle} {base : Nat} {ls : List Nat} (h : Keeps s0 s) :
    Keeps s0 (streamExtents s g base ls) := by
  unfold streamExtents
  refine keeps_foldl (fun v1 _ => ?_) h
  extract_lets -underBinder -merge -useContext +onlyGivenNames x2
  refine keeps_foldl (fun v3 _ => ?_) Keeps.rfl
  extract_lets -underBinder -merge -useContext +onlyGivenNames x4 x5 x6
  split
  · exact updPort_keeps Keeps.rfl
  · exact Keeps.rfl

end Sys2Proof.Laws
end

