-- ==== Sys2Proof/Laws/KeepsSnapshot.lean ====
section
/-! SUPPORT. Every operation of Machine/Snapshot.lean keeps what Laws/Keeps.lean says: one lemma each, by the shape of its body. -/

namespace Sys2Proof.Laws

open Sys2Proof.Machine

theorem shareEvent_keeps {s0 s : State} {m n why : Nat} (h : Keeps s0 s) : Keeps s0 (shareEvent s m n why) := by
  unfold shareEvent
  exact setAlert_keeps (logEvent_keeps h)

theorem missed_keeps {s0 s : State} {n : Nat} (h : Keeps s0 s) : Keeps s0 (missed s n) := by
  unfold missed
  exact keeps_mk h .rfl .rfl .rfl .rfl (List.prefix_refl _) (Nat.le_refl _)

theorem abortShare_keeps {s0 s : State} {m : Nat} (h : Keeps s0 s) : Keeps s0 (abortShare s m) := by
  unfold abortShare
  split
  · exact h
  · extract_lets -underBinder -merge -useContext +onlyGivenNames x1 s2 s3 x4 s5
    have k6 : Keeps s0 s2 := by
      unfold s2
      refine keeps_foldl (fun v7 _ => ?_) h
      extract_lets -underBinder -merge -useContext +onlyGivenNames x8 x9 x10 x11 x12 s13 x14
      have k15 : Keeps v7 s13 := updTile_keeps Keeps.rfl
      clear_value s13
      exact keeps_mk k15 .rfl .rfl .rfl .rfl (List.prefix_refl _) (Nat.le_refl _)
    clear_value s2
    have k16 : Keeps s0 s3 := updModel_keeps k6
    clear_value s3
    have k17 : Keeps s0 s5 := keeps_mk k16 .rfl .rfl .rfl .rfl (List.prefix_refl _) (Nat.le_refl _)
    clear_value s5
    exact missed_keeps (shareEvent_keeps k17)

theorem stopTile_keeps {s0 s : State} {t : Nat} (h : Keeps s0 s) : Keeps s0 (stopTile s t) := by
  unfold stopTile
  extract_lets -underBinder -merge -useContext +onlyGivenNames s1
  have k2 : Keeps s0 s1 := updTile_keeps h
  clear_value s1
  split
  · exact k2
  · exact refuseMsg_keeps (updMsg_keeps k2)

theorem stopRegions_keeps {s0 s : State} {n : Nat} {ps : List Nat} (h : Keeps s0 s) :
    Keeps s0 (stopRegions s n ps) := by
  unfold stopRegions
  exact keeps_foldl (fun _ _ => keeps_foldl (fun _ _ => stopTile_keeps Keeps.rfl) Keeps.rfl) h

theorem beginShare_keeps {s0 s : State} {n m : Nat} (h : Keeps s0 s) : Keeps s0 (beginShare s n m) := by
  unfold beginShare
  extract_lets -underBinder -merge -useContext +onlyGivenNames x1 x2 s3 s4 x5
  have k6 : Keeps s0 s3 := shareEvent_keeps (keeps_mk h .rfl .rfl .rfl .rfl (List.prefix_refl _) (Nat.le_refl _))
  clear_value s3
  have k7 : Keeps s0 s4 := updModel_keeps h
  clear_value s4
  exact keeps_ite h (keeps_ite (keeps_ite k6 (missed_keeps k6)) (keeps_mk k7 .rfl .rfl .rfl .rfl (List.prefix_refl
    _) (Nat.le_refl _)))

theorem beginSnapshot_keeps {s0 s : State} {n : Nat} {ms : List Nat} (h : Keeps s0 s) :
    Keeps s0 (beginSnapshot s n ms) := by
  unfold beginSnapshot
  exact keeps_foldl (fun _ _ => beginShare_keeps Keeps.rfl) (keeps_mk h .rfl .rfl .rfl .rfl (List.prefix_refl _)
    (Nat.le_refl _))

theorem execSnapshotIntervalTick_keeps {s0 s : State} (h : Keeps s0 s) :
    KeepsR s0 (execSnapshotIntervalTick s) := by
  unfold execSnapshotIntervalTick
  exact keeps_next (keeps_ite h (armInternal_keeps (keeps_mk h .rfl .rfl .rfl .rfl (List.prefix_refl _)
    (Nat.le_refl _))))

theorem execQuiescePoint_keeps {s0 : State} {t : Nat} {s : State} (h : Keeps s0 s) :
    KeepsR s0 (execQuiescePoint t s) := by
  unfold execQuiescePoint
  refine keeps_next ?_
  refine keeps_ite ?_ ?_
  · exact h
  · extract_lets -underBinder -merge -useContext +onlyGivenNames x1 s2 s3 s4
    have k5 : Keeps s0 s2 := by
      unfold s2
      split
      · extract_lets -underBinder -merge -useContext +onlyGivenNames s6 x7
        have k8 : Keeps s0 s6 := applyStash_keeps h
        clear_value s6
        exact keeps_ite (keeps_mk k8 .rfl .rfl .rfl .rfl (List.prefix_refl _) (Nat.le_refl _)) k8
      · exact h
    clear_value s2
    have k9 : Keeps s0 s3 := by
      unfold s3
      split
      · exact writeSpad_keeps (keeps_mk k5 .rfl .rfl .rfl .rfl (List.prefix_refl _) (Nat.le_add_right _ _))
      · exact k5
    clear_value s3
    have k10 : Keeps s0 s4 := updTile_keeps k9
    clear_value s4
    exact arriveTile_keeps k10

theorem execSnapshotAbort_keeps {s0 s : State} (h : Keeps s0 s) : KeepsR s0 (execSnapshotAbort s) := by
  unfold execSnapshotAbort
  exact keeps_next (keeps_ite (keeps_foldl (fun _ _ => abortShare_keeps Keeps.rfl) h) h)

theorem checkStaging_keeps {s0 s : State} {t : Nat} (h : Keeps s0 s) : Keeps s0 (checkStaging s t) := by
  unfold checkStaging
  exact keeps_ite h (keeps_ite (updModel_keeps h) (abortShare_keeps h))

theorem execSnapshotBlockCopy_keeps {s0 : State} {t block : Nat} {errs : LineErrors} {s : State} (h : Keeps s0 s) :
    KeepsR s0 (execSnapshotBlockCopy t block errs s) := by
  unfold execSnapshotBlockCopy
  exact keeps_next (keeps_ite (onLines_keeps h (fun _ => checkStaging_keeps (copyBlock_keeps Keeps.rfl))) h)

theorem execSnapshotTileDone_keeps {s0 : State} {t : Nat} {s : State} (h : Keeps s0 s) :
    KeepsR s0 (execSnapshotTileDone t s) := by
  unfold execSnapshotTileDone
  refine keeps_next ?_
  extract_lets -underBinder -merge -useContext +onlyGivenNames x1 s2
  have k3 : Keeps s0 s2 := noteTo_keeps h
  clear_value s2
  exact keeps_ite (checkStaging_keeps (updTile_keeps k3)) h

theorem appendRecords_keeps {s0 s : State} {m n cut : Nat} (h : Keeps s0 s) :
    KeepsO s0 (appendRecords s m n cut) := by
  unfold appendRecords
  exact keepsO_foldl (fun _ _ => keepsO_map (fun _ => keeps_mk Keeps.rfl .rfl .rfl .rfl .rfl (List.prefix_refl _)
    (Nat.le_refl _)))
    (keepsO_some h)

theorem logWrite_keeps {s0 s : State} {t off : Nat} {bs : List Byte} (h : Keeps s0 s) :
    KeepsO s0 (logWrite t s off bs) := by
  unfold logWrite
  exact keepsO_foldl (fun _ _ => keepsO_map (fun _ => bulkWrite_keeps Keeps.rfl)) (keepsO_some h)

theorem writeRecords_keeps {s0 s : State} {m n : Nat} {f : CompRec → Nat × List Byte} (h : Keeps s0 s) :
    KeepsO s0 (writeRecords s m n f) := by
  unfold writeRecords
  exact keepsO_foldl (fun _ _ => keepsO_foldl (fun _ _ => logWrite_keeps Keeps.rfl) (keepsO_some Keeps.rfl))
    (keepsO_some h)

theorem commitRound_keeps {s0 s : State} {m : Nat} (h : Keeps s0 s) : KeepsO s0 (commitRound s m) := by
  unfold commitRound
  split
  · exact keepsO_none
  · exact keepsO_some (updModel_keeps (keeps_foldl (fun _ _ => updPort_keeps Keeps.rfl) h))

theorem nextRound_keeps {s0 s : State} {m n cut round : Nat} (h : Keeps s0 s) :
    KeepsO s0 (nextRound s m n cut round) := by
  unfold nextRound
  split
  · exact keepsO_bind (appendRecords_keeps h) fun _ => writeRecords_keeps Keeps.rfl
  · exact writeRecords_keeps h
  · exact commitRound_keeps h
  · exact commitRound_keeps h
  · cases carrier s 364150 with
    | none => exact keepsO_none
    | some t => exact logWrite_keeps (keeps_mk h .rfl .rfl .rfl .rfl (List.prefix_refl _) (Nat.le_add_right _ _))

theorem setCommit_keeps {s0 s : State} {m n cut : Nat} (h : Keeps s0 s) : Keeps s0 (setCommit s m n cut) := by
  unfold setCommit
  extract_lets -underBinder -merge -useContext +onlyGivenNames s1 x2
  have k3 : Keeps s0 s1 := tellStandby_keeps h
  clear_value s1
  exact keeps_mk k3 .rfl .rfl .rfl .rfl (List.prefix_refl _) (Nat.le_refl _)

theorem commitShare_keeps {s0 s : State} {m n cut : Nat} (h : Keeps s0 s) : Keeps s0 (commitShare s m n cut) := by
  unfold commitShare
  extract_lets -underBinder -merge -useContext +onlyGivenNames x1 x2 x3 s4 s5 x6 s7 x8 x9
  have k10 : Keeps s0 s4 := updModel_keeps (setCommit_keeps h)
  clear_value s4
  have k11 : Keeps s0 s5 := by
    unfold s5
    refine keeps_foldl (fun v12 _ => ?_) k10
    extract_lets -underBinder -merge -useContext +onlyGivenNames x13 x14 x15 s16
    have k17 : Keeps v12 s16 := keeps_ite (keeps_mk Keeps.rfl .rfl .rfl .rfl .rfl (List.prefix_refl _) (Nat.le_refl
      _)) (keeps_mk Keeps.rfl .rfl .rfl .rfl .rfl (List.prefix_refl _) (Nat.le_refl _))
    clear_value s16
    exact updTile_keeps k17
  clear_value s5
  have k18 : Keeps s0 s7 := keeps_mk k11 .rfl .rfl .rfl .rfl (List.prefix_refl _) (Nat.le_refl _)
  clear_value s7
  exact keeps_ite k18 (keeps_mk k18 .rfl .rfl .rfl .rfl (List.prefix_refl _) (Nat.le_refl _))

theorem execSnapshotCommit_keeps {s0 : State} {m : Nat} {s : State} (h : Keeps s0 s) :
    KeepsR s0 (execSnapshotCommit m s) := by
  unfold execSnapshotCommit
  refine keeps_next ?_
  extract_lets -underBinder -merge -useContext +onlyGivenNames x1
  split
  · exact h
  · refine keeps_ite ?_ ?_
    · exact h
    · refine keeps_ite ?_ ?_
      · exact abortShare_keeps h
      · refine keeps_ite ?_ ?_
        · exact commitShare_keeps h
        · refine keeps_ite ?_ ?_
          · exact h
          · refine keeps_ite ?_ ?_
            · exact commitShare_keeps h
            · split
              · rename_i e2
                have k3 := (nextRound_keeps h) _ e2
                exact updModel_keeps k3
              · exact abortShare_keeps h

theorem execStashApply_keeps {s0 : State} {t : Nat} {s : State} (h : Keeps s0 s) :
    KeepsR s0 (execStashApply t s) := by
  unfold execStashApply
  refine keeps_next ?_
  split
  · refine keeps_ite ?_ ?_
    · split
      · exact applyStash_keeps h
      · exact h
    · exact h
  · exact h

theorem dropRecords_keeps {s0 s : State} {bad : List (Nat × Nat)} (h : Keeps s0 s) :
    Keeps s0 (dropRecords s bad) := by
  unfold dropRecords
  exact keeps_mk h .rfl .rfl .rfl .rfl (List.prefix_refl _) (Nat.le_refl _)

theorem restoreBlocks_keeps {s0 s : State} {t l n : Nat} {bs : List Nat} (h : Keeps s0 s) :
    Keeps s0 (restoreBlocks s t l n bs) := by
  unfold restoreBlocks
  refine keeps_foldl (fun v1 _ => ?_) h
  split
  · exact writeSpad_keeps Keeps.rfl
  · exact Keeps.rfl

theorem restoreTile_keeps {s0 s : State} {t l n : Nat} {bs : List Nat} (h : Keeps s0 s) :
    Keeps s0 (restoreTile s t l n bs) := by
  unfold restoreTile
  extract_lets -underBinder -merge -useContext +onlyGivenNames s1
  have k2 : Keeps s0 s1 := restoreBlocks_keeps h
  clear_value s1
  split
  · exact updTile_keeps k2
  · exact k2

theorem forgetTiles_keeps {s0 s : State} {ls : List Nat} (h : Keeps s0 s) : Keeps s0 (forgetTiles s ls) := by
  unfold forgetTiles
  exact keeps_mk h .rfl .rfl .rfl .rfl (List.prefix_refl _) (Nat.le_refl _)

end Sys2Proof.Laws
end

