-- ==== Sys2Proof/Laws/KeepsSlots.lean ====
section
/-! SUPPORT. Every operation of Machine/Slots.lean keeps what Laws/Keeps.lean says: one lemma each, by the shape of its body. -/

namespace Sys2Proof.Laws

open Sys2Proof.Machine

theorem failLoad_keeps {s0 s : State} {m code detail : Nat} (h : Keeps s0 s) :
    Keeps s0 (failLoad s m code detail) := by
  unfold failLoad
  extract_lets -underBinder -merge -useContext +onlyGivenNames s1 s2 x3
  have k4 : Keeps s0 s1 := unbindSlot_keeps h
  clear_value s1
  have k5 : Keeps s0 s2 := updModel_keeps k4
  clear_value s2
  exact keeps_mk k5 .rfl .rfl .rfl .rfl (List.prefix_refl _) (Nat.le_refl _)

theorem failSignature_keeps {s0 s : State} {m : Nat} (h : Keeps s0 s) : Keeps s0 (failSignature s m) := by
  unfold failSignature
  exact failLoad_keeps (logEvent_keeps h)

theorem bindStep_keeps {s0 s : State} {m : Nat} {g : Bundle} {comp : Option Nat} (h : Keeps s0 s) :
    Keeps s0 (bindStep s m g comp) := by
  unfold bindStep
  split
  · exact failLoad_keeps h
  · extract_lets -underBinder -merge -useContext +onlyGivenNames s1 s2
    have k3 : Keeps s0 s1 := writeBinding_keeps h
    clear_value s1
    have k4 : Keeps s0 s2 := updModel_keeps k3
    clear_value s2
    split
    · exact streamExtents_keeps k4
    · exact k4

theorem bindLoad_keeps {s0 s : State} {m : Nat} {g : Bundle} {comp : Option Nat} (h : Keeps s0 s) :
    Keeps s0 (bindLoad s m g comp) := by
  unfold bindLoad
  exact keeps_ite (bindStep_keeps h) (failSignature_keeps h)

theorem startLoad_keeps {s0 s : State} {m : Nat} {image : Option Bundle} (h : Keeps s0 s) :
    Keeps s0 (startLoad s m image) := by
  unfold startLoad
  extract_lets -underBinder -merge -useContext +onlyGivenNames x1 s2
  have k3 : Keeps s0 s2 := updModel_keeps h
  clear_value s2
  refine keeps_ite ?_ ?_
  · exact k3
  · split
    · exact failLoad_keeps k3
    · exact keeps_ite (bindLoad_keeps k3) (failLoad_keeps k3)

theorem bindEarly_keeps {s0 s : State} {m : Nat} {x : Session} (h : Keeps s0 s) : Keeps s0 (bindEarly s m x) := by
  unfold bindEarly
  split
  · exact keeps_ite (keeps_ite (bindStep_keeps h) (failLoad_keeps h)) h
  · exact h

theorem commitLoad_keeps {s0 s : State} {m : Nat} {x : Session} (h : Keeps s0 s) : Keeps s0 (commitLoad s m x) := by
  unfold commitLoad
  split
  · extract_lets -underBinder -merge -useContext +onlyGivenNames x1 s2
    have k3 : Keeps s0 s2 := keeps_ite (bindStep_keeps h) h
    clear_value s2
    exact keeps_ite (failLoad_keeps h) (keeps_ite (failSignature_keeps h) (keeps_ite (updModel_keeps k3) k3))
  · exact failLoad_keeps h

theorem startTasks_keeps {s0 s : State} {g : Bundle} (h : Keeps s0 s) : Keeps s0 (startTasks s g) := by
  unfold startTasks
  refine keeps_foldl (fun v1 _ => ?_) h
  split
  · exact updCore_keeps Keeps.rfl
  · exact Keeps.rfl

theorem serveSlot_keeps {s0 s : State} {m : Nat} (h : Keeps s0 s) : Keeps s0 (serveSlot s m) := by
  unfold serveSlot
  extract_lets -underBinder -merge -useContext +onlyGivenNames s1
  have k2 : Keeps s0 s1 := updModel_keeps h
  clear_value s1
  refine settleServing_keeps ?_
  split
  · exact startTasks_keeps k2
  · exact k2

theorem stopSlot_keeps {s0 s : State} {m : Nat} (h : Keeps s0 s) : Keeps s0 (stopSlot s m) := by
  unfold stopSlot
  exact settleStopping_keeps (updModel_keeps h)

theorem unloadSlot_keeps {s0 s : State} {m : Nat} (h : Keeps s0 s) : Keeps s0 (unloadSlot s m) := by
  unfold unloadSlot
  extract_lets -underBinder -merge -useContext +onlyGivenNames s1 s2 s3 x4
  have k5 : Keeps s0 s1 := by
    unfold s1
    split
    · exact forgetTiles_keeps h
    · exact h
  clear_value s1
  have k6 : Keeps s0 s2 := unbindSlot_keeps (failSlot_keeps k5)
  clear_value s2
  have k7 : Keeps s0 s3 := updModel_keeps k6
  clear_value s3
  exact settleServing_keeps (keeps_mk k7 .rfl .rfl .rfl .rfl (List.prefix_refl _) (Nat.le_refl _))

theorem finishLoad_keeps {s0 s : State} {m : Nat} {g : Bundle} (h : Keeps s0 s) : Keeps s0 (finishLoad s m g) := by
  unfold finishLoad
  extract_lets -underBinder -merge -useContext +onlyGivenNames x1 s2 s3 s4 s5
  have k6 : Keeps s0 s2 := keeps_foldl (fun _ _ => setupTile_keeps Keeps.rfl) (forgetTiles_keeps h)
  clear_value s2
  have k7 : Keeps s0 s3 := keeps_foldl (fun _ _ => firstPlane_keeps Keeps.rfl) k6
  clear_value s3
  have k8 : Keeps s0 s4 := clearWeightBits_keeps (writeExtents_keeps k7)
  clear_value s4
  have k9 : Keeps s0 s5 := keeps_foldl (fun _ _ => enterBound_keeps Keeps.rfl) k8
  clear_value s5
  exact updModel_keeps k9

theorem execSlotLoadDone_keeps {s0 : State} {m : Nat} {readOk : Bool} {peers : List PeerReport} {s : State} (h :
    Keeps s0 s) : KeepsR s0 (execSlotLoadDone m readOk peers s) := by
  unfold execSlotLoadDone
  refine keeps_next ?_
  extract_lets -underBinder -merge -useContext +onlyGivenNames x1
  refine keeps_ite ?_ ?_
  · exact h
  · split
    · exact h
    · refine keeps_ite ?_ ?_
      · exact failLoad_keeps h
      · extract_lets -underBinder -merge -useContext +onlyGivenNames s2
        have k3 : Keeps s0 s2 := finishLoad_keeps h
        clear_value s2
        exact keeps_ite (serveSlot_keeps k3) k3

end Sys2Proof.Laws
end

