-- ==== Sys2Proof/Laws/KeepsRecovery.lean ====
section
/-! SUPPORT. Every operation of Machine/Recovery.lean keeps what Laws/Keeps.lean says: one lemma each, by the shape of its body. -/

namespace Sys2Proof.Laws

open Sys2Proof.Machine

theorem startRetrain_keeps {s0 s : State} {p : Nat} (h : Keeps s0 s) : Keeps s0 (startRetrain s p) := by
  unfold startRetrain
  exact updRegion_keeps (dropRegion_keeps h)

theorem leaveFenced_keeps {s0 s : State} {p : Nat} (h : Keeps s0 s) : Keeps s0 (leaveFenced s p) := by
  unfold leaveFenced
  exact keeps_ite h (keeps_ite (markDead_keeps (dropRegion_keeps h)) (keeps_ite (switchOffHeat_keeps h) (keeps_ite
    (updRegion_keeps (dropRegion_keeps h)) (startRetrain_keeps h))))

theorem execFieldFence_keeps {s0 : State} {f : Nat} {s : State} (h : Keeps s0 s) :
    KeepsR s0 (execFieldFence f s) := by
  unfold execFieldFence
  exact keeps_next (keeps_ite (fenceField_keeps h) h)

theorem execRimSegmentFail_keeps {s0 : State} {ring segment : Nat} {s : State} (h : Keeps s0 s) :
    KeepsR s0 (execRimSegmentFail ring segment s) := by
  unfold execRimSegmentFail
  refine keeps_next ?_
  refine keeps_ite ?_ ?_
  · exact h
  · extract_lets -underBinder -merge -useContext +onlyGivenNames x1 s2
    have k3 : Keeps s0 s2 := keeps_mk h .rfl .rfl .rfl .rfl (List.prefix_refl _) (Nat.le_refl _)
    clear_value s2
    exact keeps_ite (report_keeps k3) (rimReroute_keeps k3)

theorem bindSteward_keeps {s0 s : State} {p binding : Nat} (h : Keeps s0 s) :
    Keeps s0 (bindSteward s p binding) := by
  unfold bindSteward
  exact updRegion_keeps h

theorem serveIngress_keeps {s0 s : State} (h : Keeps s0 s) : Keeps s0 (serveIngress s) := by
  unfold serveIngress
  exact keeps_mk h .rfl .rfl .rfl .rfl (List.prefix_refl _) (Nat.le_refl _)

theorem dropSteward_keeps {s0 s : State} {p : Nat} (h : Keeps s0 s) : Keeps s0 (dropSteward s p) := by
  unfold dropSteward
  extract_lets -underBinder -merge -useContext +onlyGivenNames x1 s2 s3
  have k4 : Keeps s0 s2 := updRegion_keeps h
  clear_value s2
  have k5 : Keeps s0 s3 := updRegion_keeps k4
  clear_value s3
  exact keeps_ite k4 (keeps_ite (leaveFenced_keeps k5) k5)

theorem execStewardFailover_keeps {s0 s : State} (h : Keeps s0 s) : KeepsR s0 (execStewardFailover s) := by
  unfold execStewardFailover
  refine keeps_next ?_
  extract_lets -underBinder -merge -useContext +onlyGivenNames x1 x2 x3 x4 s5 s6 x7
  have k8 : Keeps s0 s5 := keeps_mk h .rfl .rfl .rfl .rfl (List.prefix_refl _) (Nat.le_refl _)
  clear_value s5
  have k9 : Keeps s0 s6 := updRegion_keeps (dropSteward_keeps k8)
  clear_value s6
  exact keeps_ite h (keeps_ite (keeps_ite (report_keeps h) (logEvent_keeps (stewardBroadcast_keeps
    (serveIngress_keeps k9)))) (keeps_ite (dropSteward_keeps (keeps_mk h .rfl .rfl .rfl .rfl (List.prefix_refl _)
    (Nat.le_refl _))) h))

theorem execStandbyPlacement_keeps {s0 s : State} (h : Keeps s0 s) : KeepsR s0 (execStandbyPlacement s) := by
  unfold execStandbyPlacement
  refine keeps_next ?_
  extract_lets -underBinder -merge -useContext +onlyGivenNames x1 x2
  refine keeps_ite ?_ ?_
  · exact h
  · split
    · exact h
    · extract_lets -underBinder -merge -useContext +onlyGivenNames s3 x4
      have k5 : Keeps s0 s3 := keeps_ite h (unbindRegion_keeps h)
      clear_value s3
      exact stewardBroadcast_keeps (bindSteward_keeps (keeps_mk k5 .rfl .rfl .rfl .rfl (List.prefix_refl _)
        (Nat.le_refl _)))

theorem freezeTile_keeps {s0 s : State} {t : Nat} (h : Keeps s0 s) : Keeps s0 (freezeTile s t) := by
  unfold freezeTile
  exact updTile_keeps h

theorem loseStash_keeps {s0 s : State} {ps : List Nat} (h : Keeps s0 s) : Keeps s0 (loseStash s ps) := by
  unfold loseStash
  extract_lets -underBinder -merge -useContext +onlyGivenNames s1 x2 x3 x4
  have k5 : Keeps s0 s1 := keeps_foldl (fun _ _ => applyStash_keeps Keeps.rfl) h
  clear_value s1
  exact keeps_mk k5 .rfl .rfl .rfl .rfl (List.prefix_refl _) (Nat.le_refl _)

theorem freezeSlot_keeps {s0 s : State} {m : Nat} (h : Keeps s0 s) : Keeps s0 (freezeSlot s m) := by
  unfold freezeSlot
  extract_lets -underBinder -merge -useContext +onlyGivenNames s1 s2 s3 x4
  have k5 : Keeps s0 s1 := abortShare_keeps h
  clear_value s1
  have k6 : Keeps s0 s2 := keeps_foldl (fun _ _ => freezeTile_keeps Keeps.rfl) k5
  clear_value s2
  have k7 : Keeps s0 s3 := updModel_keeps k6
  clear_value s3
  exact keeps_mk k7 (.map (fun _ => Eq.refl _) .rfl) .rfl .rfl .rfl (List.prefix_refl _) (Nat.le_refl _)

theorem moveTile_keeps {s0 s : State} {t a2 : Nat} (h : Keeps s0 s) : Keeps s0 (moveTile s t a2) := by
  unfold moveTile
  extract_lets -underBinder -merge -useContext +onlyGivenNames x1 x2 x3 s4
  have k5 : Keeps s0 s4 := updTile_keeps (keeps_mk h .rfl .rfl (.foldl (fun _ _ x => memWrite_wf _ _ x) (.zero
    .rfl)) .rfl (List.prefix_refl _) (Nat.le_refl _))
  clear_value s4
  exact updTile_keeps k5

theorem moveSections_keeps {s0 s : State} {p q : Nat} (h : Keeps s0 s) : Keeps s0 (moveSections s p q) := by
  unfold moveSections
  extract_lets -underBinder -merge -useContext +onlyGivenNames x1 x2 s3
  have k4 : Keeps s0 s3 := updRegion_keeps h
  clear_value s3
  exact updRegion_keeps k4

theorem moveRegion_keeps {s0 s : State} {p q : Nat} (h : Keeps s0 s) : Keeps s0 (moveRegion s p q) := by
  unfold moveRegion
  exact moveSections_keeps (keeps_foldl (fun _ _ => moveTile_keeps Keeps.rfl) h)

theorem readTiles_keeps {s0 s : State} {ts : List Nat} {errs : List (Nat × LineErrors)} {ok : State → State} (h :
    Keeps s0 s)
    (hf : ∀ v, Keeps v (ok v)) : Keeps s0 (readTiles s ts errs ok) := by
  induction errs generalizing s0 s with
  | nil => exact h.trans (hf s)
  | cons e l ih => exact keeps_ite (onLines_keeps h fun _ => ih Keeps.rfl) (ih h)

theorem settleMoves_keeps {s0 s : State} {ps : List Nat} (h : Keeps s0 s) : Keeps s0 (settleMoves s ps) := by
  unfold settleMoves
  extract_lets -underBinder -merge -useContext +onlyGivenNames s1 x2
  have k3 : Keeps s0 s1 := keeps_foldl (fun _ _ => keeps_ite Keeps.rfl (moveRegion_keeps Keeps.rfl)) h
  clear_value s1
  exact keeps_mk k3 .rfl .rfl .rfl .rfl (List.prefix_refl _) (Nat.le_refl _)

theorem chooseAgain_keeps {s0 s : State} {p : Nat} {r : Region} (h : Keeps s0 s) :
    Keeps s0 (chooseAgain s p r) := by
  unfold chooseAgain
  extract_lets -underBinder -merge -useContext +onlyGivenNames s1 x2
  have k3 : Keeps s0 s1 := settleMoves_keeps h
  clear_value s1
  exact keeps_mk k3 .rfl .rfl .rfl .rfl (List.prefix_refl _) (Nat.le_refl _)

theorem settleFence_keeps {s0 s : State} {p : Nat} (h : Keeps s0 s) : Keeps s0 (settleFence s p) := by
  unfold settleFence
  exact keeps_ite h (leaveFenced_keeps (keeps_ite (chooseAgain_keeps h) h))

theorem execFenceComplete_keeps {s0 : State} {p : Nat} {s : State} (h : Keeps s0 s) :
    KeepsR s0 (execFenceComplete p s) := by
  unfold execFenceComplete
  exact keeps_next (keeps_ite h (settleFence_keeps (fenceNotice_keeps (mapReached_keeps (mapBroadcast_keeps
    (updRegion_keeps h))))))

theorem execSafeHoldReturn_keeps {s0 s : State} (h : Keeps s0 s) : KeepsR s0 (execSafeHoldReturn s) := by
  unfold execSafeHoldReturn
  refine keeps_next ?_
  refine keeps_ite ?_ ?_
  · exact h
  · extract_lets -underBinder -merge -useContext +onlyGivenNames s1 s2
    have k3 : Keeps s0 s1 := lateTimed_keeps (endHold_keeps h)
    clear_value s1
    have k4 : Keeps s0 s2 := endHoldover_keeps (logEvent_keeps k3)
    clear_value s2
    split
    · exact performReset_keeps k4
    · exact keeps_foldl (fun _ _ => settleFence_keeps Keeps.rfl) (enterState_keeps k4)

theorem startRecovery_keeps {s0 s : State} {ps : List Nat} {ms : List Nat} (h : Keeps s0 s) :
    Keeps s0 (startRecovery s ps ms) := by
  unfold startRecovery
  extract_lets -underBinder -merge -useContext +onlyGivenNames x1 x2 s3 s4 x5 x6 x7 x8 s9 s10 x11 s12 s13 s14
  have k15 : Keeps s0 s3 := keeps_mk h .rfl .rfl .rfl .rfl (List.prefix_refl _) (Nat.le_refl _)
  clear_value s3
  have k16 : Keeps s0 s4 := keeps_ite k15 (enterRecovering_keeps k15)
  clear_value s4
  have k17 : Keeps s0 s9 := settleMoves_keeps k16
  clear_value s9
  have k18 : Keeps s0 s10 := loseStash_keeps k17
  clear_value s10
  have k19 : Keeps s0 s12 := keeps_mk k18 .rfl .rfl .rfl .rfl (List.prefix_refl _) (Nat.le_refl _)
  clear_value s12
  have k20 : Keeps s0 s13 := keeps_foldl (fun _ _ => updRegion_keeps Keeps.rfl) k19
  clear_value s13
  have k21 : Keeps s0 s14 := stewardBroadcast_keeps (keeps_foldl (fun _ _ => freezeSlot_keeps Keeps.rfl) k20)
  clear_value s14
  exact logEvent_keeps k21

theorem joinSteward_keeps {s0 s : State} {ps : List Nat} (h : Keeps s0 s) : Keeps s0 (joinSteward s ps) := by
  unfold joinSteward
  extract_lets -underBinder -merge -useContext +onlyGivenNames x1 s2
  have k3 : Keeps s0 s2 := keeps_mk h .rfl .rfl .rfl .rfl (List.prefix_refl _) (Nat.le_refl _)
  clear_value s2
  exact keeps_foldl (fun _ _ => updRegion_keeps Keeps.rfl) k3

theorem execRecoveryStart_keeps {s0 : State} {peers : List Nat} {s : State} (h : Keeps s0 s) :
    KeepsR s0 (execRecoveryStart peers s) := by
  unfold execRecoveryStart
  refine keeps_next ?_
  extract_lets -underBinder -merge -useContext +onlyGivenNames x1 x2 x3
  refine keeps_ite ?_ ?_
  · exact h
  · split
    · exact keeps_ite (decideState_keeps h) (keeps_ite (joinSteward_keeps h) (startRecovery_keeps h))
    · exact keeps_ite (decideState_keeps h) (keeps_ite (joinSteward_keeps h) (startRecovery_keeps h))
    · exact keeps_ite (decideState_keeps h) (keeps_ite (joinSteward_keeps h) (startRecovery_keeps h))
    · exact h

theorem replanTile_keeps {s0 s : State} {m l : Nat} (h : Keeps s0 s) : Keeps s0 (replanTile s m l) := by
  unfold replanTile
  split
  · exact h
  · extract_lets -underBinder -merge -useContext +onlyGivenNames s1 x2 x3
    have k4 : Keeps s0 s1 := placePlanes_keeps h
    clear_value s1
    exact updTile_keeps k4

theorem rollbackTile_keeps {s0 s : State} {t : Nat} (h : Keeps s0 s) : Keeps s0 (rollbackTile s t) := by
  unfold rollbackTile
  extract_lets -underBinder -merge -useContext +onlyGivenNames x1
  split
  · split
    · exact keeps_ite (restoreTile_keeps h) h
    · exact h
  · exact h

theorem replanSlot_keeps {s0 s : State} {m : Nat} (h : Keeps s0 s) : Keeps s0 (replanSlot s m) := by
  unfold replanSlot
  split
  · exact keeps_foldl (fun _ _ => replanTile_keeps Keeps.rfl) h
  · exact h

theorem pairEvents_keeps {s0 s : State} {b : Binding} {ns : List Nat} (h : Keeps s0 s) :
    Keeps s0 (pairEvents s b ns) := by
  unfold pairEvents
  refine keeps_ite ?_ ?_
  · exact h
  · refine keeps_foldl (fun v1 _ => ?_) h
    split
    · exact keeps_ite (logEvent_keeps Keeps.rfl) Keeps.rfl
    · exact Keeps.rfl

theorem clearLags_keeps {s0 s : State} {ps : List LatPath} (h : Keeps s0 s) : Keeps s0 (clearLags s ps) := by
  unfold clearLags
  exact keeps_mk h (.map (fun _ => Eq.refl _) .rfl) .rfl .rfl .rfl (List.prefix_refl _) (Nat.le_refl _)

theorem rebindSlot_keeps {s0 s t : State} {m : Nat} (h : Keeps s0 s) (e : rebindSlot s m = .inr t) : Keeps s0 t :=
    by
  unfold rebindSlot at e
  dsimp only at e
  split at e
  · cases e; exact h
  · split at e
    · cases e
    · split at e
      · cases e
      · cases e
        exact keeps_mk (pairEvents_keeps (clearLags_keeps (writeBinding_keeps
          (keeps_foldl (fun _ _ => updRegion_keeps Keeps.rfl) h)))) .rfl .rfl .rfl .rfl (List.prefix_refl _)
            (Nat.le_refl _)

theorem rebindScope_keeps {s0 s : State} {l : List Nat} (h : Keeps s0 s) : Keeps s0 (rebindScope l s) := by
  induction l generalizing s with
  | nil => exact keeps_mk h .rfl .rfl .rfl .rfl (List.prefix_refl _) (Nat.le_refl _)
  | cons m ms ih =>
    unfold rebindScope
    split
    · exact report_keeps (updModel_keeps h)
    · rename_i e
      exact ih (rebindSlot_keeps h e)

theorem execRecoveryRebind_keeps {s0 s : State} (h : Keeps s0 s) : KeepsR s0 (execRecoveryRebind s) := by
  unfold execRecoveryRebind
  exact keeps_next (keeps_ite h (rebindScope_keeps h))

theorem copyFromPeer_keeps {s0 s : State} {g a2 : Bundle} {ls : List Nat} (h : Keeps s0 s) :
    Keeps s0 (copyFromPeer s g a2 ls) := by
  unfold copyFromPeer
  refine keeps_foldl (fun v1 _ => ?_) h
  split
  · exact keeps_foldl (fun _ _ => bulkWrite_keeps Keeps.rfl) Keeps.rfl
  · exact Keeps.rfl

theorem prepareSlot_keeps {s0 s : State} {m : Nat} (h : Keeps s0 s) : Keeps s0 (prepareSlot s m) := by
  unfold prepareSlot
  extract_lets -underBinder -merge -useContext +onlyGivenNames x1
  split
  · exact h
  · extract_lets -underBinder -merge -useContext +onlyGivenNames x2 s3 s4
    have k5 : Keeps s0 s3 := by
      unfold s3
      refine keeps_foldl (fun v6 _ => ?_) h
      split
      · exact updTile_keeps Keeps.rfl
      · exact Keeps.rfl
    clear_value s3
    have k7 : Keeps s0 s4 := keeps_foldl (fun _ _ => setupTile_keeps Keeps.rfl) k5
    clear_value s4
    split
    · exact copyFromPeer_keeps k7
    · exact writeExtents_keeps (streamExtents_keeps k7)
    · exact writeExtents_keeps k7
    · exact k7

theorem resendWeights_keeps {s0 s : State} {m : Nat} (h : Keeps s0 s) : Keeps s0 (resendWeights s m) := by
  unfold resendWeights
  split
  · split
    · exact keeps_ite (copyFromPeer_keeps h) h
    · exact h
  · exact h

theorem clearRebuilt_keeps {s0 s : State} {m : Nat} (h : Keeps s0 s) : Keeps s0 (clearRebuilt s m) := by
  unfold clearRebuilt
  split
  · exact clearWeightBits_keeps h
  · exact h

theorem rebuildScope_keeps {s0 s : State} (h : Keeps s0 s) : Keeps s0 (rebuildScope s) := by
  unfold rebuildScope
  extract_lets -underBinder -merge -useContext +onlyGivenNames s1 x2 s3 s4 x5
  have k6 : Keeps s0 s1 := keeps_foldl (fun _ _ => prepareSlot_keeps Keeps.rfl) h
  clear_value s1
  have k7 : Keeps s0 s3 := keeps_ite (keeps_foldl (fun _ _ => resendWeights_keeps Keeps.rfl) h) (keeps_mk k6 .rfl
    .rfl .rfl .rfl (List.prefix_refl _) (Nat.le_refl _))
  clear_value s3
  have k8 : Keeps s0 s4 := keeps_foldl (fun _ _ => clearRebuilt_keeps Keeps.rfl) k7
  clear_value s4
  exact keeps_ite k7 (keeps_mk k8 .rfl .rfl .rfl .rfl (List.prefix_refl _) (Nat.le_refl _))

theorem execRecoveryWeightRebuild_keeps {s0 : State} {sourceOk : Bool} {errs : List (Nat × LineErrors)} {s : State}
    (h : Keeps s0 s) : KeepsR s0 (execRecoveryWeightRebuild sourceOk errs s) := by
  unfold execRecoveryWeightRebuild
  exact keeps_next (keeps_ite h (readTiles_keeps h (fun _ => rebuildScope_keeps Keeps.rfl)))

theorem reloadSlot_keeps {s0 s : State} {m : Nat} (h : Keeps s0 s) : Keeps s0 (reloadSlot s m) := by
  unfold reloadSlot
  split
  · exact h
  · extract_lets -underBinder -merge -useContext +onlyGivenNames x1 s2 s3 s4 s5 s6 s7
    have k8 : Keeps s0 s2 := failSlot_keeps h
    clear_value s2
    have k9 : Keeps s0 s3 := by
      unfold s3
      refine keeps_foldl (fun v10 _ => ?_) k8
      split
      · exact updTile_keeps Keeps.rfl
      · exact Keeps.rfl
    clear_value s3
    have k11 : Keeps s0 s4 := keeps_foldl (fun _ _ => setupTile_keeps Keeps.rfl) (forgetTiles_keeps k9)
    clear_value s4
    have k12 : Keeps s0 s5 := keeps_foldl (fun _ _ => firstPlane_keeps Keeps.rfl) k11
    clear_value s5
    have k13 : Keeps s0 s6 := clearWeightBits_keeps (writeExtents_keeps k12)
    clear_value s6
    have k14 : Keeps s0 s7 := updModel_keeps k13
    clear_value s7
    exact keeps_ite (startTasks_keeps k14) k14

theorem commonCut_keeps {s0 : State} {cuts : List (Nat × Nat)} {s : State} {m : Nat} (h : Keeps s0 s) :
    Keeps s0 (commonCut cuts s m) := by
  unfold commonCut
  extract_lets -underBinder -merge -useContext +onlyGivenNames x1 x2
  refine keeps_ite ?_ ?_
  · exact h
  · split
    · exact updModel_keeps h
    · refine keeps_ite ?_ ?_
      · exact h
      · split
        · exact updModel_keeps h
        · extract_lets -underBinder -merge -useContext +onlyGivenNames s3 x4 x5
          have k6 : Keeps s0 s3 := setCommit_keeps (updModel_keeps h)
          clear_value s3
          exact keeps_mk k6 .rfl .rfl .rfl .rfl (List.prefix_refl _) (Nat.le_refl _)

theorem execRecoveryRollback_keeps {s0 : State} {bad : List (Nat × Nat)} {cuts : List (Nat × Nat)} {s : State} (h :
    Keeps s0 s) : KeepsR s0 (execRecoveryRollback bad cuts s) := by
  unfold execRecoveryRollback
  refine keeps_next ?_
  refine keeps_ite ?_ ?_
  · exact h
  · extract_lets -underBinder -merge -useContext +onlyGivenNames s1 x2 s3 s4 s5 s6 x7
    have k8 : Keeps s0 s1 := keeps_foldl (fun _ _ => commonCut_keeps Keeps.rfl) h
    clear_value s1
    have k9 : Keeps s0 s3 := dropRecords_keeps k8
    clear_value s3
    have k10 : Keeps s0 s4 := keeps_foldl (fun _ _ => rollbackTile_keeps Keeps.rfl) k9
    clear_value s4
    have k11 : Keeps s0 s5 := keeps_foldl (fun _ _ => joinSection_keeps Keeps.rfl) k10
    clear_value s5
    have k12 : Keeps s0 s6 := keeps_ite (keeps_foldl (fun _ _ => keeps_ite (replanSlot_keeps Keeps.rfl)
      (reloadSlot_keeps Keeps.rfl)) k11) k11
    clear_value s6
    exact keeps_mk k12 .rfl .rfl .rfl .rfl (List.prefix_refl _) (Nat.le_refl _)

theorem restoreSlot_keeps {s0 s : State} {m : Nat} (h : Keeps s0 s) : Keeps s0 (restoreSlot s m) := by
  unfold restoreSlot
  extract_lets -underBinder -merge -useContext +onlyGivenNames x1
  split
  · exact h
  · extract_lets -underBinder -merge -useContext +onlyGivenNames x2 s3 s4 s5
    have k6 : Keeps s0 s3 := by
      unfold s3
      refine keeps_foldl (fun v7 _ => ?_) h
      split
      · extract_lets -underBinder -merge -useContext +onlyGivenNames s8
        have k9 : Keeps v7 s8 := updTile_keeps Keeps.rfl
        clear_value s8
        exact restoreTile_keeps k9
      · exact Keeps.rfl
    clear_value s3
    have k10 : Keeps s0 s4 := keeps_ite (reloadSlot_keeps h) (replanSlot_keeps (keeps_foldl (fun _ _ =>
      joinSection_keeps Keeps.rfl) k6))
    clear_value s4
    have k11 : Keeps s0 s5 := keeps_foldl (fun _ _ => enterBound_keeps Keeps.rfl) k10
    clear_value s5
    refine keeps_foldl (fun v12 _ => ?_) k11
    split
    · exact dirtyAll_keeps Keeps.rfl
    · exact Keeps.rfl

theorem restoreScope_keeps {s0 s : State} (h : Keeps s0 s) : Keeps s0 (restoreScope s) := by
  unfold restoreScope
  extract_lets -underBinder -merge -useContext +onlyGivenNames s1 s2 s3 x4
  have k5 : Keeps s0 s1 := settleMoves_keeps h
  clear_value s1
  have k6 : Keeps s0 s2 := keeps_foldl (fun _ _ => restoreSlot_keeps Keeps.rfl) k5
  clear_value s2
  have k7 : Keeps s0 s3 := keeps_foldl (fun _ _ => updRegion_keeps Keeps.rfl) k6
  clear_value s3
  exact keeps_mk k7 .rfl .rfl .rfl .rfl (List.prefix_refl _) (Nat.le_refl _)

theorem execRecoveryRestore_keeps {s0 : State} {errs : List (Nat × LineErrors)} {bad : List (Nat × Nat)} {s :
    State} (h : Keeps s0 s) : KeepsR s0 (execRecoveryRestore errs bad s) := by
  unfold execRecoveryRestore
  exact keeps_next (keeps_ite h (readTiles_keeps h (fun _ => restoreScope_keeps (dropRecords_keeps Keeps.rfl))))

theorem armResume_keeps {s0 s : State} {slot arg : Nat} {ms : List Nat} (h : Keeps s0 s) :
    Keeps s0 (armResume s slot arg ms) := by
  unfold armResume
  exact armInternal_keeps h

theorem execRecoveryArmResume_keeps {s0 s : State} (h : Keeps s0 s) : KeepsR s0 (execRecoveryArmResume s) := by
  unfold execRecoveryArmResume
  refine keeps_next ?_
  refine keeps_ite ?_ ?_
  · exact h
  · extract_lets -underBinder -merge -useContext +onlyGivenNames s1 x2
    have k3 : Keeps s0 s1 := armResume_keeps h
    clear_value s1
    exact keeps_mk k3 .rfl .rfl .rfl .rfl (List.prefix_refl _) (Nat.le_refl _)

theorem unfreezeRegions_keeps {s0 s : State} {ps : List Nat} (h : Keeps s0 s) :
    Keeps s0 (unfreezeRegions s ps) := by
  unfold unfreezeRegions
  exact keeps_mk h .rfl (.map (fun e => by split <;> rfl) .rfl) .rfl .rfl (List.prefix_refl _) (Nat.le_refl _)

theorem resumeRecovery_keeps {s0 s : State} (h : Keeps s0 s) : Keeps s0 (resumeRecovery s) := by
  unfold resumeRecovery
  extract_lets -underBinder -merge -useContext +onlyGivenNames x1 x2 s3 s4 x5 s6 s7 s8 s9 x10 x11 s12
  have k13 : Keeps s0 s3 := keeps_mk h .rfl (.map (fun _ => Eq.refl _) .rfl) .rfl .rfl (List.prefix_refl _)
    (Nat.le_refl _)
  clear_value s3
  have k14 : Keeps s0 s4 := keeps_foldl (fun _ _ => updModel_keeps Keeps.rfl) k13
  clear_value s4
  have k15 : Keeps s0 s6 := keeps_mk k14 .rfl .rfl .rfl .rfl (List.prefix_refl _) (Nat.le_refl _)
  clear_value s6
  have k16 : Keeps s0 s7 := keeps_foldl (fun _ _ => settleStopping_keeps Keeps.rfl) k15
  clear_value s7
  have k17 : Keeps s0 s8 := logEvent_keeps k16
  clear_value s8
  have k18 : Keeps s0 s9 := keeps_foldl (fun _ _ => leaveFenced_keeps Keeps.rfl) k17
  clear_value s9
  have k19 : Keeps s0 s12 := keeps_mk k18 .rfl .rfl .rfl .rfl (List.prefix_refl _) (Nat.le_refl _)
  clear_value s12
  exact keeps_ite (settleServing_keeps (enterState_keeps k19)) k19

theorem execMigrationQuiesce_keeps {s0 : State} {p : Nat} {s : State} (h : Keeps s0 s) :
    KeepsR s0 (execMigrationQuiesce p s) := by
  unfold execMigrationQuiesce
  refine keeps_next ?_
  refine keeps_ite ?_ ?_
  · exact h
  · extract_lets -underBinder -merge -useContext +onlyGivenNames s1
    have k2 : Keeps s0 s1 := updRegion_keeps h
    clear_value s1
    exact keeps_foldl (fun _ _ => stopTile_keeps Keeps.rfl) k2

theorem execMigrationCopy_keeps {s0 : State} {p : Nat} {errs : List (Nat × LineErrors)} {s : State} (h : Keeps s0
    s) : KeepsR s0 (execMigrationCopy p errs s) := by
  unfold execMigrationCopy
  refine keeps_next ?_
  refine keeps_ite ?_ ?_
  · exact h
  · extract_lets -underBinder -merge -useContext +onlyGivenNames x1
    split
    · exact h
    · split
      · exact h
      · split
        · exact h
        · refine readTiles_keeps h (fun v2 => ?_)
          extract_lets -underBinder -merge -useContext +onlyGivenNames s3 s4 s5 s6 x7 s8
          have k9 : Keeps v2 s3 := keeps_foldl (fun _ _ => moveRegion_keeps Keeps.rfl) Keeps.rfl
          clear_value s3
          have k10 : Keeps v2 s4 := updRegion_keeps k9
          clear_value s4
          have k11 : Keeps v2 s5 := keeps_foldl (fun _ _ => enterBound_keeps (updRegion_keeps Keeps.rfl)) k10
          clear_value s5
          have k12 : Keeps v2 s6 := updModel_keeps k11
          clear_value s6
          have k13 : Keeps v2 s8 := keeps_mk k12 .rfl .rfl .rfl .rfl (List.prefix_refl _) (Nat.le_refl _)
          clear_value s8
          exact updRegion_keeps k13

theorem execMigrationSwitchOff_keeps {s0 : State} {p : Nat} {s : State} (h : Keeps s0 s) :
    KeepsR s0 (execMigrationSwitchOff p s) := by
  unfold execMigrationSwitchOff
  refine keeps_next ?_
  refine keeps_ite ?_ ?_
  · exact h
  · extract_lets -underBinder -merge -useContext +onlyGivenNames x1 s2
    have k3 : Keeps s0 s2 := mapBroadcast_keeps (switchOffHeat_keeps (clampRegion_keeps h))
    clear_value s2
    exact updRegion_keeps k3

theorem execMigrationReplace_keeps {s0 : State} {p : Nat} {s : State} (h : Keeps s0 s) :
    KeepsR s0 (execMigrationReplace p s) := by
  unfold execMigrationReplace
  refine keeps_next ?_
  refine keeps_ite ?_ ?_
  · exact h
  · extract_lets -underBinder -merge -useContext +onlyGivenNames x1 x2
    split
    · exact h
    · split
      · exact h
      · extract_lets -underBinder -merge -useContext +onlyGivenNames s3 s4 s5 s6 x7 s8
        have k9 : Keeps s0 s3 := writeBinding_keeps h
        clear_value s3
        have k10 : Keeps s0 s4 := clearLags_keeps k9
        clear_value s4
        have k11 : Keeps s0 s5 := pairEvents_keeps k10
        clear_value s5
        have k12 : Keeps s0 s6 := keeps_foldl (fun _ _ => replanTile_keeps Keeps.rfl) k11
        clear_value s6
        have k13 : Keeps s0 s8 := keeps_mk k12 .rfl .rfl .rfl .rfl (List.prefix_refl _) (Nat.le_refl _)
        clear_value s8
        exact updRegion_keeps (armResume_keeps k13)

theorem goOnRegions_keeps {s0 s : State} {p : Nat} {ps : List Nat} (h : Keeps s0 s) :
    Keeps s0 (goOnRegions s p ps) := by
  unfold goOnRegions
  exact keeps_ite h (keeps_foldl (fun _ _ => updTile_keeps Keeps.rfl) h)

theorem resumeMigration_keeps {s0 s : State} {p : Nat} (h : Keeps s0 s) : Keeps s0 (resumeMigration s p) := by
  unfold resumeMigration
  extract_lets -underBinder -merge -useContext +onlyGivenNames x1 s2 x3 s4 s5 x6
  have k7 : Keeps s0 s2 := updRegion_keeps h
  clear_value s2
  have k8 : Keeps s0 s4 := keeps_mk k7 .rfl .rfl .rfl .rfl (List.prefix_refl _) (Nat.le_refl _)
  clear_value s4
  have k9 : Keeps s0 s5 := keeps_foldl (fun _ _ => updTile_keeps Keeps.rfl) k8
  clear_value s5
  exact keeps_ite k8 (keeps_mk k9 .rfl .rfl .rfl .rfl (List.prefix_refl _) (Nat.le_refl _))

theorem execMigrationTimeout_keeps {s0 : State} {p : Nat} {s : State} (h : Keeps s0 s) :
    KeepsR s0 (execMigrationTimeout p s) := by
  unfold execMigrationTimeout
  exact keeps_next (keeps_ite (cutStage_keeps (regionFault_keeps h)) h)

theorem calibrateRetrained_keeps {s0 s : State} {p : Nat} {result : List CrossingCal} (h : Keeps s0 s) :
    Keeps s0 (calibrateRetrained s p result) := by
  unfold calibrateRetrained
  extract_lets -underBinder -merge -useContext +onlyGivenNames s1
  have k2 : Keeps s0 s1 := calibrateDroop_keeps (updRegion_keeps h)
  clear_value s1
  exact keeps_foldl (fun _ _ => setCrossing_keeps Keeps.rfl) k2

theorem execRegionRetrainDone_keeps {s0 : State} {p : Nat} {passed : Bool} {result : List CrossingCal} {s : State}
    (h : Keeps s0 s) : KeepsR s0 (execRegionRetrainDone p passed result s) := by
  unfold execRegionRetrainDone
  refine keeps_next ?_
  extract_lets -underBinder -merge -useContext +onlyGivenNames x1 s2 x3
  have k4 : Keeps s0 s2 := calibrateRetrained_keeps h
  clear_value s2
  exact keeps_ite h (keeps_ite (mapBroadcast_keeps (updRegion_keeps k4)) (updRegion_keeps (dropRegion_keeps k4)))

theorem clearMark_keeps {s0 s : State} {p : Nat} (h : Keeps s0 s) : Keeps s0 (clearMark s p) := by
  unfold clearMark
  exact logEvent_keeps (keeps_mk h .rfl .rfl .rfl .rfl (List.prefix_refl _) (Nat.le_refl _))

theorem scrubRegion_keeps {s0 s : State} {p : Nat} (h : Keeps s0 s) : Keeps s0 (scrubRegion s p) := by
  unfold scrubRegion
  exact keeps_foldl (fun _ _ => keeps_ite Keeps.rfl (zeroSpad_keeps Keeps.rfl)) h

end Sys2Proof.Laws
end

