-- ==== Sys2Proof/Laws/KeepsSignals.lean ====
section
/-! SUPPORT. Every operation of Machine/Signals.lean keeps what Laws/Keeps.lean says: one lemma each, by the shape of its body. -/

namespace Sys2Proof.Laws

open Sys2Proof.Machine

theorem actionDone_keeps {s0 s : State} {n : Nat} (h : Keeps s0 s) : Keeps s0 (actionDone s n) := by
  unfold actionDone
  extract_lets -underBinder -merge -useContext +onlyGivenNames x1 x2 s3 x4
  have k5 : Keeps s0 s3 := updTimed_keeps h
  clear_value s3
  exact keeps_ite (logAt_keeps (keeps_mk k5 .rfl .rfl .rfl .rfl (List.prefix_refl _) (Nat.le_refl _))) k5

theorem perform_keeps {s0 s : State} {n : Nat} (h : Keeps s0 s) : Keeps1 s0 (perform s n) := by
  unfold perform
  extract_lets -underBinder -merge -useContext +onlyGivenNames x1 s2
  have k3 : Keeps s0 s2 := by
    unfold s2
    refine keeps_foldl (fun v4 _ => ?_) h
    extract_lets -underBinder -merge -useContext +onlyGivenNames s5
    have k6 : Keeps v4 s5 := updRegion_keeps Keeps.rfl
    clear_value s5
    exact keeps_ite (loupe_keeps k6) k6
  clear_value s2
  exact keeps1_ite (keeps1_mk (actionDone_keeps k3)) (keeps1_mk k3)

theorem execTimedResume_keeps {s0 : State} {slot : Nat} {s : State} (h : Keeps s0 s) :
    KeepsR s0 (execTimedResume slot s) := by
  unfold execTimedResume
  refine keeps_next ?_
  refine keeps_ite ?_ ?_
  · exact h
  · extract_lets -underBinder -merge -useContext +onlyGivenNames x1 x2 s3
    have k4 : Keeps s0 s3 := keeps_ite (unfreezeRegions_keeps h) (keeps_ite (goOnRegions_keeps h) h)
    clear_value s3
    split
    rename_i e6
    have k5 := keeps1_of (perform_keeps k4) e6
    exact keeps_ite k5 (keeps_ite (resumeRecovery_keeps k5) (keeps_ite (resumeMigration_keeps k5) k5))

theorem execTimedSnapshot_keeps {s0 : State} {slot : Nat} {s : State} (h : Keeps s0 s) :
    KeepsR s0 (execTimedSnapshot slot s) := by
  unfold execTimedSnapshot
  refine keeps_next ?_
  refine keeps_ite ?_ ?_
  · exact h
  · extract_lets -underBinder -merge -useContext +onlyGivenNames x1 x2 x3 x4 s5
    have k6 : Keeps s0 s5 := keeps_ite (beginSnapshot_keeps (updTimed_keeps h)) h
    clear_value s5
    exact perform_keeps (keeps_ite (stopRegions_keeps k6) k6)

theorem timedSwitch_keeps {s0 s : State} {t : Nat} (h : Keeps s0 s) : Keeps s0 (timedSwitch s t) := by
  unfold timedSwitch
  extract_lets -underBinder -merge -useContext +onlyGivenNames x1
  split
  · exact keeps_ite (trigger_keeps h) h
  · exact trigger_keeps h

theorem execTimedSectionSwitch_keeps {s0 : State} {slot : Nat} {s : State} (h : Keeps s0 s) :
    KeepsR s0 (execTimedSectionSwitch slot s) := by
  unfold execTimedSectionSwitch
  refine keeps_next ?_
  refine keeps_ite ?_ ?_
  · exact h
  · extract_lets -underBinder -merge -useContext +onlyGivenNames s1
    have k2 : Keeps s0 s1 := keeps_foldl (fun _ _ => keeps_foldl (fun _ _ => keeps_ite (timedSwitch_keeps
      Keeps.rfl) Keeps.rfl) Keeps.rfl) h
    clear_value s1
    exact perform_keeps k2

theorem execTimedBeamRelease_keeps {s0 : State} {slot : Nat} {s : State} (h : Keeps s0 s) :
    KeepsR s0 (execTimedBeamRelease slot s) := by
  unfold execTimedBeamRelease
  refine keeps_next ?_
  refine keeps_ite ?_ ?_
  · exact h
  · extract_lets -underBinder -merge -useContext +onlyGivenNames x1 s2
    have k3 : Keeps s0 s2 := keeps_foldl (fun _ _ => releaseRegion_keeps Keeps.rfl) h
    clear_value s2
    split
    rename_i e5
    have k4 := keeps1_of (perform_keeps k3) e5
    exact keeps_ite (countRelease_keeps k4) k4

theorem writeEnable_keeps {s0 s : State} {p v : Nat} {was : Bool} (h : Keeps s0 s) :
    Keeps s0 (writeEnable s p v was) := by
  unfold writeEnable
  exact recheckSets_keeps (keeps_ite (keeps_ite h (portStart_keeps h)) (portStop_keeps h))

theorem execTimedPortEnable_keeps {s0 : State} {slot : Nat} {s : State} (h : Keeps s0 s) :
    KeepsR s0 (execTimedPortEnable slot s) := by
  unfold execTimedPortEnable
  refine keeps_next ?_
  refine keeps_ite ?_ ?_
  · exact h
  · extract_lets -underBinder -merge -useContext +onlyGivenNames x1 x2 x3
    split
    · rename_i e5
      have k4 := keeps1_of (appendRec_keeps (actionDone_keeps h)) e5
      exact writeEnable_keeps k4
    · rename_i e5
      have k4 := keeps1_of (appendRec_keeps (actionDone_keeps h)) e5
      exact k4

theorem execTimedReset_keeps {s0 : State} {slot : Nat} {s : State} (h : Keeps s0 s) :
    KeepsR s0 (execTimedReset slot s) := by
  unfold execTimedReset
  exact keeps_next (keeps_ite h (keeps_ite (updTimed_keeps h) (acceptReset_keeps (actionDone_keeps h))))

theorem updEvent_keeps {s0 s : State} {n : Nat} {f : EventObj → EventObj} (h : Keeps s0 s) :
    Keeps s0 (updEvent s n f) := by
  unfold updEvent
  exact keeps_mk h .rfl .rfl .rfl .rfl (List.prefix_refl _) (Nat.le_refl _)

theorem fireWake_keeps {s0 s : State} {cfg : Nat} (h : Keeps s0 s) : Keeps s0 (fireWake s cfg) := by
  unfold fireWake
  exact keeps_foldl (fun _ _ => releaseRegion_keeps Keeps.rfl) (countRelease_keeps h)

theorem fireMessage_keeps {s0 s : State} {n cfg : Nat} {payload count : Nat} (h : Keeps s0 s) :
    Keeps s0 (fireMessage s n cfg payload count) := by
  unfold fireMessage
  extract_lets -underBinder -merge -useContext +onlyGivenNames x1 x2 x3 x4 x5
  split
  · exact sendBy_keeps h
  · exact updEvent_keeps h

theorem fireEvent_keeps {s0 s : State} {n payload : Nat} (h : Keeps s0 s) : Keeps s0 (fireEvent s n payload) := by
  unfold fireEvent
  extract_lets -underBinder -merge -useContext +onlyGivenNames x1 x2 s3 s4
  have k5 : Keeps s0 s3 := updEvent_keeps h
  clear_value s3
  have k6 : Keeps s0 s4 := keeps_ite (fireWake_keeps k5) k5
  clear_value s4
  exact keeps_ite (updEvent_keeps h) (keeps_ite (fireMessage_keeps k6) k6)

theorem sendFrame32_keeps {s0 s : State} {cmd func : Nat} {rec_ : List Byte} (h : Keeps s0 s) :
    Keeps s0 (sendFrame32 s cmd func rec_) := by
  unfold sendFrame32
  extract_lets -underBinder -merge -useContext +onlyGivenNames s1
  have k2 : Keeps s0 s1 := keeps_foldl (fun _ _ => keeps_ite (emit_keeps Keeps.rfl) Keeps.rfl) h
  clear_value s1
  exact keeps_ite (emit_keeps k2) k2

theorem emitRec_keeps {s0 s : State} {x : OutRec} (h : Keeps s0 s) : Keeps s0 (emitRec s x) := by
  unfold emitRec
  split
  · exact sendFrame32_keeps h
  · extract_lets -underBinder -merge -useContext +onlyGivenNames x1 s2 x3
    have k4 : Keeps s0 s2 := sendFrame32_keeps h
    clear_value s2
    exact keeps_mk k4 .rfl .rfl .rfl .rfl (List.prefix_refl _) (Nat.le_refl _)

theorem execNotifyRecordArrival_keeps {s0 s : State} (h : Keeps s0 s) : KeepsR s0 (execNotifyRecordArrival s) := by
  unfold execNotifyRecordArrival
  refine keeps_next ?_
  split
  · exact h
  · exact keeps_ite (keeps_mk h .rfl .rfl .rfl .rfl (List.prefix_refl _) (Nat.le_refl _)) (keeps_ite (keeps_mk h
      .rfl .rfl .rfl .rfl (List.prefix_refl _) (Nat.le_refl _)) (keeps_mk h .rfl .rfl .rfl .rfl (List.prefix_refl
      _) (Nat.le_refl _)))

theorem execNotifyEmit_keeps {s0 s : State} (h : Keeps s0 s) : KeepsR s0 (execNotifyEmit s) := by
  unfold execNotifyEmit
  refine keeps_next ?_
  refine keeps_ite ?_ ?_
  · exact h
  · extract_lets -underBinder -merge -useContext +onlyGivenNames x1 x2 x3 s4
    have k5 : Keeps s0 s4 := keeps_mk h .rfl .rfl .rfl .rfl (List.prefix_refl _) (Nat.le_refl _)
    clear_value s4
    exact keeps_foldl (fun _ _ => emitRec_keeps Keeps.rfl) k5

theorem execHeartbeat_keeps {s0 s : State} (h : Keeps s0 s) : KeepsR s0 (execHeartbeat s) := by
  unfold execHeartbeat
  refine keeps_next ?_
  split
  · exact h
  · refine keeps_ite ?_ ?_
    · exact h
    · extract_lets -underBinder -merge -useContext +onlyGivenNames s1 x2
      have k3 : Keeps s0 s1 := sendFrame32_keeps h
      clear_value s1
      exact keeps_mk k3 .rfl .rfl .rfl .rfl (List.prefix_refl _) (Nat.le_refl _)

theorem restartBeat_keeps {s0 s : State} (h : Keeps s0 s) : Keeps s0 (restartBeat s) := by
  unfold restartBeat
  exact keeps_mk h .rfl .rfl .rfl .rfl (List.prefix_refl _) (Nat.le_refl _)

theorem setCanErr_keeps {s0 s : State} {iface frames : Nat} {tx rx : Nat} (h : Keeps s0 s) :
    Keeps s0 (setCanErr s iface frames tx rx) := by
  unfold setCanErr
  exact keeps_mk h .rfl .rfl .rfl .rfl (List.prefix_refl _) (Nat.le_refl _)

theorem canError_keeps {s0 s : State} {iface : Nat} (h : Keeps s0 s) : Keeps s0 (canError s iface) := by
  unfold canError
  exact setCanErr_keeps (keeps_mk h .rfl .rfl .rfl .rfl (List.prefix_refl _) (Nat.le_add_right _ _))

theorem execCanBusOff_keeps {s0 : State} {iface : Nat} {s : State} (h : Keeps s0 s) :
    KeepsR s0 (execCanBusOff iface s) := by
  unfold execCanBusOff
  refine keeps_next ?_
  refine keeps_ite ?_ ?_
  · extract_lets -underBinder -merge -useContext +onlyGivenNames s1 x2
    have k3 : Keeps s0 s1 := canError_keeps h
    clear_value s1
    exact logSource_keeps (keeps_mk k3 .rfl .rfl .rfl .rfl (List.prefix_refl _) (Nat.le_refl _))
  · exact h

theorem execLogFlush_keeps {s0 s : State} (h : Keeps s0 s) : KeepsR s0 (execLogFlush s) := by
  unfold execLogFlush
  exact keeps_next (keeps_ite h (keeps_mk h .rfl .rfl .rfl .rfl (List.prefix_refl _) (Nat.le_refl _)))

theorem eraseLog_keeps {s0 s : State} (h : Keeps s0 s) : Keeps s0 (eraseLog s) := by
  unfold eraseLog
  exact keeps_mk h .rfl .rfl .rfl .rfl (List.prefix_refl _) (Nat.le_refl _)

end Sys2Proof.Laws
end

