-- ==== Sys2Proof/Laws/KeepsBoot.lean ====
section
/-! SUPPORT. Every operation of Machine/Boot.lean keeps what Laws/Keeps.lean says: one lemma each, by the shape of its body. -/

namespace Sys2Proof.Laws

open Sys2Proof.Machine

theorem setReason_keeps {s0 s : State} {f why : Nat} (h : Keeps s0 s) : Keeps s0 (setReason s f why) := by
  unfold setReason
  exact keeps_mk h .rfl .rfl .rfl (by split <;> exact .same rfl rfl rfl rfl) (List.prefix_refl _) (Nat.le_refl _)

theorem revertTrial_keeps {s0 s : State} (h : Keeps s0 s) : Keeps s0 (revertTrial s) := by
  unfold revertTrial
  exact logEvent_keeps (keeps_mk h .rfl .rfl .rfl (.same rfl rfl rfl rfl) (List.prefix_refl _) (Nat.le_refl _))

theorem acceptImage_keeps {s0 s : State} {f : Nat} {g : BootImage} (h : Keeps s0 s) :
    Keeps s0 (acceptImage s f g) := by
  unfold acceptImage
  extract_lets -underBinder -merge -useContext +onlyGivenNames x1 x2 s3 x4 s5
  have k6 : Keeps s0 s3 := setReason_keeps h
  clear_value s3
  have k7 : Keeps s0 s5 := keeps_mk k6 .rfl .rfl .rfl (.same rfl rfl rfl rfl) (List.prefix_refl _) (Nat.le_refl _)
  clear_value s5
  exact logEvent_keeps k7

theorem tryFlashes_keeps {s0 s : State} {pref : Nat} {fails : List (Nat × Nat)} {l : List Nat} (h : Keeps s0 s) :
    Keeps1 s0 (tryFlashes s pref fails l) := by
  induction l generalizing s with
  | nil => exact keeps1_mk h
  | cons f fs ih =>
    unfold tryFlashes
    dsimp only
    split
    · exact keeps1_mk (acceptImage_keeps h)
    · exact ih (keeps_ite (revertTrial_keeps (logEvent_keeps (setReason_keeps h))) (logEvent_keeps (setReason_keeps
        h)))

theorem restoreLanes_keeps {s0 s : State} (h : Keeps s0 s) : Keeps s0 (restoreLanes s) := by
  unfold restoreLanes
  split
  · exact h
  · exact keeps_foldl (fun _ _ => updPort_keeps Keeps.rfl) h

theorem selectImage_keeps {s0 s : State} {bootsel : Nat} {fails : List (Nat × Nat)} (h : Keeps s0 s) :
    Keeps s0 (selectImage s bootsel fails) := by
  unfold selectImage
  extract_lets -underBinder -merge -useContext +onlyGivenNames s1 x2 x3 s4
  have k5 : Keeps s0 s1 := keeps_ite (revertTrial_keeps h) h
  clear_value s1
  have k6 : Keeps s0 s4 := keeps_mk k5 .rfl .rfl .rfl (.same rfl rfl rfl rfl) (List.prefix_refl _) (Nat.le_refl _)
  clear_value s4
  split
  rename_i e8
  have k7 := keeps1_of (tryFlashes_keeps k6) e8
  refine keeps_ite ?_ ?_
  · exact enterFault_keeps k7
  · extract_lets -underBinder -merge -useContext +onlyGivenNames x9 x10 s11 s12 x13 x14 x15
    have k16 : Keeps s0 s11 := keeps_ite (logEvent_keeps k7) k7
    clear_value s11
    have k17 : Keeps s0 s12 := keeps_ite (logEvent_keeps k16) k16
    clear_value s12
    exact restoreLanes_keeps (keeps_mk k17 .rfl .rfl .rfl (.same rfl rfl rfl rfl) (List.prefix_refl _) (Nat.le_refl
      _))

theorem execBringupStart_keeps {s0 : State} {bootsel : Nat} {readFails : List (Nat × Nat)} {s : State} (h : Keeps
    s0 s) : KeepsR s0 (execBringupStart bootsel readFails s) := by
  unfold execBringupStart
  refine keeps_next ?_
  refine keeps_ite ?_ ?_
  · exact h
  · refine keeps_ite ?_ ?_
    · refine keeps_ite ?_ ?_
      · extract_lets -underBinder -merge -useContext +onlyGivenNames s1 x2
        have k3 : Keeps s0 s1 := beginBringup_keeps h
        clear_value s1
        exact selectImage_keeps (keeps_mk k3 .rfl .rfl .rfl .rfl (List.prefix_refl _) (Nat.le_refl _))
      · exact h
    · exact keeps_ite (selectImage_keeps h) h

theorem powerRegion_keeps {s0 s : State} {p : Nat} (h : Keeps s0 s) : Keeps s0 (powerRegion s p) := by
  unfold powerRegion
  exact updRegion_keeps h

theorem powerStep_keeps {s0 s : State} {p : Nat} (h : Keeps s0 s) : Keeps s0 (powerStep s p) := by
  unfold powerStep
  exact keeps_ite h (keeps_ite (updRegion_keeps h) (keeps_ite h (powerRegion_keeps h)))

theorem execFieldGroupPower_keeps {s0 : State} {f : Nat} {s : State} (h : Keeps s0 s) :
    KeepsR s0 (execFieldGroupPower f s) := by
  unfold execFieldGroupPower
  refine keeps_next ?_
  refine keeps_ite ?_ ?_
  · exact h
  · extract_lets -underBinder -merge -useContext +onlyGivenNames s1 x2 x3
    have k4 : Keeps s0 s1 := keeps_foldl (fun _ _ => powerStep_keeps Keeps.rfl) h
    clear_value s1
    exact keeps_mk k4 .rfl .rfl .rfl .rfl (List.prefix_refl _) (Nat.le_refl _)

theorem warmRegion_keeps {s0 s : State} {p : Nat} (h : Keeps s0 s) : Keeps s0 (warmRegion s p) := by
  unfold warmRegion
  extract_lets -underBinder -merge -useContext +onlyGivenNames x1 x2
  have k3 : ∀ a0, Keeps a0 (x2 a0) := by
    intro a0
    exact updRegion_keeps Keeps.rfl
  clear_value x2
  split
  · exact Keeps.trans (keeps_foldl (fun _ _ => updTile_keeps Keeps.rfl) h) (k3 _)
  · exact Keeps.trans (keeps_foldl (fun _ _ => updTile_keeps Keeps.rfl) h) (k3 _)
  · exact Keeps.trans (keeps_foldl (fun _ _ => updTile_keeps Keeps.rfl) h) (k3 _)
  · exact Keeps.trans (keeps_foldl (fun _ _ => updTile_keeps Keeps.rfl) h) (k3 _)
  · exact Keeps.trans (keeps_foldl (fun _ _ => updTile_keeps Keeps.rfl) h) (k3 _)
  · exact updRegion_keeps (Keeps.trans (dropRegion_keeps h) (k3 _))
  · exact h

theorem calibrate_keeps {s0 s : State} {c : CrossingCal} (h : Keeps s0 s) : Keeps s0 (calibrate s c) := by
  unfold calibrate
  exact setCrossing_keeps h

theorem restoreSettings_keeps {s0 s : State} {p : Nat} (h : Keeps s0 s) : Keeps s0 (restoreSettings s p) := by
  unfold restoreSettings
  split
  · exact h
  · extract_lets -underBinder -merge -useContext +onlyGivenNames s1
    have k2 : Keeps s0 s1 := updRegion_keeps h
    clear_value s1
    refine keeps_foldl (fun v3 _ => ?_) k2
    split
    · exact updCore_keeps Keeps.rfl
    · exact Keeps.rfl

theorem calibrateGroup_keeps {s0 s : State} {f : Nat} {result : List CrossingCal} (h : Keeps s0 s) :
    Keeps s0 (calibrateGroup s f result) := by
  unfold calibrateGroup
  extract_lets -underBinder -merge -useContext +onlyGivenNames s1 x2 s3
  have k4 : Keeps s0 s1 := keeps_ite (keeps_foldl (fun _ _ => warmRegion_keeps Keeps.rfl) h) h
  clear_value s1
  have k5 : Keeps s0 s3 := keeps_foldl (fun _ _ => keeps_ite (calibrateDroop_keeps (restoreSettings_keeps
    (updRegion_keeps Keeps.rfl))) Keeps.rfl) k4
  clear_value s3
  exact keeps_foldl (fun _ _ => keeps_ite (calibrate_keeps Keeps.rfl) Keeps.rfl) k5

theorem execGroupCalibrate_keeps {s0 : State} {f : Nat} {result : List CrossingCal} {s : State} (h : Keeps s0 s) :
    KeepsR s0 (execGroupCalibrate f result s) := by
  unfold execGroupCalibrate
  refine keeps_next ?_
  refine keeps_ite ?_ ?_
  · exact h
  · extract_lets -underBinder -merge -useContext +onlyGivenNames s1 x2
    have k3 : Keeps s0 s1 := calibrateGroup_keeps h
    clear_value s1
    exact keeps_mk k3 .rfl .rfl .rfl .rfl (List.prefix_refl _) (Nat.le_refl _)

theorem testArea_keeps {s0 s : State} {p t : Nat} {rows : List (Nat × Nat)} (h : Keeps s0 s) :
    Keeps1 s0 (testArea s p t rows) := by
  unfold testArea
  exact keeps1_ite (keeps1_ite (keeps1_mk h) (keeps1_mk (updCore_keeps h))) (keeps1_mk h)

theorem takeMonitor_keeps {s0 s : State} {t : Nat} {k : Packet} (h : Keeps s0 s) :
    Keeps s0 (takeMonitor s t k) := by
  unfold takeMonitor
  exact writeSpad_keeps h

theorem loadMonitor_keeps {s0 s : State} {t : Nat} {lost : List (Nat × Nat)} {n k : Nat} (h : Keeps s0 s) :
    Keeps1 s0 (loadMonitor s t lost n k) := by
  induction n generalizing s k with
  | zero => exact keeps1_mk h
  | succ n ih =>
    unfold loadMonitor
    dsimp only
    have k1 := keeps_foldl (l := (monitorPackets s).zipIdx.filter fun x => !lost.contains (k, x.2))
      (f := fun s x => takeMonitor s t x.1) (fun _ _ => takeMonitor_keeps Keeps.rfl) h
    exact keeps1_ite (keeps1_mk k1) (ih k1)

theorem startT0_keeps {s0 s : State} {t : Nat} (h : Keeps s0 s) : Keeps s0 (startT0 s t) := by
  unfold startT0
  exact updCore_keeps h

theorem monitorTile_keeps {s0 : State} {p : Nat} {march : List (Nat × Nat × Nat × Nat)} {lost : List (Nat × Nat ×
    Nat)} {s : State} {t : Nat} (h : Keeps s0 s) : Keeps1 s0 (monitorTile p march lost s t) := by
  unfold monitorTile
  split
  rename_i e2
  have k1 := keeps1_of (testArea_keeps h) e2
  refine keeps1_ite ?_ ?_
  · exact keeps1_mk k1
  · split
    rename_i e4
    have k3 := keeps1_of (loadMonitor_keeps k1) e4
    exact keeps1_ite (keeps1_mk (startT0_keeps k3)) (keeps1_mk k3)

theorem monitorRegion_keeps {s0 s : State} {march : List (Nat × Nat × Nat × Nat)} {lost : List (Nat × Nat × Nat)}
    {p : Nat}
    (h : Keeps s0 s) : Keeps s0 (monitorRegion march lost s p) := by
  unfold monitorRegion
  have go : ∀ (l : List Nat) (x : State × List Nat), Keeps s0 x.1 → Keeps s0 (l.foldl (fun x t =>
      ((monitorTile p march lost x.1 t).1, if (monitorTile p march lost x.1 t).2 then x.2 ++ [t] else x.2)) x).1 :=
        by
    intro l
    induction l with
    | nil => exact fun _ k => k
    | cons t l ih => exact fun x k => ih _ (monitorTile_keeps k)
  exact keeps_foldl (fun _ _ => logEvent_keeps Keeps.rfl) (updRegion_keeps (go _ (s, []) h))

theorem execMonitorBroadcast_keeps {s0 : State} {march : List (Nat × Nat × Nat × Nat)} {lost : List (Nat × Nat ×
    Nat)} {s : State} (h : Keeps s0 s) : KeepsR s0 (execMonitorBroadcast march lost s) := by
  unfold execMonitorBroadcast
  refine keeps_next ?_
  refine keeps_ite ?_ ?_
  · exact h
  · extract_lets -underBinder -merge -useContext +onlyGivenNames s1 x2
    have k3 : Keeps s0 s1 := keeps_foldl (fun _ _ => monitorRegion_keeps Keeps.rfl) h
    clear_value s1
    exact trainPorts_keeps (keeps_mk k3 .rfl .rfl .rfl .rfl (List.prefix_refl _) (Nat.le_refl _))

theorem failRegion_keeps {s0 s : State} {p : Nat} (h : Keeps s0 s) : Keeps s0 (failRegion s p) := by
  unfold failRegion
  exact updRegion_keeps (dropRegion_keeps h)

theorem startMonitor_keeps {s0 s : State} {t : Nat} (h : Keeps s0 s) : Keeps s0 (startMonitor s t) := by
  unfold startMonitor
  exact startT0_keeps (writeSpad_keeps h)

theorem fullTraining_keeps {s0 s : State} {p : Nat} {defective : List Nat} {spares : List (Nat × Nat × Nat)}
    {passed : Bool} (h : Keeps s0 s) : Keeps s0 (fullTraining s p defective spares passed) := by
  unfold fullTraining
  extract_lets -underBinder -merge -useContext +onlyGivenNames x1 x2 s3 x4 s5
  have k6 : Keeps s0 s3 := updRegion_keeps h
  clear_value s3
  have k7 : Keeps s0 s5 := keeps_mk k6 .rfl .rfl .rfl (.same rfl rfl rfl rfl) (List.prefix_refl _) (Nat.le_refl _)
  clear_value s5
  split
  · exact failRegion_keeps k7
  · extract_lets -underBinder -merge -useContext +onlyGivenNames s8 s9
    have k10 : Keeps s0 s8 := updRegion_keeps k7
    clear_value s8
    have k11 : Keeps s0 s9 := calibrateDroop_keeps (updRegion_keeps k10)
    clear_value s9
    refine keeps_ite ?_ ?_
    · exact failRegion_keeps k10
    · refine keeps_foldl (fun v12 _ => ?_) k11
      extract_lets -underBinder -merge -useContext +onlyGivenNames s13
      have k14 : Keeps v12 s13 := startMonitor_keeps (zeroSpad_keeps Keeps.rfl)
      clear_value s13
      exact updCore_keeps k14

theorem execRegionTraining_keeps {s0 : State} {p : Nat} {full : Bool} {defective : List Nat} {spares : List (Nat ×
    Nat × Nat)} {passed : Bool} {s : State} (h : Keeps s0 s) : KeepsR s0 (execRegionTraining p full defective
    spares passed s) := by
  unfold execRegionTraining
  refine keeps_next ?_
  extract_lets -underBinder -merge -useContext +onlyGivenNames x1 x2 x3 s4
  have k5 : Keeps s0 s4 := logEvent_keeps (keeps_mk h .rfl .rfl .rfl (.same rfl rfl rfl rfl) (List.prefix_refl _)
    (Nat.le_refl _))
  clear_value s4
  exact keeps_ite h (keeps_ite (fullTraining_keeps h) (keeps_ite (fullTraining_keeps k5) (updRegion_keeps h)))

theorem scribbleTile_keeps {s0 s : State} {t : Nat} (h : Keeps s0 s) : Keeps s0 (scribbleTile s t) := by
  unfold scribbleTile
  exact writeSpad_keeps (keeps_mk h .rfl .rfl .rfl .rfl (List.prefix_refl _) (Nat.le_add_right _ _))

theorem katRegion_keeps {s0 : State} {results : List (Nat × Nat)} {again : List (Nat × Nat)} {s : State} {p : Nat}
    (h : Keeps s0 s) : Keeps s0 (katRegion results again s p) := by
  unfold katRegion
  extract_lets -underBinder -merge -useContext +onlyGivenNames s1 x2 s3 x4 x5
  have k6 : Keeps s0 s1 := keeps_foldl (fun _ _ => scribbleTile_keeps Keeps.rfl) h
  clear_value s1
  have k7 : Keeps s0 s3 := keeps_foldl (fun _ _ => logEvent_keeps Keeps.rfl) k6
  clear_value s3
  have k8 : ∀ a0, Keeps a0 (x4 a0) := by
    intro a0
    exact updRegion_keeps Keeps.rfl
  clear_value x4
  have k9 : ∀ a0, Keeps a0 (x5 a0) := by
    intro a0
    exact failRegion_keeps (updRegion_keeps Keeps.rfl)
  clear_value x5
  refine keeps_ite ?_ ?_
  · exact Keeps.trans k7 (k8 _)
  · split
    · exact Keeps.trans k7 (k9 _)
    · extract_lets -underBinder -merge -useContext +onlyGivenNames s10 s11 x12
      have k13 : Keeps s0 s10 := updRegion_keeps k7
      clear_value s10
      have k14 : Keeps s0 s11 := keeps_foldl (fun _ _ => scribbleTile_keeps (startMonitor_keeps Keeps.rfl)) k13
      clear_value s11
      exact keeps_ite (Keeps.trans k14 (k8 _)) (Keeps.trans (keeps_foldl (fun _ _ => logEvent_keeps Keeps.rfl) k14)
        (k9 _))

theorem execKnownAnswerRun_keeps {s0 : State} {results : List (Nat × Nat)} {again : List (Nat × Nat)} {s : State}
    (h : Keeps s0 s) : KeepsR s0 (execKnownAnswerRun results again s) := by
  unfold execKnownAnswerRun
  refine keeps_next ?_
  extract_lets -underBinder -merge -useContext +onlyGivenNames x1 s2 x3
  have k4 : Keeps s0 s2 := keeps_foldl (fun _ _ => katRegion_keeps Keeps.rfl) h
  clear_value s2
  exact keeps_ite h (keeps_mk k4 .rfl .rfl .rfl .rfl (List.prefix_refl _) (Nat.le_refl _))

theorem execStewardStart_keeps {s0 s : State} (h : Keeps s0 s) : KeepsR s0 (execStewardStart s) := by
  unfold execStewardStart
  refine keeps_next ?_
  refine keeps_ite ?_ ?_
  · exact h
  · extract_lets -underBinder -merge -useContext +onlyGivenNames s1 s2 s3 s4 x5
    have k6 : Keeps s0 s1 := by
      unfold s1
      refine keeps_ite ?_ ?_
      · exact h
      · split
        · exact h
        · extract_lets -underBinder -merge -useContext +onlyGivenNames s7 x8
          have k9 : Keeps s0 s7 := bindSteward_keeps h
          clear_value s7
          exact keeps_mk k9 .rfl .rfl .rfl .rfl (List.prefix_refl _) (Nat.le_refl _)
    clear_value s1
    have k10 : Keeps s0 s2 := by
      unfold s2
      refine keeps_ite ?_ ?_
      · exact k6
      · split
        · exact k6
        · extract_lets -underBinder -merge -useContext +onlyGivenNames s11 x12
          have k13 : Keeps s0 s11 := bindSteward_keeps k6
          clear_value s11
          exact keeps_mk k13 .rfl .rfl .rfl .rfl (List.prefix_refl _) (Nat.le_refl _)
    clear_value s2
    have k14 : Keeps s0 s3 := keeps_ite (keeps_foldl (fun _ _ => updRegion_keeps Keeps.rfl) k10) k10
    clear_value s3
    have k15 : Keeps s0 s4 := keeps_ite (stewardBroadcast_keeps k14) k14
    clear_value s4
    exact keeps_mk k15 .rfl .rfl .rfl .rfl (List.prefix_refl _) (Nat.le_refl _)

theorem autoload_keeps {s0 s : State} {images : List (Nat × Bundle)} (h : Keeps s0 s) :
    Keeps s0 (autoload s images) := by
  unfold autoload
  refine keeps_foldl (fun v1 _ => ?_) h
  refine keeps_ite ?_ ?_
  · exact Keeps.rfl
  · refine keeps_ite ?_ ?_
    · exact logEvent_keeps Keeps.rfl
    · extract_lets -underBinder -merge -useContext +onlyGivenNames s2
      have k3 : Keeps v1 s2 := startLoad_keeps Keeps.rfl
      clear_value s2
      exact updModel_keeps k3

theorem reachReady_keeps {s0 s : State} {images : List (Nat × Bundle)} (h : Keeps s0 s) :
    Keeps s0 (reachReady s images) := by
  unfold reachReady
  extract_lets -underBinder -merge -useContext +onlyGivenNames s1 x2 s3 x4 s5 s6
  have k7 : Keeps s0 s1 := serveIngress_keeps h
  have k8 : Keeps s0 s3 := enterState_keeps (keeps_mk k7 .rfl .rfl .rfl .rfl (List.prefix_refl _) (Nat.le_refl _))
  have k9 : Keeps s0 s5 := keeps_mk k8 .rfl .rfl .rfl (.same rfl rfl rfl rfl) (List.prefix_refl _) (Nat.le_refl _)
  have k10 : Keeps s0 s6 := keeps_ite (keeps_ite (setUpdate_keeps k9) k9) k8
  exact autoload_keeps k10

theorem retrainLost_keeps {s0 s : State} (h : Keeps s0 s) : Keeps s0 (retrainLost s) := by
  unfold retrainLost
  extract_lets -underBinder -merge -useContext +onlyGivenNames s1 x2 x3
  have k4 : Keeps s0 s1 := keeps_foldl (fun _ _ => updRegion_keeps (powerRegion_keeps Keeps.rfl)) h
  clear_value s1
  exact keeps_mk k4 .rfl .rfl .rfl (.same rfl rfl rfl rfl) (List.prefix_refl _) (Nat.le_refl _)

theorem execReadyCriteria_keeps {s0 : State} {images : List (Nat × Bundle)} {s : State} (h : Keeps s0 s) :
    KeepsR s0 (execReadyCriteria images s) := by
  unfold execReadyCriteria
  exact keeps_next (keeps_ite h (keeps_ite (decideState_keeps h) (keeps_ite (enterFault_keeps h) (keeps_ite h
    (keeps_ite (reachReady_keeps h) (keeps_ite (retrainLost_keeps h) (enterKeepAlive_keeps h)))))))

end Sys2Proof.Laws
end

