-- ==== Sys2Proof/Laws/KeepsObjects.lean ====
section
/-! SUPPORT. Every operation of Machine/Objects.lean keeps what Laws/Keeps.lean says: one lemma each, by the shape of its body. -/

namespace Sys2Proof.Laws

open Sys2Proof.Machine

theorem setSelection_keeps {s0 s : State} {src i : Nat} {sub v : Nat} (h : Keeps s0 s) :
    Keeps s0 (setSelection s src i sub v) := by
  unfold setSelection
  exact keeps_mk h .rfl .rfl .rfl .rfl (List.prefix_refl _) (Nat.le_refl _)

end Sys2Proof.Laws
end

