-- ==== Sys2Proof/Laws/KeepsUpdates.lean ====
section
/-! SUPPORT. Every operation of Machine/Updates.lean keeps what Laws/Keeps.lean says: one lemma each, by the shape of its body. -/

namespace Sys2Proof.Laws

open Sys2Proof.Machine

theorem refuse_keeps {s0 s : State} {status : Nat} (h : Keeps s0 s) : Keeps1 s0 (refuse s status) := by
  unfold refuse
  exact keeps1_mk h

theorem accept_keeps {s0 s : State} (h : Keeps s0 s) : Keeps1 s0 (accept s) := by
  unfold accept
  exact keeps1_mk h

theorem putTarget_keeps {s0 s : State} {bs : List Byte} (h : Keeps s0 s) : Keeps s0 (putTarget s bs) := by
  unfold putTarget
  exact keeps_mk h .rfl .rfl .rfl (by split <;> exact .same rfl rfl rfl rfl) (List.prefix_refl _) (Nat.le_refl _)

theorem updateCommand_keeps {s0 s : State} {src cmd : Nat} (h : Keeps s0 s) :
    Keeps1 s0 (updateCommand s src cmd) := by
  unfold updateCommand
  extract_lets -underBinder -merge -useContext +onlyGivenNames x1 x2 x3
  refine keeps1_ite ?_ ?_
  · exact refuse_keeps h
  · split
    · refine keeps1_ite ?_ ?_
      · extract_lets -underBinder -merge -useContext +onlyGivenNames x4 s5 x6
        have k7 : Keeps s0 s5 := setUpdate_keeps (eraseImage_keeps h)
        clear_value s5
        exact accept_keeps (keeps_mk k7 .rfl .rfl .rfl (.same rfl rfl rfl rfl) (List.prefix_refl _) (Nat.le_refl _))
      · exact refuse_keeps h
    · exact keeps1_ite (refuse_keeps h) (keeps1_ite (refuse_keeps h) (accept_keeps (putTarget_keeps (keeps_mk h
        .rfl .rfl .rfl .rfl (List.prefix_refl _) (Nat.le_add_right _ _)))))
    · exact keeps1_ite (accept_keeps (setUpdate_keeps h)) (refuse_keeps h)
    · exact keeps1_ite (accept_keeps (setUpdate_keeps (keeps_mk h .rfl .rfl .rfl (.same rfl rfl rfl rfl)
        (List.prefix_refl _) (Nat.le_refl _)))) (refuse_keeps h)
    · refine keeps1_ite ?_ ?_
      · extract_lets -underBinder -merge -useContext +onlyGivenNames x8 s9
        have k10 : Keeps s0 s9 := keeps_mk h .rfl .rfl .rfl
          ⟨Nat.le_max_left _ _, fun _ => id, id, fun _ => id, fun _ _ => id⟩ (List.prefix_refl _) (Nat.le_refl _)
        clear_value s9
        exact accept_keeps (keeps_ite (logEvent_keeps k10) k10)
      · exact refuse_keeps h
    · refine keeps1_ite ?_ ?_
      · extract_lets -underBinder -merge -useContext +onlyGivenNames s11
        have k12 : Keeps s0 s11 := keeps_ite (keeps_mk h .rfl .rfl .rfl (.same rfl rfl rfl rfl) (List.prefix_refl
          _) (Nat.le_refl _)) h
        clear_value s11
        exact accept_keeps (setUpdate_keeps k12)
      · exact refuse_keeps h

theorem writeChunk_keeps {s0 s : State} {src : Nat} {bs : List Byte} (h : Keeps s0 s) :
    Keeps1 s0 (writeChunk s src bs) := by
  unfold writeChunk
  exact keeps1_ite (refuse_keeps h) (keeps1_ite (refuse_keeps h) (keeps1_ite (refuse_keeps h) (accept_keeps
    (putTarget_keeps h))))

theorem execUpdateEraseDone_keeps {s0 s : State} (h : Keeps s0 s) : KeepsR s0 (execUpdateEraseDone s) := by
  unfold execUpdateEraseDone
  exact keeps_next (keeps_ite (setUpdate_keeps h) h)

theorem execUpdateVerifyDone_keeps {s0 : State} {readFails : List Nat} {s : State} (h : Keeps s0 s) :
    KeepsR s0 (execUpdateVerifyDone readFails s) := by
  unfold execUpdateVerifyDone
  refine keeps_next ?_
  refine keeps_ite ?_ ?_
  · extract_lets -underBinder -merge -useContext +onlyGivenNames x1 x2 s3
    have k4 : Keeps s0 s3 := keeps_mk h .rfl .rfl .rfl (.same rfl rfl rfl rfl) (List.prefix_refl _) (Nat.le_refl _)
    clear_value s3
    exact setUpdate_keeps k4
  · exact h

theorem revokeImage_keeps {s0 s : State} {k : Nat} (h : Keeps s0 s) : Keeps1 s0 (revokeImage s k) := by
  unfold revokeImage
  dsimp only
  split
  · exact refuse_keeps h
  · split
    · exact refuse_keeps h
    · rename_i left
      refine keeps1_ite (accept_keeps h) (accept_keeps (logEvent_keeps (keeps_mk h .rfl .rfl .rfl
        ⟨Nat.le_refl _, fun n x => ?_, fun x => ?_, fun _ => id, fun _ _ => id⟩ (List.prefix_refl _) (Nat.le_refl
          _))))
      · simp [x]
      · dsimp only
        revert left x
        generalize s.boot.imgRevoked = r
        by_cases hk : k < 4
        · interval_cases k <;> revert r <;> decide
        · have z : BitVec.twoPow 4 k = 0#4 := by ext i; simp [BitVec.getElem_twoPow]; omega
          rw [z]
          simp

theorem programKey_keeps {s0 s : State} {k : Nat} {hash : List Byte} (h : Keeps s0 s) :
    Keeps1 s0 (programKey s k hash) := by
  unfold programKey
  refine keeps1_ite (refuse_keeps h) (keeps1_ite (refuse_keeps h) ?_)
  split
  · exact refuse_keeps h
  · rename_i free
    refine accept_keeps (keeps_mk h .rfl .rfl .rfl
      ⟨Nat.le_refl _, fun _ => id, id, fun _ => id, fun n v x => ?_⟩ (List.prefix_refl _) (Nat.le_refl _))
    by_cases e : k = n
    · subst e
      simp [List.getD, x] at free
    · simpa [List.getElem?_set, e] using x

theorem revokeKey_keeps {s0 s : State} {k : Nat} (h : Keeps s0 s) : Keeps1 s0 (revokeKey s k) := by
  unfold revokeKey
  refine keeps1_ite (refuse_keeps h) (keeps1_ite (accept_keeps h) (accept_keeps (logEvent_keeps (keeps_mk h .rfl
    .rfl .rfl
    ⟨Nat.le_refl _, fun _ => id, id, fun n x => ?_, fun _ _ => id⟩ (List.prefix_refl _) (Nat.le_refl _)))))
  simp [x]

theorem startAttest_keeps {s0 s : State} {nonce : List Byte} (h : Keeps s0 s) :
    Keeps1 s0 (startAttest s nonce) := by
  unfold startAttest
  exact keeps1_ite (refuse_keeps h) (keeps1_ite (refuse_keeps h) (accept_keeps (keeps_mk h .rfl .rfl .rfl (.same
    rfl rfl rfl rfl) (List.prefix_refl _) (Nat.le_refl _))))

theorem execAttestationReady_keeps {s0 s : State} (h : Keeps s0 s) : KeepsR s0 (execAttestationReady s) := by
  unfold execAttestationReady
  exact keeps_next (keeps_ite (keeps_mk h .rfl .rfl .rfl (.same rfl rfl rfl rfl) (List.prefix_refl _) (Nat.le_refl
    _)) h)

theorem debugWrite_keeps {s0 s : State} {t : List Byte} (h : Keeps s0 s) : Keeps1 s0 (debugWrite s t) := by
  unfold debugWrite
  extract_lets -underBinder -merge -useContext +onlyGivenNames x1 x2 x3 s4
  have k5 : Keeps s0 s4 := keeps_mk h .rfl .rfl .rfl (.same rfl rfl rfl rfl) (List.prefix_refl _) (Nat.le_add_right
    _ _)
  clear_value s4
  exact keeps1_mk (logEvent_keeps k5)

theorem endDebug_keeps {s0 s : State} (h : Keeps s0 s) : Keeps1 s0 (endDebug s) := by
  unfold endDebug
  exact accept_keeps (endUnlock_keeps h)

theorem startCopy_keeps {s0 s : State} {f off : Nat} (h : Keeps s0 s) : Keeps1 s0 (startCopy s f off) := by
  unfold startCopy
  exact keeps1_ite (refuse_keeps h) (accept_keeps (keeps_mk h .rfl .rfl .rfl (.same rfl rfl rfl rfl)
    (List.prefix_refl _) (Nat.le_refl _)))

theorem execBundleFlashCopyDone_keeps {s0 : State} {f : Nat} {window : List (Nat × Bundle)} {s : State} (h : Keeps
    s0 s) : KeepsR s0 (execBundleFlashCopyDone f window s) := by
  unfold execBundleFlashCopyDone
  exact keeps_next (keeps_ite h (keeps_mk h .rfl .rfl .rfl (.same rfl rfl rfl rfl) (List.prefix_refl _)
    (Nat.le_refl _)))

end Sys2Proof.Laws
end

