-- ==== Sys2Proof/Laws/KeepsDictionary.lean ====
section
/-! SUPPORT. Every operation of Machine/Dictionary.lean keeps what Laws/Keeps.lean says: one lemma each, by the shape of its body. -/

namespace Sys2Proof.Laws

open Sys2Proof.Machine

theorem clearAlert_keeps {s0 s : State} {mask : Nat} (h : Keeps s0 s) : Keeps s0 (clearAlert s mask) := by
  unfold clearAlert
  exact keeps_mk h .rfl .rfl .rfl .rfl (List.prefix_refl _) (Nat.le_refl _)

theorem storeVal_keeps {s0 s : State} {i sub : Nat} {v : Val} {after : State → State} (h : Keeps s0 s) (h4 : ∀ b0,
    Keeps b0 (after b0)) : Keeps1 s0 (storeVal s i sub v after) := by
  unfold storeVal
  split
  · rename_i e2
    have k1 := keeps1_of (appendRec_keeps h) e2
    exact keeps1_mk (Keeps.trans (keeps_mk k1 .rfl .rfl .rfl .rfl (List.prefix_refl _) (Nat.le_refl _)) (h4 _))
  · rename_i e2
    have k1 := keeps1_of (appendRec_keeps h) e2
    exact keeps1_mk k1

theorem writeMgmt_keeps {s0 s : State} {old new : Nat} (h : Keeps s0 s) : Keeps s0 (writeMgmt s old new) := by
  unfold writeMgmt
  exact keeps_foldl (fun _ _ => keeps_ite (mgmtTakes_keeps Keeps.rfl) Keeps.rfl) h

theorem newReference_keeps {s0 s : State} {old new : Nat} (h : Keeps s0 s) : Keeps s0 (newReference s old new) := by
  unfold newReference
  refine keeps_ite ?_ ?_
  · exact h
  · extract_lets -underBinder -merge -useContext +onlyGivenNames x1 s2
    have k3 : Keeps s0 s2 := keeps_mk h .rfl .rfl .rfl .rfl (List.prefix_refl _) (Nat.le_refl _)
    clear_value s2
    exact keeps_ite (leaveHoldover_keeps k3) k3

theorem afterStore_keeps {s0 a0 s : State} {i sub v : Nat} (h : Keeps s0 s) :
    Keeps s0 (afterStore a0 s i sub v) := by
  unfold afterStore
  split
  · exact restartBeat_keeps h
  · exact writeMgmt_keeps h
  · exact newReference_keeps h
  · exact keeps_ite (keeps_mk h .rfl .rfl .rfl .rfl (List.prefix_refl _) (Nat.le_refl _)) h
  · exact keeps_ite (keeps_ite (writeEnable_keeps h) (keeps_ite (recheckSets_keeps h) h)) h

theorem writeRoute_keeps {s0 s : State} {src v : Nat} (h : Keeps s0 s) : Keeps1 s0 (writeRoute s src v) := by
  unfold writeRoute
  exact keeps1_ite (refuse_keeps h) (keeps1_ite (refuse_keeps h) (storeVal_keeps h (fun _ => keeps_mk Keeps.rfl
    .rfl .rfl .rfl .rfl (List.prefix_refl _) (Nat.le_refl _))))

theorem writeStored_keeps {s0 s : State} {src i : Nat} {sub v : Nat} (h : Keeps s0 s) :
    Keeps1 s0 (writeStored s src i sub v) := by
  unfold writeStored
  exact keeps1_ite (writeRoute_keeps h) (keeps1_ite (refuse_keeps h) (storeVal_keeps h (fun _ => afterStore_keeps
    Keeps.rfl)))

theorem slotCommand_keeps {s0 s : State} {m v : Nat} {image : Option Bundle} {peers : List PeerReport} (h : Keeps
    s0 s) : Keeps1 s0 (slotCommand s m v image peers) := by
  unfold slotCommand
  refine keeps1_ite ?_ ?_
  · exact refuse_keeps h
  · split
    · exact keeps1_ite (accept_keeps (startLoad_keeps h)) (refuse_keeps h)
    · exact keeps1_ite (accept_keeps (serveSlot_keeps h)) (refuse_keeps h)
    · exact keeps1_ite (accept_keeps (stopSlot_keeps h)) (refuse_keeps h)
    · exact keeps1_ite (accept_keeps (unloadSlot_keeps h)) (refuse_keeps h)

theorem writeTimed_keeps {s0 s : State} {src n : Nat} {sub v : Nat} (h : Keeps s0 s) :
    Keeps1 s0 (writeTimed s src n sub v) := by
  unfold writeTimed
  exact keeps1_ite (keeps1_ite (keeps1_ite (refuse_keeps h) (accept_keeps (armSlot_keeps h))) (keeps1_ite
    (accept_keeps (cancelSlot_keeps h)) (refuse_keeps h))) (keeps1_ite (refuse_keeps h) (accept_keeps
    (updTimed_keeps h)))

theorem writeReset_keeps {s0 s : State} {v : Nat} (h : Keeps s0 s) : Keeps1 s0 (writeReset s v) := by
  unfold writeReset
  split
  · exact refuse_keeps h
  · exact refuse_keeps h
  · exact refuse_keeps h
  · exact accept_keeps (acceptReset_keeps h)

theorem writeRetrain_keeps {s0 s : State} {p : Nat} (h : Keeps s0 s) : Keeps1 s0 (writeRetrain s p) := by
  unfold writeRetrain
  exact keeps1_ite (accept_keeps (startRetrain_keeps h)) (refuse_keeps h)

theorem writeClearMark_keeps {s0 s : State} {p : Nat} (h : Keeps s0 s) : Keeps1 s0 (writeClearMark s p) := by
  unfold writeClearMark
  exact keeps1_ite (refuse_keeps h) (accept_keeps (keeps_ite (clearMark_keeps h) h))

theorem writeScrub_keeps {s0 s : State} {p : Nat} (h : Keeps s0 s) : Keeps1 s0 (writeScrub s p) := by
  unfold writeScrub
  split
  · exact accept_keeps (scrubRegion_keeps h)
  · exact accept_keeps (scrubRegion_keeps h)
  · exact refuse_keeps h

theorem writeErase_keeps {s0 s : State} (h : Keeps s0 s) : Keeps1 s0 (writeErase s) := by
  unfold writeErase
  exact keeps1_ite (accept_keeps (eraseLog_keeps h)) (refuse_keeps h)

theorem writeLoupe_keeps {s0 s : State} {src v : Nat} (h : Keeps s0 s) : Keeps1 s0 (writeLoupe s src v) := by
  unfold writeLoupe
  exact keeps1_ite (accept_keeps (keeps_mk h (.map (fun _ => Eq.refl _) .rfl) .rfl .rfl .rfl (List.prefix_refl _)
    (Nat.le_refl _))) (accept_keeps (updRegion_keeps h))

theorem writeRestore_keeps {s0 s : State} (h : Keeps s0 s) : Keeps1 s0 (writeRestore s) := by
  unfold writeRestore
  split
  · rename_i e2
    have k1 := keeps1_of (appendRec_keeps h) e2
    exact keeps1_mk k1
  · rename_i e2
    have k1 := keeps1_of (appendRec_keeps h) e2
    exact keeps1_mk k1

theorem writeVolatile_keeps {s0 s : State} {src i : Nat} {sub v : Nat} {image : Option Bundle} {peers : List
    PeerReport} (h : Keeps s0 s) : Keeps1 s0 (writeVolatile s src i sub v image peers) := by
  unfold writeVolatile
  split
  · exact writeRestore_keeps h
  · exact accept_keeps (setSelection_keeps h)
  · exact accept_keeps (setSelection_keeps h)
  · exact accept_keeps (setSelection_keeps h)
  · exact accept_keeps (applyRoutes_keeps h)
  · exact writeReset_keeps h
  · exact accept_keeps (clearAlert_keeps h)
  · exact accept_keeps (keeps_mk h .rfl .rfl .rfl .rfl (List.prefix_refl _) (Nat.le_refl _))
  · exact accept_keeps (permitBreaker_keeps h)
  · exact revokeImage_keeps h
  · exact updateCommand_keeps h
  · exact accept_keeps (keeps_mk h .rfl .rfl .rfl (.same rfl rfl rfl rfl) (List.prefix_refl _) (Nat.le_refl _))
  · exact endDebug_keeps h
  · exact writeRetrain_keeps h
  · exact writeClearMark_keeps h
  · exact writeErase_keeps h
  · exact writeLoupe_keeps h
  · exact keeps1_ite (revokeKey_keeps h) (keeps1_ite (startCopy_keeps h) (keeps1_ite (writeTimed_keeps h)
      (keeps1_ite (accept_keeps (fireEvent_keeps h)) (keeps1_ite (slotCommand_keeps h) (keeps1_ite (accept_keeps
      (updPort_keeps h)) (keeps1_ite (writeScrub_keeps h) (accept_keeps (setNum_keeps h))))))))

theorem writeNumber_keeps {s0 s : State} {src i : Nat} {sub v : Nat} {image : Option Bundle} {peers : List
    PeerReport} (h : Keeps s0 s) : Keeps1 s0 (writeNumber s src i sub v image peers) := by
  unfold writeNumber
  exact keeps1_ite (refuse_keeps h) (keeps1_ite (writeStored_keeps h) (writeVolatile_keeps h))

theorem writeBytes_keeps {s0 s : State} {src i sub : Nat} {b : List Byte} (h : Keeps s0 s) :
    Keeps1 s0 (writeBytes s src i sub b) := by
  unfold writeBytes
  split
  · exact keeps1_ite (refuse_keeps h) (keeps1_ite (refuse_keeps h) (storeVal_keeps h (fun _ => Keeps.rfl)))
  · exact keeps1_ite (refuse_keeps h) (keeps1_ite (refuse_keeps h) (keeps1_ite (refuse_keeps h) (storeVal_keeps h
      (fun _ => keeps_mk Keeps.rfl .rfl .rfl .rfl .rfl (List.prefix_refl _) (Nat.le_refl _)))))
  · exact writeChunk_keeps h
  · exact startAttest_keeps h
  · exact debugWrite_keeps h
  · exact keeps1_ite (storeVal_keeps h (fun _ => Keeps.rfl)) (refuse_keeps h)
  · exact keeps1_ite (programKey_keeps h) (keeps1_ite (refuse_keeps h) (keeps1_ite (refuse_keeps h) (storeVal_keeps
      h (fun _ => Keeps.rfl))))

theorem setSession_keeps {s0 s : State} {k : Nat} {x : Option Session} (h : Keeps s0 s) :
    Keeps s0 (setSession s k x) := by
  unfold setSession
  exact keeps_mk h .rfl .rfl .rfl .rfl (List.prefix_refl _) (Nat.le_refl _)

theorem dropSession_keeps {s0 s : State} {i sub : Nat} (h : Keeps s0 s) : Keeps s0 (dropSession s i sub) := by
  unfold dropSession
  extract_lets -underBinder -merge -useContext +onlyGivenNames s1
  have k2 : Keeps s0 s1 := setSession_keeps h
  clear_value s1
  exact keeps_ite (failLoad_keeps k2) k2

theorem openSession_keeps {s0 s : State} {src client : Nat} {i sub total : Nat} (h : Keeps s0 s) :
    Keeps1 s0 (openSession s src client i sub total) := by
  unfold openSession
  exact keeps1_ite (refuse_keeps h) (keeps1_ite (refuse_keeps h) (keeps1_ite (keeps1_ite (accept_keeps
    (setSession_keeps (keeps_ite h (updModel_keeps (unbindSlot_keeps h))))) (refuse_keeps h)) (keeps1_ite
    (refuse_keeps h) (accept_keeps (setSession_keeps h)))))

theorem checkHead_keeps {s0 s : State} {m : Nat} {x : Session} {before : Nat} (h : Keeps s0 s) :
    Keeps s0 (checkHead s m x before) := by
  unfold checkHead
  split
  · exact keeps_ite (bindEarly_keeps h) (failLoad_keeps h)
  · exact bindEarly_keeps h
  · exact h

theorem writeSession_keeps {s0 s : State} {src client : Nat} {i sub off : Nat} {b : List Byte} (h : Keeps s0 s) :
    Keeps1 s0 (writeSession s src client i sub off b) := by
  unfold writeSession
  extract_lets -underBinder -merge -useContext +onlyGivenNames x1 x2
  refine keeps1_ite ?_ ?_
  · exact keeps1_mk h
  · split
    · exact keeps1_mk h
    · exact keeps1_ite (keeps1_mk h) (keeps1_ite (keeps1_mk h) (keeps1_ite (keeps1_ite (keeps1_mk h) (keeps1_mk
        (checkHead_keeps (setSession_keeps h)))) (keeps1_mk (setSession_keeps h))))

theorem commitSession_keeps {s0 s : State} {src client : Nat} {i sub crc : Nat} (h : Keeps s0 s) :
    Keeps1 s0 (commitSession s src client i sub crc) := by
  unfold commitSession
  extract_lets -underBinder -merge -useContext +onlyGivenNames x1 x2
  refine keeps1_ite ?_ ?_
  · exact keeps1_ite (keeps1_mk (dropSession_keeps h)) (refuse_keeps h)
  · split
    · exact refuse_keeps h
    · exact keeps1_ite (refuse_keeps h) (keeps1_ite (keeps1_ite (keeps1_mk (dropSession_keeps h)) (accept_keeps
        (commitLoad_keeps (setSession_keeps h)))) (keeps1_ite (refuse_keeps h) (keeps1_ite (refuse_keeps h)
        (writeBytes_keeps (setSession_keeps h)))))

theorem abortSession_keeps {s0 s : State} {src client : Nat} {i sub : Nat} (h : Keeps s0 s) :
    Keeps1 s0 (abortSession s src client i sub) := by
  unfold abortSession
  exact keeps1_ite (refuse_keeps h) (keeps1_ite (refuse_keeps h) (keeps1_ite (refuse_keeps h) (accept_keeps
    (dropSession_keeps h))))

theorem commitWhole_keeps {s0 s : State} {src client : Nat} {i sub : Nat} {b : List Byte} (h : Keeps s0 s) :
    Keeps1 s0 (commitWhole s src client i sub b) := by
  unfold commitWhole
  exact keeps1_ite (refuse_keeps h) (keeps1_ite (refuse_keeps h) (keeps1_ite (refuse_keeps h) (writeBytes_keeps
    (setSession_keeps h))))

end Sys2Proof.Laws
end

