-- ==== Sys2Proof/Laws/KeepsRequests.lean ====
section
/-! SUPPORT. Every operation of Machine/Requests.lean keeps what Laws/Keeps.lean says: one lemma each, by the shape of its body. -/

namespace Sys2Proof.Laws

open Sys2Proof.Machine

theorem garbled_keeps {s0 s : State} {q : Req} (h : Keeps s0 s) : KeepsO s0 (garbled s q) := by
  unfold garbled
  exact keepsO_ite (keepsO_some (canError_keeps h)) (keepsO_ite (keepsO_some (keeps_mk h .rfl .rfl .rfl .rfl
    (List.prefix_refl _) (Nat.le_refl _))) keepsO_none)

theorem answer_keeps {s0 s : State} {q : Req} {cmd i sub : Nat} {x : Reply} (h : Keeps s0 s) :
    Keeps s0 (answer s q cmd i sub x) := by
  unfold answer
  extract_lets -underBinder -merge -useContext +onlyGivenNames x1 s2 x3
  have k4 : Keeps s0 s2 := emit_keeps h
  clear_value s2
  exact keeps_ite k4 (keeps_mk k4 .rfl .rfl .rfl .rfl (List.prefix_refl _) (Nat.le_refl _))

theorem onRequest_keeps {s0 s : State} {q : Req} {cmd i sub : Nat} {act : State → State × Reply} (h : Keeps s0 s)
    (h5 : ∀ b0, Keeps1 b0 (act b0)) : Keeps s0 (onRequest s q cmd i sub act) := by
  unfold onRequest
  refine keeps_ite ?_ ?_
  · exact h
  · split
    · rename_i e1
      have k2 := (garbled_keeps h) _ e1
      exact k2
    · split
      · exact emit_keeps (keeps_mk h .rfl .rfl .rfl .rfl (List.prefix_refl _) (Nat.le_refl _))
      · refine keeps_ite ?_ ?_
        · exact answer_keeps h
        · split
          · exact answer_keeps h
          · split
            rename_i e4
            have k3 := keeps1_of (Keeps.trans (keeps_mk h .rfl .rfl .rfl .rfl (List.prefix_refl _) (Nat.le_refl _))
              (h5 _)) e4
            exact answer_keeps k3

theorem onWrite_keeps {s0 s : State} {q : Req} {cmd i sub : Nat} {act : State → State × Nat} (h : Keeps s0 s) (h5 :
    ∀ b0, Keeps1 b0 (act b0)) : Keeps s0 (onWrite s q cmd i sub act) := by
  unfold onWrite
  refine onRequest_keeps h (fun v1 => ?_)
  split
  rename_i e3
  have k2 := keeps1_of (Keeps.trans Keeps.rfl (h5 _)) e3
  exact keeps1_mk k2

theorem writeReq_keeps {s0 s : State} {q : Req} {i sub v : Nat} (h : Keeps s0 s) :
    Keeps s0 (writeReq s q i sub v) := by
  unfold writeReq
  exact onWrite_keeps h (fun _ => writeNumber_keeps Keeps.rfl)

theorem commitReq_keeps {s0 s : State} {q : Req} {i sub : Nat} {b : List Byte} (h : Keeps s0 s) :
    Keeps s0 (commitReq s q i sub b) := by
  unfold commitReq
  exact onWrite_keeps h (fun _ => commitWhole_keeps Keeps.rfl)

theorem execRead_keeps {s0 : State} {q : Req} {index sub : Nat} {s : State} (h : Keeps s0 s) :
    KeepsR s0 (execRead q index sub s) := by
  unfold execRead
  exact keeps_next (onRequest_keeps h (fun _ => keeps1_mk Keeps.rfl))

theorem execWrite_keeps {s0 : State} {q : Req} {index sub typ : Nat} {value : List Byte} {s : State} (h : Keeps s0
    s) : KeepsR s0 (execWrite q index sub typ value s) := by
  unfold execWrite
  refine keeps_next ?_
  refine onWrite_keeps h (fun v1 => ?_)
  split
  · exact keeps1_ite (refuse_keeps Keeps.rfl) (writeNumber_keeps Keeps.rfl)
  · exact refuse_keeps Keeps.rfl

theorem dropCopy_keeps {s0 s : State} {src client k : Nat} (h : Keeps s0 s) :
    Keeps s0 (dropCopy s src client k) := by
  unfold dropCopy
  exact keeps_mk h .rfl .rfl .rfl .rfl (List.prefix_refl _) (Nat.le_refl _)

theorem dreadAct_keeps {s0 s : State} {src client : Nat} {i sub : Nat} {off len : Nat} (h : Keeps s0 s) :
    Keeps1 s0 (dreadAct s src client i sub off len) := by
  unfold dreadAct
  extract_lets -underBinder -merge -useContext +onlyGivenNames x1
  split
  · exact keeps1_mk h
  · refine keeps1_ite ?_ ?_
    · exact keeps1_mk h
    · refine keeps1_ite ?_ ?_
      · exact keeps1_mk h
      · extract_lets -underBinder -merge -useContext +onlyGivenNames x2 x3 s4 x5 s6 x7
        have k8 : Keeps s0 s4 := dropCopy_keeps h
        clear_value s4
        have k9 : Keeps s0 s6 := keeps_ite (keeps_ite (keeps_mk k8 .rfl .rfl .rfl .rfl (List.prefix_refl _)
          (Nat.le_refl _)) k8) h
        clear_value s6
        exact keeps1_mk k9

theorem execDread_keeps {s0 : State} {q : Req} {index sub : Nat} {offset len : Nat} {s : State} (h : Keeps s0 s) :
    KeepsR s0 (execDread q index sub offset len s) := by
  unfold execDread
  exact keeps_next (onRequest_keeps h (fun _ => dreadAct_keeps Keeps.rfl))

theorem execDopen_keeps {s0 : State} {q : Req} {index sub total : Nat} {s : State} (h : Keeps s0 s) :
    KeepsR s0 (execDopen q index sub total s) := by
  unfold execDopen
  exact keeps_next (onWrite_keeps h (fun _ => openSession_keeps Keeps.rfl))

theorem execDwrite_keeps {s0 : State} {q : Req} {index sub offset : Nat} {data : List Byte} {s : State} (h : Keeps
    s0 s) : KeepsR s0 (execDwrite q index sub offset data s) := by
  unfold execDwrite
  refine keeps_next ?_
  refine onRequest_keeps h (fun v1 => ?_)
  split
  rename_i e3
  have k2 := keeps1_of (writeSession_keeps Keeps.rfl) e3
  exact keeps1_mk k2

theorem execDcommit_keeps {s0 : State} {q : Req} {index sub crc : Nat} {s : State} (h : Keeps s0 s) :
    KeepsR s0 (execDcommit q index sub crc s) := by
  unfold execDcommit
  exact keeps_next (onWrite_keeps h (fun _ => commitSession_keeps Keeps.rfl))

theorem execDabort_keeps {s0 : State} {q : Req} {index sub : Nat} {s : State} (h : Keeps s0 s) :
    KeepsR s0 (execDabort q index sub s) := by
  unfold execDabort
  exact keeps_next (onWrite_keeps h (fun _ => abortSession_keeps Keeps.rfl))

theorem execSessionTimeout_keeps {s0 : State} {index sub : Nat} {s : State} (h : Keeps s0 s) :
    KeepsR s0 (execSessionTimeout index sub s) := by
  unfold execSessionTimeout
  exact keeps_next (keeps_ite (dropSession_keeps h) h)

theorem execReadCopyExpiry_keeps {s0 : State} {src client : Nat} {index sub : Nat} {s : State} (h : Keeps s0 s) :
    KeepsR s0 (execReadCopyExpiry src client index sub s) := by
  unfold execReadCopyExpiry
  exact keeps_next (dropCopy_keeps h)

theorem execHeartbeatPeriodWrite_keeps {s0 : State} {q : Req} {value : Nat} {s : State} (h : Keeps s0 s) :
    KeepsR s0 (execHeartbeatPeriodWrite q value s) := by
  unfold execHeartbeatPeriodWrite
  exact keeps_next (writeReq_keeps h)

theorem execDictWarmRestart_keeps {s0 : State} {q : Req} {s : State} (h : Keeps s0 s) :
    KeepsR s0 (execDictWarmRestart q s) := by
  unfold execDictWarmRestart
  exact keeps_next (writeReq_keeps h)

theorem execDictFullTrainingReset_keeps {s0 : State} {q : Req} {s : State} (h : Keeps s0 s) :
    KeepsR s0 (execDictFullTrainingReset q s) := by
  unfold execDictFullTrainingReset
  exact keeps_next (writeReq_keeps h)

theorem execAlertSummaryClear_keeps {s0 : State} {q : Req} {mask : Nat} {s : State} (h : Keeps s0 s) :
    KeepsR s0 (execAlertSummaryClear q mask s) := by
  unfold execAlertSummaryClear
  exact keeps_next (writeReq_keeps h)

theorem execRestoreDefaults_keeps {s0 : State} {q : Req} {s : State} (h : Keeps s0 s) :
    KeepsR s0 (execRestoreDefaults q s) := by
  unfold execRestoreDefaults
  exact keeps_next (writeReq_keeps h)

theorem execStoreCompaction_keeps {s0 s : State} (h : Keeps s0 s) : KeepsR s0 (execStoreCompaction s) := by
  unfold execStoreCompaction
  exact keeps_next (keeps_ite (compact_keeps h) h)

theorem execLogErase_keeps {s0 : State} {q : Req} {s : State} (h : Keeps s0 s) : KeepsR s0 (execLogErase q s) := by
  unfold execLogErase
  exact keeps_next (writeReq_keeps h)

theorem execLoupeClearAll_keeps {s0 : State} {q : Req} {s : State} (h : Keeps s0 s) :
    KeepsR s0 (execLoupeClearAll q s) := by
  unfold execLoupeClearAll
  exact keeps_next (writeReq_keeps h)

theorem execLoupeClearRegion_keeps {s0 : State} {q : Req} {s : State} (h : Keeps s0 s) :
    KeepsR s0 (execLoupeClearRegion q s) := by
  unfold execLoupeClearRegion
  exact keeps_next (writeReq_keeps h)

theorem execPpsValueWrite_keeps {s0 : State} {q : Req} {value : Nat} {s : State} (h : Keeps s0 s) :
    KeepsR s0 (execPpsValueWrite q value s) := by
  unfold execPpsValueWrite
  exact keeps_next (writeReq_keeps h)

theorem execBreakerPermit_keeps {s0 : State} {q : Req} {s : State} (h : Keeps s0 s) :
    KeepsR s0 (execBreakerPermit q s) := by
  unfold execBreakerPermit
  exact keeps_next (writeReq_keeps h)

theorem execTimedActionArm_keeps {s0 : State} {q : Req} {slot : Nat} {s : State} (h : Keeps s0 s) :
    KeepsR s0 (execTimedActionArm q slot s) := by
  unfold execTimedActionArm
  exact keeps_next (writeReq_keeps h)

theorem execTimedActionCancel_keeps {s0 : State} {q : Req} {slot : Nat} {s : State} (h : Keeps s0 s) :
    KeepsR s0 (execTimedActionCancel q slot s) := by
  unfold execTimedActionCancel
  exact keeps_next (writeReq_keeps h)

theorem execEventFire_keeps {s0 : State} {q : Req} {n payload : Nat} {s : State} (h : Keeps s0 s) :
    KeepsR s0 (execEventFire q n payload s) := by
  unfold execEventFire
  exact keeps_next (writeReq_keeps h)

theorem execRetrainRegion_keeps {s0 : State} {q : Req} {p : Nat} {s : State} (h : Keeps s0 s) :
    KeepsR s0 (execRetrainRegion q p s) := by
  unfold execRetrainRegion
  exact keeps_next (writeReq_keeps h)

theorem execClearDeadMark_keeps {s0 : State} {q : Req} {p : Nat} {s : State} (h : Keeps s0 s) :
    KeepsR s0 (execClearDeadMark q p s) := by
  unfold execClearDeadMark
  exact keeps_next (writeReq_keeps h)

theorem execScratchpadScrub_keeps {s0 : State} {q : Req} {p : Nat} {s : State} (h : Keeps s0 s) :
    KeepsR s0 (execScratchpadScrub q p s) := by
  unfold execScratchpadScrub
  exact keeps_next (writeReq_keeps h)

theorem execPortEnable_keeps {s0 : State} {q : Req} {p : Nat} {s : State} (h : Keeps s0 s) :
    KeepsR s0 (execPortEnable q p s) := by
  unfold execPortEnable
  exact keeps_next (writeReq_keeps h)

theorem execPortDisable_keeps {s0 : State} {q : Req} {p : Nat} {s : State} (h : Keeps s0 s) :
    KeepsR s0 (execPortDisable q p s) := by
  unfold execPortDisable
  exact keeps_next (writeReq_keeps h)

theorem execRouteEntryWrite_keeps {s0 : State} {q : Req} {value : Nat} {s : State} (h : Keeps s0 s) :
    KeepsR s0 (execRouteEntryWrite q value s) := by
  unfold execRouteEntryWrite
  exact keeps_next (writeReq_keeps h)

theorem execRouteTableApply_keeps {s0 : State} {q : Req} {s : State} (h : Keeps s0 s) :
    KeepsR s0 (execRouteTableApply q s) := by
  unfold execRouteTableApply
  exact keeps_next (writeReq_keeps h)

theorem execSlotLoad_keeps {s0 : State} {q : Req} {m : Nat} {image : Option Bundle} {s : State} (h : Keeps s0 s) :
    KeepsR s0 (execSlotLoad q m image s) := by
  unfold execSlotLoad
  exact keeps_next (onWrite_keeps h (fun _ => writeNumber_keeps Keeps.rfl))

theorem execSlotServe_keeps {s0 : State} {q : Req} {m : Nat} {peers : List PeerReport} {s : State} (h : Keeps s0 s)
    :
    KeepsR s0 (execSlotServe q m peers s) := by
  unfold execSlotServe
  exact keeps_next (onWrite_keeps h (fun _ => writeNumber_keeps Keeps.rfl))

theorem execSlotStop_keeps {s0 : State} {q : Req} {m : Nat} {s : State} (h : Keeps s0 s) :
    KeepsR s0 (execSlotStop q m s) := by
  unfold execSlotStop
  exact keeps_next (writeReq_keeps h)

theorem execSlotUnload_keeps {s0 : State} {q : Req} {m : Nat} {s : State} (h : Keeps s0 s) :
    KeepsR s0 (execSlotUnload q m s) := by
  unfold execSlotUnload
  exact keeps_next (writeReq_keeps h)

theorem execUpdateBegin_keeps {s0 : State} {q : Req} {s : State} (h : Keeps s0 s) :
    KeepsR s0 (execUpdateBegin q s) := by
  unfold execUpdateBegin
  exact keeps_next (writeReq_keeps h)

theorem execUpdateVerify_keeps {s0 : State} {q : Req} {s : State} (h : Keeps s0 s) :
    KeepsR s0 (execUpdateVerify q s) := by
  unfold execUpdateVerify
  exact keeps_next (writeReq_keeps h)

theorem execUpdateActivate_keeps {s0 : State} {q : Req} {s : State} (h : Keeps s0 s) :
    KeepsR s0 (execUpdateActivate q s) := by
  unfold execUpdateActivate
  exact keeps_next (writeReq_keeps h)

theorem execUpdateCommit_keeps {s0 : State} {q : Req} {s : State} (h : Keeps s0 s) :
    KeepsR s0 (execUpdateCommit q s) := by
  unfold execUpdateCommit
  exact keeps_next (writeReq_keeps h)

theorem execUpdateCancel_keeps {s0 : State} {q : Req} {s : State} (h : Keeps s0 s) :
    KeepsR s0 (execUpdateCancel q s) := by
  unfold execUpdateCancel
  exact keeps_next (writeReq_keeps h)

theorem execUpdateFetch_keeps {s0 : State} {q : Req} {s : State} (h : Keeps s0 s) :
    KeepsR s0 (execUpdateFetch q s) := by
  unfold execUpdateFetch
  exact keeps_next (writeReq_keeps h)

theorem execImageChunkWrite_keeps {s0 : State} {q : Req} {chunk : List Byte} {s : State} (h : Keeps s0 s) :
    KeepsR s0 (execImageChunkWrite q chunk s) := by
  unfold execImageChunkWrite
  exact keeps_next (commitReq_keeps h)

theorem execRevokeImageKey_keeps {s0 : State} {q : Req} {k : Nat} {s : State} (h : Keeps s0 s) :
    KeepsR s0 (execRevokeImageKey q k s) := by
  unfold execRevokeImageKey
  exact keeps_next (writeReq_keeps h)

theorem execAttestationNonce_keeps {s0 : State} {q : Req} {nonce : List Byte} {s : State} (h : Keeps s0 s) :
    KeepsR s0 (execAttestationNonce q nonce s) := by
  unfold execAttestationNonce
  exact keeps_next (commitReq_keeps h)

theorem execDebugToken_keeps {s0 : State} {q : Req} {token : List Byte} {s : State} (h : Keeps s0 s) :
    KeepsR s0 (execDebugToken q token s) := by
  unfold execDebugToken
  exact keeps_next (commitReq_keeps h)

theorem execDebugUnlockEnd_keeps {s0 : State} {q : Req} {s : State} (h : Keeps s0 s) :
    KeepsR s0 (execDebugUnlockEnd q s) := by
  unfold execDebugUnlockEnd
  exact keeps_next (writeReq_keeps h)

theorem execProgramBundleKey_keeps {s0 : State} {q : Req} {k : Nat} {hash : List Byte} {s : State} (h : Keeps s0 s)
    :
    KeepsR s0 (execProgramBundleKey q k hash s) := by
  unfold execProgramBundleKey
  exact keeps_next (commitReq_keeps h)

theorem execRevokeBundleKey_keeps {s0 : State} {q : Req} {k : Nat} {s : State} (h : Keeps s0 s) :
    KeepsR s0 (execRevokeBundleKey q k s) := by
  unfold execRevokeBundleKey
  exact keeps_next (writeReq_keeps h)

theorem execBundleFlashCopy_keeps {s0 : State} {q : Req} {f offset : Nat} {s : State} (h : Keeps s0 s) :
    KeepsR s0 (execBundleFlashCopy q f offset s) := by
  unfold execBundleFlashCopy
  exact keeps_next (writeReq_keeps h)

theorem mirrorWrite_keeps {s0 s : State} {d : ObjDef} {a size data : Nat} (h : Keeps s0 s) :
    Keeps1 s0 (mirrorWrite s d a size data) := by
  unfold mirrorWrite
  split
  · exact keeps1_mk h
  · exact keeps1_mk h
  · refine keeps1_ite ?_ ?_
    · exact keeps1_mk h
    · extract_lets -underBinder -merge -useContext +onlyGivenNames x1
      split
      rename_i e3
      have k2 := keeps1_of (writeNumber_keeps h) e3
      exact keeps1_ite (keeps1_mk k2) (keeps1_mk k2)

theorem mirrorAccess_keeps {s0 s : State} {a op : Nat} {size data : Nat} (h : Keeps s0 s) :
    Keeps1 s0 (mirrorAccess s a op size data) := by
  unfold mirrorAccess
  split
  · exact keeps1_mk h
  · refine keeps1_ite ?_ ?_
    · exact keeps1_mk h
    · refine keeps1_ite ?_ ?_
      · split
        rename_i e2
        have k1 := keeps1_of (mirrorWrite_keeps h) e2
        exact keeps1_mk k1
      · exact keeps1_ite (keeps1_mk h) (keeps1_mk h)

theorem replyAccess_keeps {s0 s : State} {k : Packet} {ok : Bool} {data : Nat} (h : Keeps s0 s) :
    Keeps s0 (replyAccess s k ok data) := by
  unfold replyAccess
  exact keeps_ite (sendBy_keeps h) (bridgeSend_keeps h)

theorem execControlSpaceAccess_keeps {s0 s : State} (h : Keeps s0 s) : KeepsR s0 (execControlSpaceAccess s) := by
  unfold execControlSpaceAccess
  refine keeps_next ?_
  refine keeps_ite ?_ ?_
  · exact h
  · split
    · exact h
    · extract_lets -underBinder -merge -useContext +onlyGivenNames x1 s2
      have k3 : Keeps s0 s2 := keeps_mk h .rfl .rfl .rfl .rfl (List.prefix_refl _) (Nat.le_refl _)
      clear_value s2
      split
      rename_i e5
      have k4 := keeps1_of (mirrorAccess_keeps k3) e5
      exact keeps_ite k4 (replyAccess_keeps k4)

end Sys2Proof.Laws
end

