-- ==== Sys2Proof/Laws/KeepsXnt.lean ====
section
/-! SUPPORT. Every operation of Machine/Xnt.lean keeps what Laws/Keeps.lean says: one lemma each, by the shape of its body. -/

namespace Sys2Proof.Laws

open Sys2Proof.Machine

theorem onIssue_keeps {s0 s : State} {t off align : Nat} {len : Nat → Nat} {ok : Nat → State} (h : Keeps s0 s) (h5
    : ∀ b0, Keeps s0 (ok b0)) : Keeps s0 (onIssue s t off align len ok) := by
  unfold onIssue
  exact keeps_ite (faultHere_keeps h) (keeps_ite (faultHere_keeps h) (keeps_ite (faultHere_keeps h) (h5 _)))

theorem doSend_keeps {s0 s : State} {t off len : Nat} {errs : LineErrors} (h : Keeps s0 s) :
    Keeps s0 (doSend s t off len errs) := by
  unfold doSend
  exact onIssue_keeps h (fun _ => keeps_ite h (onLines_keeps h (fun _ => updCore_keeps (updMsg_keeps Keeps.rfl))))

theorem doRun_keeps {s0 s : State} {t off len : Nat} {prism : Bool} {a5 a6 : Word} {errs : LineErrors} (h : Keeps
    s0 s) : Keeps s0 (doRun s t off len prism a5 a6 errs) := by
  unfold doRun
  refine onIssue_keeps h (fun _ => ?_)
  extract_lets -underBinder -merge -useContext +onlyGivenNames x2 x3
  refine keeps_ite ?_ ?_
  · exact h
  · refine onLines_keeps h (fun v4 => ?_)
    extract_lets -underBinder -merge -useContext +onlyGivenNames x5 s6
    have k7 : Keeps v4 s6 := updTile_keeps Keeps.rfl
    clear_value s6
    exact updCore_keeps k7

theorem doNotify_keeps {s0 s : State} {t : Nat} {payload : Word} {len : Nat} (h : Keeps s0 s) :
    Keeps s0 (doNotify s t payload len) := by
  unfold doNotify
  refine keeps_ite ?_ ?_
  · exact h
  · extract_lets -underBinder -merge -useContext +onlyGivenNames x1 s2
    have k3 : Keeps s0 s2 := loupeTile_keeps (updMsg_keeps h)
    clear_value s2
    exact updCore_keeps k3

theorem execMsgSend_keeps {s0 : State} {t : Nat} {errs : LineErrors} {s : State} (h : Keeps s0 s) :
    KeepsR s0 (execMsgSend t errs s) := by
  unfold execMsgSend
  refine keeps_next ?_
  refine atXnt_keeps h (fun v1 _ _ => ?_)
  split
  · exact doSend_keeps Keeps.rfl
  · exact Keeps.rfl

theorem execMsgSendi_keeps {s0 : State} {t : Nat} {errs : LineErrors} {s : State} (h : Keeps s0 s) :
    KeepsR s0 (execMsgSendi t errs s) := by
  unfold execMsgSendi
  refine keeps_next ?_
  refine atXnt_keeps h (fun v1 _ _ => ?_)
  split
  · exact doSend_keeps Keeps.rfl
  · exact Keeps.rfl

theorem execMsgAvail_keeps {s0 : State} {t : Nat} {s : State} (h : Keeps s0 s) : KeepsR s0 (execMsgAvail t s) := by
  unfold execMsgAvail
  refine keeps_next ?_
  refine atXnt_keeps h (fun v1 _ _ => ?_)
  split
  · exact updCore_keeps Keeps.rfl
  · exact Keeps.rfl

theorem execMsgFence_keeps {s0 : State} {t : Nat} {s : State} (h : Keeps s0 s) : KeepsR s0 (execMsgFence t s) := by
  unfold execMsgFence
  exact keeps_next (atXnt_keeps h (fun _ _ _ => keeps_ite (updCore_keeps Keeps.rfl) Keeps.rfl))

theorem execBmArrive_keeps {s0 : State} {t : Nat} {s : State} (h : Keeps s0 s) : KeepsR s0 (execBmArrive t s) := by
  unfold execBmArrive
  refine keeps_next ?_
  refine atXnt_keeps h (fun v1 _ _ => ?_)
  split
  · exact updCore_keeps (arriveTile_keeps Keeps.rfl)
  · exact Keeps.rfl

theorem execBmTest_keeps {s0 : State} {t : Nat} {s : State} (h : Keeps s0 s) : KeepsR s0 (execBmTest t s) := by
  unfold execBmTest
  refine keeps_next ?_
  refine atXnt_keeps h (fun v1 _ _ => ?_)
  split
  · exact updCore_keeps Keeps.rfl
  · exact Keeps.rfl

theorem execBmWait_keeps {s0 : State} {t : Nat} {s : State} (h : Keeps s0 s) : KeepsR s0 (execBmWait t s) := by
  unfold execBmWait
  refine keeps_next ?_
  refine atXnt_keeps h (fun v1 _ _ => ?_)
  split
  · exact updCore_keeps (arriveTile_keeps Keeps.rfl)
  · exact Keeps.rfl

theorem execSlWait_keeps {s0 : State} {t : Nat} {s : State} (h : Keeps s0 s) : KeepsR s0 (execSlWait t s) := by
  unfold execSlWait
  refine keeps_next ?_
  refine atXnt_keeps h (fun v1 _ _ => ?_)
  split
  · exact updCore_keeps Keeps.rfl
  · exact Keeps.rfl

theorem execMxRun_keeps {s0 : State} {t : Nat} {errs : LineErrors} {s : State} (h : Keeps s0 s) :
    KeepsR s0 (execMxRun t errs s) := by
  unfold execMxRun
  refine keeps_next ?_
  refine atXnt_keeps h (fun v1 _ _ => ?_)
  split
  · exact doRun_keeps Keeps.rfl
  · exact Keeps.rfl

theorem execMxRuni_keeps {s0 : State} {t : Nat} {errs : LineErrors} {s : State} (h : Keeps s0 s) :
    KeepsR s0 (execMxRuni t errs s) := by
  unfold execMxRuni
  refine keeps_next ?_
  refine atXnt_keeps h (fun v1 _ _ => ?_)
  split
  · exact doRun_keeps Keeps.rfl
  · exact Keeps.rfl

theorem execMxFence_keeps {s0 : State} {t : Nat} {s : State} (h : Keeps s0 s) : KeepsR s0 (execMxFence t s) := by
  unfold execMxFence
  exact keeps_next (atXnt_keeps h (fun _ _ _ => keeps_ite (updCore_keeps Keeps.rfl) Keeps.rfl))

theorem execMxCount_keeps {s0 : State} {t : Nat} {s : State} (h : Keeps s0 s) : KeepsR s0 (execMxCount t s) := by
  unfold execMxCount
  refine keeps_next ?_
  refine atXnt_keeps h (fun v1 _ _ => ?_)
  split
  · exact updCore_keeps Keeps.rfl
  · exact Keeps.rfl

theorem execPzRun_keeps {s0 : State} {t : Nat} {errs : LineErrors} {s : State} (h : Keeps s0 s) :
    KeepsR s0 (execPzRun t errs s) := by
  unfold execPzRun
  refine keeps_next ?_
  refine atXnt_keeps h (fun v1 _ _ => ?_)
  split
  · exact doRun_keeps Keeps.rfl
  · exact Keeps.rfl

theorem execPzRuni_keeps {s0 : State} {t : Nat} {errs : LineErrors} {s : State} (h : Keeps s0 s) :
    KeepsR s0 (execPzRuni t errs s) := by
  unfold execPzRuni
  refine keeps_next ?_
  refine atXnt_keeps h (fun v1 _ _ => ?_)
  split
  · exact doRun_keeps Keeps.rfl
  · exact Keeps.rfl

theorem execPzFence_keeps {s0 : State} {t : Nat} {s : State} (h : Keeps s0 s) : KeepsR s0 (execPzFence t s) := by
  unfold execPzFence
  exact keeps_next (atXnt_keeps h (fun _ _ _ => keeps_ite (updCore_keeps Keeps.rfl) Keeps.rfl))

theorem execPzCount_keeps {s0 : State} {t : Nat} {s : State} (h : Keeps s0 s) : KeepsR s0 (execPzCount t s) := by
  unfold execPzCount
  refine keeps_next ?_
  refine atXnt_keeps h (fun v1 _ _ => ?_)
  split
  · exact updCore_keeps Keeps.rfl
  · exact Keeps.rfl

theorem onT0_keeps {s0 s : State} {t : Nat} {ok : State} (h : Keeps s0 s) (h2 : Keeps s0 ok) :
    Keeps s0 (onT0 s t ok) := by
  unfold onT0
  exact keeps_ite h2 (faultHere_keeps h)

theorem execTkStart_keeps {s0 : State} {t : Nat} {s : State} (h : Keeps s0 s) : KeepsR s0 (execTkStart t s) := by
  unfold execTkStart
  refine keeps_next ?_
  refine atXnt_keeps h (fun v1 _ _ => ?_)
  split
  · exact onT0_keeps Keeps.rfl (updCore_keeps Keeps.rfl)
  · exact Keeps.rfl

theorem execTkExit_keeps {s0 : State} {t : Nat} {s : State} (h : Keeps s0 s) : KeepsR s0 (execTkExit t s) := by
  unfold execTkExit
  exact keeps_next (atXnt_keeps h (fun _ _ _ => updCore_keeps Keeps.rfl))

theorem execTkYield_keeps {s0 : State} {t : Nat} {s : State} (h : Keeps s0 s) : KeepsR s0 (execTkYield t s) := by
  unfold execTkYield
  exact keeps_next (atXnt_keeps h (fun _ _ _ => updCore_keeps Keeps.rfl))

theorem execTkReset_keeps {s0 : State} {t : Nat} {s : State} (h : Keeps s0 s) : KeepsR s0 (execTkReset t s) := by
  unfold execTkReset
  refine keeps_next ?_
  refine atXnt_keeps h (fun v1 _ _ => ?_)
  split
  · exact onT0_keeps Keeps.rfl (keeps_ite (faultHere_keeps Keeps.rfl) (doReset_keeps Keeps.rfl))
  · exact Keeps.rfl

theorem execTkWdog_keeps {s0 : State} {t : Nat} {s : State} (h : Keeps s0 s) : KeepsR s0 (execTkWdog t s) := by
  unfold execTkWdog
  exact keeps_next (atXnt_keeps h (fun _ _ _ => updCore_keeps Keeps.rfl))

theorem execTbSnap_keeps {s0 : State} {t : Nat} {errs : LineErrors} {s : State} (h : Keeps s0 s) :
    KeepsR s0 (execTbSnap t errs s) := by
  unfold execTbSnap
  refine keeps_next ?_
  refine atXnt_keeps h (fun v1 _ _ => ?_)
  split
  · exact onAccess_keeps Keeps.rfl (fun _ => onLines_keeps Keeps.rfl (fun _ => updCore_keeps (writeNum_keeps
      Keeps.rfl)))
  · exact Keeps.rfl

theorem execTbWake_keeps {s0 : State} {t : Nat} {s : State} (h : Keeps s0 s) : KeepsR s0 (execTbWake t s) := by
  unfold execTbWake
  refine keeps_next ?_
  refine atXnt_keeps h (fun v1 _ _ => ?_)
  split
  · exact updCore_keeps Keeps.rfl
  · exact Keeps.rfl

theorem execTbCancel_keeps {s0 : State} {t : Nat} {s : State} (h : Keeps s0 s) : KeepsR s0 (execTbCancel t s) := by
  unfold execTbCancel
  exact keeps_next (atXnt_keeps h (fun _ _ _ => updCore_keeps Keeps.rfl))

theorem execTbNotify_keeps {s0 : State} {t : Nat} {s : State} (h : Keeps s0 s) : KeepsR s0 (execTbNotify t s) := by
  unfold execTbNotify
  refine keeps_next ?_
  refine atXnt_keeps h (fun v1 _ _ => ?_)
  split
  · exact doNotify_keeps Keeps.rfl
  · exact Keeps.rfl

theorem execTbNotifyi_keeps {s0 : State} {t : Nat} {s : State} (h : Keeps s0 s) :
    KeepsR s0 (execTbNotifyi t s) := by
  unfold execTbNotifyi
  refine keeps_next ?_
  refine atXnt_keeps h (fun v1 _ _ => ?_)
  split
  · exact doNotify_keeps Keeps.rfl
  · exact Keeps.rfl

theorem execLtSwitch_keeps {s0 : State} {t : Nat} {s : State} (h : Keeps s0 s) : KeepsR s0 (execLtSwitch t s) := by
  unfold execLtSwitch
  refine keeps_next ?_
  refine atXnt_keeps h (fun v1 _ _ => ?_)
  split
  · exact updCore_keeps (trigger_keeps Keeps.rfl)
  · exact Keeps.rfl

theorem execLtLdcfg_keeps {s0 : State} {t : Nat} {planeUe : Bool} {errs : LineErrors} {s : State} (h : Keeps s0 s) :
    KeepsR s0 (execLtLdcfg t planeUe errs s) := by
  unfold execLtLdcfg
  refine keeps_next ?_
  refine atXnt_keeps h (fun v1 _ _ => ?_)
  split
  · exact onT0_keeps Keeps.rfl (keeps_ite Keeps.rfl (keeps_ite (regionFault_keeps Keeps.rfl) (onIssue_keeps
      Keeps.rfl (fun _ => onLines_keeps Keeps.rfl (fun _ => updCore_keeps (loadPlane_keeps Keeps.rfl))))))
  · exact Keeps.rfl

theorem execWakeTimerFire_keeps {s0 : State} {t : Nat} {s : State} (h : Keeps s0 s) :
    KeepsR s0 (execWakeTimerFire t s) := by
  unfold execWakeTimerFire
  refine keeps_next ?_
  split
  · exact keeps_ite (updCore_keeps h) h
  · exact h

theorem execWatchdogExpiry_keeps {s0 : State} {t : Nat} {s : State} (h : Keeps s0 s) :
    KeepsR s0 (execWatchdogExpiry t s) := by
  unfold execWatchdogExpiry
  exact keeps_next (keeps_ite (regionFault_keeps h) h)

theorem execPatrolRead_keeps {s0 : State} {t bank : Nat} {err : EccOutcome} {s : State} (h : Keeps s0 s) :
    KeepsR s0 (execPatrolRead t bank err s) := by
  unfold execPatrolRead
  refine keeps_next ?_
  refine keeps_ite ?_ ?_
  · extract_lets -underBinder -merge -useContext +onlyGivenNames x1 s2
    have k3 : Keeps s0 s2 := updTile_keeps h
    clear_value s2
    exact onLine_keeps k3 (fun _ => Keeps.rfl)
  · exact h

end Sys2Proof.Laws
end

