-- ==== Sys2Proof/Machine/Figures.lean ====
section
/-! DEFINITION. The figures and bounds that the manual states as formulas, apart from any step: rates, latencies, costs. Times are
in ns or in the unit a definition names. No command reads them: the model has no wall time (log 4). -/

namespace Sys2Proof.Machine

/-! Figures of R3. -/

/-- Healthy regions at shipment, at least. -/
def shipmentHealthy : Nat := 4544
/-- Largest number of devices of a system. -/
def maxDevices : Nat := 65535
/-- On-wafer barrier release, at most, in ns (R3, R290). -/
def barrierNs : Nat := 160
/-- Sustained and 10 ms input power, at most, in W (R3, R465, R466). -/
def maxSustainedW : Nat := 30000
def maxPeakW : Nat := 34000
/-- Edge bandwidth of all ports in one direction, GB/s, at G3 (R3). -/
def edgeBandwidth : Nat := 32 * 16 * 200 / 8
/-- Scratchpad bytes read in a cycle by a tile (R3, R64). -/
def spadBytesPerCycle : Nat := 16 * 16

/-! Time units (R7). -/

/-- Picoseconds of a tick, of a nominal cycle. -/
def tickPs : Nat := 400
def cyclePs : Nat := 800
/-- Core frequency in kHz at dimming level k (R195, R422). -/
def coreKhz (k : Nat) : Nat := 1250000 * k / 32

/-! Schedules (R188). -/

/-- The ticks of `steps` steps and `holds` holds at dimming level k lie between these, times k, with `stretches` stretches. -/
def ticksLowTimesK (steps holds : Nat) : Nat := (steps + holds) * 64
def ticksHighTimesK (steps holds stretches : Nat) : Nat := (steps + holds) * 64 + stretches * 32

/-! Mesh (R231, R232). -/

/-- Bound in cycles on the data network: hops, crossing latencies, flits, queueing per hop, replays with their crossing latency. -/
def dataBound (h : Nat) (ls : List Nat) (f : Nat) (waits : List Nat) (replays : List Nat) : Nat :=
  4 + 2 * h + ls.sum + (f - 1) + 2 + waits.sum + (replays.map fun l => 6 + 2 * l).sum

/-- The same on the control network. -/
def controlBound (h : Nat) (ls : List Nat) (f : Nat) (waits : List Nat) (replays : List Nat) : Nat :=
  2 + h + ls.sum + (f - 1) + 1 + waits.sum + (replays.map fun l => 6 + 2 * l).sum

/-- Flits ahead of a head at an output, at most (R232). -/
def maxAheadData : Nat := 4 * 4 * 10 + 3 * 10 + 9
def maxAheadSkirt : Nat := 4 * 8 * 10 + 7 * 10 + 9
def maxAheadControl : Nat := 4 * 2 * 10 + 10 + 9

/-! Global operations (R290): `hop` is one link with its rim crossing. -/

def treeBarrier (d hop : Nat) : Nat := 160 + 2 * d * hop
def chainBarrier (devices hop : Nat) : Nat := 160 + 2 * (devices - 1) * hop
def ringBarrier (devices hop : Nat) : Nat := 160 + 2 * (devices / 2) * hop
/-- Spread of a timed action, in ns either way, at h timebase hops. -/
def actionSpreadNs (h : Nat) : Nat := 3 * h

/-! Recovery (R333, R334), in microseconds. -/

/-- Placement, at most, with slots bound by column shift and by choose(). -/
def placeBound (shifts chooses : Nat) : Nat := 3500000 + 5000 * shifts + 80000 * chooses
/-- Resume from detection: restore, placement, weights, mutable bytes, migration of the shifted regions, lead. -/
def resumeTime (restore place weights mutable_ migrate lead : Nat) : Nat :=
  10 + 200 + max restore place + weights + mutable_ + migrate + lead
/-- Migration of the shifted regions, in tenths of a microsecond. -/
def migrateTenths (shifted : Nat) : Nat := 254 * shifted

/-! Links (R338, R348, R363). -/

/-- Payload per lane in Gbit/s by generation (R338). -/
def laneGbit (g : Nat) : Nat := if g = 1 then 50 else if g = 2 then 100 else 200
/-- Port rate in GB/s with 16 lanes. -/
def portGBs (g : Nat) : Nat := laneGbit g * 16 / 8
/-- One link in ns over a medium in metres; G2 adds 32 ns. -/
def linkNs (g metres : Nat) : Nat := 20 + 40 + 145 + 30 + 5 * metres + (if g = 2 then 32 else 0)
/-- A packet over n links: mesh bounds at both ends, passes through the devices between, blocks queued ahead. -/
def fabricNs (ta n link pass tb queued : Nat) : Nat := ta + n * link + (n - 1) * pass + tb + queued

/-! Power path (R467, R470, R471). -/

/-- Fitted and needed intermediate bus converters. -/
def convertersFitted : Nat := 26
def convertersNeeded : Nat := 24

end Sys2Proof.Machine
end

