-- ==== Sys2Proof/WellFormed.lean ====
section
/-! DEFINITION. Which commands are well formed: operands that name an existing tile, region, port or slot, and values that fit
the field that carries them. -/

namespace Sys2Proof

/-- A physical tile (R16). -/
def tileOk (t : Nat) : Bool := t < 405504

/-- A physical region (R15). -/
def regionOk (p : Nat) : Bool := p < 4608

/-- A port (R337). -/
def portOk (p : Nat) : Bool := p < 32

/-- A dictionary source and a transaction ID (R282, R414). -/
def reqOk (q : Req) : Bool := q.src ≤ 4 && q.tid < 65536

/-- The sender of a GRP frame (R372, R385). -/
def clientOk (c : Client) : Bool := c.ip < 2 ^ 128 && c.udpPort < 65536 && c.port < 32 && c.iface < 8

/-- A tile or a port as injecting place. -/
def sourceOk (x : InjectSource) : Bool :=
  match x with
  | .tile t => tileOk t
  | .port p => portOk p

/-- The fields of a link frame (R344). -/
def frameOk (f : LinkFrame) : Bool := f.seq < 4096 && f.vc < 6 && f.nblk ≤ 11 && f.tseq < 65536 && f.ttl < 256 && f.bseq < 65536

/-- A command is well formed. -/
def wf (i : Instr) : Bool :=
  match i with
  | .auxSupplyInRange straps _ | .vin54OutOfRange _ straps | .breakerTrip _ _ straps => straps.nodeId < 128
  | .auxSupplyLost _ _ | .vin54BackInRange _ | .rstNFall | .rstNRelease | .resetStagesOffExpiry | .decisionCycle
  | .powerAverageRefresh _ _ _ _ | .coolantSample _ _ _ _ _ | .crystalQualWindowEnd _ | .crystalNotStable
  | .refclkQualified | .pllLocked | .safeHoldEntry | .referenceReturned | .safeHoldUngate _ | .safeHoldReturn
  | .safeHoldTimeout | .controlSpaceAccess | .tbReferenceMeasure _ | .tbHoldover | .ppsEdge | .ppsOutPulse
  | .timedActionDistribute _ | .timedResume _ | .timedSnapshot _ | .timedSectionSwitch _ | .timedBeamRelease _
  | .timedPortEnable _ | .timedReset _ | .notifyRecordArrival | .notifyEmit | .snapshotIntervalTick | .snapshotAbort
  | .stewardFailover | .standbyPlacement | .recoveryRebind | .recoveryWeightRebuild _ _ | .recoveryRestore _ _
  | .recoveryArmResume | .promptTimeout _ | .heartbeat | .storeCompaction | .logFlush | .stewardStart
  | .updateEraseDone | .updateVerifyDone _ | .attestationReady => true
  | .eyepiecePairLost pair => pair < 2
  | .breakerPermit q | .routeTableApply q | .dictWarmRestart q | .dictFullTrainingReset q | .restoreDefaults q
  | .logErase q | .loupeClearAll q | .loupeClearRegion q | .updateBegin q | .updateFetch q | .updateVerify q
  | .updateActivate q | .updateCommit q | .updateCancel q | .debugUnlockEnd q => reqOk q
  | .converterLost n => n < 26
  | .phaseLost p phase => regionOk p && phase < 3
  | .powerFuseTrip p | .voltageFault p | .thermalComparator p | .generatorSwitchover p | .clockGeneratorFail p
  | .temperatureSample p _ | .fenceComplete p | .migrationQuiesce p | .migrationCopy p _ | .migrationSwitchOff p
  | .migrationReplace p | .migrationTimeout p | .regionRetrainDone p _ _ => regionOk p
  | .referenceLost monitor => (monitor = 0 || (0x1000 ≤ monitor && monitor < 0x2200))
  | .droopStretch p e => regionOk p && 1 ≤ e && e ≤ 8
  | .crossingTokenRelease t inp | .latticeTokenArrival t inp | .routedForward t inp => tileOk t && inp < 20
  | .fetchInstruction t _ | .coreLoad t _ | .coreStore t _ | .coreCompute t | .fence t | .fenceI t | .wfi t
  | .ecall t | .ebreak t | .mret t | .csrInstruction t | .csrReadLowLatch t | .taskWindowWrite t | .taskCtlRst t
  | .ringOpen t | .ringClose t | .ringHeadWrite t | .ringEpochWrite t | .beamMaskWrite t | .dirtyValClear t
  | .fflagsXClear t | .faultCauseClear t | .msgAvail t | .msgFence t | .bmArrive t | .bmTest t | .bmWait t
  | .slWait t | .mxFence t | .mxCount t | .pzFence t | .pzCount t | .tkStart t | .tkExit t | .tkYield t | .tkReset t
  | .tkWdog t | .tbWake t | .tbCancel t | .tbNotify t | .tbNotifyi t | .ltSwitch t | .wakeTimerFire t
  | .watchdogExpiry t | .msgSend t _ | .msgSendi t _ | .mxRun t _ | .mxRuni t _ | .pzRun t _ | .pzRuni t _
  | .tbSnap t _ | .ltLdcfg t _ _ | .mxdCheck t _ | .matrixCompletion t _ _ | .residueMx t _ | .pzdCheck t _
  | .prismCompletion t _ _ | .residuePz t _ _ | .step t _ _ _ _ | .stallEvent t | .pairingQueueMove t _
  | .planeSwap t | .packetEject t _ | .reductionPacketArrival t _ | .reductionComplete t _ | .sendQueueValidate t _
  | .msgInjection t _ | .msgArrival t | .holdRegisterRetry t | .holdTimeout t | .ringTailUpdate t _ | .ackArrival t _
  | .readReplyArrival t _ | .nakArrival t _ | .remoteWrite t _ | .remoteRead t _ | .quiescePoint t
  | .snapshotTileDone t | .stashApply t => tileOk t
  | .patrolRead t bank _ => tileOk t && bank < 16
  | .packetInject source _ => sourceOk source
  | .flitGrant t _ out | .replayRequest t _ out => tileOk t && out < 5
  | .flitReceive t _ inp _ | .linkRetrain t _ inp _ | .broadcastFlood t inp => tileOk t && inp < 5
  | .vc2Merge place => sourceOk place
  | .senderTimeout t entry _ => tileOk t && entry < 16
  | .beamRelease ch => ch < 31
  | .beamCopyFail segment copy => segment < 48 + 4608 && copy < 3
  | .beamUpFrameRx p block | .beamReleaseFrameRx p block | .timeBlockRx p block | .idleBlockRx p block
  | .alignBlockRx p block | .ackBlockRx p block | .nakBlockRx p block | .creditBlockRx p block
  | .trainBlockRx p block => portOk p && block.length = 32
  | .beamBlockRepeat p | .timeBlockTx p | .portTrainingRetry p | .partnerSignalDetected p | .frameTx p
  | .linkAckTimer p | .linkCreditTimer p | .trunkMemberDown p | .csRdata p | .csWack p | .csCack p | .csInfor p
  | .egressSegment p | .egressReassemblyTimeout p _ => portOk p
  | .tbResync p skew => regionOk p && skew.natAbs ≤ 2
  | .ptpMessage port msg => port < 2 && msg.domain < 256
  | .timedActionArm q slot | .timedActionCancel q slot => reqOk q && slot < 64
  | .eventFire q n payload => reqOk q && n < 32 && payload < 2 ^ 32
  | .ppsValueWrite q value | .routeEntryWrite q value => reqOk q && value < 2 ^ 64
  | .snapshotBlockCopy t block _ => tileOk t && block < 256
  | .snapshotCommit m | .streamAdmit m | .tokenSampled m _ _ | .slotLoadDone m _ _ => m < 8
  | .fieldFence f | .fieldGroupPower f | .groupCalibrate f _ => f < 48
  | .recoveryStart peers => peers.all (· < 8)
  | .recoveryRollback _ cuts => cuts.all fun x => x.1 < 8
  | .retrainRegion q p | .clearDeadMark q p | .scratchpadScrub q p => reqOk q && regionOk p
  | .rimSegmentFail ring segment => ring < 2 && segment < 32
  | .portEnable q p | .portDisable q p => reqOk q && portOk p
  | .portTrainingDone p txPass rxPass => portOk p && txPass < 2 ^ 18 && rxPass < 2 ^ 18
  | .portRetrain p lane => portOk p && lane < 18
  | .frameRx p f crc _ _ => portOk p && frameOk f && crc < 2 ^ 32
  | .arpRequest p i _ _ _ _ | .neighbourSolicitation p i _ _ _ _ | .icmpEchoRequest p i _ _ _ _ _ _
  | .udpDatagramRx p i _ _ | .ethFrameDiscard p i | .gatewayResolve p i | .gatewayResolutionReply p i _ _ _ _
    => portOk p && i < 8
  | .grpRequest c _ | .grpPromptMore c _ | .grpCancel c _ | .grpResend c _ | .grpPing c _ => clientOk c
  | .prefillChunkInject m inst | .decodeTokenInject m inst => m < 8 && inst < 8
  | .slotLoad q m _ | .slotServe q m _ | .slotStop q m | .slotUnload q m => reqOk q && m < 8
  | .read q index sub | .dabort q index sub => reqOk q && index < 65536 && sub < 256
  | .write q index sub typ value => reqOk q && index < 65536 && sub < 256 && typ < 256 && value.length ≤ 1408
  | .dread q index sub offset len => reqOk q && index < 65536 && sub < 256 && offset < 2 ^ 64 && len ≤ 1408
  | .dopen q index sub total => reqOk q && index < 65536 && sub < 256 && total < 2 ^ 64
  | .dwrite q index sub offset data => reqOk q && index < 65536 && sub < 256 && offset < 2 ^ 64 && data.length ≤ 1408
  | .dcommit q index sub crc => reqOk q && index < 65536 && sub < 256 && crc < 2 ^ 32
  | .sessionTimeout index sub => index < 65536 && sub < 256
  | .readCopyExpiry src _ index sub => src ≤ 4 && index < 65536 && sub < 256
  | .heartbeatPeriodWrite q value => reqOk q && value < 65536
  | .alertSummaryClear q mask => reqOk q && mask < 2 ^ 32
  | .canBusOff iface => iface < 2
  | .bringupStart bootsel _ => bootsel < 4
  | .monitorBroadcast march _ => march.all fun x => regionOk x.1 && x.2.1 < 88 && x.2.2.1 < 16 && x.2.2.2 < 128
  | .regionTraining p _ defective spares _
    => regionOk p && defective.all tileOk && spares.all fun x => x.1 < 88 && x.2.1 < 16 && x.2.2 < 128
  | .knownAnswerRun results again
    => results.all (fun x => tileOk x.1 && x.2 < 2 ^ 32) && again.all fun x => tileOk x.1 && x.2 < 2 ^ 32
  | .readyCriteria images => images.all fun e => e.1 < 8
  | .imageChunkWrite q chunk => reqOk q && chunk.length ≤ 2 ^ 20
  | .revokeImageKey q k => reqOk q && k < 4
  | .attestationNonce q nonce => reqOk q && nonce.length ≤ 2 ^ 20
  | .debugToken q token => reqOk q && token.length ≤ 2 ^ 20
  | .programBundleKey q k hash => reqOk q && k < 8 && hash.length ≤ 2 ^ 20
  | .revokeBundleKey q k => reqOk q && k < 8
  | .bundleFlashCopy q f offset => reqOk q && f < 2 && offset < 2 ^ 64
  | .bundleFlashCopyDone f _ => f < 2

end Sys2Proof
end

