-- ==== Sys2Proof/Tests/Slice0.lean ====
section
/-! SUPPORT. Tests: ill-formed commands refused, one step each of a few commands, and for every statement with hypotheses a state
and operands that meet them, clause by clause. -/

namespace Sys2Proof.Tests
open Sys2Proof Sys2Proof.Machine

-- One theorem at a time: a thread for each would pass the memory limit.
set_option Elab.async false

/-! Small states and operands. -/

/-- The copies of the tables that a region holds, with model slot regions `l` bound each to its own number. -/
def tab0 (l : List Nat) : Option MeshTables := some { no := 1, bound := l.map fun p => (p, p), clear := l ++ [100, 200] }

/-- A module in service: clocks locked, the dictionary serving, the steward running on regions 100 and 200, region 0 bound to
model slot 0. -/
def up : State := {
  dev := { st := .ready }, dict := { serving := true }, power := { vinOk := true, breaker := true, bus := 12000 }
  clock := { locked := true, qualified := true, source := 2, present := true }
  steward := { running := true, primary := 100, standby := 200 }
  regions := [(0, { st := .bound, stageOn := true, binding := 0, mslot := 0, copy := tab0 [0] }),
    (100, { st := .bound, stageOn := true, binding := 0xFFFE }), (200, { st := .bound, stageOn := true, binding := 0xFFFD })] }

/-- The encodings of RV32: R type and I type. -/
def rType (f7 rs2 rs1 f3 rd op : Nat) : Nat := f7 * 2 ^ 25 + rs2 * 2 ^ 20 + rs1 * 2 ^ 15 + f3 * 2 ^ 12 + rd * 2 ^ 7 + op
def iType (imm rs1 f3 rd op : Nat) : Nat := imm * 2 ^ 20 + rs1 * 2 ^ 15 + f3 * 2 ^ 12 + rd * 2 ^ 7 + op
/-- An Xnt instruction of custom-0, and one of custom-1. -/
def xnt (f7 rs2 rs1 f3 rd : Nat) : Nat := rType f7 rs2 rs1 f3 rd 0x0B
def xnti (imm f3 reg : Nat) : Nat := imm * 2 ^ 16 + f3 * 2 ^ 12 + reg * 2 ^ 7 + 0x2B

/-- A core whose slot `cur` runs at PC 0 with word `w` in the fetch buffer, x5 and x6 set. -/
def coreAt (cur w : Nat) (x5 x6 : Word := 0) : Core := {
  cur := cur, fetchBuf := [(0, natLe 16 w)]
  slots := (List.replicate 4 ({} : TaskSlot)).set cur
    { st := .running, bound := 262144, regs := [0, 0, 0, 0, x5, x6] ++ List.replicate 25 0 } }

/-- Tile 0 as given, in a module in service. -/
def on (k : Tile) : State := { up with tiles := [(0, k)] }

/-- Tile 0 at word `w`. -/
def at0 (w : Nat) (x5 x6 : Word := 0) : State := on { core := coreAt 0 w x5 x6 }
def at1 (w : Nat) (x5 x6 : Word := 0) : State := on { core := coreAt 1 w x5 x6 }
/-- A CSR write of x5 to address `a`. -/
def csrW (a : Nat) : Nat := iType a 5 1 7 0x73

def q0 : Req := { src := 3, client := 1, tid := 1 }
def k0 : Packet := mkPacket .data 0 0 0 0xFFFF 0 0xFFFF 0 (List.replicate 32 0)
def red0 : Reduction := { rop := 0, cid := 1, contrib := 1, n := 1, win := 0, dest := 0, flags := 0, lanes := List.replicate 4 none }
/-- A header of a MSG to logical tile 1. -/
def hdr0 : List Byte := List.replicate 12 0 ++ natLe 4 1 ++ List.replicate 16 0
def m0 : SendMsg := { hdr := hdr0, body := [], base := 0, bound := 262144, slot := 0, off := 0, validated := false }
/-- An MXD of one product of binary32, and a PZD that copies one element, each with a completion record at 256. -/
def mxd (m cpl : Nat) : List Byte := natLe 4 0x300000 ++ natLe 2 m ++ natLe 2 1 ++ natLe 2 1 ++ natLe 2 5 ++ natLe 4 0 ++ natLe 4 0
  ++ natLe 4 64 ++ natLe 4 0 ++ natLe 4 128 ++ List.replicate 24 0 ++ natLe 4 cpl ++ natLe 4 0x80000000
def pzd (len base : Nat) : List Byte := natLe 4 0x802 ++ natLe 2 len ++ natLe 2 1 ++ natLe 2 7 ++ natLe 2 32 ++ List.replicate 20 0
  ++ natLe 4 (2 ^ 27 + base) ++ natLe 4 (9 * 2 ^ 27 + 1024) ++ List.replicate 24 0
def op0 (d : List Byte) (started : Bool) : EngOp :=
  { desc := d, base := 0, bound := 262144, slot := 1, off := 0x40, s0 := 0, s1 := 0, started := started }
/-- A plane whose only entry ends it, with a stall limit of 1. -/
def pl0 : Plane := { ctl := 0x11, stallLimit := 1, steerCtl := 0, steerAct := List.replicate 16 0
                     steerOut := List.replicate 4 0, routes := [], entries := [0], base := 0, bound := 262144 }
/-- A plane whose step 0 receives at input `port` of the scalar network. -/
def plRecv (port : Nat) : Plane := { pl0 with
  entries := [BitVec.ofNat 64 (3 * 2 ^ 60 + port * 2 ^ 43 + 1 * 2 ^ 15), BitVec.ofNat 64 (2 ^ 48)] }
def tok0 (g : Nat) : Token := { val := 7, gen := g }
def tr0 : Track := { txid := 16, op := 1, cls := 1, tag := 5, seq := 6, cpl := some 256, beam := none, timeout := 65536, start := 0
                     waiting := 1, slot := 0, ctl := [] }
def p0 : Partner := { dev := 1, port := 0, personality := 1, gen := 3, trunk := 1, base := 0 }
/-- A state with object values set, in the order of their numbers. -/
def dv (s : State) (l : List (Nat × Nat × Nat)) : State :=
  { s with dict := { s.dict with vals := l.map fun e => (objKey e.1 e.2.1, .num e.2.2) } }
/-- The state at a TB. -/
def atTb (s : State) (n : Nat) : State := { s with time := { s.time with tb := n } }
/-- Port 0 in service as a personality. -/
def port0 (pers : Nat) (x : Port := {}) : State :=
  dv { up with fabric := { ports := [(0, { x with st := 3, txLanes := 0xFFFF, rxLanes := 0xFFFF })], devId := 1 } } [(0x3000, 1, pers), (0x3000, 4, 1)]
def dvs (s : State) (l : List (Nat × Nat × Nat)) : State := { s with dict := { s.dict with vals := s.dict.vals ++ (dv s l).dict.vals } }
def pre (s : State) (l : List (Nat × Nat × Nat)) : State := { s with dict := { s.dict with vals := (dv s l).dict.vals ++ s.dict.vals } }
/-- Timed action slot `n` as given, at TB 5,000,000. -/
def tmd (n : Nat) (x : TimedSlot) : State := { atTb up 5000000 with sig := { timed := [(n, x)] } }
/-- A bundle of one logical slot: 4 KV lanes, context 4,096, a vocabulary of 1,000, one instance of 2 streams. -/
def bun0 : Bundle := {
  header := natLe 8 0 ++ natLe 4 7 ++ natLe 4 0 ++ natLe 8 0 ++ natLe 2 0 ++ natLe 2 4 ++ natLe 4 4096 ++ natLe 4 1000
    ++ natLe 1 1 ++ natLe 1 1 ++ natLe 2 0 ++ natLe 2 2 ++ natLe 2 1
  directory := [], slots := [0], graph := [], planes := [], programs := [], extents := [], weights := [], report := []
  runtime := [], signature := none, segments := [] }
/-- Model slot 0 with that bundle, in a state. -/
def slot0 (st : Nat) (f : ModelSlot → ModelSlot := id) : State :=
  { up with steward := { up.steward with slots := [(0, f { st := st, bundle := some bun0, binding := [(0, 0)] })] } }
def reg0 (r : Region) : State := { up with regions := (0, r) :: up.regions.drop 1 }
/-- The device state, the clock and the power of a module in service replaced. -/
def dev0 (st : DevState) (f : Device → Device := id) : State := { up with dev := f { st := st } }
def clk0 (st : DevState) (c : Clock) : State := { up with dev := { st := st }, clock := c }
def pow0 (p : Power) : State := { up with power := p }
def lf0 (seq : Nat) : LinkFrame :=
  { seq := seq, vc := 0, nblk := 1, tseq := 0, ttl := 8, broadcast := false, dl := false, bseq := 0, body := .packet k0 }
def cs0 (op status : Nat) (last : Bool) : CsFrame :=
  { op := op, status := status, tag := 1, len := 0, boxOff := 0, ctx := 0, last := last, data := [1, 2, 3, 4] }
def rte : Nat := 2 ^ 63 + 16 * 2 ^ 58 + 5 * 2 ^ 42
def nr (n : Nat) : NotifyRec := { stamp := n, source := 3, ltile := 0, payload := 0, late := false }
def ptp0 : PtpMsg := { udp := true, domain := 5, kind := 0, twoStep := false, seq := 1, time := 3, correction := 0 }
/-- A plane whose step 0 sends at output `port` of the scalar network. -/
def plSend (port : Nat) : Plane := { pl0 with
  entries := [BitVec.ofNat 64 (2 * 2 ^ 60 + port * 2 ^ 43 + 1 * 2 ^ 15), BitVec.ofNat 64 (2 ^ 48)] }
def two (k : Tile) : State := { up with
  regions := [(0, { st := .bound, stageOn := true, binding := 0, mslot := 0, copy := tab0 [0, 1] }), (1, { st := .bound, stageOn := true, binding := 1, mslot := 0, copy := tab0 [0, 1] })]
  tiles := [(9, k)]
  steward := { up.steward with slots := [(0, { st := 3, binding := [(0, 0), (1, 1)] })] } }
def two2 (k : Tile) : State := { two k with tiles := [(0, k), (1, { core := { ltile := some 1 } })] }
def sk : Packet := { k0 with dstU := 1, dstV := 0 }
def fl (k : Packet) (i : Nat := 0) : Flit := { pkt := k, idx := i, age := 0 }
def bc : Packet := { k0 with net := .control, kind := 8, dstDev := 0xFFFF, srcLtile := 9 }
def rp (c : Nat) : Packet := { k0 with kind := 9, vc := 2, red := some { red0 with contrib := c, dest := 0x100 } }
/-- Regions of the north edge at injection tiles of port 0, and region 0 bound to slot 0. -/
def edge : State := { up with regions := (List.range 9).map fun i => (i, { st := .bound, stageOn := true, binding := i, copy := tab0 (List.range 9) }) }
def rcv (r : Ring) (k : Packet) : State := on { core := { tagm := 0x80000000 :: List.replicate 7 0 }, rings := [r, {}, {}, {}], msg := { arrived := [k] } }
def hld (r : Ring) (n : Nat) : State := on { core := { tagm := 0x80000000 :: List.replicate 7 0 }, rings := [r, {}, {}, {}], msg := { hold := some (k0, n, 0x800) } }
def rpd : RingPend := { ring := 0, place := 0, len := 32, skip := none, entry := List.replicate 32 0, pkt := k0, isNak := false }
def rw (kind off len posted : Nat) : Packet := { k0 with kind := kind, payload := natLe 8 off ++ natLe 2 len ++ natLe 1 1 ++ natLe 1 posted ++ natLe 4 0x300 ++ [1, 2, 3, 4] }
def pendHld (r : Ring) (n : Nat) : State := updMsg (hld r n) 0 fun m => { m with ringPend := some rpd }
/-- A tile whose packet for device 5 leaves by port 0. -/
def exits : State := dvs { edge with
  tiles := [(0, { core := { ltile := some 0 }, msg := { outPk := [{ pkt := { k0 with dstDev := 5 }, cpl := some m0 }] } })]
  fabric := { devId := 1, map := [(5, rte)], ports := [(0, { st := 3, txLanes := 0xFFFF, rxLanes := 0xFFFF })] } } [(0x3000, 1, 1), (0x3000, 4, 1)]
def exitT : Nat := (injTiles exits 0).headD 0
/-- The first injection tile of port 0, with a router of its own. -/
def brT : Nat := (injTiles edge 0).headD 0
def brS (x : Router) (p : Port := {}) : State := { edge with tiles := [(brT, { router := x })], fabric := { ports := [(0, p)] } }
/-- A flit of tile 0 on the link to tile 1. -/
def lnk (f : Flit) (r : Router := {}) : State := { on {} with
  tiles := [(0, { router := { replay := [(linkKey 0 1, [f])] } }), (1, { router := { r with link := [(linkKey 0 3, [f])] } })] }
/-- A NAK with TXID 0 of a remote write. -/
def nakE : Packet := { k0 with kind := 6, payload := natLe 1 5 ++ natLe 1 0 ++ natLe 1 1 ++ List.replicate 29 0 }
/-- A module whose TB follows the PTP clock of domain 5 at port 1. -/
def ptp1 : State := dv (atTb up 1000) [(0x2020, 1, 2), (0x2020, 6, 1), (0x2020, 7, 5)]
/-- Timed snapshot 63 at two regions, one of which is not there yet. -/
def half : State := { tmd 63 { armT := 5000000, armOp := 2 * 2 ^ 60 + 3, status := 2 } with
  regions := [0, 1].map fun p => (p, { st := .bound, stageOn := true, binding := p, skew := -2 * p
                                       actions := [{ code := 2, at_ := 5000000, arg := 3, owner := 63 }] }) }
def snap (f : ModelSlot → ModelSlot) : State := { slot0 3 f with tiles := [] }
def shr (comp : Bool) (round : Nat) : State :=
  { slot0 3 (fun x => { x with share := some (4, 9), shareComp := comp, cmtRound := round, binding := [] }) with
    dict := { serving := true, vals := [(objKey 0x2410 5, .num 3)] } }
def recg : State := { slot0 5 with dev := { st := .recovering }, recov := { step := 6, number := 3, scope := [0] } }
def mg0 (n : Nat) (r : Region := {}) : State := { atTb (slot0 3) 900000000 with
  regions := (0, { r with st := .bound, stageOn := true, binding := 0, mslot := 0, migrating := n }) ::
    (1, { st := .reserve, stageOn := true }) :: up.regions.drop 1 }
def nofit : State := { slot0 5 with recov := { lost := [0] } }
def areaS : State := { shr true 0 with
  fabric := { ports := [(5, { st := 3 })], compMap := [{ port := 5, base := 0, size := 4096, members := 1, gen := 3 }] }
  dict := { serving := true, vals := [(objKey 0x2410 5, .num 3), (objKey 0x3005 1, .num 2), (objKey 0x3005 0xC, .num 4096), (objKey 0x3005 0xD, .num 1)] } }
/-- Tile 0 with a mirror tile whose staging window is of 4 KiB. -/
def stag (x : SnapTile) : State :=
  let g := { bun0 with
    slots := [0, 2240]
    programs := [⟨(mirrorTile 0).getD 0, [], [], [], none, none, some ⟨0, 0x4000, 4096⟩, none, []⟩] }
  { slot0 3 (fun y => { y with bundle := some g }) with tiles := [(0, { core := { ltile := some 0 }, snap := x })] }
/-- A recovery under way when the standby's region is fenced. -/
def joins : State := { recg with
  regions := [(100, { st := .bound, stageOn := true, binding := 0xFFFE }), (200, { st := .fenced, role := .bound, binding := 0xFFFD, noticeDue := true })] }
/-- A recovery in step 6 of model slot 0, whose weights model slot 1 holds in region 1. -/
def peerS : State :=
  let g := { bun0 with extents := [{ ltile := 0, slot := 0, imgOff := 0, len := 16, dest := 0x4000, crc := 0 }] }
  let g' := { g with slots := [1], extents := [{ ltile := (slotTiles 1).headD 0, slot := 1, imgOff := 0, len := 16, dest := 0x4000, crc := 0 }] }
  { recg with
    recov := { step := 6, number := 3, scope := [0], rebound := true, replaced := [0] }
    regions := (1, { st := .bound, stageOn := true, binding := 1, mslot := 1 }) :: up.regions
    steward := { recg.steward with slots := [(0, { st := 5, bundle := some g, binding := [(0, 0)] }),
      (1, { st := 3, bundle := some g', binding := [(1, 1)], placed := true })] } }
/-- Port 0 a companion port at which frame `x` has come, tag 1 a request `r`. -/
def lfs (x : CsFrame) : LinkFrame := { lf0 0 with body := .stream x }
def csp (x : CsFrame) (r : CsReq) : State := port0 2 { csIn := [lfs x], tags := [(1, r)] }
/-- Port 0 in training. -/
def train0 (x : Option Partner) : State := { port0 1 with fabric := { ports := [(0, { st := 2, replay := [lf0 3], heard := x })], devId := 1 } }
def rdp : Packet := { k0 with kind := 3, payload := natLe 8 (2 ^ 62) ++ natLe 2 4 ++ natLe 1 1 ++ natLe 1 0 ++ natLe 4 0x300 }
def wrp : Packet := { rdp with kind := 2 }
/-- Port 0 an Ethernet port of one interface with an IPv4 and an IPv6 address and a gateway. -/
def rec0 (ip4 gw4 : Nat) : List Byte := natLe 4 ip4 ++ natLe 4 gw4
def tmp (r : Region) : State := reg0 { r with stageOn := true }
def sd0 : List (Nat × Nat × Nat × Nat) := [(0, 0, 0, 4)]
def trk : State := dv { up with fabric := { ports := [(0, { st := 1, replay := [lf0 4] }), (1, { st := 3 })] } }
  [(0x3000, 1, 1), (0x3000, 3, 2), (0x3001, 1, 1), (0x3001, 3, 2)]
def ifr (ip4 gw4 ip6 gw6 : Nat) : List Byte := List.replicate 4 0 ++ natBe 4 ip4 ++ natBe 4 gw4 ++ List.replicate 4 0 ++ natBe 16 ip6
  ++ natBe 16 gw6 ++ List.replicate 16 0
def eth (ip4 gw4 ip6 gw6 : Nat) (x : Port := {}) : State := { up with
  fabric := { ports := [(0, { x with st := 3, txLanes := 0xFFFF, rxLanes := 0xFFFF })], devId := 1 }
  dict := { serving := true, vals := [(objKey 0x3000 1, .num 3), (objKey 0x3000 0xE, .num 1), (objKey 0x3000 0x12, .bytes (ifr ip4 gw4 ip6 gw6))] } }
def dg0 : Datagram := { v6 := false, srcIp := 9, srcPort := 1, dstIp := 5, dstPort := 20057, checksumZero := false, checksumGood := true
                        optionsOrFragment := false, payload := [1] }
def par0 : Partial := { srcDev := 0, srcLtile := 0, seq := 0, iface := 0, ip := 5, udpPort := 7, udpLen := 4, nseg := 2, segs := [] }
/-- A trunk whose oldest frame is 1,024 behind. -/
def trkFull : State := { trk with fabric := { ports := [(0, { st := 3, tseqTx := 1024 }), (1, { st := 3, replay := [lf0 4] })] } }
/-- A posted write, which wants no acknowledgement. -/
def pwr : Packet := { wrp with payload := wrp.payload.set 0xB 1 }
def cl0 : Client := { ip := 9, udpPort := 7, port := 0, iface := 0 }
/-- A GRP frame of a type, request 5. -/
def grp (typ : Nat) (rest : List Byte) : List Byte :=
  natLe 2 0x5247 ++ natLe 1 1 ++ natLe 1 typ ++ natLe 2 (16 + rest.length) ++ natLe 2 0 ++ natLe 8 5 ++ rest
/-- A greedy REQUEST of `n` prompt tokens, `i` of them in the frame. -/
def rq (n i : Nat) : List Byte := grp 1 (natLe 4 0 ++ natLe 8 0 ++ natLe 4 4 ++ natLe 8 0 ++ natLe 4 n ++ natLe 2 0
  ++ natLe 2 i ++ List.replicate 64 0 ++ (List.range i).flatMap (natLe 4))
def str0 : Stream := {
  id := 1, slot := 0, client := cl0, reqId := 5, st := .partPrompt, priority := 0, mode := 0, topK := 0, temp := 0, topP := 0
  maxNew := 4, seed := 0, promptLen := 3, stops := [], prompt := [(0, 9)], rxTb := 0, arrival := 0, startTb := 0, inst := 0, lane := 0
  injected := 0, flying := [], inFlight := false, generated := 0, sent := 0, kept := [], paused := false }
/-- Slot 0 in a state, with the streams given, port 0 the GRP port. -/
def gw (st : Nat) (xs : List Stream) : State :=
  let s := dvs (slot0 st) [(0x3000, 0xF, 3)]
  { s with steward := { s.steward with streams := xs, nextStream := 2 } }
def store (s : State) (i sub v : Nat) : State := (appendRec s (recordOf (objKey i sub) 1 (.num v))).1
/-- A module whose flash can be neither written nor read back, and a request that finds it so. -/
def broke : State := { up with store := { broken := true } }
def qf : Req := { q0 with env := { flashFails := true } }

/-- An empty bank takes a record of up to 1 MiB. -/
theorem empty_answer (s : State) (r : StoreRec) (hs : (theBank s).recs = []) (hb : s.store.broken = false) (hr : recBytes r ≤ 2 ^ 20) :
    appendRec s r = ((appendRec s r).1, true) := by
  have h : hasRoom s r = true := by
    have : bankBytes = 8388608 := by decide +kernel
    simp only [hasRoom, usedBytes, hs, List.map_nil, List.foldl_nil, decide_eq_true_eq]
    omega
  unfold appendRec
  simp only [hb, h, Bool.false_eq_true, if_false, if_true]

def boot0 (f : Boot → Boot) : State := { up with boot := f {} }
def sg2 : BundleSig := { header := natLe 4 0x4E474953 ++ natLe 1 2 ++ List.replicate 59 0, keys := [], rsaSig := [], slhSig := [] }
def ses0 : Session := { src := 3, client := 1, total := 2, data := [(0, 5), (1, 6)], next := 0 }
def sesOf (i sub : Nat) : State := { up with dict := { up.dict with sessions := [(objKey i sub, ses0)] } }
def bu (n : Nat) (f : State → State := id) : State := f (dev0 .bringup fun d => { d with bringupStep := n })

theorem length_natLe (n v : Nat) : (natLe n v).length = n := by
  induction n generalizing v with
  | zero => rfl
  | succ n ih => simp [natLe, ih]

theorem length_flat (f : Nat → Nat) (l : List Nat) : (l.flatMap fun n => natLe 8 (f n)).length = 8 * l.length := by
  induction l with
  | nil => rfl
  | cons x l ih => simp only [List.flatMap_cons, List.length_append, length_natLe, ih, List.length_cons]; omega

theorem length_routeBytes (m : SMap Nat) : (routeBytes m).length = 262144 := by
  rw [routeBytes, length_flat, List.length_range]

theorem route_record_fits (s : State) (m : SMap Nat) : recBytes (recordOf (objKey 0x1031 5) s.store.seq (.bytes (routeBytes m)))
    ≤ 2 ^ 20 := by
  simp only [recBytes, recordOf, sealRec, valData, length_routeBytes]; decide

theorem route_entry_stored (s : State) (hs : (theBank s).recs = []) (hb : s.store.broken = false) (e : Nat) (q : Req) (h : NewWrite s q 0x1031 2 e)
    (he : routeEntryOk s e = true) : ∃ (s : State) (e : Nat) (q : Req) (w : _),
      let m := (smSet s.fabric.routes (selection s q.src 0x1031 1) e).filter fun x => x.2 ≠ 0
      NewWrite s q 0x1031 2 e ∧ routeEntryOk s e = true ∧
        appendRec s (recordOf (objKey 0x1031 5) s.store.seq (.bytes (routeBytes m))) = (w, true) :=
  ⟨s, e, q, _, h, he, empty_answer s _ hs hb (route_record_fits ..)⟩
/-- A frame of client `cl0` in the runtime's ring. -/
def gf (st : Nat) (xs : List Stream) (f : List Byte) : State :=
  { gw st xs with steward := { (gw st xs).steward with inbox := [(cl0, f)] } }
/-- A bundle of a last stage of two, and the stage 0 of it. -/
def stage (n : Nat) : Bundle := { bun0 with header := (bun0.header.set 0x25 2).set 0x26 (BitVec.ofNat 8 n) }
def staged (n : Nat) (xs : List Stream) : State := updModel (gw 3 xs) 0 fun x => { x with bundle := some (stage n) }
def smp0 : List TileSample := [⟨[(7, 0x3F800000)], 0x3F800000, 0x3F800000, 7⟩]
/-- A slot that loads a bundle with an extent whose CRC does not hold. -/
def badCrc : State := slot0 1 fun x => { x with
  bindEpoch := 1, loadSrc := some 1
  bundle := some { bun0 with extents := [{ ltile := 0, slot := 0, imgOff := 0, len := 0, dest := 0, crc := 1 }] } }
/-- Requests with a wrong MAGIC, in a damaged CAN frame, beyond the outstanding ones, with a reserved command. -/
def qm : Req := { q0 with env := { magic := 0 } }
def qd : Req := { q0 with src := 1, env := { damaged := true } }
def qa : Req := { q0 with env := { ahead := 64 } }
def qr : Req := { q0 with env := { reserved := some 9 } }

/-! Ill-formed commands. -/

/-! One command for each bound of WellFormed.lean, just past it. -/

theorem test_ill_formed_power_to_beams_refused : ([
    .auxSupplyInRange ⟨false, 128, true⟩ 0, .eyepiecePairLost 2, .breakerPermit { q0 with src := 5 },
    .breakerPermit { q0 with tid := 65536 }, .converterLost 26, .phaseLost 4608 0, .phaseLost 0 3, .powerFuseTrip 4608,
    .referenceLost 1, .referenceLost 0x2200, .droopStretch 0 0, .droopStretch 0 9, .coreCompute 405504, .routedForward 0 20,
    .patrolRead 0 16 .clean, .packetInject (.tile 405504) {}, .packetInject (.port 32) {}, .flitGrant 0 .data 5,
    .broadcastFlood 0 5, .vc2Merge (.port 32), .senderTimeout 0 16 {}, .beamRelease 31, .beamCopyFail 4656 0, .beamCopyFail 0 3] : List Instr).all (fun i => !wf i)
    = true := by decide +kernel

theorem test_ill_formed_control_and_links_refused : ([
    .idleBlockRx 32 (List.replicate 32 0), .idleBlockRx 0 [], .frameTx 32, .tbResync 0 3, .ptpMessage 2 ptp0, .ptpMessage 0 { ptp0 with domain := 256 },
    .timedActionArm q0 64, .eventFire q0 32 0, .eventFire q0 0 (2 ^ 32), .ppsValueWrite q0 (2 ^ 64), .snapshotBlockCopy 0 256 {},
    .snapshotCommit 8, .fieldFence 48, .retrainRegion q0 4608, .rimSegmentFail 2 0, .rimSegmentFail 0 32, .portEnable q0 32,
    .portTrainingDone 0 (2 ^ 18) 0, .portTrainingDone 0 0 (2 ^ 18), .portRetrain 0 18, .frameRx 0 { lf0 0 with seq := 4096 } 0 0 0, .frameRx 0 (lf0 0) (2 ^ 32) 0 0,
    .frameRx 0 { lf0 0 with vc := 6 } 0 0 0, .frameRx 0 { lf0 0 with nblk := 12 } 0 0 0, .arpRequest 0 8 ⟨64, true, 0⟩ 0 0 0] : List Instr).all (fun i => !wf i)
    = true := by decide +kernel

theorem test_ill_formed_requests_and_dictionary_refused : ([
    .grpPing { cl0 with ip := 2 ^ 128 } [], .grpPing { cl0 with udpPort := 65536 } [], .grpPing { cl0 with iface := 8 } [],
    .prefillChunkInject 0 8, .slotLoad q0 8 none, .read q0 65536 0, .read q0 0 256, .write q0 0 0 256 [],
    .write q0 0 0 0 (List.replicate 1409 0), .dread q0 0 0 0 1409, .dopen q0 0 0 (2 ^ 64), .dcommit q0 0 0 (2 ^ 32),
    .sessionTimeout 65536 0, .readCopyExpiry 5 0 0 0, .heartbeatPeriodWrite q0 65536, .alertSummaryClear q0 (2 ^ 32),
    .canBusOff 2, .bringupStart 4 [], .monitorBroadcast [(4608, 0, 0, 0)] [], .monitorBroadcast [(0, 0, 0, 128)] [],
    .regionTraining 0 false [] [(88, 0, 0)] true, .knownAnswerRun [(405504, 0)] [], .knownAnswerRun [] [(0, 2 ^ 32)], .recoveryStart [8],
    .readyCriteria [(8, bun0)], .revokeImageKey q0 4, .revokeBundleKey q0 8, .bundleFlashCopy q0 2 0, .bundleFlashCopyDone 2 []] : List Instr).all (fun i => !wf i)
    = true := by decide +kernel

/-- Their neighbours inside the bounds. -/
theorem test_well_formed_taken : ([.auxSupplyInRange ⟨false, 127, true⟩ 0, .eyepiecePairLost 1, .converterLost 25, .phaseLost 4607 2,
    .referenceLost 0x21FF, .droopStretch 0 8, .coreCompute 405503, .routedForward 0 19, .beamRelease 30, .beamCopyFail 4655 2,
    .frameTx 31, .tbResync 0 (-2), .eventFire q0 31 (2 ^ 32 - 1), .readCopyExpiry 4 0 65535 255, .canBusOff 1] : List Instr).all wf
    = true := by decide +kernel

/-! One step each; the expected values are the spec's. -/

/-- The state after a command; the state itself where there is none. -/
def after (c : Instr) (s : State) : State :=
  match exec c s with
  | .next u => u
  | _ => s

/-- R40: ADD wraps. -/
theorem test_add_wraps : xcur (after (.coreCompute 0) (at0 (rType 0 6 5 0 7 0x33) 0xFFFFFFFF 2)) 0 7 = 1 := by decide +kernel

/-- R40: x0 discards what ADDI writes, and the PC moves on. -/
theorem test_x0_discards : xcur (after (.coreCompute 0) (at0 (iType 5 5 0 0 0x13) 1)) 0 0 = 0 ∧
    (curSlot (after (.coreCompute 0) (at0 (iType 5 5 0 0 0x13) 1)) 0).pc = 4 := by decide +kernel

/-- R66: a byte stored at 0x47F marks block 1 and nothing else. -/
theorem test_store_marks_block : (tileOf (after (.coreStore 0 .clean) (on { core := { coreAt 0 (rType 0 6 5 0 0 0x23) 0x47F 9 with
    dirty := 0 } })) 0).core.dirty = 2 ∧
    readNum (after (.coreStore 0 .clean) (at0 (rType 0 6 5 0 0 0x23) 0x47F 9)) 0 0x47F 1 = 9 := by decide +kernel

/-- R50, R51: ecall of T1 enters T0 at address 0 with VALID, SLOT 1 and code 09. -/
theorem test_ecall_enters_t0 : (tileOf (after (.ecall 0) (at1 0x73)) 0).core.cur = 0 ∧
    (tileOf (after (.ecall 0) (at1 0x73)) 0).core.faultCause = causeWord 1 9 := by decide +kernel

/-- R408, R409: reading an object that does not exist is answered NO_OBJECT. -/
theorem test_no_object : ((after (.read q0 0x7777 0) up).out).length = up.out.length + 1 ∧
    objDef 0x7777 0 = none := by decide +kernel

/-- Log 3: an empty queue is a tick of the timebase master. -/
theorem test_idle_tick : (tick up).time.tb = up.time.tb + 1 ∧ up.pending = [] := by decide +kernel

/-! Statements without clauses of their own kind. -/

theorem witness_step_keeps_state_invariant : ∃ s t : State, s.Inv ∧ step s = .next t ∧ s.pending = [.rstNRelease] :=
  ⟨{ up with pending := [.rstNRelease] }, _, ⟨by decide, by decide +kernel, by decide, by decide⟩, rfl, rfl⟩

theorem witness_fuses_only_burn : ∃ (c : Instr) (s t : State), exec c s = .next t ∧ s.boot.imgRevoked.getLsbD 1 = true ∧
    s.boot.bdlRevoked.getLsbD 2 = true ∧ s.boot.bundleKeys[3]? = some (some [7]) :=
  ⟨.rstNRelease, boot0 fun b => { b with imgRevoked := 2, bdlRevoked := 4, bundleKeys := b.bundleKeys.set 3 (some [7]) }, _, rfl,
    by decide +kernel⟩

theorem witness_commands_leave_queue_and_output : ∃ (c : Instr) (s t : State), exec c s = .next t ∧ s.pending ≠ [] :=
  ⟨.rstNRelease, { up with pending := [.decisionCycle] }, _, rfl, by decide +kernel⟩

theorem witness_memory_writes_and_tracking : (∃ (a x : Nat) (bs : List Byte), x < a ∨ a + bs.length ≤ x) ∧
    (∃ (off b : Nat) (bs : List Byte), b < 256 ∧ b ∈ blocksOf off bs.length) ∧ (∃ t t' : Nat, t' ≠ t) :=
  ⟨⟨1, 0, [], by decide⟩, ⟨0x3FF, 1, [1, 2], by decide +kernel⟩, ⟨0, 1, by decide⟩⟩

theorem witness_register_zero_discards_writes : ∃ (k : TaskSlot) (r q : Nat), r ≠ 0 ∧ r - 1 < k.regs.length ∧ q ≠ r :=
  ⟨{}, 31, 0, by decide⟩

theorem witness_program_fault_enters_t0 : ∃ (c : Core) (n : Nat), c.slots ≠ [] ∧ faultValid c = true ∧ n ≠ 0 ∧
    ∀ k ∈ c.pendingFaults, k.slot ≠ n := ⟨{ (coreAt 2 0) with faultCause := causeWord 1 9 }, 2, by decide +kernel⟩

/-! The hypotheses of each statement, met clause by clause. -/

theorem witness_step_runs_front_command :
    (∃ (s : State) (c : Instr) (rest : List Instr),
      s.pending = c :: rest) ∧
    (∃ (s : State),
      s.pending = []) :=
  ⟨⟨{ up with pending := [.rstNFall] }, .rstNFall, [], by decide +kernel⟩,
    ⟨up, by decide +kernel⟩⟩

theorem witness_core_compute_results :
    (∃ (s : State) (t : Nat) (len : Nat) (rd : Nat) (rs1 : Nat) (rs2 : Nat) (f : AluFn),
      AtInstr s t (.alu f rd rs1 rs2) len) ∧
    (∃ (s : State) (t : Nat) (len : Nat) (rd : Nat) (rs1 : Nat) (f : AluFn) (imm : Word),
      AtInstr s t (.aluImm f rd rs1 imm) len) ∧
    (∃ (s : State) (t : Nat) (len : Nat) (rd : Nat) (imm : Word),
      AtInstr s t (.lui rd imm) len) ∧
    (∃ (s : State) (t : Nat) (len : Nat) (rd : Nat) (imm : Word),
      AtInstr s t (.auipc rd imm) len) ∧
    (∃ (s : State) (t : Nat) (len : Nat) (rd : Nat) (imm : Word),
      AtInstr s t (.jal rd imm) len) ∧
    (∃ (s : State) (t : Nat) (len : Nat) (rd : Nat) (rs1 : Nat) (imm : Word),
      AtInstr s t (.jalr rd rs1 imm) len) ∧
    (∃ (s : State) (t : Nat) (len : Nat) (rs1 : Nat) (rs2 : Nat) (b : BranchFn) (imm : Word),
      AtInstr s t (.branch b rs1 rs2 imm) len) :=
  ⟨⟨at0 (rType 0 6 5 0 7 0x33) 3 4, 0, 4, 7, 5, 6, .add, by decide +kernel⟩,
    ⟨at0 (iType 0xFFF 5 0 7 0x13) 3 4, 0, 4, 7, 5, .add, 0xFFFFFFFF, by decide +kernel⟩,
    ⟨at0 (0xFFFFF000 + 7 * 128 + 0x37), 0, 4, 7, 0xFFFFF000, by decide +kernel⟩,
    ⟨at0 (0x1000 + 7 * 128 + 0x17), 0, 4, 7, 0x1000, by decide +kernel⟩,
    ⟨at0 (0x400000 + 7 * 128 + 0x6F), 0, 4, 7, 4, by decide +kernel⟩,
    ⟨at0 (iType 1 5 0 7 0x67) 0x100, 0, 4, 7, 5, 1, by decide +kernel⟩,
    ⟨at0 (rType 0 6 5 0 8 0x63) 3 3, 0, 4, 5, 6, .eq, 8, by decide +kernel⟩⟩

theorem witness_core_memory_access :
    (∃ (s : State) (t : Nat) (line : Nat),
      CoreAwake s t ∧ neededLine (tileOf s t).core = some (line, true)) ∧
    (∃ (s : State) (t : Nat) (len : Nat) (rd : Nat) (rs1 : Nat) (size : Nat) (imm : Word) (signed : Bool),
      AtInstr s t (.load rd rs1 imm size signed) len ∧ AccessOk s t (xcur s t rs1 + imm) size) ∧
    (∃ (s : State) (t : Nat) (len : Nat) (rs1 : Nat) (rs2 : Nat) (size : Nat) (imm : Word),
      AtInstr s t (.store rs1 rs2 imm size) len ∧ AccessOk s t (xcur s t rs1 + imm) size) ∧
    (∃ (s : State) (t : Nat) (b : Nat) (n : Nat),
      tileRuns s t = true ∧ b < 16 ∧ (tileOf s t).patrol[b]? = some n) :=
  ⟨⟨on { core := { coreAt 0 0 with fetchBuf := [] } }, 0, 0, by decide +kernel⟩,
    ⟨{ at0 (iType 0 5 2 7 0x03) 0x3FFFC with mem := [(0x3FFFC, 0x80)] }, 0, 4, 7, 5, 4, 0, true, by decide +kernel⟩,
    ⟨at0 (rType 0 6 5 2 0 0x23) 0x3FFFC 0xDEADBEEF, 0, 4, 5, 6, 4, 0, by decide +kernel⟩,
    ⟨up, 0, 15, 0, by decide +kernel⟩⟩

theorem witness_core_access_faults :
    (∃ (s : State) (t : Nat) (line : Nat),
      CoreAwake s t ∧ neededLine (tileOf s t).core = some (line, false)) ∧
    (∃ (s : State) (t : Nat) (len : Nat) (rd : Nat) (rs1 : Nat) (size : Nat) (imm : Word) (signed : Bool),
      let a := xcur s t rs1 + imm
      AtInstr s t (.load rd rs1 imm size signed) len ∧ a.toNat % size ≠ 0) ∧
    (∃ (s : State) (t : Nat) (len : Nat) (rd : Nat) (rs1 : Nat) (size : Nat) (imm : Word) (signed : Bool),
      let a := xcur s t rs1 + imm
      AtInstr s t (.load rd rs1 imm size signed) len ∧ a.toNat % size = 0 ∧ inBound (curSlot s t).base (curSlot s t).bound a.toNat
        size = false) ∧
    (∃ (s : State) (t : Nat) (len : Nat) (rs1 : Nat) (rs2 : Nat) (size : Nat) (imm : Word),
      let a := xcur s t rs1 + imm
      AtInstr s t (.store rs1 rs2 imm size) len ∧ a.toNat % size ≠ 0) ∧
    (∃ (s : State) (t : Nat) (len : Nat) (rs1 : Nat) (rs2 : Nat) (size : Nat) (imm : Word),
      let a := xcur s t rs1 + imm
      AtInstr s t (.store rs1 rs2 imm size) len ∧ a.toNat % size = 0 ∧ inBound (curSlot s t).base (curSlot s t).bound a.toNat size =
        false) ∧
    (∃ (s : State) (t : Nat) (w : Nat),
      CoreAwake s t ∧ (fetched (tileOf s t).core).map (fun f => (f.op, f.word)) = some (none, w)) ∧
    (∃ (s : State) (t : Nat) (len : Nat) (rd : Nat) (rs1 : Nat) (size : Nat) (imm : Word) (signed : Bool),
      let a := xcur s t rs1 + imm
      AtInstr s t (.load rd rs1 imm size signed) len ∧ AccessOk s t a size) :=
  ⟨⟨on { core := { coreAt 0 0 with slots := [{ st := .running, pc := 0x40000, bound := 262144 }, {}, {}, {}] } }, 0, 0,
      by decide +kernel⟩,
    ⟨at0 (iType 0 5 2 7 0x03) 0x3FFFD, 0, 4, 7, 5, 4, 0, true, by dsimp only; decide +kernel⟩,
    ⟨at0 (iType 0 5 2 7 0x03) 0x40000, 0, 4, 7, 5, 4, 0, true, by dsimp only; decide +kernel⟩,
    ⟨at0 (rType 0 6 5 2 0 0x23) 1 2, 0, 4, 5, 6, 4, 0, by dsimp only; decide +kernel⟩,
    ⟨at0 (rType 0 6 5 2 0 0x23) 0x40000 2, 0, 4, 5, 6, 4, 0, by dsimp only; decide +kernel⟩,
    ⟨at0 0x00000000, 0, 0, by decide +kernel⟩,
    ⟨at0 (iType 0 5 2 7 0x03) 0x3FFFC, 0, 4, 7, 5, 4, 0, true, by dsimp only; decide +kernel⟩⟩

theorem witness_fences_calls_and_return :
    (∃ (s : State) (t : Nat) (len : Nat),
      AtInstr s t .fence len) ∧
    (∃ (s : State) (t : Nat) (len : Nat),
      AtInstr s t .fenceI len) ∧
    (∃ (s : State) (t : Nat) (len : Nat),
      AtInstr s t .wfi len) ∧
    (∃ (s : State) (t : Nat) (len : Nat),
      let n := (tileOf s t).core.cur
      AtInstr s t .ecall len ∧ n ≠ 0) ∧
    (∃ (s : State) (t : Nat) (len : Nat),
      let n := (tileOf s t).core.cur
      AtInstr s t .ecall len ∧ n = 0) ∧
    (∃ (s : State) (t : Nat) (len : Nat),
      let n := (tileOf s t).core.cur
      AtInstr s t .ebreak len ∧ n ≠ 0 ∧ s.boot.perms.getLsbD 0 = false) ∧
    (∃ (s : State) (t : Nat) (len : Nat),
      let n := (tileOf s t).core.cur
      AtInstr s t .ebreak len ∧ n = 0) ∧
    (∃ (s : State) (t : Nat) (len : Nat),
      let n := (tileOf s t).core.cur
      AtInstr s t .ebreak len ∧ n ≠ 0 ∧ s.boot.perms.getLsbD 0 = true) ∧
    (∃ (s : State) (t : Nat) (len : Nat),
      let n := (tileOf s t).core.cur
      AtInstr s t .mret len ∧ n = 0) :=
  ⟨⟨at0 0x0000000F, 0, 4, by decide +kernel⟩,
    ⟨at0 0x0000100F, 0, 4, by decide +kernel⟩,
    ⟨at0 0x10500073, 0, 4, by decide +kernel⟩,
    ⟨at1 0x00000073, 0, 4, by dsimp only; decide +kernel⟩,
    ⟨at0 0x00000073, 0, 4, by dsimp only; decide +kernel⟩,
    ⟨at1 0x00100073, 0, 4, by dsimp only; decide +kernel⟩,
    ⟨at0 0x00100073, 0, 4, by dsimp only; decide +kernel⟩,
    ⟨{ at1 0x00100073 with boot := { perms := 1 } }, 0, 4, by dsimp only; decide +kernel⟩,
    ⟨at0 0x30200073, 0, 4, by dsimp only; decide +kernel⟩⟩

theorem witness_csr_instruction_results :
    (∃ (s : State) (t : Nat) (len : Nat) (rd : Nat) (src : Nat) (a : Nat) (isImm : Bool) (f : CsrFn) (old : Word),
      let u := countCycles s t
      let n := (tileOf s t).core.cur
      let at_ : Nat → Prop := fun a => AtInstr s t (.csr f rd src isImm a) len ∧ csrRead u t n a = some old
      let reads : Prop := csrNew f old (csrOperand s t src isImm) (src = 0) = none
      at_ a ∧ reads) ∧
    (∃ (s : State) (t : Nat) (len : Nat) (rd : Nat) (src : Nat) (a : Nat) (isImm : Bool) (f : CsrFn) (old : Word) (new : Word),
      let u := countCycles s t
      let n := (tileOf s t).core.cur
      let at_ : Nat → Prop := fun a => AtInstr s t (.csr f rd src isImm a) len ∧ csrRead u t n a = some old
      let writes : Prop := csrNew f old (csrOperand s t src isImm) (src = 0) = some new
      let mayWrite : Prop := n = 0 ∨ userWritable a = true
      at_ a ∧ writes ∧ (a < 0x7C0 ∨ (0x800 ≤ a ∧ a < 0xFC0)) ∧ mayWrite) ∧
    (∃ (s : State) (t : Nat) (len : Nat) (rd : Nat) (src : Nat) (a : Nat) (isImm : Bool) (f : CsrFn) (old : Word) (new : Word),
      let u := countCycles s t
      let n := (tileOf s t).core.cur
      let at_ : Nat → Prop := fun a => AtInstr s t (.csr f rd src isImm a) len ∧ csrRead u t n a = some old
      let writes : Prop := csrNew f old (csrOperand s t src isImm) (src = 0) = some new
      let mayWrite : Prop := n = 0 ∨ userWritable a = true
      at_ a ∧ writes ∧ 0x7C0 ≤ a ∧ a ≤ 0x7FF ∧ a ≠ 0x7F8 ∧ (a = 0x7C4 → bit new.toNat 4 = true → (tileOf s t).core.taskSel = 0) ∧
        mayWrite) ∧
    (∃ (s : State) (t : Nat) (len : Nat) (rd : Nat) (src : Nat) (isImm : Bool) (f : CsrFn) (old : Word) (new : Word),
      let u := countCycles s t
      let n := (tileOf s t).core.cur
      let at_ : Nat → Prop := fun a => AtInstr s t (.csr f rd src isImm a) len ∧ csrRead u t n a = some old
      let writes : Prop := csrNew f old (csrOperand s t src isImm) (src = 0) = some new
      at_ 0x7F8 ∧ writes ∧ n = 0) ∧
    (∃ (s : State) (t : Nat) (len : Nat) (rd : Nat) (src : Nat) (isImm : Bool) (f : CsrFn) (old : Word) (new : Word),
      let u := countCycles s t
      let n := (tileOf s t).core.cur
      let at_ : Nat → Prop := fun a => AtInstr s t (.csr f rd src isImm a) len ∧ csrRead u t n a = some old
      let writes : Prop := csrNew f old (csrOperand s t src isImm) (src = 0) = some new
      at_ 0x7C4 ∧ writes ∧ n = 0 ∧ bit new.toNat 4 = true) ∧
    (∃ (s : State) (t : Nat) (len : Nat) (rd : Nat) (src : Nat) (a : Nat) (isImm : Bool) (f : CsrFn) (old : Word) (new : Word),
      let u := countCycles s t
      let n := (tileOf s t).core.cur
      let at_ : Nat → Prop := fun a => AtInstr s t (.csr f rd src isImm a) len ∧ csrRead u t n a = some old
      let writes : Prop := csrNew f old (csrOperand s t src isImm) (src = 0) = some new
      let mayWrite : Prop := n = 0 ∨ userWritable a = true
      at_ a ∧ writes ∧ a < 0xFC0 ∧ ¬ mayWrite) ∧
    (∃ (s : State) (t : Nat) (len : Nat) (rd : Nat) (src : Nat) (a : Nat) (isImm : Bool) (f : CsrFn) (old : Word) (new : Word),
      let u := countCycles s t
      let n := (tileOf s t).core.cur
      let at_ : Nat → Prop := fun a => AtInstr s t (.csr f rd src isImm a) len ∧ csrRead u t n a = some old
      let writes : Prop := csrNew f old (csrOperand s t src isImm) (src = 0) = some new
      at_ a ∧ writes ∧ 0xFC0 ≤ a ∧ a ≤ 0xFFF) ∧
    (∃ (s : State) (t : Nat) (len : Nat) (rd : Nat) (src : Nat) (a : Nat) (isImm : Bool) (f : CsrFn),
      let u := countCycles s t
      let n := (tileOf s t).core.cur
      AtInstr s t (.csr f rd src isImm a) len ∧ csrRead u t n a = none) ∧
    (∃ (s : State) (t : Nat) (len : Nat) (rd : Nat) (src : Nat) (a : Nat) (isImm : Bool) (f : CsrFn) (old : Word),
      let u := countCycles s t
      let n := (tileOf s t).core.cur
      let at_ : Nat → Prop := fun a => AtInstr s t (.csr f rd src isImm a) len ∧ csrRead u t n a = some old
      let reads : Prop := csrNew f old (csrOperand s t src isImm) (src = 0) = none
      (a = 0x7E4 ∨ a = 0xFE4) ∧ at_ a ∧ reads) ∧
    (∃ (s : State) (t : Nat) (len : Nat) (rd : Nat) (src : Nat) (a : Nat) (isImm : Bool) (f : CsrFn) (old : Word),
      let u := countCycles s t
      let n := (tileOf s t).core.cur
      let at_ : Nat → Prop := fun a => AtInstr s t (.csr f rd src isImm a) len ∧ csrRead u t n a = some old
      let reads : Prop := csrNew f old (csrOperand s t src isImm) (src = 0) = none
      (a = 0x7F0 ∨ a = 0xFF0) ∧ at_ a ∧ reads) ∧
    (∃ (s : State) (t : Nat) (len : Nat) (rd : Nat) (src : Nat) (a : Nat) (isImm : Bool) (f : CsrFn) (old : Word),
      let u := countCycles s t
      let n := (tileOf s t).core.cur
      let at_ : Nat → Prop := fun a => AtInstr s t (.csr f rd src isImm a) len ∧ csrRead u t n a = some old
      a ∈ [0x7E4, 0x7F0, 0xFE4, 0xFF0] ∧ at_ a) :=
  ⟨⟨at0 (iType 0x7C0 0 2 7 0x73), 0, 4, 7, 0, 0x7C0, false, .set, 0, by dsimp only; decide +kernel⟩,
    ⟨at0 (iType 0x340 5 1 7 0x73) 9, 0, 4, 7, 5, 0x340, false, .write, 0, 9, by dsimp only; decide +kernel⟩,
    ⟨at0 (iType 0x7C2 5 1 7 0x73) 9, 0, 4, 7, 5, 0x7C2, false, .write, 0, 9, by dsimp only; decide +kernel⟩,
    ⟨on { core := { coreAt 0 (iType 0x7F8 5 1 7 0x73) 0x80000000 with faultCause := 0x80000105 } }, 0, 4, 7, 5, false, .write,
      0x80000105, 0x80000000, by dsimp only; decide +kernel⟩,
    ⟨on { core := { coreAt 0 (iType 0x7C4 5 1 7 0x73) 16 with taskSel := 1 } }, 0, 4, 7, 5, false, .write, 0, 16,
      by dsimp only; decide +kernel⟩,
    ⟨at1 (iType 0x7C2 5 1 7 0x73) 9, 0, 4, 7, 5, 0x7C2, false, .write, 0, 9, by dsimp only; decide +kernel⟩,
    ⟨at0 (iType 0xFC0 5 1 7 0x73) 9, 0, 4, 7, 5, 0xFC0, false, .write, 0, 9, by dsimp only; decide +kernel⟩,
    ⟨at0 (iType 0x001 5 1 7 0x73), 0, 4, 7, 5, 1, false, .write, by dsimp only; decide +kernel⟩,
    ⟨at0 (iType 0x7E4 0 2 7 0x73), 0, 4, 7, 0, 0x7E4, false, .set, 0, by dsimp only; decide +kernel⟩,
    ⟨at0 (iType 0x7F0 0 2 7 0x73), 0, 4, 7, 0, 0x7F0, false, .set, 0, by dsimp only; decide +kernel⟩,
    ⟨at0 (iType 0xFF0 0 2 7 0x73), 0, 4, 7, 0, 0xFF0, false, .set, 0, by dsimp only; decide +kernel⟩⟩

theorem witness_task_window_and_reset :
    (∃ (s : State) (t : Nat) (len : Nat) (rd : Nat) (old : Word) (new : Word),
      let n := (tileOf s t).core.taskSel
      AtCsrWrite s t 0x7C2 rd len old new ∧ n ≠ 0) ∧
    (∃ (s : State) (t : Nat) (len : Nat) (rd : Nat) (old : Word) (new : Word),
      let n := (tileOf s t).core.taskSel
      AtCsrWrite s t 0x7C3 rd len old new ∧ n ≠ 0 ∧ bits new.toNat 16 0 ≤ 65536) ∧
    (∃ (s : State) (t : Nat) (len : Nat) (rd : Nat) (old : Word) (new : Word),
      let n := (tileOf s t).core.taskSel
      AtCsrWrite s t 0x7C2 rd len old new ∧ n = 0) ∧
    (∃ (s : State) (t : Nat) (len : Nat) (rd : Nat) (old : Word) (new : Word),
      let n := (tileOf s t).core.taskSel
      AtCsrWrite s t 0x7C4 rd len old new ∧ bit new.toNat 4 = true ∧ n ≠ 0 ∧ (tileOf s t).core.resetting ≠ some n ∧ slotBusy (tileOf
        s t) n = false) :=
  ⟨⟨on { core := { coreAt 0 (csrW 0x7C2) 0xFFFF with taskSel := 3 } }, 0, 4, 7, 0, 0xFFFF, ⟨.write, 5, false, by decide +kernel⟩,
      by decide +kernel⟩,
    ⟨on { core := { coreAt 0 (csrW 0x7C3) 65536 with taskSel := 3 } }, 0, 4, 7, 0, 65536, ⟨.write, 5, false, by decide +kernel⟩,
      by decide +kernel, by decide +kernel⟩,
    ⟨at0 (csrW 0x7C2) 64, 0, 4, 7, 0, 64, ⟨.write, 5, false, by decide +kernel⟩, by decide +kernel⟩,
    ⟨on { core := { coreAt 0 (csrW 0x7C4) 16 with taskSel := 1 } }, 0, 4, 7, 0, 16, ⟨.write, 5, false, by decide +kernel⟩,
      by decide +kernel, by decide +kernel, by decide +kernel, by decide +kernel⟩⟩

theorem witness_ring_register_writes :
    (∃ (s : State) (t : Nat) (len : Nat) (rd : Nat) (old : Word) (new : Word),
      AtCsrWrite s t 0x7D8 rd len old new ∧ ((List.range 4).any fun n => bit new.toNat n && !(ringAt (tileOf s t) n).isOpen) = true) ∧
    (∃ (s : State) (t : Nat) (len : Nat) (rd : Nat) (old : Word) (new : Word),
      AtCsrWrite s t 0x7D8 rd len old new ∧ ((List.range 4).any fun n => !bit new.toNat n && (ringAt (tileOf s t) n).isOpen) = true) ∧
    (∃ (s : State) (t : Nat) (len : Nat) (rd : Nat) (n : Nat) (old : Word) (new : Word),
      n < 4 ∧ AtCsrWrite s t (0x7D0 + n) rd len old new) ∧
    (∃ (s : State) (t : Nat) (len : Nat) (rd : Nat) (old : Word) (new : Word),
      AtCsrWrite s t 0x7DA rd len old new) ∧
    (∃ (n : Nat) (k : Tile) (r : Ring),
      k.rings[n]? = some r) :=
  ⟨⟨on { core := coreAt 0 (csrW 0x7D8) 1, rings := [{ size := 256 }, {}, {}, {}] }, 0, 4, 7, 0, 1, ⟨.write, 5, false,
      by decide +kernel⟩, by decide +kernel⟩,
    ⟨on { core := coreAt 0 (csrW 0x7D8) 0, rings := [{ size := 256, isOpen := true }, {}, {}, {}] }, 0, 4, 7, 1, 0, ⟨.write, 5,
      false, by decide +kernel⟩, by decide +kernel⟩,
    ⟨on { core := coreAt 0 (csrW 0x7D3) 0x20, rings := [{}, {}, {}, { size := 256 }] }, 0, 4, 7, 3, 0, 0x20, by decide +kernel,
      ⟨.write, 5, false, by decide +kernel⟩⟩,
    ⟨at0 (csrW 0x7DA) 0xFF000002, 0, 4, 7, 0x01010101, 0xFF000002, ⟨.write, 5, false, by decide +kernel⟩⟩,
    ⟨3, ({ rings := [{}, {}, {}, { base := 0x3FF00, size := 256 }] } : Tile), { base := 0x3FF00, size := 256 }, by decide +kernel⟩⟩

theorem witness_mask_and_flag_writes :
    (∃ (s : State) (t : Nat) (len : Nat) (rd : Nat) (old : Word) (new : Word),
      AtCsrWrite s t 0x7E0 rd len old new) ∧
    (∃ (ch : Nat),
      ch < 32) ∧
    (∃ (s : State) (t : Nat) (len : Nat) (rd : Nat) (old : Word) (new : Word),
      AtCsrWrite s t 0x7F3 rd len old new) ∧
    (∃ (s : State) (t : Nat) (len : Nat) (rd : Nat) (old : Word) (new : Word),
      AtCsrWrite s t 0x7F4 rd len old new) ∧
    (∃ (s : State) (t : Nat) (len : Nat) (rd : Nat) (old : Word) (new : Word),
      AtCsrWrite s t 0x7F8 rd len old new ∧ bit new.toNat 31 = true) :=
  ⟨⟨on { core := { coreAt 0 (csrW 0x7E0) 0x80000001 with beamMask := 1, votes := 1 } }, 0, 4, 7, 1, 0x80000001, ⟨.write, 5, false,
      by decide +kernel⟩⟩,
    ⟨1, by decide +kernel⟩,
    ⟨on { core := { coreAt 0 (csrW 0x7F3) 0x80000000 with dirtySel := 7 } }, 0, 4, 7, 0xFFFFFFFF, 0x80000000, ⟨.write, 5, false,
      by decide +kernel⟩⟩,
    ⟨on { core := { coreAt 0 (csrW 0x7F4) 1 with fflagsX := 3 } }, 0, 4, 7, 3, 1, ⟨.write, 5, false, by decide +kernel⟩⟩,
    ⟨on { core := { coreAt 0 (csrW 0x7F8) 0x80000000 with faultCause := 0x80000105, pendingFaults := [⟨2, 3, 4, false⟩] } }, 0, 4,
      7, 0x80000105, 0x80000000, ⟨.write, 5, false, by decide +kernel⟩, by decide +kernel⟩⟩

theorem witness_message_issue :
    (∃ (s : State) (t : Nat) (len : Nat) (rs1 : Nat),
      let k := curSlot s t
      AtInstr s t (.xnt (.msgSend rs1)) len ∧ IssueOk s t (xcur s t rs1).toNat 32 (32 + bodyLen (readSpad s t (k.base + (xcur s t
        rs1).toNat) 32)) ∧ (tileOf s t).msg.sendQ.length < 8) ∧
    (∃ (s : State) (t : Nat) (len : Nat) (imm : Nat),
      let k := curSlot s t
      AtInstr s t (.xnt (.msgSendi imm)) len ∧ IssueOk s t (imm * 4) 32 (32 + bodyLen (readSpad s t (k.base + imm * 4) 32)) ∧
        (tileOf s t).msg.sendQ.length < 8) ∧
    (∃ (s : State) (t : Nat) (len : Nat) (rd : Nat) (rs1 : Nat),
      AtInstr s t (.xnt (.msgAvail rd rs1)) len) ∧
    (∃ (s : State) (t : Nat) (len : Nat),
      AtInstr s t (.xnt .msgFence) len ∧ (tileOf s t).msg.sendQ = []) ∧
    (∃ (s : State) (t : Nat) (len : Nat) (rs1 : Nat),
      AtInstr s t (.xnt (.tbNotify rs1)) len ∧ unsentNotify (tileOf s t).msg < 2) ∧
    (∃ (s : State) (t : Nat) (len : Nat) (imm : Nat),
      AtInstr s t (.xnt (.tbNotifyi imm)) len ∧ imm < 2 ^ 16 ∧ unsentNotify (tileOf s t).msg < 2) :=
  ⟨⟨at0 (xnt 0 0 5 0 0) 0x3FFE0, 0, 4, 5, by dsimp only; decide +kernel⟩,
    ⟨at0 (xnti 8 2 0), 0, 4, 8, by dsimp only; decide +kernel⟩,
    ⟨at0 (xnt 1 0 5 0 7) 3, 0, 4, 7, 5, by decide +kernel⟩,
    ⟨at0 (xnt 2 0 0 0 0), 0, 4, by decide +kernel⟩,
    ⟨at0 (xnt 3 0 5 5 0) 9, 0, 4, 5, by decide +kernel⟩,
    ⟨at0 (xnti 0xFFFF 3 0), 0, 4, 0xFFFF, by decide +kernel⟩⟩

theorem witness_full_queues_stall :
    (∃ (s : State) (t : Nat) (len : Nat) (rs1 : Nat),
      let off := (xcur s t rs1).toNat
      AtInstr s t (.xnt (.msgSend rs1)) len ∧ IssueOk s t off 32 (32 + bodyLen (readSpad s t ((curSlot s t).base + off) 32)) ∧ 8 ≤
        (tileOf s t).msg.sendQ.length) ∧
    (∃ (s : State) (t : Nat) (len : Nat),
      AtInstr s t (.xnt .msgFence) len ∧ (tileOf s t).msg.sendQ ≠ []) ∧
    (∃ (s : State) (t : Nat) (len : Nat) (rs1 : Nat),
      let off := (xcur s t rs1).toNat
      AtInstr s t (.xnt (.mxRun rs1)) len ∧ IssueOk s t off 64 64 ∧ 4 ≤ (tileOf s t).mxQ.length) ∧
    (∃ (s : State) (t : Nat) (len : Nat) (rs1 : Nat),
      AtInstr s t (.xnt (.tbNotify rs1)) len ∧ 2 ≤ unsentNotify (tileOf s t).msg) ∧
    (∃ (s : State) (t : Nat) (len : Nat),
      AtInstr s t (.xnt .mxFence) len ∧ (tileOf s t).mxQ ≠ []) ∧
    (∃ (s : State) (t : Nat) (len : Nat),
      AtInstr s t (.xnt .pzFence) len ∧ (tileOf s t).pzQ ≠ []) :=
  ⟨⟨on { core := coreAt 0 (xnt 0 0 5 0 0) 0x20, msg := { sendQ := List.replicate 8 m0 } }, 0, 4, 5, by dsimp only; decide +kernel⟩,
    ⟨on { core := coreAt 0 (xnt 2 0 0 0 0), msg := { sendQ := [m0] } }, 0, 4, by decide +kernel⟩,
    ⟨on { core := coreAt 0 (xnt 0 0 5 2 0) 0x40, mxQ := List.replicate 4 (op0 [] false) }, 0, 4, 5, by dsimp only; decide +kernel⟩,
    ⟨on { core := coreAt 0 (xnt 3 0 5 5 0) 9, msg := { notify := [nr 1, nr 2] } }, 0, 4, 5, by decide +kernel⟩,
    ⟨on { core := coreAt 0 (xnt 1 0 0 2 0), mxQ := [op0 [] true] }, 0, 4, by decide +kernel⟩,
    ⟨on { core := coreAt 0 (rType 1 0 0 3 0 0x0B), pzQ := [op0 [] true] }, 0, 4, by decide +kernel⟩⟩

theorem witness_engine_issue :
    (∃ (s : State) (t : Nat) (len : Nat) (rs1 : Nat),
      AtInstr s t (.xnt (.mxRun rs1)) len ∧ IssueOk s t (xcur s t rs1).toNat 64 64 ∧ (tileOf s t).mxQ.length + reservedPlaces s t
        false < 4) ∧
    (∃ (s : State) (t : Nat) (len : Nat) (imm : Nat),
      AtInstr s t (.xnt (.mxRuni imm)) len ∧ IssueOk s t (imm * 4) 64 64 ∧ (tileOf s t).mxQ.length + reservedPlaces s t false < 4) ∧
    (∃ (s : State) (t : Nat) (len : Nat) (rs1 : Nat) (rs2 : Nat) (rs3 : Nat),
      AtInstr s t (.xnt (.pzRun rs1 rs2 rs3)) len ∧ IssueOk s t (xcur s t rs1).toNat 64 64 ∧ (tileOf s t).pzQ.length +
        reservedPlaces s t true < 4) ∧
    (∃ (s : State) (t : Nat) (len : Nat) (rs1 : Nat) (imm : Nat),
      AtInstr s t (.xnt (.pzRuni rs1 imm)) len ∧ IssueOk s t (imm * 4) 64 64 ∧ (tileOf s t).pzQ.length + reservedPlaces s t true < 4) ∧
    (∃ (s : State) (t : Nat) (len : Nat) (rd : Nat),
      AtInstr s t (.xnt (.mxCount rd)) len) ∧
    (∃ (s : State) (t : Nat) (len : Nat) (rd : Nat),
      AtInstr s t (.xnt (.pzCount rd)) len) ∧
    (∃ (s : State) (t : Nat) (len : Nat),
      AtInstr s t (.xnt .mxFence) len ∧ (tileOf s t).mxQ = []) ∧
    (∃ (s : State) (t : Nat) (len : Nat),
      AtInstr s t (.xnt .pzFence) len ∧ (tileOf s t).pzQ = []) :=
  ⟨⟨on { core := coreAt 0 (xnt 0 0 5 2 0) 0x3FFC0, mxQ := List.replicate 3 (op0 [] false) }, 0, 4, 5, by decide +kernel⟩,
    ⟨at0 (xnti 16 0 0), 0, 4, 16, by decide +kernel⟩,
    ⟨at0 (rType (5 * 4) 6 5 3 0 0x0B) 0x3FFC0 3, 0, 4, 5, 6, 5, by decide +kernel⟩,
    ⟨at0 (xnti 16 1 5) 1 2, 0, 4, 5, 16, by decide +kernel⟩,
    ⟨on { core := coreAt 0 (xnt 2 0 0 2 7), mxQ := [op0 [] true] }, 0, 4, 7, by decide +kernel⟩,
    ⟨on { core := coreAt 0 (rType (1 * 4 + 1) 0 0 3 7 0x0B), pzQ := [op0 [] true] }, 0, 4, 7, by decide +kernel⟩,
    ⟨at0 (xnt 1 0 0 2 0), 0, 4, by decide +kernel⟩,
    ⟨at0 (rType 1 0 0 3 0 0x0B), 0, 4, by decide +kernel⟩⟩

theorem witness_beams_and_waits :
    (∃ (s : State) (t : Nat) (len : Nat) (rs1 : Nat),
      AtInstr s t (.xnt (.bmArrive rs1)) len) ∧
    (∃ (s : State) (t : Nat) (len : Nat) (rd : Nat) (rs1 : Nat),
      AtInstr s t (.xnt (.bmTest rd rs1)) len) ∧
    (∃ (s : State) (t : Nat) (len : Nat) (rs1 : Nat),
      AtInstr s t (.xnt (.bmWait rs1)) len) ∧
    (∃ (s : State) (t : Nat) (len : Nat) (rd : Nat),
      AtInstr s t (.xnt (.slWait rd)) len ∧ (tileOf s t).core.wakePend ≠ 0) ∧
    (∃ (s : State) (t : Nat) (len : Nat) (rd : Nat),
      AtInstr s t (.xnt (.slWait rd)) len ∧ (tileOf s t).core.wakePend = 0) ∧
    (∃ (n : Nat),
      n < 32) :=
  ⟨⟨on { core := { coreAt 0 (xnt 0 0 5 1 0) 31 with beamMask := 0x80000000 } }, 0, 4, 5, by decide +kernel⟩,
    ⟨on { core := { coreAt 0 (xnt 1 0 5 1 7) 31 with released := 0x80000000 } }, 0, 4, 7, 5, by decide +kernel⟩,
    ⟨at0 (xnt 2 0 5 1 0) 3, 0, 4, 5, by decide +kernel⟩,
    ⟨on { core := { coreAt 0 (xnt 8 0 0 1 7) with wakePend := 2 } }, 0, 4, 7, by decide +kernel⟩,
    ⟨at0 (xnt 8 0 0 1 7), 0, 4, 7, by decide +kernel⟩,
    ⟨31, by decide +kernel⟩⟩

theorem witness_timers_and_watchdog :
    (∃ (s : State) (t : Nat) (len : Nat) (rs1 : Nat),
      AtInstr s t (.xnt (.tbSnap rs1)) len ∧ AccessOk s t (xcur s t rs1) 8) ∧
    (∃ (s : State) (t : Nat) (len : Nat) (rs1 : Nat) (rs2 : Nat),
      AtInstr s t (.xnt (.tbWake rs1 rs2)) len) ∧
    (∃ (s : State) (t : Nat) (len : Nat),
      AtInstr s t (.xnt .tbCancel) len) ∧
    (∃ (s : State) (t : Nat) (v : Nat),
      tileRuns s t = true ∧ (tileOf s t).core.wakeTimer = some v ∧ v ≤ tileTb s t ∧ (tileOf s t).core.wakeCtl.getLsbD 9 = true) ∧
    (∃ (s : State) (t : Nat) (v : Nat),
      tileRuns s t = true ∧ (tileOf s t).core.wakeTimer = some v ∧ v ≤ tileTb s t ∧ (tileOf s t).core.wakeCtl.getLsbD 9 = false) ∧
    (∃ (s : State) (t : Nat) (len : Nat),
      AtInstr s t (.xnt .tkWdog) len) ∧
    (∃ (s : State) (t : Nat),
      tileRuns s t = true ∧ awake (tileOf s t).core = true ∧ (tileOf s t).core.wdogPeriod ≠ 0 ∧ (tileOf s t).core.wdogPeriod * 256 ≤
        (tileOf s t).core.wdogCount) :=
  ⟨⟨at0 (xnt 0 0 5 5 0) 0x3FFF8, 0, 4, 5, by decide +kernel⟩,
    ⟨at0 (xnt 1 6 5 5 0) 1 2, 0, 4, 5, 6, by decide +kernel⟩,
    ⟨at0 (xnt 2 0 0 5 0), 0, 4, by decide +kernel⟩,
    ⟨on { core := { coreAt 0 0 with wakeTimer := some 0, wakeCtl := 0x200 } }, 0, 0, by decide +kernel⟩,
    ⟨on { core := { coreAt 0 0 with wakeTimer := some 0, wakeCtl := 0 } }, 0, 0, by decide +kernel⟩,
    ⟨at0 (xnt 4 0 0 4 0), 0, 4, by decide +kernel⟩,
    ⟨on { core := { coreAt 0 0 with wdogPeriod := 1, wdogCount := 256 } }, 0, by decide +kernel⟩⟩

theorem witness_task_instructions :
    (∃ (s : State) (t : Nat) (len : Nat) (rd : Nat) (rs1 : Nat) (rs2 : Nat),
      let n := (xcur s t rs1).toNat % 4
      AtInstr s t (.xnt (.tkStart rd rs1 rs2)) len ∧ (tileOf s t).core.cur = 0 ∧ n ≠ 0 ∧ (slotAt (tileOf s t).core n).st = .idle) ∧
    (∃ (s : State) (t : Nat) (len : Nat) (rd : Nat) (rs1 : Nat) (rs2 : Nat),
      let n := (xcur s t rs1).toNat % 4
      AtInstr s t (.xnt (.tkStart rd rs1 rs2)) len ∧ (tileOf s t).core.cur = 0 ∧ ((n = 0 ∨ (slotAt (tileOf s t).core n).st ≠ .idle))) ∧
    (∃ (s : State) (t : Nat) (len : Nat),
      AtInstr s t (.xnt .tkExit) len) ∧
    (∃ (s : State) (t : Nat) (len : Nat),
      AtInstr s t (.xnt .tkYield) len) ∧
    (∃ (s : State) (t : Nat) (len : Nat) (rs1 : Nat),
      let n := (xcur s t rs1).toNat % 4
      AtInstr s t (.xnt (.tkReset rs1)) len ∧ (tileOf s t).core.cur = 0 ∧ n ≠ 0 ∧ (tileOf s t).core.resetting ≠ some n ∧ slotBusy
        (tileOf s t) n = false) ∧
    (∃ (s : State) (t : Nat) (len : Nat) (rs1 : Nat),
      let n := (xcur s t rs1).toNat % 4
      AtInstr s t (.xnt (.tkReset rs1)) len ∧ (tileOf s t).core.cur = 0 ∧ n = 0) ∧
    (∃ (s : State) (t : Nat) (len : Nat) (rd : Nat) (rs1 : Nat) (rs2 : Nat),
      AtInstr s t (.xnt (.tkStart rd rs1 rs2)) len ∧ (tileOf s t).core.cur ≠ 0) :=
  ⟨⟨at0 (xnt 0 6 5 4 7) 3 0x101, 0, 4, 7, 5, 6, by dsimp only; decide +kernel⟩,
    ⟨at0 (xnt 0 6 5 4 7) 0 0x100, 0, 4, 7, 5, 6, by dsimp only; decide +kernel⟩,
    ⟨at0 (xnt 1 0 0 4 0), 0, 4, by decide +kernel⟩,
    ⟨at0 (xnt 2 0 0 4 0), 0, 4, by decide +kernel⟩,
    ⟨at0 (xnt 3 0 5 4 0) 3, 0, 4, 5, by dsimp only; decide +kernel⟩,
    ⟨at0 (xnt 3 0 5 4 0) 4, 0, 4, 5, by dsimp only; decide +kernel⟩,
    ⟨at1 (xnt 0 6 5 4 7) 3 0x100, 0, 4, 7, 5, 6, by decide +kernel⟩⟩

theorem witness_plane_load_trigger_and_swap :
    (∃ (s : State) (t : Nat) (len : Nat) (rs1 : Nat),
      AtInstr s t (.xnt (.ltSwitch rs1)) len ∧ (tileOf s t).lat.shadowValid = true ∧ (tileOf s t).lat.pend = none) ∧
    (∃ (s : State) (t : Nat) (len : Nat) (rs1 : Nat),
      AtInstr s t (.xnt (.ltSwitch rs1)) len ∧ (tileOf s t).lat.shadowValid = false) ∧
    (∃ (s : State) (t : Nat) (len : Nat) (rs1 : Nat) (rs2 : Nat),
      let u := countCycles s t
      let off := (xcur s t rs1).toNat
      let n := (xcur s t rs2).toNat
      let img := readSpad s t ((curSlot s t).base + off) (min n 4096)
      let task := slotAt (tileOf s t).core (bits (fld img 0 4) 5 4)
      let p := planeOf img task.base task.bound
      AtInstr s t (.xnt (.ltLdcfg rs1 rs2)) len ∧ (tileOf s t).core.cur = 0 ∧ (tileOf s t).lat.pend = none ∧ IssueOk s t off 64 n ∧
        planeCase u t img n p = none) ∧
    (∃ (s : State) (t : Nat) (len : Nat) (rs1 : Nat) (rs2 : Nat) (k : Nat),
      let u := countCycles s t
      let off := (xcur s t rs1).toNat
      let n := (xcur s t rs2).toNat
      let img := readSpad s t ((curSlot s t).base + off) (min n 4096)
      let task := slotAt (tileOf s t).core (bits (fld img 0 4) 5 4)
      let p := planeOf img task.base task.bound
      AtInstr s t (.xnt (.ltLdcfg rs1 rs2)) len ∧ (tileOf s t).core.cur = 0 ∧ (tileOf s t).lat.pend = none ∧ IssueOk s t off 64 n ∧
        planeCase u t img n p = some k) ∧
    (∃ (s : State) (t : Nat) (x : Plane) (now : Bool),
      tileActs s t = true ∧ (tileOf s t).lat.pend = some now ∧ (tileOf s t).lat.shadow = some x ∧ ((now = true ∨ ((tileOf s
        t).lat.running = false ∧ drained (tileOf s t).lat = true)))) :=
  ⟨⟨on { core := coreAt 0 (xnt 0 0 5 6 0) 1, lat := { shadow := some pl0, shadowValid := true } }, 0, 4, 5, by decide +kernel⟩,
    ⟨at0 (xnt 0 0 5 6 0) 1, 0, 4, 5, by decide +kernel⟩,
    ⟨{ at0 (xnt 1 6 5 6 0) 0 72 with mem := [(0, 0x11), (6, 1)] }, 0, 4, 5, 6, by dsimp only; decide +kernel⟩,
    ⟨at0 (xnt 1 6 5 6 0) 0 72, 0, 4, 5, 6, 1, by dsimp only; decide +kernel⟩,
    ⟨on
      { lat := { pend := some true, running := true, active := some pl0, shadow := some (plRecv 1), shadowValid := true, shadowGen := 1 } },
      0, plRecv 1, true, by decide +kernel⟩⟩

theorem witness_section_cycles :
    (∃ (s : State) (t : Nat) (denied : Nat) (p : Plane),
      let l := (tileOf s t).lat
      let k := tileOf s t
      let due := dueAt p l.stepNo
      let cause := holdCauseOf s t p due
      let need := (sendReads p due).length + writeLines l p due
      let granted := grantedLines need denied l.lines
      let free : Prop := inSection s t = some p ∧ engineDue k = false ∧ (l.reserved = true ∨ cause = 0)
      let all : Prop := need ≤ l.lines.length + granted.length
      free ∧ all) ∧
    (∃ (s : State) (t : Nat) (p : Plane),
      let l := (tileOf s t).lat
      let k := tileOf s t
      let due := dueAt p l.stepNo
      let cause := holdCauseOf s t p due
      inSection s t = some p ∧ engineDue k = false ∧ l.reserved = false ∧ cause ≠ 0) ∧
    (∃ (s : State) (t : Nat) (denied : Nat) (p : Plane),
      let l := (tileOf s t).lat
      let k := tileOf s t
      let due := dueAt p l.stepNo
      let cause := holdCauseOf s t p due
      let need := (sendReads p due).length + writeLines l p due
      let granted := grantedLines need denied l.lines
      let free : Prop := inSection s t = some p ∧ engineDue k = false ∧ (l.reserved = true ∨ cause = 0)
      let all : Prop := need ≤ l.lines.length + granted.length
      free ∧ ¬ all) ∧
    (∃ (s : State) (t : Nat) (denied : Nat) (p : Plane) (prism : Bool),
      let l := (tileOf s t).lat
      let k := tileOf s t
      let due := dueAt p l.stepNo
      let cause := holdCauseOf s t p due
      let need := (sendReads p due).length + writeLines l p due
      let granted := grantedLines need denied l.lines
      let free : Prop := inSection s t = some p ∧ engineDue k = false ∧ (l.reserved = true ∨ cause = 0)
      let all : Prop := need ≤ l.lines.length + granted.length
      free ∧ all ∧ canDisplace k prism = true) ∧
    (∃ (s : State) (t : Nat) (p : Plane),
      inSection s t = some p) ∧
    (∃ (s : State) (t : Nat) (p : Plane),
      let l := (tileOf s t).lat
      inSection s t = some p ∧ p.stallLimit ≠ 0 ∧ p.stallLimit.toNat * 256 ≤ l.holdRun ∧ l.stallDone = false) :=
  ⟨⟨on { lat := { active := some pl0, running := true, activeGen := 1 } }, 0, 0, pl0, by dsimp only; decide +kernel⟩,
    ⟨on { lat := { active := some (plRecv 1), running := true, activeGen := 1 } }, 0, plRecv 1, by dsimp only; decide +kernel⟩,
    ⟨on { lat := { active := some (plSend 1), running := true, activeGen := 1, reserved := true } }, 0, 1, plSend 1,
      by dsimp only; decide +kernel⟩,
    ⟨on { pzQ := [op0 (pzd 1 512) true], lat := { active := some pl0, running := true, activeGen := 1 } }, 0, 0, pl0, true,
      by dsimp only; decide +kernel⟩,
    ⟨on { lat := { active := some pl0, running := true, activeGen := 1 } }, 0, pl0, by decide +kernel⟩,
    ⟨on { lat := { active := some pl0, running := true, activeGen := 1, holdRun := 256, holdCause := 1 } }, 0, pl0,
      by dsimp only; decide +kernel⟩⟩

theorem witness_lattice_tokens_move :
    (∃ (s : State) (t : Nat) (inp : Nat) (k : Token) (q : List Token),
      let l := (tileOf s t).lat
      tileRuns s t = true ∧ latQ l.flight inp = k :: q ∧ ((∀ t', linkTile s t (inp % 8) = some t' → viaCrossing t t' = false))) ∧
    (∃ (s : State) (t : Nat) (inp : Nat) (k : Token) (q : List Token) (t' : _),
      let l := (tileOf s t).lat
      tileRuns s t = true ∧ latQ l.flight inp = k :: q ∧ linkTile s t (inp % 8) = some t' ∧ viaCrossing t t' = true) ∧
    (∃ (s : State) (t : Nat) (inp : Nat) (k : Token) (q : List Token),
      let l := (tileOf s t).lat
      tileRuns s t = true ∧ latQ l.xq inp = k :: q ∧ (latQ l.inq inp).length < 4) ∧
    (∃ (s : State) (t : Nat) (inp : Nat) (k : Token) (q : List Token) (p : Plane),
      let l := (tileOf s t).lat
      let outs := (p.routes.filter fun w => latIndex (rtNet w) (rtIn w) = inp).map (fun w => (rtNet w, rtOut w));
      tileRuns s t = true ∧ l.active = some p ∧ usable l inp = k :: q ∧ outs ≠ [] ∧ outs.all (fun o => outRoom s t o.1 o.2) = true) ∧
    (∃ (s : State) (t : Nat) (k : Token) (q : List Token) (p : Plane),
      let l := (tileOf s t).lat
      tileRuns s t = true ∧ l.active = some p ∧ steerEn p = true ∧ l.pairData.length < 4 ∧ usable l (latIndex (steerNet p) (steerDin
        p)) = k :: q) ∧
    (∃ (s : State) (t : Nat) (k : Token) (q : List Token) (p : Plane),
      let l := (tileOf s t).lat
      tileRuns s t = true ∧ l.active = some p ∧ steerEn p = true ∧ l.pairCtl.length < 4 ∧ usable l (latIndex 2 (steerCin p)) = k ::
        q) :=
  ⟨⟨on { lat := { flight := [(1, [tok0 1])] } }, 0, 1, tok0 1, [], by dsimp only; decide +kernel⟩,
    ⟨two { lat := { flight := [(1, [tok0 1])] }, core := { ltile := some 9 } }, 9, 1, tok0 1, [], 11, by dsimp only; decide +kernel⟩,
    ⟨on { lat := { xq := [(1, [tok0 1])], inq := [(1, [tok0 1, tok0 1, tok0 1])] } }, 0, 1, tok0 1, [],
      by dsimp only; decide +kernel⟩,
    ⟨two2
      { lat := { inq := [(1, [tok0 1])], activeGen := 1, active := some { pl0 with routes := [BitVec.ofNat 32 (1 * 2 ^ 24 + 1 * 2 ^ 27)] } }, core := { ltile := some 0 } },
      0, 1, tok0 1, [], { pl0 with routes := [BitVec.ofNat 32 (1 * 2 ^ 24 + 1 * 2 ^ 27)] }, by dsimp only; decide +kernel⟩,
    ⟨on { lat := { inq := [(0, [tok0 1])], activeGen := 1, active := some { pl0 with steerCtl := 0x80000000 } } }, 0, tok0 1, [],
      { pl0 with steerCtl := 0x80000000 }, by dsimp only; decide +kernel⟩,
    ⟨on { lat := { inq := [(16, [tok0 1])], activeGen := 1, active := some { pl0 with steerCtl := 0x80000000 } } }, 0, tok0 1, [],
      { pl0 with steerCtl := 0x80000000 }, by dsimp only; decide +kernel⟩⟩

theorem witness_descriptor_checks :
    (∃ (s : State) (t : Nat) (n : Nat) (op : EngOp),
      let mx : Prop := enginesGo s t = true ∧ checkPlace (tileOf s t) false = some n ∧ (tileOf s t).mxQ[n]? = some op
      mx ∧ mxStatus op = 0 ∧ ((n = 0 ∨ mxWaitPrev op.desc = false))) ∧
    (∃ (s : State) (t : Nat) (n : Nat) (op : EngOp),
      let mx : Prop := enginesGo s t = true ∧ checkPlace (tileOf s t) false = some n ∧ (tileOf s t).mxQ[n]? = some op
      mx ∧ mxStatus op = 0 ∧ n ≠ 0 ∧ mxWaitPrev op.desc = true) ∧
    (∃ (s : State) (t : Nat) (n : Nat) (op : EngOp),
      let pz : Prop := enginesGo s t = true ∧ checkPlace (tileOf s t) true = some n ∧ (tileOf s t).pzQ[n]? = some op
      pz ∧ pzStatus op = 0 ∧ ((n = 0 ∨ pzWaitPrev op.desc = false))) ∧
    (∃ (s : State) (t : Nat) (n : Nat) (op : EngOp),
      let pz : Prop := enginesGo s t = true ∧ checkPlace (tileOf s t) true = some n ∧ (tileOf s t).pzQ[n]? = some op
      pz ∧ pzStatus op = 0 ∧ n ≠ 0 ∧ pzWaitPrev op.desc = true) ∧
    (∃ (s : State) (t : Nat) (n : Nat) (op : EngOp) (st : Nat),
      let mx : Prop := enginesGo s t = true ∧ checkPlace (tileOf s t) false = some n ∧ (tileOf s t).mxQ[n]? = some op
      mx ∧ mxStatus op = st ∧ st ≠ 0 ∧ st ≠ 4) ∧
    (∃ (s : State) (t : Nat) (n : Nat) (op : EngOp),
      let mx : Prop := enginesGo s t = true ∧ checkPlace (tileOf s t) false = some n ∧ (tileOf s t).mxQ[n]? = some op
      mx ∧ mxStatus op = 4) ∧
    (∃ (s : State) (t : Nat) (n : Nat) (op : EngOp) (st : Nat),
      let pz : Prop := enginesGo s t = true ∧ checkPlace (tileOf s t) true = some n ∧ (tileOf s t).pzQ[n]? = some op
      pz ∧ pzStatus op = st ∧ st ≠ 0 ∧ st ≠ 4) ∧
    (∃ (s : State) (t : Nat) (n : Nat) (op : EngOp),
      let pz : Prop := enginesGo s t = true ∧ checkPlace (tileOf s t) true = some n ∧ (tileOf s t).pzQ[n]? = some op
      pz ∧ pzStatus op = 4) ∧
    (∃ (s : State) (t : Nat) (line : Nat),
      enginesGo s t = true ∧ lineIn (checkLines s t false) line = true) ∧
    (∃ (s : State) (t : Nat) (line : Nat),
      enginesGo s t = true ∧ lineIn (checkLines s t true) line = true) :=
  ⟨⟨on { mxQ := [op0 (mxd 1 256) false] }, 0, 0, op0 (mxd 1 256) false, by dsimp only; decide +kernel⟩,
    ⟨on { mxQ := [op0 (mxd 1 256) true, op0 ((mxd 1 256).set 3 0x80) false] }, 0, 1, op0 ((mxd 1 256).set 3 0x80) false,
      by dsimp only; decide +kernel⟩,
    ⟨on { pzQ := [op0 (pzd 1 512) false] }, 0, 0, op0 (pzd 1 512) false, by dsimp only; decide +kernel⟩,
    ⟨on { pzQ := [op0 (pzd 1 512) true, op0 ((pzd 1 512).set 3 0x80) false] }, 0, 1, op0 ((pzd 1 512).set 3 0x80) false,
      by dsimp only; decide +kernel⟩,
    ⟨on { mxQ := [op0 (mxd 0 256) false] }, 0, 0, op0 (mxd 0 256) false, 1, by dsimp only; decide +kernel⟩,
    ⟨on { mxQ := [{ op0 (mxd 1 256) false with bound := 256 }] }, 0, 0, { op0 (mxd 1 256) false with bound := 256 },
      by dsimp only; decide +kernel⟩,
    ⟨on { pzQ := [op0 (pzd 0 512) false] }, 0, 0, op0 (pzd 0 512) false, 1, by dsimp only; decide +kernel⟩,
    ⟨on { pzQ := [{ op0 (pzd 1 512) false with bound := 256 }] }, 0, 0, { op0 (pzd 1 512) false with bound := 256 },
      by dsimp only; decide +kernel⟩,
    ⟨on { mxQ := [op0 (mxd 0 264) false] }, 0, 16, by decide +kernel⟩,
    ⟨on { pzQ := [op0 (pzd 0 512) false] }, 0, 16, by decide +kernel⟩⟩

theorem witness_engine_completions :
    (∃ (s : State) (t : Nat) (op : EngOp) (rest : List EngOp),
      let k := tileOf s t
      tileActs s t = true ∧ k.mxQ = op :: rest ∧ mayFinish k op = true ∧ k.pzQ.filter (·.started) = [] ∧ k.snap.copying = false) ∧
    (∃ (s : State) (t : Nat) (op : EngOp) (rest : List EngOp),
      let k := tileOf s t
      tileActs s t = true ∧ k.pzQ = op :: rest ∧ mayFinish k op = true ∧ k.mxQ.filter (·.started) = [] ∧ k.snap.copying = false) ∧
    (∃ (s : State) (t : Nat) (line : Nat) (op : EngOp) (rest : List EngOp),
      let k := tileOf s t
      tileActs s t = true ∧ k.mxQ = op :: rest ∧ mayFinish k op = true ∧ lineIn (opLines false op) line = true) ∧
    (∃ (s : State) (t : Nat) (line : Nat) (op : EngOp) (rest : List EngOp),
      let k := tileOf s t
      tileActs s t = true ∧ k.pzQ = op :: rest ∧ mayFinish k op = true ∧ lineIn (opLines true op) line = true) ∧
    (∃ (op : EngOp) (a : Nat),
      cplOf false op = some a ∧ beamOf false op = none) ∧
    (∃ (op : EngOp) (a : Nat),
      cplOf true op = some a ∧ beamOf true op = none) ∧
    (∃ (s : State) (t : Nat) (behind : Bool) (op : EngOp),
      let k := tileOf s t
      tileActs s t = true ∧ k.mxQ[b2n behind]? = some op ∧ begun op = true) ∧
    (∃ (s : State) (t : Nat) (behind : Bool) (op : EngOp),
      let k := tileOf s t
      tileActs s t = true ∧ k.pzQ[b2n behind]? = some op ∧ begun op = true) ∧
    (∃ (s : State) (t : Nat) (r : Reduction),
      tileActs s t = true ∧ reductionAtFront s t = some r) :=
  ⟨⟨{ on { mxQ := [op0 (mxd 1 256) true] } with mem := [(2, 0x80), (3, 0x3F), (66, 0x80), (67, 0x3F)] }, 0, op0 (mxd 1 256) true,
      [], by dsimp only; decide +kernel⟩,
    ⟨{ on { pzQ := [op0 (pzd 1 512) true] } with mem := [(512, 7)] }, 0, op0 (pzd 1 512) true, [], by dsimp only; decide +kernel⟩,
    ⟨on { mxQ := [op0 (mxd 1 256) true] }, 0, 8, op0 (mxd 1 256) true, [], by dsimp only; decide +kernel⟩,
    ⟨on { pzQ := [op0 (pzd 1 512) true] }, 0, 32, op0 (pzd 1 512) true, [], by dsimp only; decide +kernel⟩,
    ⟨op0 (mxd 1 256) true, 256, by decide +kernel⟩,
    ⟨op0 (pzd 1 512) true, 256, by decide +kernel⟩,
    ⟨on { mxQ := [op0 (mxd 1 256) true] }, 0, false, op0 (mxd 1 256) true, by dsimp only; decide +kernel⟩,
    ⟨on { pzQ := [op0 (pzd 1 512) true] }, 0, false, op0 (pzd 1 512) true, by dsimp only; decide +kernel⟩,
    ⟨on { msg := { arrived := [{ k0 with kind := 9, red := some red0 }] } }, 0, red0, by decide +kernel⟩⟩

theorem witness_mesh_links_carry_flits :
    (∃ (s : State) (t : Nat) (out : Nat) (net : MeshNet),
      let cs := heads s t net
      let mine := cs.filter fun c => (match c.route with | .out o _ _ => o = out | _ => false) && canGo s t out c
      tileRuns s t = true ∧ (cs.find? fun c => c.route = .discard) = none ∧ mine ≠ []) ∧
    (∃ (s : State) (t : Nat) (net : MeshNet) (c : Cand),
      let cs := heads s t net
      tileRuns s t = true ∧ (cs.find? fun c => c.route = .discard) = some c) ∧
    (∃ (s : State) (t : Nat) (t' : Nat) (o : Nat) (inp : Nat) (net : MeshNet) (f : Flit) (q : List Flit),
      let n := netNo net
      let key := linkKey n inp
      let onLink := tileRuns s t = true ∧ linkLive s t n inp = true ∧ qGet (tileOf s t).router.link key = f :: q
      let inTurn := f.seq = smGetD (tileOf s t).router.rxSeq key 0
      onLink ∧ inTurn ∧ inp < 4 ∧ f.dead = false ∧ linkPeer s t inp = some (t', o) ∧ t' ≠ t) ∧
    (∃ (s : State) (t : Nat) (inp : Nat) (net : MeshNet) (f : Flit) (q : List Flit) (p : Nat),
      let n := netNo net
      let key := linkKey n inp
      let onLink := tileRuns s t = true ∧ linkLive s t n inp = true ∧ qGet (tileOf s t).router.link key = f :: q
      let inTurn := f.seq = smGetD (tileOf s t).router.rxSeq key 0
      onLink ∧ inTurn ∧ 4 ≤ inp ∧ f.dead = false ∧ bridgeSide (ackFlit s t n inp f) t (inp - 4) = some p) ∧
    (∃ (s : State) (t : Nat) (inp : Nat) (net : MeshNet) (f : Flit) (q : List Flit),
      let n := netNo net
      let key := linkKey n inp
      let onLink := tileRuns s t = true ∧ linkLive s t n inp = true ∧ qGet (tileOf s t).router.link key = f :: q
      let inTurn := f.seq = smGetD (tileOf s t).router.rxSeq key 0
      onLink ∧ inTurn ∧ f.dead = true) ∧
    (∃ (s : State) (t : Nat) (t' : Nat) (o : Nat) (inp : Nat) (net : MeshNet) (f : Flit) (q : List Flit),
      let n := netNo net
      let key := linkKey n inp
      let onLink := tileRuns s t = true ∧ linkLive s t n inp = true ∧ qGet (tileOf s t).router.link key = f :: q
      let inTurn := f.seq = smGetD (tileOf s t).router.rxSeq key 0
      onLink ∧ inTurn ∧ linkPeer s t inp = some (t', o)) ∧
    (∃ (s : State) (t : Nat) (inp : Nat) (net : MeshNet) (f : Flit) (q : List Flit),
      let n := netNo net
      let key := linkKey n inp
      let onLink := tileRuns s t = true ∧ linkLive s t n inp = true ∧ qGet (tileOf s t).router.link key = f :: q
      let inTurn := f.seq = smGetD (tileOf s t).router.rxSeq key 0
      onLink ∧ ¬ inTurn) ∧
    (∃ (s : State) (t : Nat) (t' : Nat) (out : Nat) (net : MeshNet) (i : Nat) (v : Nat),
      let n := netNo net
      tileRuns s t = true ∧ smGet (tileOf s t).router.resend (linkKey n out) = some v ∧ linkPeer s t out = some (t', i) ∧ linkLive s
        t' n i = true) ∧
    (∃ (s : State) (t : Nat) (inp : Nat) (net : MeshNet),
      let n := netNo net
      let key := linkKey n inp
      tileRuns s t = true ∧ (tileOf s t).router.retraining.contains key = true) :=
  ⟨⟨on { router := { buf := [(bufKey 0 4 0, [fl sk, fl sk 1]), (bufKey 0 0 0, [fl { sk with pri := 3 }])] } }, 0, 1, .data,
      by dsimp only; decide +kernel⟩,
    ⟨{ up with tiles := [(9, { router := { buf := [(bufKey 0 4 0, [fl { k0 with dstU := 15 }])] } })] }, 9, .data,
      { inp := 4, vc := 0, flit := fl { k0 with dstU := 15 }, route := .discard }, by dsimp only; decide +kernel⟩,
    ⟨lnk (fl sk), 1, 0, 1, 3, .data, fl sk, [], by dsimp only; decide +kernel⟩,
    ⟨brS { link := [(linkKey 0 4, [fl sk])], replay := [(linkKey 0 0, [fl sk])] }, brT, 4, .data, fl sk, [], 0,
      by dsimp only; decide +kernel⟩,
    ⟨lnk { fl sk with dead := true }, 1, 3, .data, { fl sk with dead := true }, [], by dsimp only; decide +kernel⟩,
    ⟨lnk (fl sk) { fails := [(linkKey 0 3, 3)] }, 1, 0, 1, 3, .data, fl sk, [], by dsimp only; decide +kernel⟩,
    ⟨lnk (fl sk) { rxSeq := [(linkKey 0 3, 3)] }, 1, 3, .data, fl sk, [], by dsimp only; decide +kernel⟩,
    ⟨on { router := { replay := [(linkKey 0 1, [fl sk])], resend := [(linkKey 0 1, 1)] } }, 0, 1, 1, .data, 3, 1,
      by dsimp only; decide +kernel⟩,
    ⟨on { router := { retraining := [linkKey 0 3] } }, 0, 3, .data, by dsimp only; decide +kernel⟩⟩

theorem witness_mesh_packets_enter_and_leave :
    (∃ (s : State) (t : Nat) (t' : Nat) (o : OutPacket) (rest : List OutPacket),
      let room := fun (k : Packet) => (qGet (tileOf s t).router.buf (bufKey (netNo k.net) 4 (vcAt t k))).length + k.flits ≤ 10
      let sends := tileRuns s t = true ∧ (tileOf s t).msg.outPk = o :: rest ∧ o.pkt.kind ≠ 8
      let near := { o.pkt with dstU := meshU s t', dstV := meshV t', exit := false }
      sends ∧ targetOf s t o.pkt = .mesh t' ∧ room near) ∧
    (∃ (s : State) (t : Nat) (t' : Nat) (p : Nat) (o : OutPacket) (rest : List OutPacket),
      let room := fun (k : Packet) => (qGet (tileOf s t).router.buf (bufKey (netNo k.net) 4 (vcAt t k))).length + k.flits ≤ 10
      let sends := tileRuns s t = true ∧ (tileOf s t).msg.outPk = o :: rest ∧ o.pkt.kind ≠ 8
      let far := { o.pkt with dstU := meshU s t', dstV := meshV t', exit := true }
      sends ∧ targetOf s t o.pkt = .exit p ∧ (injTiles s p)[(portOf s p).exitRotor % (injTiles s p).length]? = some t' ∧ room far) ∧
    (∃ (s : State) (t : Nat) (o : OutPacket) (rest : List OutPacket),
      let sends := tileRuns s t = true ∧ (tileOf s t).msg.outPk = o :: rest ∧ o.pkt.kind ≠ 8
      sends ∧ targetOf s t o.pkt = .refused) ∧
    (∃ (s : State) (t' : Nat) (p : Nat) (k : Packet) (ks : List Packet),
      let bridge := rimRuns s = true ∧ p < 32 ∧ (portOf s p).inj = [] ∧ (portOf s p).toMesh = k :: ks
      let points := injTiles s p
      bridge ∧ k.kind ≠ 8 ∧ localTarget s (pointRegion s p) k.dstLtile = .mesh t' ∧ (lenders s).contains p = true ∧ (portOf s
        p).lender = none ∧ points ≠ []) ∧
    (∃ (s : State) (p : Nat) (k : Packet) (ks : List Packet) (b : Nat),
      let bridge := rimRuns s = true ∧ p < 32 ∧ (portOf s p).inj = [] ∧ (portOf s p).toMesh = k :: ks
      bridge ∧ (lenders s).contains p = false ∧ lenderOf (lenders s) p = some b ∧ (portOf s p).lender = none) ∧
    (∃ (s : State) (t : Nat) (f : Flit) (q : List Flit) (inp : Nat),
      let bkey := bufKey 1 inp 0
      let plan := floodPlan s t inp f.pkt
      let floods := tileRuns s t = true ∧ qGet (tileOf s t).router.buf bkey = f :: q ∧ f.pkt.kind = 8 ∧ (plan.outs.all fun o =>
        floodReady s t f.pkt o.1) = true
      floods ∧ smGet (tileOf s t).router.flood inp = none ∧ f.idx = 0 ∧ (tileOf s t).router.seen.contains (floodPair f.pkt) = true) ∧
    (∃ (s : State) (t : Nat) (f : Flit) (q : List Flit) (inp : Nat),
      let bkey := bufKey 1 inp 0
      let plan := floodPlan s t inp f.pkt
      let floods := tileRuns s t = true ∧ qGet (tileOf s t).router.buf bkey = f :: q ∧ f.pkt.kind = 8 ∧ (plan.outs.all fun o =>
        floodReady s t f.pkt o.1) = true
      floods ∧ plan.here = true) ∧
    (∃ (s : State) (t : Nat) (f : Flit) (q : List Flit) (inp : Nat) (o : _) (t' : _),
      let bkey := bufKey 1 inp 0
      let plan := floodPlan s t inp f.pkt
      let floods := tileRuns s t = true ∧ qGet (tileOf s t).router.buf bkey = f :: q ∧ f.pkt.kind = 8 ∧ (plan.outs.all fun o =>
        floodReady s t f.pkt o.1) = true
      floods ∧ smGet (tileOf s t).router.flood inp = none ∧ o ∈ plan.outs ∧ meshNext s t o.1 = some t') ∧
    (∃ (s : State) (t : Nat) (k : Packet) (net : MeshNet),
      let whole := fun net : MeshNet => tileRuns s t = true ∧ wholeAtEject s t net = some k
      whole net ∧ k.kind = 8) ∧
    (∃ (s : State) (t : Nat) (k : Packet) (net : MeshNet),
      let whole := fun net : MeshNet => tileRuns s t = true ∧ wholeAtEject s t net = some k
      whole net ∧ k.kind ≠ 8 ∧ (tileOf s t).core.ltile ≠ some k.dstLtile) ∧
    (∃ (s : State) (t : Nat) (k : Packet) (net : MeshNet),
      let whole := fun net : MeshNet => tileRuns s t = true ∧ wholeAtEject s t net = some k
      whole net ∧ k.kind = 9 ∧ (tileOf s t).core.ltile = some k.dstLtile) ∧
    (∃ (s : State) (t : Nat) (k : Packet) (net : MeshNet),
      let whole := fun net : MeshNet => tileRuns s t = true ∧ wholeAtEject s t net = some k
      whole net ∧ k.kind ∉ [8, 9] ∧ (tileOf s t).core.ltile = some k.dstLtile ∧ (tileOf s t).snap.frozen = false) ∧
    (∃ (s : State) (t : Nat) (k : Packet) (net : MeshNet),
      let out := fun (net : MeshNet) (r : Router) =>
        { r with eject := smSet r.eject (netNo net) (takeCopy k k.flits (qGet r.eject (netNo net))) }
      let whole := fun net : MeshNet => tileRuns s t = true ∧ wholeAtEject s t net = some k
      whole net ∧ k.kind ∉ [8, 9] ∧ (tileOf s t).core.ltile = some k.dstLtile ∧ (tileOf s t).snap.frozen = true ∧ frozenAccepts
        (updRouter s t (out net)) t k = false) ∧
    (∃ (s : State) (t : Nat) (a : Packet) (b : Packet),
      tileRuns s t = true ∧ mergePair (vc2Output s t) ((tileOf s t).router.combine.map (·.2)) = some (a, b)) ∧
    (∃ (s : State) (p : Nat) (i : Nat) (j : Nat) (a : Nat) (b : Nat) (x : Packet) (y : Packet),
      let merging := fun v => rimRuns s = true ∧ p < 32 ∧ portPair ((portReds (portOf s p)).take 64) = some v
      merging ((false, i, a, x), (false, j, b, y))) ∧
    (∃ (s : State) (p : Nat) (i : Nat) (j : Nat) (a : Nat) (b : Nat) (x : Packet) (y : Packet),
      let merging := fun v => rimRuns s = true ∧ p < 32 ∧ portPair ((portReds (portOf s p)).take 64) = some v
      merging ((false, i, a, x), (true, j, b, y))) ∧
    (∃ (s : State) (p : Nat) (i : Nat) (j : Nat) (a : Nat) (b : Nat) (x : Packet) (y : Packet) (g : LinkFrame),
      let merging := fun v => rimRuns s = true ∧ p < 32 ∧ portPair ((portReds (portOf s p)).take 64) = some v
      merging ((true, i, a, x), (true, j, b, y)) ∧ (portOf s p).fromRim[i]? = some (a, g)) :=
  ⟨⟨{ on { core := { ltile := some 0 }, msg := { outPk := [{ pkt := { k0 with dstDev := 1 }, cpl := some m0 }] } } with fabric := { devId := 1 } },
      0, 0, { pkt := { k0 with dstDev := 1 }, cpl := some m0 }, [], by dsimp only; decide +kernel⟩,
    ⟨exits, 0, exitT, 0, { pkt := { k0 with dstDev := 5 }, cpl := some m0 }, [], by dsimp only; decide +kernel⟩,
    ⟨{ on { msg := { outPk := [{ pkt := { k0 with dstDev := 1, dstLtile := 99999 } }] } } with fabric := { devId := 1 } }, 0,
      { pkt := { k0 with dstDev := 1, dstLtile := 99999 } }, [], by dsimp only; decide +kernel⟩,
    ⟨{ edge with fabric := { ports := [(0, { toMesh := [k0] })] } }, 0, 0, k0, [], by dsimp only; decide +kernel⟩,
    ⟨{ edge with fabric := { ports := [(16, { toMesh := [k0] })] } }, 16, k0, [], 31, by dsimp only; decide +kernel⟩,
    ⟨on { router := { buf := [(bufKey 1 3 0, flitsFor bc 0)], seen := [floodPair bc] } }, 0, (flitsFor bc 0).headD (fl bc),
      (flitsFor bc 0).tail, 3, by dsimp only; decide +kernel⟩,
    ⟨on { router := { buf := [(bufKey 1 3 0, flitsFor bc 0)] } }, 0, (flitsFor bc 0).headD (fl bc), (flitsFor bc 0).tail, 3,
      by dsimp only; decide +kernel⟩,
    ⟨on { router := { buf := [(bufKey 1 3 0, flitsFor bc 0)] } }, 0, (flitsFor bc 0).headD (fl bc), (flitsFor bc 0).tail, 3, (1, 0),
      1, by dsimp only; decide +kernel⟩,
    ⟨on { core := { ltile := some 0 }, router := { eject := [(1, flitsFor bc 0)] } }, 0, bc, .control,
      by dsimp only; decide +kernel⟩,
    ⟨on { core := { ltile := some 7 }, router := { eject := [(0, flitsFor k0 0)] } }, 0, k0, .data, by dsimp only; decide +kernel⟩,
    ⟨on { core := { ltile := some 0 }, router := { eject := [(0, flitsFor (rp 1) 0)] } }, 0, rp 1, .data,
      by dsimp only; decide +kernel⟩,
    ⟨on { core := { ltile := some 0 }, router := { eject := [(0, flitsFor k0 0)] } }, 0, k0, .data, by dsimp only; decide +kernel⟩,
    ⟨on { core := { ltile := some 0 }, router := { eject := [(0, flitsFor k0 0)] }, snap := { frozen := true } }, 0, k0, .data,
      by dsimp only; decide +kernel⟩,
    ⟨on { router := { combine := [(1, rp 1), (2, rp 2)] } }, 0, rp 1, rp 2, by decide +kernel⟩,
    ⟨{ up with fabric := { ports := [(31, { fromMesh := [(5, rp 1), (4, rp 2)] })] } }, 31, 0, 1, 5, 4, rp 1, rp 2,
      by dsimp only; decide +kernel⟩,
    ⟨{ up with fabric := { ports := [(31, { fromMesh := [(5, rp 1)], fromRim := [(4, { lf0 0 with body := .packet (rp 2) })] })] } },
      31, 0, 0, 5, 4, rp 1, rp 2, by dsimp only; decide +kernel⟩,
    ⟨{ up with fabric := { ports := [(31, { fromRim := [(5, { lf0 0 with body := .packet (rp 1) }), (4, { lf0 0 with body := .packet (rp 2) })] })] } },
      31, 0, 1, 5, 4, rp 1, rp 2, { lf0 0 with body := .packet (rp 1) }, by dsimp only; decide +kernel⟩⟩

theorem witness_reduction_records :
    (∃ (s : State) (t : Nat) (k : Packet) (r : Reduction),
      let a := saOffset r.dest
      let arrives := tileRuns s t = true ∧ ((tileOf s t).msg.arrived.find? fun k => k.red.isSome) = some k ∧ k.red = some r
      let open_ := readNum s t (a + 6) 1 = 1 ∧ readNum s t a 2 = r.cid
      arrives ∧ ¬ open_) ∧
    (∃ (s : State) (t : Nat) (k : Packet) (r : Reduction),
      let a := saOffset r.dest
      let arrives := tileRuns s t = true ∧ ((tileOf s t).msg.arrived.find? fun k => k.red.isSome) = some k ∧ k.red = some r
      let open_ := readNum s t (a + 6) 1 = 1 ∧ readNum s t a 2 = r.cid
      let alike := readNum s t (a + 8) 1 = r.rop ∧ readNum s t (a + 9) 1 = r.n ∧ readNum s t (a + 0xA) 1 = r.win
      arrives ∧ open_ ∧ ¬ alike) ∧
    (∃ (s : State) (t : Nat) (k : Packet) (r : Reduction),
      let a := saOffset r.dest
      let arrives := tileRuns s t = true ∧ ((tileOf s t).msg.arrived.find? fun k => k.red.isSome) = some k ∧ k.red = some r
      let open_ := readNum s t (a + 6) 1 = 1 ∧ readNum s t a 2 = r.cid
      let alike := readNum s t (a + 8) 1 = r.rop ∧ readNum s t (a + 9) 1 = r.n ∧ readNum s t (a + 0xA) 1 = r.win
      arrives ∧ open_ ∧ alike ∧ readNum s t (a + 4) 2 + r.contrib > readNum s t (a + 2) 2) ∧
    (∃ (s : State) (t : Nat) (k : Packet) (r : Reduction),
      let a := saOffset r.dest
      let arrives := tileRuns s t = true ∧ ((tileOf s t).msg.arrived.find? fun k => k.red.isSome) = some k ∧ k.red = some r
      let open_ := readNum s t (a + 6) 1 = 1 ∧ readNum s t a 2 = r.cid
      let alike := readNum s t (a + 8) 1 = r.rop ∧ readNum s t (a + 9) 1 = r.n ∧ readNum s t (a + 0xA) 1 = r.win
      arrives ∧ open_ ∧ alike ∧ readNum s t (a + 4) 2 + r.contrib ≤ readNum s t (a + 2) 2) ∧
    (∃ (s : State) (t : Nat) (d : Nat) (rest : List Nat),
      tileRuns s t = true ∧ (tileOf s t).redDone = d :: rest) :=
  ⟨⟨on { msg := { arrived := [rp 1] } }, 0, rp 1, { red0 with dest := 0x100 }, by dsimp only; decide +kernel⟩,
    ⟨{ on { msg := { arrived := [rp 1] } } with mem := [(0x100, 1), (0x106, 1), (0x108, 3)] }, 0, rp 1, { red0 with dest := 0x100 },
      by dsimp only; decide +kernel⟩,
    ⟨{ on { msg := { arrived := [rp 1] } } with mem := [(0x100, 1), (0x102, 3), (0x104, 3), (0x106, 1), (0x109, 1)] }, 0, rp 1,
      { red0 with dest := 0x100 }, by dsimp only; decide +kernel⟩,
    ⟨{ on { msg := { arrived := [rp 1] } } with mem := [(0x100, 1), (0x102, 3), (0x104, 2), (0x106, 1), (0x109, 1)] }, 0, rp 1,
      { red0 with dest := 0x100 }, by dsimp only; decide +kernel⟩,
    ⟨{ on { redDone := [0x100] } with mem := [(0x100, 1), (0x102, 3), (0x104, 3), (0x106, 1), (0x109, 1), (0x110, 7)] }, 0, 0x100,
      [], by decide +kernel⟩⟩

theorem witness_message_sender_side :
    (∃ (s : State) (t : Nat) (m : SendMsg) (rest : List SendMsg),
      tileActs s t = true ∧ (tileOf s t).msg.sendQ = m :: rest ∧ m.validated = false ∧ msgStatus m = 0) ∧
    (∃ (s : State) (t : Nat) (n : Nat) (m : SendMsg) (rest : List SendMsg),
      tileActs s t = true ∧ (tileOf s t).msg.sendQ = m :: rest ∧ m.validated = false ∧ msgStatus m = n ∧ n ≠ 0) ∧
    (∃ (s : State) (t : Nat) (m : SendMsg) (rest : List SendMsg),
      let head := tileActs s t = true ∧ (tileOf s t).msg.notify = [] ∧ (tileOf s t).snap.stopping = false ∧ (tileOf s t).msg.sendQ =
        m :: rest ∧ m.validated = true
      head ∧ (isTracked m = true → (tileOf s t).msg.track.all (·.isSome) = false)) ∧
    (∃ (s : State) (t : Nat) (x : NotifyRec) (xs : List NotifyRec),
      tileActs s t = true ∧ (tileOf s t).msg.notify = x :: xs ∧ notifyLeaves (tileOf s t).msg = false) ∧
    (∃ (s : State) (t : Nat) (m : SendMsg) (rest : List SendMsg),
      let head := tileActs s t = true ∧ (tileOf s t).msg.notify = [] ∧ (tileOf s t).snap.stopping = false ∧ (tileOf s t).msg.sendQ =
        m :: rest ∧ m.validated = true
      head ∧ hClass m.hdr = 2) ∧
    (∃ (s : State) (t : Nat) (m : SendMsg) (rest : List SendMsg),
      let head := tileActs s t = true ∧ (tileOf s t).msg.notify = [] ∧ (tileOf s t).snap.stopping = false ∧ (tileOf s t).msg.sendQ =
        m :: rest ∧ m.validated = true
      let waits := hFence m.hdr && (tileOf s t).msg.track.any (·.isSome)
      let away := hDstDev m.hdr ≠ s.fabric.devId ∨ (tileOf s t).core.ltile ≠ some (hDstLtile m.hdr)
      head ∧ isMsg m = true ∧ hAck m.hdr = false ∧ waits = false ∧ away) ∧
    (∃ (s : State) (t : Nat) (m : SendMsg) (rest : List SendMsg) (i : Nat),
      let head := tileActs s t = true ∧ (tileOf s t).msg.notify = [] ∧ (tileOf s t).snap.stopping = false ∧ (tileOf s t).msg.sendQ =
        m :: rest ∧ m.validated = true
      let waits := hFence m.hdr && (tileOf s t).msg.track.any (·.isSome)
      let away := hDstDev m.hdr ≠ s.fabric.devId ∨ (tileOf s t).core.ltile ≠ some (hDstLtile m.hdr)
      head ∧ isMsg m = true ∧ hAck m.hdr = true ∧ waits = false ∧ away ∧ (tileOf s t).msg.track.findIdx? (·.isNone) = some i ∧ i <
        16) ∧
    (∃ (s : State) (t : Nat) (e : Nat) (k : Packet) (x : Track),
      let takes := fun sel : Packet → Bool => tileRuns s t = true ∧ (tileOf s t).msg.arrived.find? sel = some k
      let entry := (tileOf s t).msg.track[e]? = some (some x) ∧ e < 16 ∧ x.txid = pkTxid k ∧ x.txid % 16 = e
      let answer := fun k : Packet => decide (k.kind = 5) || (isCtlReply k && !ctlOfGet s t k)
      takes answer ∧ entry ∧ k.kind = 5) ∧
    (∃ (s : State) (t : Nat) (e : Nat) (k : Packet) (x : Track),
      let takes := fun sel : Packet → Bool => tileRuns s t = true ∧ (tileOf s t).msg.arrived.find? sel = some k
      let entry := (tileOf s t).msg.track[e]? = some (some x) ∧ e < 16 ∧ x.txid = pkTxid k ∧ x.txid % 16 = e
      let reply := fun k : Packet => decide (k.kind = 4) || (isCtlReply k && ctlOfGet s t k)
      takes reply ∧ entry ∧ k.kind = 4) ∧
    (∃ (s : State) (t : Nat) (e : Nat) (k : Packet) (x : Track),
      let takes := fun sel : Packet → Bool => tileRuns s t = true ∧ (tileOf s t).msg.arrived.find? sel = some k
      let entry := (tileOf s t).msg.track[e]? = some (some x) ∧ e < 16 ∧ x.txid = pkTxid k ∧ x.txid % 16 = e
      takes (fun k => decide (k.kind = 6)) ∧ (tileOf s t).msg.ringPend = none ∧ entry ∧ pkTxid k ≠ 0) ∧
    (∃ (s : State) (t : Nat) (k : Packet),
      let takes := fun sel : Packet → Bool => tileRuns s t = true ∧ (tileOf s t).msg.arrived.find? sel = some k
      let answer := fun k : Packet => decide (k.kind = 5) || (isCtlReply k && !ctlOfGet s t k)
      takes answer ∧ k.kind ≠ 5) ∧
    (∃ (s : State) (t : Nat) (k : Packet),
      let takes := fun sel : Packet → Bool => tileRuns s t = true ∧ (tileOf s t).msg.arrived.find? sel = some k
      let reply := fun k : Packet => decide (k.kind = 4) || (isCtlReply k && ctlOfGet s t k)
      takes reply ∧ k.kind ≠ 4) ∧
    (∃ (s : State) (t : Nat) (k : Packet),
      let takes := fun sel : Packet → Bool => tileRuns s t = true ∧ (tileOf s t).msg.arrived.find? sel = some k
      let answer := fun k : Packet => decide (k.kind = 5) || (isCtlReply k && !ctlOfGet s t k)
      takes answer ∧ k.kind = 5 ∧ trackOf s t (pkTxid k) = none) ∧
    (∃ (s : State) (t : Nat) (k : Packet),
      let takes := fun sel : Packet → Bool => tileRuns s t = true ∧ (tileOf s t).msg.arrived.find? sel = some k
      takes (fun k => decide (k.kind = 6)) ∧ (tileOf s t).msg.ringPend = none ∧ ofEngine s t k = true ∧ fld k.payload 2 1 = 1) ∧
    (∃ (s : State) (t : Nat) (e : Nat) (x : Track),
      tileRuns s t = true ∧ (tileOf s t).msg.track.getD e none = some x) ∧
    (∃ (s : State) (t : Nat) (e : Nat) (x : Track),
      e < (tileOf s t).msg.track.length ∧ x.beam = none) :=
  ⟨⟨on { msg := { sendQ := [m0] } }, 0, m0, [], by decide +kernel⟩,
    ⟨on { msg := { sendQ := [{ m0 with hdr := 3 :: hdr0.drop 1 }] } }, 0, 1, { m0 with hdr := 3 :: hdr0.drop 1 }, [],
      by decide +kernel⟩,
    ⟨on { msg := { sendQ := [{ m0 with validated := true }] } }, 0, { m0 with validated := true }, [],
      by dsimp only; decide +kernel⟩,
    ⟨on { core := { ltile := some 0 }, msg := { notify := [nr 7] } }, 0, nr 7, [], by decide +kernel⟩,
    ⟨on { core := { ltile := some 0 }, msg := { sendQ := [{ m0 with hdr := 2 :: hdr0.drop 1, validated := true }] } }, 0,
      { m0 with hdr := 2 :: hdr0.drop 1, validated := true }, [], by dsimp only; decide +kernel⟩,
    ⟨on { core := { ltile := some 0 }, msg := { sendQ := [{ m0 with hdr := 1 :: hdr0.drop 1, validated := true }] } }, 0,
      { m0 with hdr := 1 :: hdr0.drop 1, validated := true }, [], by dsimp only; decide +kernel⟩,
    ⟨on { core := { ltile := some 0 }, msg := { sendQ := [{ m0 with hdr := 17 :: hdr0.drop 1, validated := true }] } }, 0,
      { m0 with hdr := 17 :: hdr0.drop 1, validated := true }, [], 0, by dsimp only; decide +kernel⟩,
    ⟨on { msg := { track := [some tr0] ++ List.replicate 15 none, arrived := [{ k0 with kind := 5, payload := natLe 16 16 }] } }, 0,
      0, { k0 with kind := 5, payload := natLe 16 16 }, tr0, by dsimp only; decide +kernel⟩,
    ⟨on
      { msg := { track := [some { tr0 with op := 2 }] ++ List.replicate 15 none, arrived := [{ k0 with kind := 4, payload := natLe 4 0x200 ++ natLe 2 2 ++ natLe 10 16 ++ [1, 2] }] } },
      0, 0, { k0 with kind := 4, payload := natLe 4 0x200 ++ natLe 2 2 ++ natLe 10 16 ++ [1, 2] }, { tr0 with op := 2 },
      by dsimp only; decide +kernel⟩,
    ⟨on
      { msg := { track := [some tr0] ++ List.replicate 15 none, arrived := [{ k0 with kind := 6, payload := natLe 1 7 ++ natLe 15 16 }] } },
      0, 0, { k0 with kind := 6, payload := natLe 1 7 ++ natLe 15 16 }, tr0, by dsimp only; decide +kernel⟩,
    ⟨on
      { msg := { track := [some tr0] ++ List.replicate 15 none, arrived := [{ k0 with kind := 0xA, payload := natLe 16 0 ++ natLe 2 2 ++ natLe 14 16 }] } },
      0, { k0 with kind := 0xA, payload := natLe 16 0 ++ natLe 2 2 ++ natLe 14 16 }, by dsimp only; decide +kernel⟩,
    ⟨on
      { msg := { track := [some { tr0 with op := 2 }] ++ List.replicate 15 none, arrived := [{ k0 with kind := 0xA, payload := natLe 16 0 ++ natLe 2 2 ++ natLe 14 16 }] } },
      0, { k0 with kind := 0xA, payload := natLe 16 0 ++ natLe 2 2 ++ natLe 14 16 }, by dsimp only; decide +kernel⟩,
    ⟨on { msg := { arrived := [{ k0 with kind := 5, payload := natLe 16 16 }] } }, 0, { k0 with kind := 5, payload := natLe 16 16 },
      by dsimp only; decide +kernel⟩,
    ⟨on { snap := { unacked := 1 }, msg := { arrived := [nakE] } }, 0, nakE, by dsimp only; decide +kernel⟩,
    ⟨on { msg := { track := [some tr0] ++ List.replicate 15 none } }, 0, 0, tr0, by decide +kernel⟩,
    ⟨on { msg := { track := [some tr0] ++ List.replicate 15 none } }, 0, 0, tr0, by decide +kernel⟩⟩

theorem witness_message_receiver_side :
    (∃ (s : State) (t : Nat) (ring : Nat) (place : Nat) (skip : Option (Nat × Nat)) (k : Packet),
      let tests := tileRuns s t = true ∧ (tileOf s t).msg.ringPend = none ∧ nextMsg s t = some k
      tests ∧ checkMsg (tileOf s t) k = .accept ring place skip) ∧
    (∃ (s : State) (t : Nat) (why : Nat) (k : Packet) (r : Option Nat),
      let tests := tileRuns s t = true ∧ (tileOf s t).msg.ringPend = none ∧ nextMsg s t = some k
      tests ∧ checkMsg (tileOf s t) k = .nak why r) ∧
    (∃ (s : State) (t : Nat) (ring : Nat) (k : Packet),
      let tests := tileRuns s t = true ∧ (tileOf s t).msg.ringPend = none ∧ nextMsg s t = some k
      tests ∧ checkMsg (tileOf s t) k = .noRoom ring ∧ ((k.kind = 0 ∨ (tileOf s t).core.holdWindow = 0))) ∧
    (∃ (s : State) (t : Nat) (ring : Nat) (k : Packet),
      let tests := tileRuns s t = true ∧ (tileOf s t).msg.ringPend = none ∧ nextMsg s t = some k
      tests ∧ checkMsg (tileOf s t) k = .noRoom ring ∧ k.kind ≠ 0 ∧ (tileOf s t).core.holdWindow ≠ 0) ∧
    (∃ (s : State) (t : Nat) (n : Nat) (ring : Nat) (place : Nat) (window : Nat) (skip : Option (Nat × Nat)) (k : Packet),
      let held := tileRuns s t = true ∧ (tileOf s t).msg.hold = some (k, n, window)
      held ∧ checkMsg (tileOf s t) k = .accept ring place skip ∧ (tileOf s t).msg.ringPend = none) ∧
    (∃ (s : State) (t : Nat) (n : Nat) (why : Nat) (window : Nat) (k : Packet) (r : Option Nat),
      let held := tileRuns s t = true ∧ (tileOf s t).msg.hold = some (k, n, window)
      held ∧ checkMsg (tileOf s t) k = .nak why r) ∧
    (∃ (s : State) (t : Nat) (n : Nat) (ring : Nat) (window : Nat) (k : Packet),
      let held := tileRuns s t = true ∧ (tileOf s t).msg.hold = some (k, n, window)
      held ∧ checkMsg (tileOf s t) k = .noRoom ring) ∧
    (∃ (s : State) (t : Nat) (n : Nat) (ring : Nat) (place : Nat) (window : Nat) (skip : Option (Nat × Nat)) (k : Packet),
      let held := tileRuns s t = true ∧ (tileOf s t).msg.hold = some (k, n, window)
      held ∧ checkMsg (tileOf s t) k = .accept ring place skip ∧ (tileOf s t).msg.ringPend ≠ none) ∧
    (∃ (s : State) (t : Nat) (n : Nat) (window : Nat) (k : Packet),
      let held := tileRuns s t = true ∧ (tileOf s t).msg.hold = some (k, n, window)
      held ∧ window ≤ n) ∧
    (∃ (s : State) (t : Nat) (p : RingPend) (g : Ring),
      tileRuns s t = true ∧ (tileOf s t).msg.ringPend = some p ∧ (tileOf s t).rings[p.ring]? = some g ∧ p.closed = false ∧ p.skip =
        none ∧ p.entry.length = p.len ∧ 32 ≤ p.len) ∧
    (∃ (s : State) (t : Nat) (p : RingPend),
      tileRuns s t = true ∧ (tileOf s t).msg.ringPend = some p ∧ p.closed = true) :=
  ⟨⟨rcv { isOpen := true, size := 256 } k0, 0, 0, 0, none, k0, by dsimp only; decide +kernel⟩,
    ⟨rcv { size := 256 } k0, 0, 2, k0, some 0, by dsimp only; decide +kernel⟩,
    ⟨rcv { isOpen := true, size := 256, head := 16 } k0, 0, 0, k0, by dsimp only; decide +kernel⟩,
    ⟨rcv { isOpen := true, size := 256, head := 16 } { k0 with kind := 1 }, 0, 0, { k0 with kind := 1 },
      by dsimp only; decide +kernel⟩,
    ⟨hld { isOpen := true, size := 256 } 3, 0, 3, 0, 0, 0x800, none, k0, by dsimp only; decide +kernel⟩,
    ⟨hld { size := 256 } 3, 0, 3, 2, 0x800, k0, some 0, by dsimp only; decide +kernel⟩,
    ⟨hld { isOpen := true, size := 256, head := 16 } 3, 0, 3, 0, 0x800, k0, by dsimp only; decide +kernel⟩,
    ⟨pendHld { isOpen := true, size := 256 } 3, 0, 3, 0, 0, 0x800, none, k0, by dsimp only; decide +kernel⟩,
    ⟨hld { isOpen := true, size := 256, head := 16 } 0x800, 0, 0x800, 0x800, k0, by dsimp only; decide +kernel⟩,
    ⟨on { msg := { ringPend := some rpd }, rings := [{ isOpen := true, size := 256, base := 0x1000 }, {}, {}, {}] }, 0, rpd,
      { isOpen := true, size := 256, base := 0x1000 }, by decide +kernel⟩,
    ⟨on { msg := { ringPend := some { rpd with closed := true } }, rings := [{ size := 256, base := 0x1000 }, {}, {}, {}] }, 0,
      { rpd with closed := true }, by decide +kernel⟩⟩

theorem witness_remote_accesses :
    (∃ (s : State) (t : Nat) (k : Packet),
      let off := saOffset (pkAddr k)
      let len := fld k.payload 8 2
      let takes := fun n : Nat => tileRuns s t = true ∧ ((tileOf s t).msg.arrived.find? fun k => k.kind = n) = some k
      takes 2 ∧ ((0x2000 ≤ off ∨ len = 0)) ∧ bit (fld k.payload 0xB 1) 0 = false) ∧
    (∃ (s : State) (t : Nat) (k : Packet),
      let off := saOffset (pkAddr k)
      let len := fld k.payload 8 2
      let takes := fun n : Nat => tileRuns s t = true ∧ ((tileOf s t).msg.arrived.find? fun k => k.kind = n) = some k
      takes 2 ∧ ((0x2000 ≤ off ∨ len = 0)) ∧ bit (fld k.payload 0xB 1) 0 = true) ∧
    (∃ (s : State) (t : Nat) (k : Packet),
      let off := saOffset (pkAddr k)
      let len := fld k.payload 8 2
      let takes := fun n : Nat => tileRuns s t = true ∧ ((tileOf s t).msg.arrived.find? fun k => k.kind = n) = some k
      takes 2 ∧ off < 0x2000 ∧ 0 < len ∧ bit (fld k.payload 0xB 1) 0 = false) ∧
    (∃ (s : State) (t : Nat) (k : Packet),
      let off := saOffset (pkAddr k)
      let len := fld k.payload 8 2
      let takes := fun n : Nat => tileRuns s t = true ∧ ((tileOf s t).msg.arrived.find? fun k => k.kind = n) = some k
      takes 2 ∧ off < 0x2000 ∧ 0 < len ∧ bit (fld k.payload 0xB 1) 0 = true) ∧
    (∃ (s : State) (t : Nat) (k : Packet),
      let off := saOffset (pkAddr k)
      let len := fld k.payload 8 2
      let takes := fun n : Nat => tileRuns s t = true ∧ ((tileOf s t).msg.arrived.find? fun k => k.kind = n) = some k
      takes 3 ∧ ((0x2000 ≤ off ∨ len = 0))) ∧
    (∃ (s : State) (t : Nat) (k : Packet),
      let off := saOffset (pkAddr k)
      let len := fld k.payload 8 2
      let takes := fun n : Nat => tileRuns s t = true ∧ ((tileOf s t).msg.arrived.find? fun k => k.kind = n) = some k
      takes 3 ∧ off < 0x2000 ∧ 0 < len) ∧
    (∃ (s : State) (k : Packet) (ks : List Packet),
      eyepieceRuns s = true ∧ s.dict.serving = true ∧ s.dict.accesses = k :: ks) :=
  ⟨⟨on { msg := { arrived := [rw 2 0x2000 4 0] } }, 0, rw 2 0x2000 4 0, by dsimp only; decide +kernel⟩,
    ⟨on { msg := { arrived := [rw 2 0x3FFFC 4 1] } }, 0, rw 2 0x3FFFC 4 1, by dsimp only; decide +kernel⟩,
    ⟨on { msg := { arrived := [rw 2 0x1FFC 4 0] } }, 0, rw 2 0x1FFC 4 0, by dsimp only; decide +kernel⟩,
    ⟨on { msg := { arrived := [rw 2 0x1FFC 4 1] } }, 0, rw 2 0x1FFC 4 1, by dsimp only; decide +kernel⟩,
    ⟨on { msg := { arrived := [rw 3 0x2000 4 0] } }, 0, rw 3 0x2000 4 0, by dsimp only; decide +kernel⟩,
    ⟨on { msg := { arrived := [rw 3 0x1FFC 4 0] } }, 0, rw 3 0x1FFC 4 0, by dsimp only; decide +kernel⟩,
    ⟨{ up with dict := { serving := true, accesses := [{ k0 with kind := 0xA, dstDev := 0xFFFF }] } },
      { k0 with kind := 0xA, dstDev := 0xFFFF }, [], by decide +kernel⟩⟩

theorem witness_beam_channels :
    (∃ (s : State) (ch : Nat),
      let here : Prop := rootsRun s = true ∧ ch < 31
      here ∧ systemScope s ch = false) ∧
    (∃ (s : State) (ch : Nat),
      let here : Prop := rootsRun s = true ∧ ch < 31
      here ∧ systemScope s ch = true) ∧
    (∃ (s : State),
      parentPort s = 0xFF) ∧
    (∃ (s : State),
      parentPort s ≠ 0xFF) ∧
    (∃ (s : State) (segment : Nat) (copy : Nat),
      let bad := smGetD s.beam.failed segment []
      rimRuns s = true ∧ segment < 48 + regionCount ∧ copy < 3 ∧ copy ∉ bad ∧ bad.length ≠ 1) ∧
    (∃ (s : State) (segment : Nat) (copy : Nat),
      let bad := smGetD s.beam.failed segment []
      rimRuns s = true ∧ segment < 48 ∧ copy < 3 ∧ copy ∉ bad ∧ bad.length = 1) ∧
    (∃ (s : State) (segment : Nat) (copy : Nat),
      let bad := smGetD s.beam.failed segment []
      rimRuns s = true ∧ 48 ≤ segment ∧ segment < 48 + regionCount ∧ copy < 3 ∧ copy ∉ bad ∧ bad.length = 1) ∧
    (∃ (s : State) (p : Nat) (block : List Byte),
      let takes := carriesBlocks s p = true ∧ blockGood block = true ∧ fld block 0 1 = 6
      takes ∧ fld block 1 1 = 0 ∧ fld block 2 1 < 31 ∧ systemScope s (fld block 2 1) = true ∧ p ∈ childPorts s ∧ fld block 3 1 =
        s.beam.count.getD (fld block 2 1) 0) ∧
    (∃ (s : State) (p : Nat) (block : List Byte),
      let takes := carriesBlocks s p = true ∧ blockGood block = true ∧ fld block 0 1 = 6
      takes ∧ fld block 3 1 ≠ s.beam.count.getD (fld block 2 1) 0) ∧
    (∃ (s : State) (p : Nat) (block : List Byte),
      let takes := carriesBlocks s p = true ∧ blockGood block = true ∧ fld block 0 1 = 6
      takes ∧ fld block 1 1 = 1 ∧ fld block 2 1 < 31 ∧ systemScope s (fld block 2 1) = true ∧ parentPort s = p ∧ rootsRun s = true ∧
        fld block 3 1 ≠ s.beam.count.getD (fld block 2 1) 0) ∧
    (∃ (s : State) (p : Nat) (block : List Byte),
      let takes := carriesBlocks s p = true ∧ blockGood block = true ∧ fld block 0 1 = 6
      takes ∧ fld block 1 1 = 1 ∧ fld block 3 1 = s.beam.count.getD (fld block 2 1) 0) ∧
    (∃ (s : State) (p : Nat),
      rimRuns s = true ∧ p < 32 ∧ personality s p = 1 ∧ inService s p = true) :=
  ⟨⟨on { core := { beamMask := 1, votes := 1 } }, 0, by dsimp only; decide +kernel⟩,
    ⟨dv (on { core := { beamMask := 0x40000000, votes := 0x40000000 } }) [(0x2500, 1, 0x40000000)], 30,
      by dsimp only; decide +kernel⟩,
    ⟨dv (on { core := { beamMask := 0x40000000, votes := 0x40000000 } }) [(0x2500, 1, 0x40000000)], by decide +kernel⟩,
    ⟨pre (port0 1) [(0x2500, 1, 2), (0x2500, 2, 0)], by decide +kernel⟩,
    ⟨up, 47, 2, by dsimp only; decide +kernel⟩,
    ⟨{ up with beam := { failed := [(47, [0])] } }, 47, 2, by dsimp only; decide +kernel⟩,
    ⟨{ up with beam := { failed := [(48, [0])] } }, 48, 2, by dsimp only; decide +kernel⟩,
    ⟨pre (port0 1) [(0x2500, 1, 2), (0x2500, 3, 1)], 0, beamBlock 0 1 0 1, by dsimp only; decide +kernel⟩,
    ⟨pre (port0 1) [(0x2500, 1, 2), (0x2500, 3, 1)], 0, beamBlock 0 1 1 1, by dsimp only; decide +kernel⟩,
    ⟨pre (port0 1) [(0x2500, 1, 2), (0x2500, 2, 0)], 0, beamBlock 1 1 1 0, by dsimp only; decide +kernel⟩,
    ⟨pre (port0 1) [(0x2500, 1, 2), (0x2500, 2, 0)], 0, beamBlock 1 1 0 0, by dsimp only; decide +kernel⟩,
    ⟨pre (port0 1) [(0x2500, 1, 2), (0x2500, 2, 0)], 0, by decide +kernel⟩⟩

theorem witness_timebase_references :
    (∃ (s : State) (p : Nat) (skew : Int),
      p < regionCount ∧ clocksRun (regionOfNo s p) = true ∧ skew.natAbs ≤ 2) ∧
    (∃ (s : State),
      rimRuns s = true ∧ tbReference s ≠ 0) ∧
    (∃ (s : State),
      rimRuns s = true ∧ tbReference s ≠ 0 ∧ s.time.holdover = false) ∧
    (∃ (s : State) (v : Nat) (w : _),
      rimRuns s = true ∧ tbReference s = 1 ∧ s.time.ppsNext = some (v, w) ∧ w + 250000000 ≤ s.time.tb ∧ s.time.tb ≤ w + 2250000000) ∧
    (∃ (s : State),
      rimRuns s = true ∧ tbReference s = 1 ∧ s.time.ppsNext = none ∧ s.time.tb % second ≤ second / 2) ∧
    (∃ (s : State) (port : Nat) (m : PtpMsg),
      let ptp := eyepieceRuns s = true ∧ tbReference s = 2 ∧ m.udp = true ∧ port = dnum s 0x2020 6 0 ∧ m.domain = dnum s 0x2020 7 0
      ptp ∧ m.kind = 0 ∧ m.twoStep = false) ∧
    (∃ (s : State) (port : Nat) (m : PtpMsg),
      let ptp := eyepieceRuns s = true ∧ tbReference s = 2 ∧ m.udp = true ∧ port = dnum s 0x2020 6 0 ∧ m.domain = dnum s 0x2020 7 0
      ptp ∧ m.kind = 0 ∧ m.twoStep = true) ∧
    (∃ (s : State) (port : Nat) (m : PtpMsg) (a : Nat),
      let ptp := eyepieceRuns s = true ∧ tbReference s = 2 ∧ m.udp = true ∧ port = dnum s 0x2020 6 0 ∧ m.domain = dnum s 0x2020 7 0
      ptp ∧ m.kind = 8 ∧ s.time.ptpWait = some (m.seq, a)) ∧
    (∃ (s : State) (port : Nat) (m : PtpMsg) (a : Nat) (b : Nat) (c : Nat),
      let ptp := eyepieceRuns s = true ∧ tbReference s = 2 ∧ m.udp = true ∧ port = dnum s 0x2020 6 0 ∧ m.domain = dnum s 0x2020 7 0
      ptp ∧ m.kind = 9 ∧ s.time.ptpSync = some (a, b) ∧ s.time.ptpReq = some (m.seq, c)) ∧
    (∃ (s : State),
      rimRuns s = true ∧ dnum s 0x2020 8 0 = 1 ∧ s.time.tb % second ≤ 5 ∧ ((s.time.locked = true ∨ s.time.holdover = true))) ∧
    (∃ (s : State) (p : Nat),
      rimRuns s = true ∧ p < 32 ∧ personality s p = 1 ∧ inService s p = true ∧ p = trunkBase s p) ∧
    (∃ (s : State) (p : Nat) (block : List Byte),
      carriesBlocks s p = true ∧ blockGood block = true ∧ fld block 0 1 = 5) ∧
    (∃ (s : State) (v : Nat) (q : Req),
      NewWrite s q 0x2020 3 v) :=
  ⟨⟨on {}, 0, -2, by decide +kernel⟩,
    ⟨dv (atTb up 1000) [(0x2020, 1, 3)], by decide +kernel⟩,
    ⟨dv (atTb up 1000) [(0x2020, 1, 3)], by decide +kernel⟩,
    ⟨{ dv (atTb up 1000) [(0x2020, 1, 1)] with time := { tb := 2500000000, ppsNext := some (2500000100, 250000000) } }, 2500000100,
      250000000, by decide +kernel⟩,
    ⟨dv (atTb up 6250000000) [(0x2020, 1, 1)], by decide +kernel⟩,
    ⟨ptp1, 1, ptp0, by dsimp only; decide +kernel⟩,
    ⟨ptp1, 1, { ptp0 with twoStep := true }, by dsimp only; decide +kernel⟩,
    ⟨{ ptp1 with time := { tb := 1000, ptpWait := some (1, 990) } }, 1, { ptp0 with kind := 8, correction := -2 }, 990,
      by dsimp only; decide +kernel⟩,
    ⟨{ ptp1 with time := { tb := 1000, ptpSync := some (5, 990), ptpReq := some (1, 995) } }, 1,
      { ptp0 with kind := 9, time := 20 }, 5, 990, 995, by dsimp only; decide +kernel⟩,
    ⟨{ dv up [(0x2020, 8, 1)] with time := { tb := 2500000005, locked := true } }, by decide +kernel⟩,
    ⟨{ port0 1 { timeRx := some (3, 4) } with time := { tb := 77, holdover := true } }, 0, by decide +kernel⟩,
    ⟨pre (port0 1) [(0x2020, 1, 3), (0x2020, 5, 0)], 0, controlBlock 5 (natLe 8 9 ++ natLe 8 7 ++ natLe 8 8 ++ [1]),
      by decide +kernel⟩,
    ⟨up, 7, q0, by decide +kernel⟩⟩

theorem witness_timed_actions :
    (∃ (s : State) (n : Nat) (q : Req),
      let x := timedSlot s n
      n < 64 ∧ NewWrite s q (0x2510 + n) 3 1 ∧ x.status ≠ 1 ∧ x.status ≠ 2) ∧
    (∃ (s : State) (n : Nat) (q : Req),
      let x := timedSlot s n
      n < 64 ∧ NewWrite s q (0x2510 + n) 3 1 ∧ ((x.status = 1 ∨ x.status = 2))) ∧
    (∃ (s : State) (n : Nat) (q : Req),
      let x := timedSlot s n
      n < 64 ∧ NewWrite s q (0x2510 + n) 3 0 ∧ x.status = 1) ∧
    (∃ (s : State) (n : Nat),
      let x := timedSlot s n
      let op := x.armOp
      eyepieceRuns s = true ∧ x.status = 1 ∧ regional op = true ∧ x.armT ≤ s.time.tb + leadTicks s ∧ s.dev.st ≠ .safeHold) ∧
    (∃ (s : State),
      s.dev.st = .safeHold) ∧
    (∃ (s : State) (n : Nat),
      let x := timedSlot s n
      let op := x.armOp
      actionDue s n 1 = true ∧ resumesRecovery s n (taArg op) = true) ∧
    (∃ (s : State) (n : Nat),
      actionDue s n 1 = true ∧ 4096 ≤ n) ∧
    (∃ (s : State) (n : Nat),
      let x := timedSlot s n
      let op := x.armOp
      actionDue s n 1 = true ∧ resumesRecovery s n (taArg op) = false ∧ n < 4096) ∧
    (∃ (s : State) (n : Nat),
      let x := timedSlot s n
      let serving : Prop := s.steward.running = true ∧ (s.dev.st = .ready ∨ s.dev.st = .serving ∨ s.dev.st = .recovering)
      actionDue s n 2 = true ∧ serving ∧ x.begun = false) ∧
    (∃ (s : State) (n : Nat),
      let x := timedSlot s n
      let serving : Prop := s.steward.running = true ∧ (s.dev.st = .ready ∨ s.dev.st = .serving ∨ s.dev.st = .recovering)
      actionDue s n 2 = true ∧ serving ∧ x.begun = true) ∧
    (∃ (s : State) (n : Nat),
      let serving : Prop := s.steward.running = true ∧ (s.dev.st = .ready ∨ s.dev.st = .serving ∨ s.dev.st = .recovering)
      actionDue s n 2 = true ∧ ¬ serving) ∧
    (∃ (s : State) (n : Nat),
      actionDue s n 3 = true) ∧
    (∃ (s : State) (n : Nat),
      actionDue s n 4 = true) ∧
    (∃ (s : State) (n : Nat) (w : _),
      let x := timedSlot s n
      let op := x.armOp
      let port := 0x3000 + taArg op % 32
      let u := actionDone s n
      actionDue s n 5 = true ∧ appendRec u (recordOf (objKey port 4) s.store.seq (.num (b2n (bit (taArg op) 8)))) = (w, true)) ∧
    (∃ (s : State) (n : Nat),
      actionDue s n 6 = true ∧ s.dev.st ≠ .aux ∧ s.dev.st ≠ .bringup) ∧
    (∃ (s : State) (n : Nat),
      actionDue s n 6 = true ∧ ((s.dev.st = .aux ∨ s.dev.st = .bringup))) :=
  ⟨⟨tmd 63 { t := 9000000, op := 2 ^ 60 + 3 }, 63, q0, by dsimp only; decide +kernel⟩,
    ⟨tmd 63 { t := 9000000, op := 2 ^ 60 + 3, status := 2 }, 63, q0, by dsimp only; decide +kernel⟩,
    ⟨tmd 63 { t := 9000000, op := 2 ^ 60 + 3, status := 1 }, 63, q0, by dsimp only; decide +kernel⟩,
    ⟨tmd 63 { armT := 5250000, armOp := 2 ^ 60 + 3, status := 1 }, 63, by dsimp only; decide +kernel⟩,
    ⟨{ tmd 63 { armT := 5000000, armOp := 2 ^ 60 + 3, status := 2 } with dev := { st := .safeHold } }, by decide +kernel⟩,
    ⟨{ tmd 257 { armT := 5000000, armOp := 2 ^ 60 + 3, status := 2 } with recov := { armed := true, number := 3 } }, 257,
      by dsimp only; decide +kernel⟩,
    ⟨tmd 4096 { armT := 5000000, armOp := 2 ^ 60, status := 2 }, 4096, by decide +kernel⟩,
    ⟨tmd 63 { armT := 5000000, armOp := 2 ^ 60, status := 2 }, 63, by dsimp only; decide +kernel⟩,
    ⟨tmd 63 { armT := 5000000, armOp := 2 * 2 ^ 60 + 3, status := 2 }, 63, by dsimp only; decide +kernel⟩,
    ⟨updTimed half 63 fun x => { x with begun := true }, 63, by dsimp only; decide +kernel⟩,
    ⟨{ tmd 63 { armT := 5000000, armOp := 2 * 2 ^ 60 + 3, status := 2 } with steward := {} }, 63, by dsimp only; decide +kernel⟩,
    ⟨tmd 63 { armT := 5000000, armOp := 3 * 2 ^ 60, status := 2 }, 63, by decide +kernel⟩,
    ⟨{ tmd 63 { armT := 5000000, armOp := 4 * 2 ^ 60 + 3, status := 2 } with tiles := [(0, {}) ] }, 63, by decide +kernel⟩,
    ⟨tmd 63 { armT := 5000000, armOp := 5 * 2 ^ 60 + 0x11F, status := 1 }, 63, (appendRec (actionDone (tmd 63
      { armT := 5000000, armOp := 5 * 2 ^ 60 + 0x11F, status := 1 }) 63) (recordOf (objKey 0x301F 4) 0 (.num 1))).1,
      by dsimp only; decide +kernel⟩,
    ⟨tmd 63 { armT := 5000000, armOp := 6 * 2 ^ 60, status := 1 }, 63, by decide +kernel⟩,
    ⟨{ tmd 63 { armT := 5000000, armOp := 6 * 2 ^ 60, status := 1 } with dev := { st := .aux } }, 63, by decide +kernel⟩⟩

theorem witness_events_and_outputs :
    (∃ (s : State) (n : Nat) (payload : Nat) (q : Req),
      let cfg := eventConfig s n
      n < 32 ∧ NewWrite s q (0x2560 + n) 2 payload ∧ bits cfg 63 62 = 0) ∧
    (∃ (s : State) (n : Nat) (payload : Nat) (q : Req),
      let cfg := eventConfig s n
      n < 32 ∧ NewWrite s q (0x2560 + n) 2 payload ∧ bits cfg 63 62 = 1) ∧
    (∃ (s : State) (n : Nat) (payload : Nat) (q : Req),
      let cfg := eventConfig s n
      n < 32 ∧ NewWrite s q (0x2560 + n) 2 payload ∧ bits cfg 63 62 = 2) ∧
    (∃ (s : State) (r : NotifyRec) (rest : List NotifyRec),
      s.sig.notifyIn = r :: rest ∧ eyepieceRuns s = true ∧ s.sig.notifyQ.length < 512) ∧
    (∃ (s : State) (r : NotifyRec) (rest : List NotifyRec),
      s.sig.notifyIn = r :: rest ∧ eyepieceRuns s = true ∧ 512 ≤ s.sig.notifyQ.length) ∧
    (∃ (s : State),
      eyepieceRuns s = true) ∧
    (∃ (s : State) (tb : Nat),
      s.dict.nextBeat = some tb ∧ eyepieceRuns s = true ∧ s.dict.serving = true ∧ tb ≤ s.time.tb) ∧
    (∃ (s : State) (v : Nat) (q : Req) (w : _),
      NewWrite s q 0x1010 3 v ∧ appendRec s (recordOf (objKey 0x1010 3) s.store.seq (.num v)) = (w, true)) ∧
    (∃ (s : State),
      eyepieceRuns s = true) ∧
    (∃ (s : State) (iface : Nat),
      eyepieceRuns s = true ∧ iface < 2 ∧ s.dict.busOff[iface]? = some false) ∧
    (∃ (s : State) (iface : Nat) (e : _),
      s.dict.canErr[iface]? = some e) :=
  ⟨⟨up, 31, 9, q0, by dsimp only; decide +kernel⟩,
    ⟨dv up [(0x257F, 1, 2 ^ 62 + 2 ^ 60)], 31, 9, q0, by dsimp only; decide +kernel⟩,
    ⟨dv up [(0x257F, 1, 2 ^ 63 + 5)], 31, 9, q0, by dsimp only; decide +kernel⟩,
    ⟨{ atTb up 5000000 with sig := { notifyIn := [nr 7] } }, nr 7, [], by decide +kernel⟩,
    ⟨{ up with sig := { notifyIn := [nr 7], notifyQ := List.replicate 512 (nr 1), lost := 0xFFFF } }, nr 7, [], by decide +kernel⟩,
    ⟨{ atTb up 5000000 with sig := { notifyIn := [], notifyQ := [nr 9, nr 4999999, nr 7] } }, by decide +kernel⟩,
    ⟨{ atTb up 5000000 with dict := { serving := true, nextBeat := some 5000000 } }, 5000000, by decide +kernel⟩,
    ⟨up, 100, q0, (appendRec up (recordOf (objKey 0x1010 3) 1 (.num 100))).1, by decide +kernel⟩,
    ⟨{ up with log := { mem := [] } }, by decide +kernel⟩,
    ⟨up, 1, by decide +kernel⟩,
    ⟨up, 1, 0, by decide +kernel⟩⟩

theorem witness_snapshot_phases :
    (∃ (s : State),
      let ms := dnum s 0x2410 1 200
      eyepieceRuns s = true ∧ s.steward.running = true ∧ ms ≠ 0 ∧ s.time.tb % (ms * msTicks) = 0 ∧ (timedSlot s 256).status ≠ 2) ∧
    (∃ (s : State) (t : Nat),
      let k := tileOf s t
      tileActs s t = true ∧ atQuiesce k = true ∧ contextWindow s t = none ∧ k.core.ltile = none) ∧
    (∃ (s : State) (t : Nat),
      let k := tileOf s t
      tileActs s t = true ∧ atQuiesce k = true) ∧
    (∃ (s : State) (m : Nat) (n : Nat) (cut : Nat),
      let slot := modelSlot s m
      eyepieceRuns s = true ∧ s.dev.st ≠ .safeHold ∧ m ∈ s.recov.snapScope ∧ slot.share = some (n, cut) ∧ cut + dnum s 0x2410 3 1000
        * 2500 ≤ s.time.tb) ∧
    (∃ (s : State) (t : Nat) (b : Nat),
      let k := tileOf s t
      tileRuns s t = true ∧ k.snap.copying = true ∧ b ∈ k.snap.pending) ∧
    (∃ (s : State) (t : Nat) (b : Nat) (v : Nat) (w : Window),
      let k := tileOf s t
      let place := (s.recov.staging.filter fun e => e.1 / 256 = k.core.ltile.getD 0).length
      k.snap.copying = true ∧ b ∈ k.snap.pending ∧ (modelSlot s (regionOfNo s (regionOfTile t)).mslot).shareComp = false ∧ stagingOf
        s (k.core.ltile.getD 0) = some (v, w) ∧ 1024 * (place + 1) ≤ w.len) ∧
    (∃ (s : State) (t : Nat),
      let k := tileOf s t
      tileRuns s t = true ∧ k.snap.copying = true ∧ k.snap.pending = [] ∧ k.snap.unacked = 0 ∧ k.snap.reported = false) ∧
    (∃ (s : State) (m : Nat) (n : Nat) (cut : Nat),
      let slot := modelSlot s m
      let open_ := s.steward.running = true ∧ s.dev.st ≠ .safeHold ∧ s.recov.snapScope.contains m = false ∧ slot.st ≠ 5 ∧ slot.share
        = some (n, cut) ∧ allReported s m = true
      open_ ∧ slot.logFail = true) ∧
    (∃ (s : State) (m : Nat) (n : Nat) (cut : Nat),
      let slot := modelSlot s m
      let open_ := s.steward.running = true ∧ s.dev.st ≠ .safeHold ∧ s.recov.snapScope.contains m = false ∧ slot.st ≠ 5 ∧ slot.share
        = some (n, cut) ∧ allReported s m = true
      open_ ∧ slot.logFail = false ∧ slot.shareComp = false) ∧
    (∃ (s : State) (m : Nat) (n : Nat) (cut : Nat) (v : _),
      let slot := modelSlot s m
      let open_ := s.steward.running = true ∧ s.dev.st ≠ .safeHold ∧ s.recov.snapScope.contains m = false ∧ slot.st ≠ 5 ∧ slot.share
        = some (n, cut) ∧ allReported s m = true
      let comp := slot.shareComp = true ∧ slot.logFail = false ∧ slot.cmtWait = [] ∧ writesOpen s m = false
      open_ ∧ comp ∧ slot.cmtRound < 5 ∧ nextRound s m n cut slot.cmtRound = some v) ∧
    (∃ (s : State) (m : Nat) (n : Nat) (cut : Nat),
      let slot := modelSlot s m
      let open_ := s.steward.running = true ∧ s.dev.st ≠ .safeHold ∧ s.recov.snapScope.contains m = false ∧ slot.st ≠ 5 ∧ slot.share
        = some (n, cut) ∧ allReported s m = true
      let comp := slot.shareComp = true ∧ slot.logFail = false ∧ slot.cmtWait = [] ∧ writesOpen s m = false
      open_ ∧ comp ∧ slot.cmtRound < 5 ∧ nextRound s m n cut slot.cmtRound = none) ∧
    (∃ (s : State) (m : Nat) (n : Nat) (cut : Nat),
      let slot := modelSlot s m
      let open_ := s.steward.running = true ∧ s.dev.st ≠ .safeHold ∧ s.recov.snapScope.contains m = false ∧ slot.st ≠ 5 ∧ slot.share
        = some (n, cut) ∧ allReported s m = true
      let comp := slot.shareComp = true ∧ slot.logFail = false ∧ slot.cmtWait = [] ∧ writesOpen s m = false
      open_ ∧ comp ∧ 5 ≤ slot.cmtRound) ∧
    (∃ (s : State) (p : _) (ps : _),
      areaMembers s = p :: ps) ∧
    (∃ (s : State) (t : Nat) (l : Nat) (v : _),
      let k := tileOf s t
      tileRuns s t = true ∧ k.core.ltile = some v ∧ mirrorTile v = some l) :=
  ⟨⟨atTb up 500000000, by dsimp only; decide +kernel⟩,
    ⟨on { snap := { stopping := true } }, 0, by dsimp only; decide +kernel⟩,
    ⟨on { snap := { stopping := true } }, 0, by dsimp only; decide +kernel⟩,
    ⟨{ atTb (slot0 3 fun x => { x with share := some (4, 9) }) 2500009 with recov := { snapScope := [0] } }, 0, 4, 9,
      by dsimp only; decide +kernel⟩,
    ⟨on { snap := { copying := true, pending := [255] } }, 0, 255, by dsimp only; decide +kernel⟩,
    ⟨stag { copying := true, pending := [255] }, 0, 255, (mirrorTile 0).getD 0, ⟨0, 0x4000, 4096⟩, by dsimp only; decide +kernel⟩,
    ⟨on { snap := { copying := true } }, 0, by dsimp only; decide +kernel⟩,
    ⟨updModel (shr true 1) 0 fun x => { x with logFail := true }, 0, 4, 9, by dsimp only; decide +kernel⟩,
    ⟨shr false 0, 0, 4, 9, by dsimp only; decide +kernel⟩,
    ⟨areaS, 0, 4, 9, (nextRound areaS 0 4 9 0).getD up, by dsimp only; decide +kernel⟩,
    ⟨shr true 2, 0, 4, 9, by dsimp only; decide +kernel⟩,
    ⟨shr true 5, 0, 4, 9, by dsimp only; decide +kernel⟩,
    ⟨areaS, 5, [], by decide +kernel⟩,
    ⟨on { core := { ltile := some 0 } }, 0, 179200, 0, by dsimp only; decide +kernel⟩⟩

theorem witness_fences_and_stewards :
    (∃ (s : State) (p : Nat),
      let r := regionOfNo s p
      p < regionCount ∧ rimRuns s = true ∧ r.st = .fenced ∧ r.fenceDone = false) ∧
    (∃ (s : State) (p : Nat),
      let r := regionOfNo s p
      r.st = .fenced ∧ r.fenceDone = true ∧ s.clock.holdStep = 0 ∧ lostSlot r = false ∧ s.recov.lost.contains p = false ∧ isSteward
        s p = false) ∧
    (∃ (s : State) (p : Nat),
      let r := regionOfNo s p
      ((lostSlot r = true ∨ s.recov.lost.contains p = true ∨ isSteward s p = true))) ∧
    (∃ (s : State) (p : Nat),
      let r := regionOfNo s p
      r.st = .fenced ∧ s.clock.holdStep = 0 ∧ deadDue r = true) ∧
    (∃ (s : State) (p : Nat),
      let r := regionOfNo s p
      r.st = .fenced ∧ s.clock.holdStep = 0 ∧ deadDue r = false) ∧
    (∃ (s : State) (f : Nat),
      f < 48 ∧ rimRuns s = true ∧ 8 ≤ (smGetD s.recov.fieldFences f []).length ∧ smGet s.recov.fieldFenced f = none) ∧
    (∃ (s : State) (p : Nat),
      let r := regionOfNo s p
      p < regionCount ∧ r.stageOn = true) ∧
    (∃ (s : State),
      let a := s.steward.primary
      eyepieceRuns s = true ∧ s.steward.running = true ∧ healthyRegion (regionOfNo s a) = false ∧ s.steward.standby ≠ 0xFFFF ∧
        healthyRegion (regionOfNo s s.steward.standby) = true ∧ a ≠ s.steward.standby) ∧
    (∃ (s : State),
      let a := s.steward.primary
      eyepieceRuns s = true ∧ s.steward.running = true ∧ healthyRegion (regionOfNo s a) = false ∧ s.steward.standby = 0xFFFF) ∧
    (∃ (s : State) (p : Nat) (rest : _),
      let a := s.steward.primary
      eyepieceRuns s = true ∧ s.steward.running = true ∧ healthyRegion (regionOfNo s a) = true ∧ s.steward.standby = 0xFFFF ∧
        (s.regions.filter fun e => e.2.st = .reserve && freeRegion s (mainSet s) e.1 && fieldOf e.1 ≠ fieldOf a).map (·.1) = p :: rest) ∧
    (∃ (s : State) (p : Nat) (q : Req),
      NewWrite s q 0x2420 8 p ∧ mayRetrain s p = true) ∧
    (∃ (s : State) (p : Nat) (q : Req),
      NewWrite s q 0x2420 8 p ∧ mayRetrain s p = false) ∧
    (∃ (s : State) (p : Nat),
      let r := regionOfNo s p
      p < regionCount ∧ r.st = .training ∧ r.retraining = true ∧ r.gated = false) ∧
    (∃ (s : State) (p : Nat) (q : Req),
      NewWrite s q 0x2420 9 p ∧ s.boot.perms.getLsbD 1 = true ∧ s.store.deadMarks.contains p = true) ∧
    (∃ (s : State) (p : Nat) (q : Req),
      NewWrite s q 0x2420 9 p ∧ s.boot.perms.getLsbD 1 = false) ∧
    (∃ (s : State) (p : Nat) (q : Req),
      let r := regionOfNo s p
      p < 4608 ∧ NewWrite s q (0x4000 + p) 0x19 1 ∧ ((r.st = .healthy ∨ r.st = .reserve))) :=
  ⟨⟨reg0 { st := .fenced }, 0, by dsimp only; decide +kernel⟩,
    ⟨reg0 { st := .fenced, fenceDone := true }, 0, by dsimp only; decide +kernel⟩,
    ⟨reg0 { st := .fenced, role := .bound, binding := 0, mslot := 0, fenceDone := true, noticeDue := true }, 0,
      by dsimp only; decide +kernel⟩,
    ⟨reg0 { st := .fenced, fence := { cause := 0x31 }, repeatFault := true }, 0, by dsimp only; decide +kernel⟩,
    ⟨reg0 { st := .fenced, fence := { cause := 0x36 } }, 0, by dsimp only; decide +kernel⟩,
    ⟨{ up with recov := { fieldFences := [(47, [0, 1, 2, 3, 4, 5, 6, 7])] } }, 47, by decide +kernel⟩,
    ⟨up, 0, by dsimp only; decide +kernel⟩,
    ⟨{ up with regions := [(200, { st := .bound, stageOn := true, binding := 0xFFFD })] }, by dsimp only; decide +kernel⟩,
    ⟨{ up with regions := [], steward := { up.steward with standby := 0xFFFF } }, by dsimp only; decide +kernel⟩,
    ⟨{ up with regions := [(7, { st := .reserve, stageOn := true }), (96, { st := .bound, stageOn := true, binding := 0xFFFE })], steward := { up.steward with primary := 96, standby := 0xFFFF } },
      7, [], by dsimp only; decide +kernel⟩,
    ⟨reg0 { st := .offThermal, temp := 899 }, 0, q0, by decide +kernel⟩,
    ⟨reg0 { st := .offThermal, temp := 900 }, 0, q0, by decide +kernel⟩,
    ⟨reg0 { st := .training, retraining := true, stageOn := true }, 0, by dsimp only; decide +kernel⟩,
    ⟨{ up with boot := { perms := 2 }, store := { deadMarks := [0] } }, 0, q0, by decide +kernel⟩,
    ⟨up, 0, q0, by decide +kernel⟩,
    ⟨reg0 { st := .reserve, stageOn := true }, 0, q0, by dsimp only; decide +kernel⟩⟩

theorem witness_recovery_steps :
    (∃ (s : State) (peers : List Nat),
      let ps := newlyLost s
      let ms := peers.filter fun m => piped s m && holdsBundle (modelSlot s m) && !s.recov.scope.contains m
      let may := eyepieceRuns s = true ∧ s.steward.running = true ∧ healthyRegion (regionOfNo s s.steward.primary) = true ∧
        s.recov.armed = false ∧ (s.dev.st = .ready ∨ s.dev.st = .serving ∨ s.dev.st = .recovering) ∧ (ps ≠ [] ∨ ms ≠ [])
      let sooner := ∃ c ∈ s.dev.conditions, c ≠ .toRecovering ∧ c ≠ .toKeepAlive ∧ mayTake s c = true
      may ∧ ¬ sooner ∧ ((s.recov.step = 0 ∨ affected s ps ≠ [] ∨ ms ≠ []))) ∧
    (∃ (s : State) (peers : List Nat),
      let ps := newlyLost s
      let ms := peers.filter fun m => piped s m && holdsBundle (modelSlot s m) && !s.recov.scope.contains m
      let may := eyepieceRuns s = true ∧ s.steward.running = true ∧ healthyRegion (regionOfNo s s.steward.primary) = true ∧
        s.recov.armed = false ∧ (s.dev.st = .ready ∨ s.dev.st = .serving ∨ s.dev.st = .recovering) ∧ (ps ≠ [] ∨ ms ≠ [])
      let sooner := ∃ c ∈ s.dev.conditions, c ≠ .toRecovering ∧ c ≠ .toKeepAlive ∧ mayTake s c = true
      may ∧ ¬ sooner ∧ s.recov.step ≠ 0 ∧ affected s ps = [] ∧ ms = []) ∧
    (∃ (s : State) (peers : List Nat),
      let ps := newlyLost s
      let ms := peers.filter fun m => piped s m && holdsBundle (modelSlot s m) && !s.recov.scope.contains m
      let may := eyepieceRuns s = true ∧ s.steward.running = true ∧ healthyRegion (regionOfNo s s.steward.primary) = true ∧
        s.recov.armed = false ∧ (s.dev.st = .ready ∨ s.dev.st = .serving ∨ s.dev.st = .recovering) ∧ (ps ≠ [] ∨ ms ≠ [])
      let sooner := ∃ c ∈ s.dev.conditions, c ≠ .toRecovering ∧ c ≠ .toKeepAlive ∧ mayTake s c = true
      may ∧ sooner) ∧
    (∃ (s : State),
      let on := recovers s = true
      on ∧ s.recov.rolledBack = false ∧ s.recov.armed = false) ∧
    (∃ (s : State),
      let on := recovers s = true
      on ∧ s.recov.rebound = false ∧ s.recov.armed = false) ∧
    (∃ (m : _) (u : _) (v : _),
      rebindSlot u m = .inr v) ∧
    (∃ (m : _) (u : _) (c : _) (d : _),
      rebindSlot u m = .inl (c, d)) ∧
    (∃ (s : State),
      let on := recovers s = true
      let step6 := on ∧ s.recov.rebound = true ∧ s.recov.rebuilt = false ∧ s.recov.scope.all (hasSource s) = true
      step6) ∧
    (∃ (s : State) (t : _) (line : _),
      let on := recovers s = true
      let step6 := on ∧ s.recov.rebound = true ∧ s.recov.rebuilt = false ∧ s.recov.scope.all (hasSource s) = true
      step6 ∧ t ∈ s.recov.scope.flatMap (peerTiles s) ∧ line < 16384) ∧
    (∃ (s : State),
      let on := recovers s = true
      on ∧ s.recov.rebuilt = true ∧ s.recov.restored = false) ∧
    (∃ (s : State),
      let on := recovers s = true
      on ∧ s.recov.rolledBack = true ∧ s.recov.restored = true ∧ s.recov.armed = false) :=
  ⟨⟨reg0 { st := .fenced, role := .bound, binding := 0, mslot := 0, noticeDue := true }, [], by dsimp only; decide +kernel⟩,
    ⟨joins, [], by dsimp only; decide +kernel⟩,
    ⟨{ reg0 { st := .fenced, role := .bound, binding := 0, mslot := 0, noticeDue := true } with dev := { st := .ready, conditions := [.toFault] } },
      [], by dsimp only; decide +kernel⟩,
    ⟨recg, by dsimp only; decide +kernel⟩,
    ⟨recg, by dsimp only; decide +kernel⟩,
    ⟨0, slot0 3 fun x => { x with bundle := none }, slot0 3 fun x => { x with bundle := none }, by decide +kernel⟩,
    ⟨0, nofit, 1, 4, by decide +kernel⟩,
    ⟨{ recg with recov := { step := 6, number := 3, scope := [0], rebound := true }, steward := { recg.steward with slots := recg.steward.slots.map fun e => (e.1, { e.2 with loadSrc := some 1 }) } },
      by dsimp only; decide +kernel⟩,
    ⟨peerS, (peerTiles peerS 0).headD 0, 16383, by dsimp only; decide +kernel⟩,
    ⟨{ recg with recov := { step := 7, number := 3, scope := [0], rebound := true, rebuilt := true } },
      by dsimp only; decide +kernel⟩,
    ⟨{ recg with recov := { step := 7, number := 3, scope := [0], rebound := true, rebuilt := true, rolledBack := true, restored := true } },
      by dsimp only; decide +kernel⟩⟩

theorem witness_migration_steps :
    (∃ (s : State) (p : Nat),
      migrates s p 1 = true) ∧
    (∃ (s : State) (p : Nat) (g : Bundle) (b : Binding) (mv : List (Nat × Nat)) (xs : List LatPath) (pl : List PlaneSeg),
      let r := regionOfNo s p
      let m := r.mslot
      migrates s p 3 = true ∧ (modelSlot s m).bundle = some g ∧ migrationBinding s g (modelSlot s m).binding p = some (b, mv) ∧
        planPaths s g b = .inr (xs, pl)) ∧
    (∃ (s : State) (p : Nat),
      migrates s p 4 = true) ∧
    (∃ (s : State) (p : Nat) (g : Bundle) (xs : List LatPath) (pl : List PlaneSeg),
      let r := regionOfNo s p
      let m := r.mslot
      migrates s p 5 = true ∧ (modelSlot s m).bundle = some g ∧ planPaths s g (modelSlot s m).binding = .inr (xs, pl)) ∧
    (∃ (s : State) (p : Nat),
      let r := regionOfNo s p
      rimRuns s = true ∧ 1 ≤ r.migrating ∧ r.migrating ≤ 4 ∧ s.dev.st ≠ .safeHold ∧ r.migTb + dnum s 0x2420 6 100 * msTicks ≤
        s.time.tb) :=
  ⟨⟨mg0 1, 0, by decide +kernel⟩,
    ⟨mg0 3, 0, bun0, ((migrationBinding (mg0 3) bun0 [(0, 0)] 0).getD ([], [])).1, ((migrationBinding (mg0 3) bun0 [(0, 0)] 0).getD
      ([], [])).2, [], [], by dsimp only; decide +kernel⟩,
    ⟨mg0 4, 0, by decide +kernel⟩,
    ⟨mg0 5, 0, bun0, [], [], by dsimp only; decide +kernel⟩,
    ⟨mg0 4 { migTb := 650000000 }, 0, by dsimp only; decide +kernel⟩⟩

theorem witness_supplies_and_breaker :
    (∃ (s : State) (vin : Nat),
      s.dev.st = .off ∧ 32000 ≤ vin) ∧
    (∃ (s : State) (vin : Nat),
      s.dev.st ≠ .off ∧ vin < 28000) ∧
    (∃ (s : State) (vin : Nat),
      rimRuns s = true ∧ 61000 < vin ∧ vin ≤ 63000) ∧
    (∃ (s : State) (vin : Nat),
      rimRuns s = true ∧ vin < 45000) ∧
    (∃ (s : State) (vin : Nat),
      rimRuns s = true ∧ 63000 < vin) ∧
    (∃ (s : State) (vin : Nat),
      rimRuns s = true ∧ 46000 ≤ vin ∧ vin ≤ 60000 ∧ s.power.tripped = false ∧ s.power.vinOk = false) ∧
    (∃ (s : State),
      rimRuns s = true ∧ s.power.breaker = true) ∧
    (∃ (s : State),
      s.power.vinOk = true ∧ s.dev.st ≠ .aux) ∧
    (∃ (s : State) (q : Req),
      NewWrite s q 0x2100 7 1) ∧
    (∃ (s : State) (n : Nat),
      let off := { s with power := { s.power with converters := s.power.converters &&& ~~~(BitVec.twoPow 26 n) } }
      let k := convertersUp off
      rimRuns s = true ∧ n < 26 ∧ s.power.converters.getLsbD n = true ∧ 24 ≤ k) ∧
    (∃ (s : State) (n : Nat),
      let off := { s with power := { s.power with converters := s.power.converters &&& ~~~(BitVec.twoPow 26 n) } }
      let k := convertersUp off
      rimRuns s = true ∧ n < 26 ∧ s.power.converters.getLsbD n = true ∧ k < 24) :=
  ⟨⟨State.reset, 32000, by decide +kernel⟩,
    ⟨on {}, 27999, by decide +kernel⟩,
    ⟨up, 61001, by decide +kernel⟩,
    ⟨up, 44999, by decide +kernel⟩,
    ⟨up, 63001, by decide +kernel⟩,
    ⟨pow0 { vinOk := false }, 46000, by decide +kernel⟩,
    ⟨up, by decide +kernel⟩,
    ⟨up, by decide +kernel⟩,
    ⟨pow0 { tripped := true }, q0, by decide +kernel⟩,
    ⟨up, 25, by dsimp only; decide +kernel⟩,
    ⟨pow0 { converters := BitVec.ofNat 26 (2 ^ 24 - 1) }, 0, by dsimp only; decide +kernel⟩⟩

theorem witness_power_and_thermal_samples :
    (∃ (s : State) (p : Nat) (phase : Nat),
      let r := regionOfNo s p
      p < regionCount ∧ phase < 3 ∧ r.stageOn = true ∧ r.phases = []) ∧
    (∃ (s : State) (p : Nat) (phase : Nat),
      let r := regionOfNo s p
      p < regionCount ∧ phase < 3 ∧ r.stageOn = true ∧ r.phases.length = 1 ∧ phase ∉ r.phases) ∧
    (∃ (s : State) (p : Nat),
      let r := regionOfNo s p
      p < regionCount ∧ r.stageOn = true ∧ r.fuse = false ∧ 10800 < s.power.bus) ∧
    (∃ (s : State) (pw : Nat),
      let last := (s.power.lastSecond ++ [pw]).drop (s.power.lastSecond.length - 99)
      let sum := last.foldl (· + ·) 0
      rimRuns s = true ∧ pw ≤ 34000 ∧ ((last.length ≠ 100 ∨ sum ≤ 3000000))) ∧
    (∃ (s : State) (pw : Nat),
      let last := (s.power.lastSecond ++ [pw]).drop (s.power.lastSecond.length - 99)
      let sum := last.foldl (· + ·) 0
      rimRuns s = true ∧ pw ≤ 34000 ∧ last.length = 100 ∧ 3000000 < sum) ∧
    (∃ (s : State) (pw : Nat),
      let last := (s.power.lastSecond ++ [pw]).drop (s.power.lastSecond.length - 99)
      let sum := last.foldl (· + ·) 0
      rimRuns s = true ∧ 34000 < pw ∧ ((last.length ≠ 100 ∨ sum ≤ 3000000))) ∧
    (∃ (s : State) (fa : Nat) (fb : Nat) (i : Int),
      let hot := toSigned 16 (dnum s 0x2200 0xB 300)
      let slow := dnum s 0x2200 0xC 250
      rimRuns s = true ∧ i ≤ hot ∧ slow ≤ fa ∧ slow ≤ fb) ∧
    (∃ (s : State) (fa : Nat) (fb : Nat) (i : Int),
      let hot := toSigned 16 (dnum s 0x2200 0xB 300)
      let slow := dnum s 0x2200 0xC 250
      rimRuns s = true ∧ hot < i ∧ slow ≤ fa ∧ slow ≤ fb ∧ s.power.inletRun < 9) ∧
    (∃ (s : State) (fa : Nat) (fb : Nat) (i : Int),
      let hot := toSigned 16 (dnum s 0x2200 0xB 300)
      let slow := dnum s 0x2200 0xC 250
      rimRuns s = true ∧ hot < i ∧ slow ≤ fa ∧ slow ≤ fb ∧ s.power.inletRun = 9) ∧
    (∃ (s : State) (fa : Nat) (fb : Nat) (i : Int),
      let hot := toSigned 16 (dnum s 0x2200 0xB 300)
      let slow := dnum s 0x2200 0xC 250
      rimRuns s = true ∧ i ≤ hot ∧ fa < slow ∧ slow ≤ fb ∧ s.power.flowARun = 9) ∧
    (∃ (s : State) (p : Nat) (temp : Int),
      let r := regionOfNo s p
      let takes := p < regionCount ∧ r.gated = false ∧ r.stageOn = true ∧ (r.st = .healthy ∨ r.st = .reserve ∨ r.st = .bound ∨ r.st
        = .dimmed)
      takes ∧ 950 ≤ temp ∧ temp < 1100) ∧
    (∃ (s : State) (p : Nat) (temp : Int),
      let r := regionOfNo s p
      let takes := p < regionCount ∧ r.gated = false ∧ r.stageOn = true ∧ (r.st = .healthy ∨ r.st = .reserve ∨ r.st = .bound ∨ r.st
        = .dimmed)
      takes ∧ 900 < temp ∧ temp < 950) ∧
    (∃ (s : State) (p : Nat) (temp : Int),
      let r := regionOfNo s p
      let takes := p < regionCount ∧ r.gated = false ∧ r.stageOn = true ∧ (r.st = .healthy ∨ r.st = .reserve ∨ r.st = .bound ∨ r.st
        = .dimmed)
      takes ∧ temp ≤ 900) ∧
    (∃ (s : State) (p : Nat) (temp : Int),
      let r := regionOfNo s p
      let takes := p < regionCount ∧ r.gated = false ∧ r.stageOn = true ∧ (r.st = .healthy ∨ r.st = .reserve ∨ r.st = .bound ∨ r.st
        = .dimmed)
      takes ∧ 1100 ≤ temp ∧ roleOf r = .bound ∧ r.migrating = 0) ∧
    (∃ (s : State) (p : Nat) (temp : Int),
      let r := regionOfNo s p
      let takes := p < regionCount ∧ r.gated = false ∧ r.stageOn = true ∧ (r.st = .healthy ∨ r.st = .reserve ∨ r.st = .bound ∨ r.st
        = .dimmed)
      takes ∧ 1100 ≤ temp ∧ roleOf r ≠ .bound) ∧
    (∃ (s : State) (p : Nat),
      let r := regionOfNo s p
      p < regionCount ∧ r.gated = false ∧ r.st = .offThermal) :=
  ⟨⟨up, 0, 2, by dsimp only; decide +kernel⟩,
    ⟨tmp { st := .bound, binding := 0, mslot := 0, phases := [1] }, 0, 2, by dsimp only; decide +kernel⟩,
    ⟨up, 0, by dsimp only; decide +kernel⟩,
    ⟨pow0 { lastSecond := List.replicate 100 30000 }, 30000, by dsimp only; decide +kernel⟩,
    ⟨pow0 { lastSecond := List.replicate 100 30000 }, 30001, by dsimp only; decide +kernel⟩,
    ⟨up, 34001, by dsimp only; decide +kernel⟩,
    ⟨up, 250, 250, 300, by dsimp only; decide +kernel⟩,
    ⟨pow0 { inletRun := 8 }, 250, 250, 301, by dsimp only; decide +kernel⟩,
    ⟨pow0 { inletRun := 9 }, 250, 250, 301, by dsimp only; decide +kernel⟩,
    ⟨pow0 { flowARun := 9 }, 249, 250, 300, by dsimp only; decide +kernel⟩,
    ⟨tmp { st := .bound, mslot := 0 }, 0, 1099, by dsimp only; decide +kernel⟩,
    ⟨tmp { st := .bound, mslot := 0 }, 0, 901, by dsimp only; decide +kernel⟩,
    ⟨tmp { st := .dimmed, mslot := 0, dim := 31 }, 0, 900, by dsimp only; decide +kernel⟩,
    ⟨tmp { st := .bound, mslot := 0, binding := 0 }, 0, 1100, by dsimp only; decide +kernel⟩,
    ⟨tmp { st := .healthy }, 0, 1100, by dsimp only; decide +kernel⟩,
    ⟨tmp { st := .offThermal }, 0, by dsimp only; decide +kernel⟩⟩

theorem witness_resets_and_decisions :
    (∃ (s : State),
      s.dev.rstHigh = true ∧ s.dev.st ≠ .off ∧ s.dev.pairs.any id = true) ∧
    (∃ (s : State),
      s.dev.rstHigh = false) ∧
    (∃ (s : State),
      s.dev.stagesOffWait = true) ∧
    (∃ (s : State) (pair : Nat),
      let one := { s with dev := { s.dev with pairs := s.dev.pairs.set pair false } }
      rimRuns s = true ∧ s.dev.pairs[pair]? = some true ∧ one.dev.pairs.any id = true) ∧
    (∃ (s : State) (pair : Nat),
      let one := { s with dev := { s.dev with pairs := s.dev.pairs.set pair false } }
      rimRuns s = true ∧ s.dev.pairs[pair]? = some true ∧ one.dev.pairs.any id = false) ∧
    (∃ (s : State) (c : _),
      eyepieceRuns s = true ∧ ([Condition.toFault, .toSafeHold, .toKeepAlive, .toRecovering]).find? (fun c =>
        s.dev.conditions.contains c && mayTake s c) = some c) ∧
    (∃ (s : State) (q : Req),
      let service := s.dev.st ∈ [.ready, .serving, .recovering, .keepAlive, .fault]
      service ∧ s.clock.locked = true ∧ NewWrite s q 0x2000 4 1) ∧
    (∃ (s : State) (q : Req),
      let service := s.dev.st ∈ [.ready, .serving, .recovering, .keepAlive, .fault]
      service ∧ s.clock.locked = true ∧ NewWrite s q 0x2000 4 2) ∧
    (∃ (s : State) (q : Req),
      let service := s.dev.st ∈ [.ready, .serving, .recovering, .keepAlive, .fault]
      ((s.dev.st = .safeHold ∨ (service ∧ s.clock.locked = false))) ∧ s.dev.heldReset = none ∧ NewWrite s q 0x2000 4 1) ∧
    (∃ (s : State) (q : Req),
      let service := s.dev.st ∈ [.ready, .serving, .recovering, .keepAlive, .fault]
      ((s.dev.st = .safeHold ∨ (service ∧ s.clock.locked = false))) ∧ s.dev.heldReset = none ∧ NewWrite s q 0x2000 4 2) ∧
    (∃ (s : State) (q : Req),
      ((s.dev.st = .aux ∨ s.dev.st = .bringup)) ∧ NewWrite s q 0x2000 4 1) ∧
    (∃ (s : State),
      s.dev.st = .safeHold ∧ s.dev.heldReset ≠ none) :=
  ⟨⟨up, by decide +kernel⟩,
    ⟨dev0 .ready fun d => { d with rstHigh := false }, by decide +kernel⟩,
    ⟨dev0 .bringup fun d => { d with stagesOffWait := true }, by decide +kernel⟩,
    ⟨up, 1, by dsimp only; decide +kernel⟩,
    ⟨dev0 .ready fun d => { d with pairs := [true, false] }, 0, by dsimp only; decide +kernel⟩,
    ⟨dev0 .ready fun d => { d with conditions := [.toKeepAlive, .toFault] }, .toFault, by decide +kernel⟩,
    ⟨up, q0, by dsimp only; decide +kernel⟩,
    ⟨up, q0, by dsimp only; decide +kernel⟩,
    ⟨dev0 .safeHold, q0, by dsimp only; decide +kernel⟩,
    ⟨clk0 .ready {}, q0, by dsimp only; decide +kernel⟩,
    ⟨dev0 .aux, q0, by decide +kernel⟩,
    ⟨dev0 .safeHold fun d => { d with heldReset := some .full }, by decide +kernel⟩⟩

theorem witness_reference_and_safe_hold :
    (∃ (s : State) (n : Nat),
      let c := s.clock
      qualifying s = true ∧ s.dev.clksel = false ∧ c.lastWindow ≠ 0 ∧ (n - c.lastWindow + (c.lastWindow - n)) * 1000 ≤ c.lastWindow) ∧
    (∃ (s : State) (n : Nat),
      let c := s.clock
      qualifying s = true ∧ s.dev.clksel = false ∧ c.lastWindow < (n - c.lastWindow + (c.lastWindow - n)) * 1000) ∧
    (∃ (s : State),
      let c := s.clock
      rimRuns s = true ∧ s.dev.clksel = false ∧ c.qualified = false ∧ c.locked = false) ∧
    (∃ (s : State),
      qualifying s = true ∧ s.dev.clksel = true) ∧
    (∃ (s : State),
      let c := s.clock
      rimRuns s = true ∧ c.qualified = true ∧ c.locked = false ∧ s.dev.st = .aux) ∧
    (∃ (s : State),
      let c := s.clock
      rimRuns s = true ∧ c.qualified = true ∧ c.locked = false ∧ s.dev.st = .bringup) ∧
    (∃ (s : State),
      let c := s.clock
      rimRuns s = true ∧ c.qualified = true ∧ c.locked = false ∧ s.dev.st = .safeHold ∧ c.holdStep = 5) ∧
    (∃ (s : State),
      let c := s.clock
      rimRuns s = true ∧ c.qualified = true ∧ c.locked = false ∧ ((s.dev.st = .keepAlive ∨ s.dev.st = .fault))) ∧
    (∃ (s : State) (mon : Nat),
      let c := s.clock
      rimRuns s = true ∧ c.locked = true ∧ mon = 0 ∧ ((s.dev.st = .bringup ∨ s.dev.st = .ready ∨ s.dev.st = .serving ∨ s.dev.st =
        .recovering))) ∧
    (∃ (s : State) (p : _),
      p ∈ (gateRegions s).regions ∧ p.2.stageOn = true) ∧
    (∃ (s : State),
      let c := s.clock
      eyepieceRuns s = true ∧ c.holdStep = 1) ∧
    (∃ (s : State),
      let c := s.clock
      rimRuns s = true ∧ c.locked = false ∧ c.qualified = false ∧ s.dev.st = .safeHold ∧ c.holdStep = 4) ∧
    (∃ (s : State),
      let c := s.clock
      rimRuns s = true ∧ s.dev.st = .safeHold ∧ c.holdStep = 6) ∧
    (∃ (s : State),
      let c := s.clock
      eyepieceRuns s = true ∧ s.dev.st = .safeHold ∧ c.holdStep = 7 ∧ s.dev.heldReset = none ∧ dnum s 0x2020 1 0 ≠ 0 ∧ ((∀ e ∈
        s.regions, e.2.st = .fenced → e.2.fenceDone = false))) ∧
    (∃ (s : State),
      let c := s.clock
      eyepieceRuns s = true ∧ s.dev.st = .safeHold ∧ c.holdStep = 7 ∧ s.dev.heldReset = none) ∧
    (∃ (s : State) (k : _),
      let c := s.clock
      eyepieceRuns s = true ∧ s.dev.st = .safeHold ∧ c.holdStep = 7 ∧ s.dev.heldReset = some k ∧ ((∀ p < 32, personality s p = 3 →
        (portOf s p).st ≠ 2))) ∧
    (∃ (s : State) (k : _) (p : _),
      p < 32 ∧ s.dev.heldReset = some k ∧ personality s p = 3 ∧ (portOf s p).st = 2) ∧
    (∃ (s : State),
      let c := s.clock
      eyepieceRuns s = true ∧ s.dev.st = .safeHold ∧ s.dev.transTb + c.holdTimeout * second ≤ s.time.tb ∧ outranked s = false ∧
        c.locked = false) ∧
    (∃ (s : State),
      let c := s.clock
      eyepieceRuns s = true ∧ s.dev.st = .safeHold ∧ s.dev.transTb + c.holdTimeout * second ≤ s.time.tb ∧ outranked s = true) :=
  ⟨⟨clk0 .aux { present := true, lastWindow := 1000, source := 1 }, 1001, by dsimp only; decide +kernel⟩,
    ⟨clk0 .aux { present := true, lastWindow := 1000, source := 1 }, 1002, by dsimp only; decide +kernel⟩,
    ⟨clk0 .aux { source := 1 }, by dsimp only; decide +kernel⟩,
    ⟨{ clk0 .aux { present := true, source := 1 } with dev := { st := .aux, clksel := true } }, by decide +kernel⟩,
    ⟨clk0 .aux { qualified := true }, by dsimp only; decide +kernel⟩,
    ⟨clk0 .bringup { qualified := true }, by dsimp only; decide +kernel⟩,
    ⟨clk0 .safeHold { qualified := true, holdStep := 5 }, by dsimp only; decide +kernel⟩,
    ⟨clk0 .keepAlive { qualified := true }, by dsimp only; decide +kernel⟩,
    ⟨on {}, 0, by dsimp only; decide +kernel⟩,
    ⟨up, (0, { st := .bound, stageOn := true, gated := true, binding := 0, mslot := 0, copy := tab0 [0] }), by decide +kernel⟩,
    ⟨clk0 .ready { holdStep := 1 }, by dsimp only; decide +kernel⟩,
    ⟨clk0 .safeHold { holdStep := 4 }, by dsimp only; decide +kernel⟩,
    ⟨{ reg0 { st := .bound, stageOn := true, gated := true } with dev := { st := .safeHold }, clock := { holdStep := 6 } },
      by dsimp only; decide +kernel⟩,
    ⟨{ dv (clk0 .safeHold { holdStep := 7 }) [(0x2020, 1, 1)] with dev := { st := .safeHold, beforeHold := .serving } },
      by dsimp only; decide +kernel⟩,
    ⟨{ dv (clk0 .safeHold { holdStep := 7 }) [(0x2020, 1, 1)] with dev := { st := .safeHold, beforeHold := .serving } },
      by dsimp only; decide +kernel⟩,
    ⟨{ clk0 .safeHold { holdStep := 7 } with dev := { st := .safeHold, heldReset := some .warm } }, .warm,
      by dsimp only; decide +kernel⟩,
    ⟨{ eth 5 0 0 0 with dev := { st := .safeHold, heldReset := some .warm }, clock := { holdStep := 7 }, fabric := { ports := [(0, { st := 2 })] } },
      .warm, 0, by decide +kernel⟩,
    ⟨atTb (clk0 .safeHold { holdTimeout := 60 }) 150000000000, by dsimp only; decide +kernel⟩,
    ⟨{ atTb (clk0 .safeHold { holdTimeout := 60 }) 150000000000 with dev := { st := .safeHold, conditions := [.toFault] } },
      by dsimp only; decide +kernel⟩⟩

theorem witness_region_clocks :
    (∃ (s : State) (p : Nat) (e : Nat),
      let r := regionOfNo s p
      p < regionCount ∧ clocksRun r = true ∧ 1 ≤ e ∧ e ≤ 8) ∧
    (∃ (s : State) (p : Nat),
      let r := regionOfNo s p
      p < regionCount ∧ clocksRun r = true ∧ r.standbyLost = false) ∧
    (∃ (s : State) (p : Nat),
      let r := regionOfNo s p
      p < regionCount ∧ clocksRun r = true ∧ r.standbyLost = true) :=
  ⟨⟨up, 0, 8, by dsimp only; decide +kernel⟩,
    ⟨up, 0, by dsimp only; decide +kernel⟩,
    ⟨reg0 { st := .bound, stageOn := true, standbyLost := true }, 0, by dsimp only; decide +kernel⟩⟩

theorem witness_port_states :
    (∃ (s : State) (p : Nat) (q : Req) (w : _),
      let index := 0x3000 + p
      let stored := fun v : Nat => appendRec s (recordOf (objKey index 4) s.store.seq (.num v))
      p < 32 ∧ NewWrite s q index 4 1 ∧ stored 1 = (w, true) ∧ portEnabled s p = false) ∧
    (∃ (s : State) (p : Nat) (q : Req) (w : _),
      let index := 0x3000 + p
      let stored := fun v : Nat => appendRec s (recordOf (objKey index 4) s.store.seq (.num v))
      p < 32 ∧ NewWrite s q index 4 0 ∧ stored 0 = (w, true)) ∧
    (∃ (s : State) (p : Nat),
      let trains := rimRuns s = true ∧ p < 32 ∧ (portOf s p).st = 2 ∧ personality s p ≠ 3
      trains ∧ (portOf s p).heard = none) ∧
    (∃ (s : State) (p : Nat) (k : _) (lanes : _) (gen : _),
      rimRuns s = true ∧ p < 32 ∧ (portOf s p).st = 2 ∧ personality s p = 3 ∧ ethModeInfo (ethMode s p) = some (k, lanes, gen)) ∧
    (∃ (s : State) (p : Nat) (x : Partner),
      let tuned := equalise s p
      let known := updPort tuned p fun y => { y with partner := some x }
      let cause := if localCause known p ≠ 0 then localCause known p else partnerCause known p x
      let trains := rimRuns s = true ∧ p < 32 ∧ (portOf s p).st = 2 ∧ personality s p ≠ 3
      let knows := trains ∧ (portOf s p).heard = some x
      knows ∧ cause ≠ 0) ∧
    (∃ (s : State) (p : Nat) (tx : Nat) (rx : Nat) (x : Partner),
      let tuned := equalise s p
      let known := updPort tuned p fun y => { y with partner := some x }
      let cause := if localCause known p ≠ 0 then localCause known p else partnerCause known p x
      let trains := rimRuns s = true ∧ p < 32 ∧ (portOf s p).st = 2 ∧ personality s p ≠ 3
      let knows := trains ∧ (portOf s p).heard = some x
      knows ∧ cause = 0 ∧ ((chooseLanes tx = [] ∨ chooseLanes rx = []))) ∧
    (∃ (s : State) (p : Nat) (tx : Nat) (rx : Nat) (x : Partner),
      let tuned := equalise s p
      let known := updPort tuned p fun y => { y with partner := some x }
      let cause := if localCause known p ≠ 0 then localCause known p else partnerCause known p x
      let trains := rimRuns s = true ∧ p < 32 ∧ (portOf s p).st = 2 ∧ personality s p ≠ 3
      let knows := trains ∧ (portOf s p).heard = some x
      knows ∧ cause = 0 ∧ chooseLanes tx ≠ [] ∧ chooseLanes rx ≠ []) ∧
    (∃ (s : State) (p : Nat),
      rimRuns s = true ∧ p < 32 ∧ (portOf s p).st = 5 ∧ portEnabled s p = true) ∧
    (∃ (s : State) (p : Nat),
      rimRuns s = true ∧ p < 32 ∧ (portOf s p).st = 1 ∧ (portOf s p).cause = 0 ∧ portEnabled s p = true) ∧
    (∃ (s : State) (p : Nat),
      rimRuns s = true ∧ p < 32 ∧ (portOf s p).cause ≠ 0 ∧ causeCeased s p = true) ∧
    (∃ (s : State) (p : Nat) (lane : Nat),
      rimRuns s = true ∧ p < 32 ∧ inService s p = true ∧ bit (portOf s p).rxLanes lane = true) ∧
    (∃ (s : State) (p : Nat),
      (personality s p = 1 ∨ personality s p = 2)) ∧
    (∃ (s : State) (p : Nat),
      localCause s p = 0 ∧ s.clock.locked = true ∧ s.clock.holdStep = 0 ∧ s.dev.st ≠ .keepAlive) ∧
    (∃ (s : State) (p : Nat),
      localCause s p ≠ 0) ∧
    (∃ (s : State) (p : Nat),
      localCause s p = 0 ∧ s.clock.locked = false) ∧
    (∃ (s : State) (ring : Nat) (seg : Nat),
      rimRuns s = true ∧ ring < 2 ∧ seg < 32 ∧ (ring, seg) ∉ s.fabric.rimDown ∧ (1 - ring, seg) ∉ s.fabric.rimDown) ∧
    (∃ (s : State) (ring : Nat) (seg : Nat),
      rimRuns s = true ∧ ring < 2 ∧ seg < 32 ∧ (ring, seg) ∉ s.fabric.rimDown ∧ (1 - ring, seg) ∈ s.fabric.rimDown) :=
  ⟨⟨dv up [(0x301F, 1, 1)], 31, q0, (appendRec (dv up [(0x301F, 1, 1)]) (recordOf (objKey 0x301F 4) 1 (.num 1))).1,
      by dsimp only; decide +kernel⟩,
    ⟨port0 1, 0, q0, (appendRec (port0 1) (recordOf (objKey 0x3000 4) 1 (.num 0))).1, by dsimp only; decide +kernel⟩,
    ⟨train0 none, 0, by dsimp only; decide +kernel⟩,
    (⟨{ eth 5 0 0 0 with fabric := { ports := [(0, { st := 2 })] } }, 0, 2, fun i => (List.range 8).map (8 * i + ·), 2,
      by decide +kernel, by decide,     by decide +kernel, by decide +kernel, rfl⟩),
    ⟨train0 (some { p0 with personality := 2 }), 0, { p0 with personality := 2 }, by dsimp only; decide +kernel⟩,
    ⟨train0 (some p0), 0, 0, 0xFFFF, p0, by dsimp only; decide +kernel⟩,
    ⟨train0 (some p0), 0, 0x00FF, 0xFFFF, p0, by dsimp only; decide +kernel⟩,
    ⟨{ port0 1 with fabric := { ports := [(0, { st := 5 })] } }, 0, by decide +kernel⟩,
    ⟨{ port0 1 with fabric := { ports := [(0, { st := 1 })] } }, 0, by decide +kernel⟩,
    ⟨{ port0 1 with fabric := { devId := 1, ports := [(0, { st := 1, cause := 3 })] } }, 0, by decide +kernel⟩,
    ⟨port0 1 { txSeq := 5, rxSeq := 6, replay := [lf0 4] }, 0, 15, by decide +kernel⟩,
    ⟨port0 1, 0, by decide +kernel⟩,
    ⟨port0 1, 0, by decide +kernel⟩,
    ⟨{ port0 1 with fabric := {} }, 0, by decide +kernel⟩,
    ⟨{ port0 1 with clock := { locked := false } }, 0, by decide +kernel⟩,
    ⟨up, 1, 31, by decide +kernel⟩,
    ⟨{ up with fabric := { rimDown := [(0, 31)] } }, 1, 31, by decide +kernel⟩⟩

theorem witness_link_frames_and_blocks :
    (∃ (s : State) (p : Nat) (f : LinkFrame) (rest : List LinkFrame),
      let x := portOf s p
      let on := rimRuns s = true ∧ p < 32 ∧ inService s p = true
      on ∧ x.resend = f :: rest) ∧
    (∃ (s : State) (p : Nat),
      let x := portOf s p
      let on := rimRuns s = true ∧ p < 32 ∧ inService s p = true
      on ∧ x.resend = [] ∧ x.replay.length < 2048 ∧ personality s p = 1) ∧
    (∃ (s : State) (p : Nat),
      let x := portOf s p
      let on := rimRuns s = true ∧ p < 32 ∧ inService s p = true
      on ∧ x.resend = [] ∧ x.replay.length < 2048 ∧ personality s p = 2) ∧
    (∃ (s : State) (p : Nat) (lost : Nat) (crc : Nat) (f : LinkFrame),
      let x := portOf s p
      let on := rimRuns s = true ∧ p < 32 ∧ inService s p = true
      on ∧ personality s p ≠ 3 ∧ crc = frameCrc f ∧ f.seq = x.rxSeq ∧ x.sinceAck < 63 ∧ lost = 0) ∧
    (∃ (s : State) (p : Nat) (lost : Nat) (crc : Nat) (f : LinkFrame),
      let x := portOf s p
      let on := rimRuns s = true ∧ p < 32 ∧ inService s p = true
      on ∧ personality s p ≠ 3 ∧ lost = 0 ∧ crc = frameCrc f ∧ f.seq = x.rxSeq ∧ 63 ≤ x.sinceAck) ∧
    (∃ (s : State) (p : Nat) (lost : Nat) (crc : Nat) (f : LinkFrame),
      let on := rimRuns s = true ∧ p < 32 ∧ inService s p = true
      on ∧ personality s p ≠ 3 ∧ ((lost ≠ 0 ∨ crc ≠ frameCrc f))) ∧
    (∃ (s : State) (p : Nat) (lost : Nat) (crc : Nat) (f : LinkFrame),
      let x := portOf s p
      let on := rimRuns s = true ∧ p < 32 ∧ inService s p = true
      on ∧ personality s p ≠ 3 ∧ lost = 0 ∧ crc = frameCrc f ∧ f.seq ≠ x.rxSeq) ∧
    (∃ (s : State) (p : Nat) (block : List Byte),
      let good := fun kind : Nat => carriesBlocks s p = true ∧ blockGood block = true ∧ fld block 0 1 = kind
      good 0) ∧
    (∃ (s : State) (p : Nat) (block : List Byte),
      let good := fun kind : Nat => carriesBlocks s p = true ∧ blockGood block = true ∧ fld block 0 1 = kind
      good 1) ∧
    (∃ (s : State) (p : Nat) (block : List Byte),
      carriesBlocks s p = true ∧ blockGood block = false) ∧
    (∃ (s : State) (p : Nat) (i : Nat) (block : List Byte),
      let x := portOf s p
      let good := fun kind : Nat => carriesBlocks s p = true ∧ blockGood block = true ∧ fld block 0 1 = kind
      let n := fld block 1 2 % 4096
      good 2 ∧ (x.replay.findIdx? fun f => f.seq = n) = some i) ∧
    (∃ (s : State) (p : Nat) (block : List Byte),
      let good := fun kind : Nat => carriesBlocks s p = true ∧ blockGood block = true ∧ fld block 0 1 = kind
      good 3) ∧
    (∃ (s : State) (p : Nat) (block : List Byte),
      let good := fun kind : Nat => carriesBlocks s p = true ∧ blockGood block = true ∧ fld block 0 1 = kind
      good 4) ∧
    (∃ (s : State) (p : Nat) (block : List Byte),
      let good := fun kind : Nat => carriesBlocks s p = true ∧ blockGood block = true ∧ fld block 0 1 = kind
      good 7) ∧
    (∃ (s : State) (p : Nat),
      let x := portOf s p
      let on := rimRuns s = true ∧ p < 32 ∧ inService s p = true
      on ∧ 0 < x.sinceAck) ∧
    (∃ (s : State) (p : Nat),
      let x := portOf s p
      let on := rimRuns s = true ∧ p < 32 ∧ inService s p = true
      on ∧ personality s p ≠ 3 ∧ x.freed ≠ x.freedTold) ∧
    (∃ (s : State) (p : Nat) (m : _),
      let x := portOf s p
      rimRuns s = true ∧ p < 32 ∧ personality s p = 1 ∧ 1 < trunkSize s p ∧ inService s p = false ∧ x.replay ≠ [] ∧ (trunkMembers s
        (trunkBase s p)).find? (inService s) = some m ∧ m ≠ p) ∧
    (∃ (s : State) (p : Nat),
      let x := portOf s p
      x.again = [] ∧ 1 < trunkSize s p ∧ windowOpen s (trunkBase s p) = false) :=
  ⟨⟨port0 1 { resend := [lf0 0] }, 0, lf0 0, [], by dsimp only; decide +kernel⟩,
    ⟨port0 1 { fromMesh := [(0, k0)] }, 0, by dsimp only; decide +kernel⟩,
    ⟨port0 2, 0, by dsimp only; decide +kernel⟩,
    ⟨port0 1 { rxSeq := 4095, sinceAck := 62 }, 0, 0, frameCrc (lf0 4095), lf0 4095, by dsimp only; decide +kernel⟩,
    ⟨port0 1 { rxSeq := 4095, sinceAck := 63 }, 0, 0, frameCrc (lf0 4095), lf0 4095, by dsimp only; decide +kernel⟩,
    ⟨port0 1, 0, 1, 0, lf0 0, by dsimp only; decide +kernel⟩,
    ⟨port0 1 { rxSeq := 1 }, 0, 0, frameCrc (lf0 0), lf0 0, by dsimp only; decide +kernel⟩,
    ⟨port0 1, 0, controlBlock 0 [], by dsimp only; decide +kernel⟩,
    ⟨port0 1, 0, controlBlock 1 [], by dsimp only; decide +kernel⟩,
    ⟨port0 1, 0, List.replicate 32 0, by decide +kernel⟩,
    ⟨port0 1 { replay := [lf0 4094, lf0 4095, lf0 0], resend := [lf0 4094, lf0 0] }, 0, 1, controlBlock 2 (natLe 2 4095),
      by dsimp only; decide +kernel⟩,
    ⟨port0 1 { replay := [lf0 4094, lf0 4095, lf0 0], refused := some 4095, refusals := 7 }, 0, controlBlock 3 (natLe 2 4095),
      by dsimp only; decide +kernel⟩,
    ⟨port0 1 { replay := [lf0 4094] }, 0, controlBlock 4 (natLe 2 7), by dsimp only; decide +kernel⟩,
    ⟨train0 none, 0, controlBlock 7 (natLe 2 7), by dsimp only; decide +kernel⟩,
    ⟨port0 1 { sinceAck := 1 }, 0, by dsimp only; decide +kernel⟩,
    ⟨port0 1 { freed := [1, 0, 0, 0, 0, 0] }, 0, by dsimp only; decide +kernel⟩,
    ⟨trk, 0, 1, by dsimp only; decide +kernel⟩,
    ⟨trkFull, 0, by dsimp only; decide +kernel⟩⟩

theorem witness_routes_and_companions :
    (∃ (s : State) (e : Nat) (q : Req) (w : _),
      let m := (smSet s.fabric.routes (selection s q.src 0x1031 1) e).filter fun x => x.2 ≠ 0
      NewWrite s q 0x1031 2 e ∧ routeEntryOk s e = true ∧ appendRec s (recordOf (objKey 0x1031 5) s.store.seq (.bytes (routeBytes
        m))) = (w, true)) ∧
    (∃ (s : State) (q : Req),
      NewWrite s q 0x1031 3 1) ∧
    (∃ (s : State) (p : Nat) (c : CsFrame) (g : LinkFrame) (rest : List LinkFrame) (k : Packet),
      let takes := fun op : Nat => (portOf s p).csIn = g :: rest ∧ g.body = .stream c ∧ rimRuns s = true ∧ p < 32 ∧ c.op = op
      takes 0x81 ∧ c.status = 0 ∧ c.last = true ∧ smGet (portOf s p).tags c.tag = some (.packet k)) ∧
    (∃ (s : State) (p : Nat) (c : CsFrame) (g : LinkFrame) (rest : List LinkFrame) (d : _),
      let takes := fun op : Nat => (portOf s p).csIn = g :: rest ∧ g.body = .stream c ∧ rimRuns s = true ∧ p < 32 ∧ c.op = op
      takes 0x81 ∧ c.status = 0 ∧ c.last = false ∧ smGet (portOf s p).tags c.tag = some (.stream d)) ∧
    (∃ (s : State) (p : Nat) (c : CsFrame) (g : LinkFrame) (rest : List LinkFrame) (k : Packet),
      let takes := fun op : Nat => (portOf s p).csIn = g :: rest ∧ g.body = .stream c ∧ rimRuns s = true ∧ p < 32 ∧ c.op = op
      takes 0x81 ∧ c.status ≠ 0 ∧ smGet (portOf s p).tags c.tag = some (.packet k)) ∧
    (∃ (s : State) (p : Nat) (c : CsFrame) (g : LinkFrame) (rest : List LinkFrame) (k : Packet),
      let takes := fun op : Nat => (portOf s p).csIn = g :: rest ∧ g.body = .stream c ∧ rimRuns s = true ∧ p < 32 ∧ c.op = op
      takes 0x82 ∧ c.status = 0 ∧ smGet (portOf s p).tags c.tag = some (.packet k) ∧ bit (fld k.payload 0xB 1) 0 = false) ∧
    (∃ (s : State) (p : Nat) (c : CsFrame) (g : LinkFrame) (rest : List LinkFrame) (k : Packet),
      let takes := fun op : Nat => (portOf s p).csIn = g :: rest ∧ g.body = .stream c ∧ rimRuns s = true ∧ p < 32 ∧ c.op = op
      takes 0x82 ∧ c.status = 0 ∧ smGet (portOf s p).tags c.tag = some (.packet k) ∧ bit (fld k.payload 0xB 1) 0 = true) ∧
    (∃ (s : State) (p : Nat) (c : CsFrame) (g : LinkFrame) (rest : List LinkFrame) (k : Packet),
      let takes := fun op : Nat => (portOf s p).csIn = g :: rest ∧ g.body = .stream c ∧ rimRuns s = true ∧ p < 32 ∧ c.op = op
      takes 0x82 ∧ c.status ≠ 0 ∧ smGet (portOf s p).tags c.tag = some (.packet k)) ∧
    (∃ (s : State) (p : Nat) (c : CsFrame) (g : LinkFrame) (rest : List LinkFrame) (n : _),
      let takes := fun op : Nat => (portOf s p).csIn = g :: rest ∧ g.body = .stream c ∧ rimRuns s = true ∧ p < 32 ∧ c.op = op
      takes 0x84 ∧ smGet (portOf s p).tags c.tag = some (.commit n)) ∧
    (∃ (s : State) (p : Nat) (c : CsFrame) (g : LinkFrame) (rest : List LinkFrame),
      let takes := fun op : Nat => (portOf s p).csIn = g :: rest ∧ g.body = .stream c ∧ rimRuns s = true ∧ p < 32 ∧ c.op = op
      takes 0x85 ∧ c.status = 0 ∧ smGet (portOf s p).tags c.tag = some .info) :=
  ⟨(route_entry_stored (port0 1) rfl rfl rte q0 (by decide +kernel) (by decide +kernel)),
    ⟨up, q0, by decide +kernel⟩,
    ⟨csp (cs0 0x81 0 true) (.packet rdp), 0, cs0 0x81 0 true, lfs (cs0 0x81 0 true), [], rdp, by dsimp only; decide +kernel⟩,
    ⟨csp (cs0 0x81 0 false) (.stream sd0), 0, cs0 0x81 0 false, lfs (cs0 0x81 0 false), [], sd0, by dsimp only; decide +kernel⟩,
    ⟨csp (cs0 0x81 3 true) (.packet rdp), 0, cs0 0x81 3 true, lfs (cs0 0x81 3 true), [], rdp, by dsimp only; decide +kernel⟩,
    ⟨csp (cs0 0x82 0 true) (.packet wrp), 0, cs0 0x82 0 true, lfs (cs0 0x82 0 true), [], wrp, by dsimp only; decide +kernel⟩,
    ⟨csp (cs0 0x82 0 true) (.packet pwr), 0, cs0 0x82 0 true, lfs (cs0 0x82 0 true), [], pwr, by dsimp only; decide +kernel⟩,
    ⟨csp (cs0 0x82 3 true) (.packet wrp), 0, cs0 0x82 3 true, lfs (cs0 0x82 3 true), [], wrp, by dsimp only; decide +kernel⟩,
    ⟨csp (cs0 0x84 0 true) (.commit 2), 0, cs0 0x84 0 true, lfs (cs0 0x84 0 true), [], 2, by dsimp only; decide +kernel⟩,
    ⟨csp (cs0 0x85 0 true) .info, 0, cs0 0x85 0 true, lfs (cs0 0x85 0 true), [], by dsimp only; decide +kernel⟩⟩

theorem witness_ethernet_interfaces :
    (∃ (s : State) (p : Nat) (i : Nat) (h : EthHead),
      let runs := rimRuns s = true ∧ p < 32 ∧ ifaceUp s p i = true
      let up := runs ∧ ethGood s p i h = true
      let r := ifaceRec s p i
      up ∧ ifIp4 r ≠ 0) ∧
    (∃ (s : State) (p : Nat) (i : Nat) (n : Nat) (h : EthHead),
      let runs := rimRuns s = true ∧ p < 32 ∧ ifaceUp s p i = true
      let up := runs ∧ ethGood s p i h = true
      let r := ifaceRec s p i
      up ∧ n ≠ ifIp4 r) ∧
    (∃ (s : State) (p : Nat) (i : Nat) (h : EthHead),
      let runs := rimRuns s = true ∧ p < 32 ∧ ifaceUp s p i = true
      let up := runs ∧ ethGood s p i h = true
      let r := ifaceRec s p i
      up ∧ ifIp6 r ≠ 0) ∧
    (∃ (s : State) (p : Nat) (i : Nat) (h : EthHead) (data : List Byte),
      let runs := rimRuns s = true ∧ p < 32 ∧ ifaceUp s p i = true
      let up := runs ∧ ethGood s p i h = true
      let r := ifaceRec s p i
      up ∧ ifIp4 r ≠ 0 ∧ data.length ≤ 1500) ∧
    (∃ (s : State) (p : Nat) (i : Nat) (h : EthHead) (data : List Byte),
      let runs := rimRuns s = true ∧ p < 32 ∧ ifaceUp s p i = true
      let up := runs ∧ ethGood s p i h = true
      let r := ifaceRec s p i
      up ∧ ifIp6 r ≠ 0 ∧ data.length ≤ 1500) ∧
    (∃ (s : State) (p : Nat) (i : Nat) (h : EthHead) (data : List Byte),
      let runs := rimRuns s = true ∧ p < 32 ∧ ifaceUp s p i = true
      let up := runs ∧ ethGood s p i h = true
      up ∧ 1500 < data.length) ∧
    (∃ (s : State) (p : Nat) (i : Nat),
      let runs := rimRuns s = true ∧ p < 32 ∧ ifaceUp s p i = true
      runs) ∧
    (∃ (s : State) (p : Nat) (i : Nat),
      let runs := rimRuns s = true ∧ p < 32 ∧ ifaceUp s p i = true
      runs) ∧
    (∃ (s : State) (p : Nat) (i : Nat) (h : EthHead),
      let runs := rimRuns s = true ∧ p < 32 ∧ ifaceUp s p i = true
      let up := runs ∧ ethGood s p i h = true
      let r := ifaceRec s p i
      up ∧ ifGw4 r ≠ 0) ∧
    (∃ (s : State) (p : Nat) (i : Nat) (h : EthHead),
      let runs := rimRuns s = true ∧ p < 32 ∧ ifaceUp s p i = true
      let up := runs ∧ ethGood s p i h = true
      let r := ifaceRec s p i
      up ∧ ifGw6 r ≠ 0) ∧
    (∃ (s : State) (p : Nat) (i : Nat) (h : EthHead) (g : Datagram),
      let runs := rimRuns s = true ∧ p < 32 ∧ ifaceUp s p i = true
      let up := runs ∧ ethGood s p i h = true
      up ∧ datagramOk s p i g = false) ∧
    (∃ (s : State) (p : Nat) (i : Nat) (h : EthHead) (g : Datagram),
      let runs := rimRuns s = true ∧ p < 32 ∧ ifaceUp s p i = true
      let up := runs ∧ ethGood s p i h = true
      up ∧ datagramOk s p i g = true ∧ (portOf s p).ingress ≠ 0x7FFFF) ∧
    (∃ (s : State) (p : Nat) (i : Nat) (h : EthHead) (g : Datagram),
      let runs := rimRuns s = true ∧ p < 32 ∧ ifaceUp s p i = true
      let up := runs ∧ ethGood s p i h = true
      up ∧ datagramOk s p i g = true ∧ (portOf s p).ingress = 0x7FFFF) ∧
    (∃ (s : State) (p : Nat) (i : Nat) (h : EthHead),
      let runs := rimRuns s = true ∧ p < 32 ∧ ifaceUp s p i = true
      runs ∧ ethGood s p i h = false) ∧
    (∃ (s : State) (p : Nat) (k : Packet) (rest : List Packet),
      rimRuns s = true ∧ p < 32 ∧ (portOf s p).egress = k :: rest ∧ k.kind = 1) ∧
    (∃ (s : State) (p : Nat) (k : Packet) (rest : List Packet),
      rimRuns s = true ∧ p < 32 ∧ (portOf s p).egress = k :: rest ∧ k.kind = 6) ∧
    (∃ (s : State) (p : Nat) (n : Nat),
      rimRuns s = true ∧ p < 32 ∧ n < (portOf s p).partials.length) :=
  ⟨⟨eth 5 0 0 0, 0, 0, ⟨64, true, 0⟩, by dsimp only; decide +kernel⟩,
    ⟨eth 5 0 0 0, 0, 0, 6, ⟨64, true, 0⟩, by dsimp only; decide +kernel⟩,
    ⟨eth 0 0 5 0, 0, 0, ⟨64, true, 0⟩, by dsimp only; decide +kernel⟩,
    ⟨eth 5 0 0 0, 0, 0, ⟨64, true, 0⟩, List.replicate 1500 0, by dsimp only; decide +kernel⟩,
    ⟨eth 0 0 5 0, 0, 0, ⟨64, true, 0⟩, [1], by dsimp only; decide +kernel⟩,
    ⟨eth 5 0 0 0, 0, 0, ⟨64, true, 0⟩, List.replicate 1501 0, by dsimp only; decide +kernel⟩,
    ⟨eth 5 0 0 0, 0, 0, by dsimp only; decide +kernel⟩,
    ⟨eth 5 6 7 8, 0, 0, by dsimp only; decide +kernel⟩,
    ⟨eth 5 6 0 0, 0, 0, ⟨9216, true, 0⟩, by dsimp only; decide +kernel⟩,
    ⟨eth 5 6 5 8, 0, 0, ⟨64, true, 0⟩, by dsimp only; decide +kernel⟩,
    ⟨eth 6 0 0 0, 0, 0, ⟨64, true, 0⟩, dg0, by dsimp only; decide +kernel⟩,
    ⟨eth 5 0 0 0 { ingress := 3 }, 0, 0, ⟨64, true, 0⟩, dg0, by dsimp only; decide +kernel⟩,
    ⟨eth 5 0 0 0, 0, 0, ⟨64, true, 0⟩, dg0, by dsimp only; decide +kernel⟩,
    ⟨eth 5 0 0 0, 0, 0, ⟨63, true, 0⟩, by dsimp only; decide +kernel⟩,
    ⟨eth 5 0 0 0 { egress := [{ k0 with kind := 1 }] }, 0, { k0 with kind := 1 }, [], by decide +kernel⟩,
    ⟨eth 5 0 0 0 { egress := [{ k0 with kind := 6 }] }, 0, { k0 with kind := 6 }, [], by decide +kernel⟩,
    ⟨eth 5 0 0 0 { partials := [par0] }, 0, 0, by decide +kernel⟩⟩

theorem witness_requests_and_streams :
    (∃ (s : State) (c : Client) (f : List Byte),
      let frame := fun typ : Nat => runtimeRuns s = true ∧ (c, f) ∈ s.steward.inbox ∧ egressId s c.port ≠ 0xFFFF ∧ 16 ≤ f.length ∧
        fld f 0 2 = 0x5247 ∧ fld f 2 1 = 1 ∧ grpShapeOk f = true ∧ fld f 3 1 = typ
      let req := grpReqId f
      let k := fld f 0x10 1
      let h := slotHeader s k
      let new := fun typ : Nat => frame typ ∧ streamOf s c req = none
      let fits := takesRequests s k = true ∧ fld f 0x28 4 < bhContext h ∧ fld f 0x2E 2 ≤ fld f 0x28 4
      let good := fits ∧ requestParamsOk f (bhVocab h) = true ∧ (streamsIn s k .queued).length < queueLimit s
      new 1 ∧ good ∧ fld f 0x2E 2 ≠ fld f 0x28 4) ∧
    (∃ (s : State) (c : Client) (f : List Byte),
      let frame := fun typ : Nat => runtimeRuns s = true ∧ (c, f) ∈ s.steward.inbox ∧ egressId s c.port ≠ 0xFFFF ∧ 16 ≤ f.length ∧
        fld f 0 2 = 0x5247 ∧ fld f 2 1 = 1 ∧ grpShapeOk f = true ∧ fld f 3 1 = typ
      let req := grpReqId f
      let k := fld f 0x10 1
      let h := slotHeader s k
      let new := fun typ : Nat => frame typ ∧ streamOf s c req = none
      let fits := takesRequests s k = true ∧ fld f 0x28 4 < bhContext h ∧ fld f 0x2E 2 ≤ fld f 0x28 4
      let good := fits ∧ requestParamsOk f (bhVocab h) = true ∧ (streamsIn s k .queued).length < queueLimit s
      new 1 ∧ good ∧ fld f 0x2E 2 = fld f 0x28 4) ∧
    (∃ (s : State) (c : Client) (f : List Byte),
      let frame := fun typ : Nat => runtimeRuns s = true ∧ (c, f) ∈ s.steward.inbox ∧ egressId s c.port ≠ 0xFFFF ∧ 16 ≤ f.length ∧
        fld f 0 2 = 0x5247 ∧ fld f 2 1 = 1 ∧ grpShapeOk f = true ∧ fld f 3 1 = typ
      let req := grpReqId f
      let k := fld f 0x10 1
      let new := fun typ : Nat => frame typ ∧ streamOf s c req = none
      new 1 ∧ takesRequests s k = false) ∧
    (∃ (s : State) (c : Client) (f : List Byte),
      let frame := fun typ : Nat => runtimeRuns s = true ∧ (c, f) ∈ s.steward.inbox ∧ egressId s c.port ≠ 0xFFFF ∧ 16 ≤ f.length ∧
        fld f 0 2 = 0x5247 ∧ fld f 2 1 = 1 ∧ grpShapeOk f = true ∧ fld f 3 1 = typ
      let req := grpReqId f
      let k := fld f 0x10 1
      let h := slotHeader s k
      let new := fun typ : Nat => frame typ ∧ streamOf s c req = none
      new 1 ∧ takesRequests s k = true ∧ ((bhContext h ≤ fld f 0x28 4 ∨ fld f 0x28 4 < fld f 0x2E 2))) ∧
    (∃ (s : State) (c : Client) (f : List Byte),
      let frame := fun typ : Nat => runtimeRuns s = true ∧ (c, f) ∈ s.steward.inbox ∧ egressId s c.port ≠ 0xFFFF ∧ 16 ≤ f.length ∧
        fld f 0 2 = 0x5247 ∧ fld f 2 1 = 1 ∧ grpShapeOk f = true ∧ fld f 3 1 = typ
      let req := grpReqId f
      let k := fld f 0x10 1
      let h := slotHeader s k
      let new := fun typ : Nat => frame typ ∧ streamOf s c req = none
      let fits := takesRequests s k = true ∧ fld f 0x28 4 < bhContext h ∧ fld f 0x2E 2 ≤ fld f 0x28 4
      new 1 ∧ fits ∧ requestParamsOk f (bhVocab h) = false) ∧
    (∃ (s : State) (c : Client) (f : List Byte),
      let frame := fun typ : Nat => runtimeRuns s = true ∧ (c, f) ∈ s.steward.inbox ∧ egressId s c.port ≠ 0xFFFF ∧ 16 ≤ f.length ∧
        fld f 0 2 = 0x5247 ∧ fld f 2 1 = 1 ∧ grpShapeOk f = true ∧ fld f 3 1 = typ
      let req := grpReqId f
      let k := fld f 0x10 1
      let h := slotHeader s k
      let new := fun typ : Nat => frame typ ∧ streamOf s c req = none
      let fits := takesRequests s k = true ∧ fld f 0x28 4 < bhContext h ∧ fld f 0x2E 2 ≤ fld f 0x28 4
      new 1 ∧ fits ∧ requestParamsOk f (bhVocab h) = true ∧ queueLimit s ≤ (streamsIn s k .queued).length) ∧
    (∃ (s : State) (c : Client) (f : List Byte) (x : Stream),
      let frame := fun typ : Nat => runtimeRuns s = true ∧ (c, f) ∈ s.steward.inbox ∧ egressId s c.port ≠ 0xFFFF ∧ 16 ≤ f.length ∧
        fld f 0 2 = 0x5247 ∧ fld f 2 1 = 1 ∧ grpShapeOk f = true ∧ fld f 3 1 = typ
      let req := grpReqId f
      frame 2 ∧ streamOf s c req = some x ∧ x.st = .partPrompt ∧ x.promptLen < fld f 0x10 4 + fld f 0x14 2) ∧
    (∃ (s : State) (c : Client) (f : List Byte) (x : Stream),
      let frame := fun typ : Nat => runtimeRuns s = true ∧ (c, f) ∈ s.steward.inbox ∧ egressId s c.port ≠ 0xFFFF ∧ 16 ≤ f.length ∧
        fld f 0 2 = 0x5247 ∧ fld f 2 1 = 1 ∧ grpShapeOk f = true ∧ fld f 3 1 = typ
      let req := grpReqId f
      frame 2 ∧ streamOf s c req = some x ∧ x.st = .partPrompt ∧ fld f 0x10 4 + fld f 0x14 2 ≤ x.promptLen ∧ (grpTokens f 0x18 (fld
        f 0x14 2)).all (· < bhVocab (slotHeader s x.slot)) = true ∧ (List.range (fld f 0x14 2)).all (fun i => (smGet x.prompt (fld f
        0x10 4 + i)).isSome) = false) ∧
    (∃ (s : State) (c : Client) (f : List Byte) (x : Stream),
      let frame := fun typ : Nat => runtimeRuns s = true ∧ (c, f) ∈ s.steward.inbox ∧ egressId s c.port ≠ 0xFFFF ∧ 16 ≤ f.length ∧
        fld f 0 2 = 0x5247 ∧ fld f 2 1 = 1 ∧ grpShapeOk f = true ∧ fld f 3 1 = typ
      let req := grpReqId f
      frame 3 ∧ streamOf s c req = some x) ∧
    (∃ (s : State) (c : Client) (f : List Byte),
      let frame := fun typ : Nat => runtimeRuns s = true ∧ (c, f) ∈ s.steward.inbox ∧ egressId s c.port ≠ 0xFFFF ∧ 16 ≤ f.length ∧
        fld f 0 2 = 0x5247 ∧ fld f 2 1 = 1 ∧ grpShapeOk f = true ∧ fld f 3 1 = typ
      let req := grpReqId f
      let new := fun typ : Nat => frame typ ∧ streamOf s c req = none
      new 3) ∧
    (∃ (s : State) (c : Client) (f : List Byte) (x : Stream),
      let frame := fun typ : Nat => runtimeRuns s = true ∧ (c, f) ∈ s.steward.inbox ∧ egressId s c.port ≠ 0xFFFF ∧ 16 ≤ f.length ∧
        fld f 0 2 = 0x5247 ∧ fld f 2 1 = 1 ∧ grpShapeOk f = true ∧ fld f 3 1 = typ
      let req := grpReqId f
      let kept := x.kept.filter fun e => e.1 < x.sent
      frame 4 ∧ streamOf s c req = some x ∧ (kept.head?.all fun e => e.1 ≤ fld f 0x10 4) = true) ∧
    (∃ (s : State) (c : Client) (f : List Byte) (x : Stream) (e : _) (l : _),
      let frame := fun typ : Nat => runtimeRuns s = true ∧ (c, f) ∈ s.steward.inbox ∧ egressId s c.port ≠ 0xFFFF ∧ 16 ≤ f.length ∧
        fld f 0 2 = 0x5247 ∧ fld f 2 1 = 1 ∧ grpShapeOk f = true ∧ fld f 3 1 = typ
      let req := grpReqId f
      let kept := x.kept.filter fun e => e.1 < x.sent
      frame 4 ∧ streamOf s c req = some x ∧ kept = e :: l ∧ fld f 0x10 4 < e.1) ∧
    (∃ (s : State) (c : Client) (f : List Byte),
      let frame := fun typ : Nat => runtimeRuns s = true ∧ (c, f) ∈ s.steward.inbox ∧ egressId s c.port ≠ 0xFFFF ∧ 16 ≤ f.length ∧
        fld f 0 2 = 0x5247 ∧ fld f 2 1 = 1 ∧ grpShapeOk f = true ∧ fld f 3 1 = typ
      let req := grpReqId f
      let new := fun typ : Nat => frame typ ∧ streamOf s c req = none
      new 4) ∧
    (∃ (s : State) (c : Client) (f : List Byte),
      let frame := fun typ : Nat => runtimeRuns s = true ∧ (c, f) ∈ s.steward.inbox ∧ egressId s c.port ≠ 0xFFFF ∧ 16 ≤ f.length ∧
        fld f 0 2 = 0x5247 ∧ fld f 2 1 = 1 ∧ grpShapeOk f = true ∧ fld f 3 1 = typ
      let k := fld f 0x10 1
      frame 5 ∧ k ≤ 7) ∧
    (∃ (s : State) (x : Stream) (id : Nat),
      let named := s.steward.streams.find? (fun x => x.id = id) = some x
      named ∧ runtimeRuns s = true ∧ x.st = .partPrompt ∧ x.startTb + promptMs s * msTicks ≤ s.time.tb) ∧
    (∃ (s : State) (m : Nat) (lane : _) (i : _) (is : _),
      let hm := slotHeader s m
      slotRuns s m = true ∧ streamsIn s m .queued ≠ [] ∧ (List.range (bhKvLanes hm)).find? (fun l => !(activeStreams s m).any fun x
        => x.lane = l) = some lane ∧ (List.range (bhNinst hm)).filter (fun i => decide ((instStreams s m i).length < bhInstLimit hm))
        = i :: is) ∧
    (∃ (s : State) (x : Stream) (m : Nat) (inst : Nat),
      let waiting := (instStreams s m inst).filter fun x => x.st = .decode && !x.inFlight && !x.paused
      let chunk := slotRuns s m = true ∧ waiting = [] ∧ (instStreams s m inst).find? (fun x => x.st = .prefill && x.injected <
        x.promptLen && !x.paused) = some x
      chunk ∧ ((instStreams s m inst).flatMap (·.flying)).length < 2) ∧
    (∃ (s : State) (x : Stream) (m : Nat) (inst : Nat),
      let waiting := (instStreams s m inst).filter fun x => x.st = .decode && !x.inFlight && !x.paused
      let chunk := slotRuns s m = true ∧ waiting = [] ∧ (instStreams s m inst).find? (fun x => x.st = .prefill && x.injected <
        x.promptLen && !x.paused) = some x
      chunk ∧ 2 ≤ ((instStreams s m inst).flatMap (·.flying)).length) ∧
    (∃ (s : State) (x : Stream) (m : Nat) (inst : Nat) (n : Nat),
      x ∈ s.steward.streams ∧ x.slot = m ∧ x.inst = inst ∧ x.st = .prefill ∧ x.flying ≠ [] ∧ ((∀ j ∈ x.flying, j ≤ n)) ∧ x.promptLen
        ≤ x.injected) ∧
    (∃ (s : State) (m : Nat) (inst : Nat),
      let waiting := (instStreams s m inst).filter fun x => x.st = .decode && !x.inFlight && !x.paused
      slotRuns s m = true ∧ waiting ≠ []) ∧
    (∃ (s : State) (x : Stream) (id : Nat) (m : Nat) (n : Nat) (tok : Nat) (source : TokenSource),
      let hm := slotHeader s m
      let owns := slotRuns s m = true ∧ isLastStage hm = false ∧ s.steward.streams.find? (fun x => x.id = id && x.slot = m) = some x
        ∧ ((x.st = .decode ∧ x.inFlight = true) ∨ (x.st = .prefill ∧ x.promptLen ≤ x.injected ∧ x.flying ≠ [])) ∧ x.paused = false
      let given := match source with
        | .tiles l => if bhNdev hm ≤ 1 then some (sampleToken x l) else none
        | .lastStage v resumed => if 1 < bhNdev hm ∧ resumed = true then some v else none
      let token := owns ∧ given = some tok
      token ∧ x.sent ≤ x.generated ∧ tokenReason s x tok = n ∧ n ≠ 0) ∧
    (∃ (s : State) (x : Stream) (id : Nat) (m : Nat) (tok : Nat) (source : TokenSource),
      let hm := slotHeader s m
      let owns := slotRuns s m = true ∧ isLastStage hm = false ∧ s.steward.streams.find? (fun x => x.id = id && x.slot = m) = some x
        ∧ ((x.st = .decode ∧ x.inFlight = true) ∨ (x.st = .prefill ∧ x.promptLen ≤ x.injected ∧ x.flying ≠ [])) ∧ x.paused = false
      let given := match source with
        | .tiles l => if bhNdev hm ≤ 1 then some (sampleToken x l) else none
        | .lastStage v resumed => if 1 < bhNdev hm ∧ resumed = true then some v else none
      let token := owns ∧ given = some tok
      token ∧ x.sent ≤ x.generated ∧ tokenReason s x tok = 0) ∧
    (∃ (s : State) (x : Stream) (id : Nat) (m : Nat) (tok : Nat) (source : TokenSource),
      let hm := slotHeader s m
      let owns := slotRuns s m = true ∧ isLastStage hm = false ∧ s.steward.streams.find? (fun x => x.id = id && x.slot = m) = some x
        ∧ ((x.st = .decode ∧ x.inFlight = true) ∨ (x.st = .prefill ∧ x.promptLen ≤ x.injected ∧ x.flying ≠ [])) ∧ x.paused = false
      let given := match source with
        | .tiles l => if bhNdev hm ≤ 1 then some (sampleToken x l) else none
        | .lastStage v resumed => if 1 < bhNdev hm ∧ resumed = true then some v else none
      let token := owns ∧ given = some tok
      token ∧ x.generated < x.sent ∧ tokenReason s x tok = 0) ∧
    (∃ (s : State) (x : Stream) (id : Nat) (m : Nat),
      let hm := slotHeader s m
      let owns := slotRuns s m = true ∧ isLastStage hm = false ∧ s.steward.streams.find? (fun x => x.id = id && x.slot = m) = some x
        ∧ ((x.st = .decode ∧ x.inFlight = true) ∨ (x.st = .prefill ∧ x.promptLen ≤ x.injected ∧ x.flying ≠ [])) ∧ x.paused = false
      owns) ∧
    (∃ (s : State) (m : Nat) (g : _),
      let hm := slotHeader s m
      slotRuns s m = true ∧ isLastStage hm = true ∧ (modelSlot s m).bundle = some g) :=
  ⟨⟨gf 3 [] (rq 2 1), cl0, rq 2 1, by dsimp only; decide +kernel⟩,
    ⟨gf 3 [] (rq 2 2), cl0, rq 2 2, by dsimp only; decide +kernel⟩,
    ⟨gf 2 [] (rq 2 2), cl0, rq 2 2, by dsimp only; decide +kernel⟩,
    ⟨gf 3 [] (rq 4096 1), cl0, rq 4096 1, by dsimp only; decide +kernel⟩,
    ⟨gf 3 [] ((rq 2 2).set 0x12 5), cl0, (rq 2 2).set 0x12 5, by dsimp only; decide +kernel⟩,
    ⟨dvs (gf 3 [] (rq 2 2)) [(0x2600, 2, 0)], cl0, rq 2 2, by dsimp only; decide +kernel⟩,
    ⟨gf 3 [str0] (grp 2 (natLe 4 3 ++ natLe 2 1 ++ natLe 2 0 ++ natLe 4 1)), cl0, grp 2 (natLe 4 3 ++ natLe 2 1 ++ natLe 2 0 ++
      natLe 4 1), str0, by dsimp only; decide +kernel⟩,
    ⟨gf 3 [str0] (grp 2 (natLe 4 1 ++ natLe 2 2 ++ natLe 2 0 ++ natLe 8 1)), cl0, grp 2 (natLe 4 1 ++ natLe 2 2 ++ natLe 2 0 ++
      natLe 8 1), str0, by dsimp only; decide +kernel⟩,
    ⟨gf 3 [str0] (grp 3 []), cl0, grp 3 [], str0, by dsimp only; decide +kernel⟩,
    ⟨gf 3 [] (grp 3 []), cl0, grp 3 [], by dsimp only; decide +kernel⟩,
    ⟨gf 3 [{ str0 with sent := 4, kept := [(2, 7, 0, 1), (3, 8, 0, 2)] }] (grp 4 (natLe 4 2)), cl0, grp 4 (natLe 4 2),
      { str0 with sent := 4, kept := [(2, 7, 0, 1), (3, 8, 0, 2)] }, by dsimp only; decide +kernel⟩,
    ⟨gf 3 [{ str0 with sent := 4, kept := [(2, 7, 0, 1), (3, 8, 0, 2)] }] (grp 4 (natLe 4 1)), cl0, grp 4 (natLe 4 1),
      { str0 with sent := 4, kept := [(2, 7, 0, 1), (3, 8, 0, 2)] }, (2, 7, 0, 1), [(3, 8, 0, 2)], by dsimp only; decide +kernel⟩,
    ⟨gf 3 [] (grp 4 (natLe 4 2)), cl0, grp 4 (natLe 4 2), by dsimp only; decide +kernel⟩,
    ⟨gf 3 [str0] (grp 5 (natLe 8 0)), cl0, grp 5 (natLe 8 0), by dsimp only; decide +kernel⟩,
    ⟨atTb (gw 3 [str0]) 25000000, str0, 1, by dsimp only; decide +kernel⟩,
    ⟨gw 3 [{ str0 with st := .queued }], 0, 0, 0, [], by dsimp only; decide +kernel⟩,
    ⟨gw 3 [{ str0 with st := .prefill }], { str0 with st := .prefill }, 0, 0, by dsimp only; decide +kernel⟩,
    ⟨gw 3 [{ str0 with st := .prefill, flying := [0, 1] }], { str0 with st := .prefill, flying := [0, 1] }, 0, 0,
      by dsimp only; decide +kernel⟩,
    ⟨gw 3 [{ str0 with st := .prefill, flying := [0], injected := 3 }], { str0 with st := .prefill, flying := [0], injected := 3 },
      0, 0, 0, by decide +kernel⟩,
    ⟨gw 3 [{ str0 with st := .decode }], 0, 0, by dsimp only; decide +kernel⟩,
    ⟨gw 3 [{ str0 with st := .decode, inFlight := true, maxNew := 1 }], { str0 with st := .decode, inFlight := true, maxNew := 1 },
      1, 0, 2, 7, .tiles smp0, by dsimp only; decide +kernel⟩,
    ⟨gw 3 [{ str0 with st := .decode, inFlight := true }], { str0 with st := .decode, inFlight := true }, 1, 0, 7, .tiles smp0,
      by dsimp only; decide +kernel⟩,
    ⟨gw 3 [{ str0 with st := .decode, inFlight := true, sent := 4 }], { str0 with st := .decode, inFlight := true, sent := 4 }, 1,
      0, 7, .tiles smp0, by dsimp only; decide +kernel⟩,
    ⟨staged 0 [{ str0 with st := .decode, inFlight := true }], { str0 with st := .decode, inFlight := true }, 1, 0,
      by dsimp only; decide +kernel⟩,
    ⟨staged 1 [], 0, stage 1, by dsimp only; decide +kernel⟩⟩

theorem witness_model_slot_commands :
    (∃ (s : State) (m : Nat) (q : Req),
      let i := 0x2700 + m
      let x := modelSlot s m
      let on := fun v : Nat => m < 8 ∧ NewWrite s q i 2 v ∧ slotCommands s = true ∧ s.steward.running = true
      on 1 ∧ x.st = 0) ∧
    (∃ (s : State) (m : Nat) (q : Req),
      let i := 0x2700 + m
      let x := modelSlot s m
      let on := fun v : Nat => m < 8 ∧ NewWrite s q i 2 v ∧ slotCommands s = true ∧ s.steward.running = true
      on 1 ∧ x.st ≠ 0) ∧
    (∃ (s : State) (m : Nat) (q : Req) (peers : List PeerReport),
      let i := 0x2700 + m
      let on := fun v : Nat => m < 8 ∧ NewWrite s q i 2 v ∧ slotCommands s = true ∧ s.steward.running = true
      on 2 ∧ mayServe s m peers = true) ∧
    (∃ (s : State) (m : Nat) (q : Req) (peers : List PeerReport),
      let i := 0x2700 + m
      let on := fun v : Nat => m < 8 ∧ NewWrite s q i 2 v ∧ slotCommands s = true ∧ s.steward.running = true
      on 2 ∧ mayServe s m peers = false) ∧
    (∃ (s : State) (m : Nat) (q : Req),
      let i := 0x2700 + m
      let x := modelSlot s m
      let on := fun v : Nat => m < 8 ∧ NewWrite s q i 2 v ∧ slotCommands s = true ∧ s.steward.running = true
      on 3 ∧ x.st = 3) ∧
    (∃ (s : State) (m : Nat) (q : Req),
      let i := 0x2700 + m
      let x := modelSlot s m
      let on := fun v : Nat => m < 8 ∧ NewWrite s q i 2 v ∧ slotCommands s = true ∧ s.steward.running = true
      on 4 ∧ ((x.st = 2 ∨ x.st = 4))) ∧
    (∃ (s : State) (m : Nat) (q : Req),
      let i := 0x2700 + m
      let x := modelSlot s m
      let on := fun v : Nat => m < 8 ∧ NewWrite s q i 2 v ∧ slotCommands s = true ∧ s.steward.running = true
      on 3 ∧ x.st ≠ 3) ∧
    (∃ (s : State) (m : Nat) (q : Req),
      let i := 0x2700 + m
      let x := modelSlot s m
      let on := fun v : Nat => m < 8 ∧ NewWrite s q i 2 v ∧ slotCommands s = true ∧ s.steward.running = true
      on 4 ∧ x.st ≠ 2 ∧ x.st ≠ 4) ∧
    (∃ (s : State) (m : Nat),
      m < 8 ∧ slotCommands s = false) ∧
    (∃ (s : State) (m : Nat) (g : Bundle),
      let x := modelSlot s m
      let loads := slotCommands s = true ∧ s.steward.running = true ∧ x.st = 1 ∧ x.bindEpoch ≠ 0 ∧ x.bundle = some g ∧ (x.loadSrc ≠
        none ∨ x.arrived = true)
      loads ∧ g.extents.all (extentGood g) = true ∧ x.autoServe = false) ∧
    (∃ (s : State) (m : Nat) (g : Bundle),
      let x := modelSlot s m
      let loads := slotCommands s = true ∧ s.steward.running = true ∧ x.st = 1 ∧ x.bindEpoch ≠ 0 ∧ x.bundle = some g ∧ (x.loadSrc ≠
        none ∨ x.arrived = true)
      loads ∧ g.extents.all (extentGood g) = true ∧ x.autoServe = true) ∧
    (∃ (s : State) (m : Nat) (g : Bundle),
      let x := modelSlot s m
      let loads := slotCommands s = true ∧ s.steward.running = true ∧ x.st = 1 ∧ x.bindEpoch ≠ 0 ∧ x.bundle = some g ∧ (x.loadSrc ≠
        none ∨ x.arrived = true)
      loads) ∧
    (∃ (s : State) (m : Nat) (g : Bundle),
      let x := modelSlot s m
      let loads := slotCommands s = true ∧ s.steward.running = true ∧ x.st = 1 ∧ x.bindEpoch ≠ 0 ∧ x.bundle = some g ∧ (x.loadSrc ≠
        none ∨ x.arrived = true)
      loads ∧ g.extents.all (extentGood g) = false) ∧
    (∃ (s : State) (f : Nat) (off : Nat) (q : Req),
      f < 2 ∧ NewWrite s q (0x2360 + f) 2 off ∧ s.boot.copyState[f]? ≠ some 1 ∧ s.boot.copyState.length = 2) ∧
    (∃ (s : State) (f : Nat) (g : Bundle) (window : List (Nat × Bundle)),
      let copying := f < 2 ∧ eyepieceRuns s = true ∧ s.boot.copyState[f]? = some 1
      let found := window.find? fun e => e.1 = s.boot.copyOff.getD f 0
      copying ∧ found = some (s.boot.copyOff.getD f 0, g) ∧ (bit (bhFlags g.header) 0 = true → signatureGood s g = true)) ∧
    (∃ (s : State) (f : Nat) (g : Bundle) (window : List (Nat × Bundle)),
      let copying := f < 2 ∧ eyepieceRuns s = true ∧ s.boot.copyState[f]? = some 1
      let found := window.find? fun e => e.1 = s.boot.copyOff.getD f 0
      copying ∧ ((found = none ∨ (found = some (s.boot.copyOff.getD f 0, g) ∧ bit (bhFlags g.header) 0 = true ∧ signatureGood s g =
        false)))) :=
  ⟨⟨slot0 0, 0, q0, by dsimp only; decide +kernel⟩,
    ⟨slot0 2, 0, q0, by dsimp only; decide +kernel⟩,
    ⟨slot0 2, 0, q0, [], by dsimp only; decide +kernel⟩,
    ⟨slot0 3, 0, q0, [], by dsimp only; decide +kernel⟩,
    ⟨slot0 3, 0, q0, by dsimp only; decide +kernel⟩,
    ⟨slot0 4, 0, q0, by dsimp only; decide +kernel⟩,
    ⟨slot0 2, 0, q0, by dsimp only; decide +kernel⟩,
    ⟨slot0 3, 0, q0, by dsimp only; decide +kernel⟩,
    ⟨{ slot0 3 with dev := { st := .aux } }, 0, by decide +kernel⟩,
    ⟨slot0 1 fun x => { x with bindEpoch := 1, loadSrc := some 1 }, 0, bun0, by dsimp only; decide +kernel⟩,
    ⟨slot0 1 fun x => { x with bindEpoch := 1, arrived := true, autoServe := true }, 0, bun0, by dsimp only; decide +kernel⟩,
    ⟨slot0 1 fun x => { x with bindEpoch := 1, loadSrc := some 1 }, 0, bun0, by dsimp only; decide +kernel⟩,
    ⟨badCrc, 0, { bun0 with extents := [{ ltile := 0, slot := 0, imgOff := 0, len := 0, dest := 0, crc := 1 }] },
      by dsimp only; decide +kernel⟩,
    ⟨up, 0, 4096, q0, by decide +kernel⟩,
    ⟨boot0 fun b => { b with copyState := [1, 0], copyOff := [4096, 0] }, 0, bun0, [(4096, bun0)], by dsimp only; decide +kernel⟩,
    ⟨boot0 fun b => { b with copyState := [1, 0] }, 0, bun0, [], by dsimp only; decide +kernel⟩⟩

theorem witness_dictionary_requests :
    (∃ (s : State) (q : Req) (i : Nat) (sub : Nat) (typ : Nat) (n : Nat) (off : Nat) (crc : Nat) (cmd : Nat) (b : List Byte) (r :
        Response) (c : Instr),
      let asks := (c = .read q i sub ∧ cmd = 1) ∨ (c = .write q i sub typ b ∧ cmd = 2) ∨ (c = .dread q i sub off n ∧ cmd = 3) ∨ (c =
        .dopen q i sub n ∧ cmd = 4) ∨ (c = .dwrite q i sub off b ∧ cmd = 5) ∨ (c = .dcommit q i sub crc ∧ cmd = 6) ∨ (c = .dabort q i
        sub ∧ cmd = 7)
      let heard := asks ∧ reachable s q = true ∧ garbled s q = none
      heard ∧ keptResponse s q = some r) ∧
    (∃ (s : State) (q : Req) (i : Nat) (sub : Nat) (typ : Nat) (n : Nat) (off : Nat) (crc : Nat) (cmd : Nat) (b : List Byte) (c :
        Instr) (u : _),
      let asks := (c = .read q i sub ∧ cmd = 1) ∨ (c = .write q i sub typ b ∧ cmd = 2) ∨ (c = .dread q i sub off n ∧ cmd = 3) ∨ (c =
        .dopen q i sub n ∧ cmd = 4) ∨ (c = .dwrite q i sub off b ∧ cmd = 5) ∨ (c = .dcommit q i sub crc ∧ cmd = 6) ∨ (c = .dabort q i
        sub ∧ cmd = 7)
      asks ∧ reachable s q = true ∧ garbled s q = some u) ∧
    (∃ (q : Req),
      ((q.src = 3 ∨ q.src = 4)) ∧ q.env.magic ≠ 0x4F44) ∧
    (∃ (q : Req),
      ((q.src = 1 ∨ q.src = 2)) ∧ q.env.damaged = true) ∧
    (∃ (s : State) (q : Req) (i : Nat) (sub : Nat) (typ : Nat) (n : Nat) (off : Nat) (crc : Nat) (cmd : Nat) (b : List Byte) (c :
        Instr),
      let asks := (c = .read q i sub ∧ cmd = 1) ∨ (c = .write q i sub typ b ∧ cmd = 2) ∨ (c = .dread q i sub off n ∧ cmd = 3) ∨ (c =
        .dopen q i sub n ∧ cmd = 4) ∨ (c = .dwrite q i sub off b ∧ cmd = 5) ∨ (c = .dcommit q i sub crc ∧ cmd = 6) ∨ (c = .dabort q i
        sub ∧ cmd = 7)
      let heard := asks ∧ reachable s q = true ∧ garbled s q = none
      let fresh := heard ∧ keptResponse s q = none
      fresh ∧ q.src ≠ 0 ∧ mostOutstanding q.src ≤ q.env.ahead) ∧
    (∃ (s : State) (q : Req) (i : Nat) (sub : Nat) (typ : Nat) (n : Nat) (off : Nat) (crc : Nat) (cmd : Nat) (b : List Byte) (c :
        Instr) (x : _),
      let asks := (c = .read q i sub ∧ cmd = 1) ∨ (c = .write q i sub typ b ∧ cmd = 2) ∨ (c = .dread q i sub off n ∧ cmd = 3) ∨ (c =
        .dopen q i sub n ∧ cmd = 4) ∨ (c = .dwrite q i sub off b ∧ cmd = 5) ∨ (c = .dcommit q i sub crc ∧ cmd = 6) ∨ (c = .dabort q i
        sub ∧ cmd = 7)
      let heard := asks ∧ reachable s q = true ∧ garbled s q = none
      let fresh := heard ∧ keptResponse s q = none
      fresh ∧ ((q.src = 0 ∨ q.env.ahead < mostOutstanding q.src)) ∧ q.env.reserved = some x ∧ ((x % 128 = 0 ∨ 7 < x % 128))) ∧
    (∃ (s : State) (q : Req) (i : Nat) (sub : Nat) (typ : Nat) (n : Nat) (off : Nat) (crc : Nat) (cmd : Nat) (b : List Byte) (c :
        Instr),
      let asks := (c = .read q i sub ∧ cmd = 1) ∨ (c = .write q i sub typ b ∧ cmd = 2) ∨ (c = .dread q i sub off n ∧ cmd = 3) ∨ (c =
        .dopen q i sub n ∧ cmd = 4) ∨ (c = .dwrite q i sub off b ∧ cmd = 5) ∨ (c = .dcommit q i sub crc ∧ cmd = 6) ∨ (c = .dabort q i
        sub ∧ cmd = 7)
      asks ∧ reachable s q = false) ∧
    (∃ (s : State) (q : Req) (i : Nat) (sub : Nat) (d : ObjDef),
      NewRequest s q ∧ objDef i sub = some d ∧ isLong d = false ∧ d.acc ≠ .wo) ∧
    (∃ (s : State) (q : Req) (i : Nat) (sub : Nat),
      NewRequest s q ∧ objDef i sub = none) ∧
    (∃ (s : State) (q : Req) (i : Nat) (sub : Nat) (typ : Nat) (b : List Byte) (d : ObjDef),
      NewRequest s q ∧ objDef i sub = some d ∧ isLong d = false ∧ typ = d.typ ∧ b.length = typeBytes d.typ) ∧
    (∃ (s : State) (q : Req) (i : Nat) (sub : Nat) (typ : Nat) (b : List Byte) (d : ObjDef),
      NewRequest s q ∧ objDef i sub = some d ∧ writable d.acc = true ∧ mayWrite s q.src = true ∧ isLong d = false ∧ ((typ ≠ d.typ ∨
        b.length ≠ typeBytes d.typ))) ∧
    (∃ (s : State) (q : Req) (i : Nat) (sub : Nat) (d : ObjDef),
      let live := objBytes s q.src i sub
      NewRequest s q ∧ objDef i sub = some d ∧ isLong d = true ∧ d.acc ≠ .wo ∧ live.length ≤ 2 ^ 20) ∧
    (∃ (s : State) (q : Req) (i : Nat) (sub : Nat) (n : Nat),
      let k := objKey i sub
      NewRequest s q ∧ checkLong s q.src i sub = stOk ∧ heldByOther s q.src q.client k = false ∧ streamed i sub = false ∧ n ≤ 2 ^ 20
        ∧ i ≠ 0x1011 ∧ ((i < 0x3000 ∨ 0x3020 ≤ i))) ∧
    (∃ (s : State) (q : Req) (i : Nat) (sub : Nat),
      let k := objKey i sub
      NewRequest s q ∧ checkLong s q.src i sub = stOk ∧ heldByOther s q.src q.client k = true) ∧
    (∃ (s : State) (q : Req) (i : Nat) (sub : Nat) (off : Nat) (b : List Byte) (x : Session),
      let k := objKey i sub
      let mine := smGet s.dict.sessions k = some x ∧ x.src = q.src ∧ x.client = q.client
      NewRequest s q ∧ checkLong s q.src i sub = stOk ∧ mine ∧ streamed i sub = false ∧ off + b.length ≤ x.total) ∧
    (∃ (s : State) (q : Req) (i : Nat) (sub : Nat) (crc : Nat) (x : Session),
      let k := objKey i sub
      let mine := smGet s.dict.sessions k = some x ∧ x.src = q.src ∧ x.client = q.client
      NewRequest s q ∧ checkLong s q.src i sub = stOk ∧ mine ∧ streamed i sub = false ∧ x.data.length = x.total ∧ crc32
        (sessionBytes x) = crc) ∧
    (∃ (s : State) (q : Req) (i : Nat) (sub : Nat) (crc : Nat) (x : Session),
      let k := objKey i sub
      let mine := smGet s.dict.sessions k = some x ∧ x.src = q.src ∧ x.client = q.client
      NewRequest s q ∧ checkLong s q.src i sub = stOk ∧ mine ∧ streamed i sub = false ∧ x.data.length = x.total ∧ crc32
        (sessionBytes x) ≠ crc) ∧
    (∃ (s : State) (q : Req) (i : Nat) (sub : Nat) (x : Session),
      let k := objKey i sub
      let mine := smGet s.dict.sessions k = some x ∧ x.src = q.src ∧ x.client = q.client
      NewRequest s q ∧ checkLong s q.src i sub = stAccess ∧ mine) ∧
    (∃ (s : State) (q : Req) (i : Nat) (sub : Nat) (x : Session),
      let k := objKey i sub
      let mine := smGet s.dict.sessions k = some x ∧ x.src = q.src ∧ x.client = q.client
      NewRequest s q ∧ checkLong s q.src i sub = stOk ∧ mine ∧ streamed i sub = false) ∧
    (∃ (s : State) (i : Nat) (sub : Nat),
      let k := objKey i sub
      eyepieceRuns s = true ∧ (smGet s.dict.sessions k).isSome = true ∧ streamed i sub = false) :=
  ⟨⟨{ up with dict := { up.dict with kept := [⟨3,1,1,1,0,0,0,4,false,0,[]⟩] } }, q0, 0x1010, 1, 4, 0, 0, 0, 1, [],
      ⟨3,1,1,1,0,0,0,4,false,0,[]⟩, .read q0 0x1010 1, by dsimp only; decide +kernel⟩,
    ⟨up, qm, 0x1010, 1, 4, 0, 0, 0, 1, [], .read qm 0x1010 1, { up with dict := { up.dict with malformed := 1 } },
      by dsimp only; decide +kernel⟩,
    ⟨qm, by decide +kernel⟩,
    ⟨qd, by decide +kernel⟩,
    ⟨up, qa, 0x1010, 1, 4, 0, 0, 0, 1, [], .read qa 0x1010 1, by dsimp only; decide +kernel⟩,
    ⟨up, qr, 0x1010, 1, 4, 0, 0, 0, 1, [], .read qr 0x1010 1, 9, by dsimp only; decide +kernel⟩,
    ⟨State.reset, q0, 0x1010, 1, 4, 0, 0, 0, 1, [], .read q0 0x1010 1, by dsimp only; decide +kernel⟩,
    ⟨up, q0, 0x2010, 1, (objDef 0x2010 1).getD ⟨0,.ro,0⟩, by decide +kernel⟩,
    ⟨up, q0, 0x7777, 1, by decide +kernel⟩,
    ⟨up, q0, 0x2010, 1, ((objDef 0x2010 1).getD ⟨0,.ro,0⟩).typ, natLe (typeBytes ((objDef 0x2010 1).getD ⟨0,.ro,0⟩).typ) 1, (objDef
      0x2010 1).getD ⟨0,.ro,0⟩, by decide +kernel⟩,
    ⟨up, q0, 0x2010, 4, 13, [], (objDef 0x2010 4).getD ⟨0,.ro,0⟩, by decide +kernel⟩,
    ⟨up, q0, 0x3000, 0x12, (objDef 0x3000 0x12).getD ⟨0,.ro,0⟩, by dsimp only; decide +kernel⟩,
    ⟨up, q0, 0x2330, 1, 32, by dsimp only; decide +kernel⟩,
    ⟨{ up with dict := { up.dict with sessions := [(objKey 0x2330 1, { ses0 with client := 2 })] } }, q0, 0x2330, 1,
      by dsimp only; decide +kernel⟩,
    ⟨sesOf 0x2330 1, q0, 0x2330, 1, 0, [1, 2], ses0, by dsimp only; decide +kernel⟩,
    ⟨sesOf 0x2330 1, q0, 0x2330, 1, crc32 [5, 6], ses0, by dsimp only; decide +kernel⟩,
    ⟨sesOf 0x2330 1, q0, 0x2330, 1, 0, ses0, by dsimp only; decide +kernel⟩,
    ⟨pre (sesOf 0x2330 1) [(0x1012, 4, 0)], q0, 0x2330, 1, ses0, by dsimp only; decide +kernel⟩,
    ⟨sesOf 0x2330 1, q0, 0x2330, 1, ses0, by dsimp only; decide +kernel⟩,
    ⟨sesOf 0x2330 1, 0x2330, 1, by dsimp only; decide +kernel⟩⟩

theorem witness_device_management :
    (∃ (s : State) (q : Req) (mask : Nat),
      NewWrite s q 0x2000 6 mask) ∧
    (∃ (s : State) (w : State) (q : Req),
      let mark := sealRec tRestore 0 0 s.store.seq (.bytes [])
      NewWrite s q 0x1020 1 1 ∧ appendRec s mark = (w, true)) ∧
    (∃ (s : State) (w : State) (q : Req),
      let mark := sealRec tRestore 0 0 s.store.seq (.bytes [])
      NewWrite s q 0x1020 1 1 ∧ appendRec s mark = (w, false)) ∧
    (∃ (s : State),
      eyepieceRuns s = true ∧ s.store.broken = false ∧ (theBank s).generation + 1 < 2 ^ 32) ∧
    (∃ (s : State),
      eyepieceRuns s = true ∧ s.store.broken = true) ∧
    (∃ (s : State) (q : Req),
      NewWrite s q 0x6000 7 1 ∧ s.boot.perms.getLsbD 2 = true) ∧
    (∃ (s : State) (q : Req),
      NewWrite s q 0x6000 7 1 ∧ s.boot.perms.getLsbD 2 = false) ∧
    (∃ (s : State) (q : Req),
      NewWrite s q 0x6100 3 1) ∧
    (∃ (s : State) (q : Req),
      NewWrite s q 0x6100 3 2) ∧
    (∃ (s : State) (w : State) (q : Req) (i : Nat) (sub : Nat) (v : Nat),
      NewWrite s q i sub v ∧ ((i = 0x2010 ∨ i = 0x2200 ∨ i = 0x2410 ∨ i = 0x2600)) ∧ isRws i sub = true ∧ appendRec s (recordOf
        (objKey i sub) s.store.seq (.num v)) = (w, true)) ∧
    (∃ (s : State) (w : State) (q : Req) (i : Nat) (sub : Nat) (v : Nat),
      NewWrite s q i sub v ∧ ((i = 0x2010 ∨ i = 0x2200 ∨ i = 0x2410 ∨ i = 0x2600)) ∧ isRws i sub = true ∧ appendRec s (recordOf
        (objKey i sub) s.store.seq (.num v)) = (w, false)) ∧
    (∃ (s : State),
      let mark := sealRec tRestore 0 0 s.store.seq (.bytes [])
      s.store.broken = false ∧ hasRoom s mark = true) ∧
    (∃ (s : State),
      s.store.broken = true) :=
  ⟨⟨dev0 .ready fun d => { d with alert := 0x21 }, q0, 0x1FF, by decide +kernel⟩,
    ⟨up, (appendRec up (sealRec tRestore 0 0 0 (.bytes []))).1, q0, by dsimp only; decide +kernel⟩,
    ⟨broke, (appendRec broke (sealRec tRestore 0 0 0 (.bytes []))).1, qf, by dsimp only; decide +kernel⟩,
    ⟨up, by decide +kernel⟩,
    ⟨broke, by decide +kernel⟩,
    ⟨boot0 fun b => { b with perms := 4 }, q0, by decide +kernel⟩,
    ⟨up, q0, by decide +kernel⟩,
    ⟨reg0 { st := .bound, loupe := [⟨0, 0, 0, 0, 0⟩] }, q0, by decide +kernel⟩,
    ⟨reg0 { st := .bound, loupe := [⟨0, 0, 0, 0, 0⟩] }, q0, by decide +kernel⟩,
    ⟨up, store up 0x2010 4 1, q0, 0x2010, 4, 1, by decide +kernel⟩,
    ⟨broke, (appendRec broke (recordOf (objKey 0x2010 4) 0 (.num 1))).1, qf, 0x2010, 4, 1, by decide +kernel⟩,
    ⟨up, by dsimp only; decide +kernel⟩,
    ⟨broke, by decide +kernel⟩⟩

theorem witness_bringup_steps :
    (∃ (s : State),
      eyepieceRuns s = true ∧ s.dev.rstHigh = true ∧ s.clock.locked = true ∧ s.dev.st = .aux ∧ s.power.vinOk = true ∧
        s.power.tripped = false) ∧
    (∃ (s : State),
      let at_ := fun n : Nat => bringupRuns s = true ∧ s.dev.bringupStep = n
      at_ 1 ∧ s.dev.rstHigh = true ∧ s.dev.stagesOffWait = false) ∧
    (∃ (s : State) (f : Nat),
      let at_ := fun n : Nat => bringupRuns s = true ∧ s.dev.bringupStep = n
      at_ 3 ∧ f = s.dev.nextGroup ∧ f < 48) ∧
    (∃ (s : State) (f : Nat),
      let at_ := fun n : Nat => bringupRuns s = true ∧ s.dev.bringupStep = n
      at_ 3 ∧ f = s.dev.nextCal ∧ f < s.dev.nextGroup) ∧
    (∃ (s : State),
      let at_ := fun n : Nat => bringupRuns s = true ∧ s.dev.bringupStep = n
      at_ 5) ∧
    (∃ (s : State) (t : _),
      (slotAt (tileOf s t).core 0).st ≠ .running ∧ (tileOf s t).core.slots.length = 4) ∧
    (∃ (s : State) (p : Nat),
      let at_ := fun n : Nat => bringupRuns s = true ∧ s.dev.bringupStep = n
      let r := regionOfNo s p
      let untrained := at_ 6 ∧ p < regionCount ∧ r.st = .training ∧ r.retraining = false ∧ r.trainedFull = false ∧ r.shortPassed =
        false
      untrained ∧ ((s.dev.fullTraining = true ∨ r.lostInKat = true))) ∧
    (∃ (s : State) (p : Nat),
      let at_ := fun n : Nat => bringupRuns s = true ∧ s.dev.bringupStep = n
      let r := regionOfNo s p
      let untrained := at_ 6 ∧ p < regionCount ∧ r.st = .training ∧ r.retraining = false ∧ r.trainedFull = false ∧ r.shortPassed =
        false
      untrained ∧ s.dev.fullTraining = false ∧ r.lostInKat = false ∧ ((∀ x, savedRecord s = some x → p ∉ x.failed)) ∧ r.defect = []
        ∧ sidesBad s p = false) ∧
    (∃ (s : State) (p : Nat),
      let at_ := fun n : Nat => bringupRuns s = true ∧ s.dev.bringupStep = n
      let r := regionOfNo s p
      let untrained := at_ 6 ∧ p < regionCount ∧ r.st = .training ∧ r.retraining = false ∧ r.trainedFull = false ∧ r.shortPassed =
        false
      untrained ∧ s.dev.fullTraining = false ∧ r.lostInKat = false) ∧
    (∃ (s : State),
      let at_ := fun n : Nat => bringupRuns s = true ∧ s.dev.bringupStep = n
      let ps := trainingRegions s
      at_ 6 ∧ ((∀ x ∈ ps, (regionOfNo s x).trainedFull = true ∨ (regionOfNo s x).shortPassed = true))) ∧
    (∃ (s : State) (x : _),
      let at_ := fun n : Nat => bringupRuns s = true ∧ s.dev.bringupStep = n
      at_ 8 ∧ s.steward.running = false ∧ s.steward.standby = 0xFFFF ∧ choosePrimary (freshRegions s) = some x) ∧
    (∃ (s : State),
      let last := eyepieceRuns s = true ∧ s.dev.st = .bringup ∧ s.dev.bringupStep = 9
      last ∧ outranked s = true) ∧
    (∃ (s : State),
      let last := eyepieceRuns s = true ∧ s.dev.st = .bringup ∧ s.dev.bringupStep = 9
      let tested := last ∧ outranked s = false
      tested ∧ unrecoverable s = true) ∧
    (∃ (s : State),
      let last := eyepieceRuns s = true ∧ s.dev.st = .bringup ∧ s.dev.bringupStep = 9
      let tested := last ∧ outranked s = false
      let enough := s.steward.running = true ∧ dnum s 0x2000 5 4544 ≤ healthyCount s
      let clocked := s.clock.locked = true ∧ s.clock.holdStep = 0
      tested ∧ unrecoverable s = false ∧ clocked ∧ enough) ∧
    (∃ (s : State),
      let last := eyepieceRuns s = true ∧ s.dev.st = .bringup ∧ s.dev.bringupStep = 9
      let tested := last ∧ outranked s = false
      let enough := s.steward.running = true ∧ dnum s 0x2000 5 4544 ≤ healthyCount s
      let clocked := s.clock.locked = true ∧ s.clock.holdStep = 0
      tested ∧ unrecoverable s = false ∧ clocked ∧ ¬ enough ∧ s.dev.retrainUsed = false ∧ secondChance s ≠ []) ∧
    (∃ (s : State),
      let last := eyepieceRuns s = true ∧ s.dev.st = .bringup ∧ s.dev.bringupStep = 9
      let tested := last ∧ outranked s = false
      let enough := s.steward.running = true ∧ dnum s 0x2000 5 4544 ≤ healthyCount s
      let clocked := s.clock.locked = true ∧ s.clock.holdStep = 0
      tested ∧ unrecoverable s = false ∧ clocked ∧ ¬ enough ∧ ((s.dev.retrainUsed = true ∨ secondChance s = []))) :=
  ⟨⟨dev0 .aux, by decide +kernel⟩,
    ⟨bu 1, by dsimp only; decide +kernel⟩,
    ⟨bu 3, 0, by dsimp only; decide +kernel⟩,
    ⟨bu 3 fun s => { s with dev := { s.dev with nextGroup := 1 } }, 0, by dsimp only; decide +kernel⟩,
    ⟨bu 5, by dsimp only; decide +kernel⟩,
    ⟨up, 5, by decide +kernel⟩,
    ⟨bu 6 fun s => { s with regions := [(0, { st := .training, stageOn := true })], dev := { s.dev with fullTraining := true } }, 0,
      by dsimp only; decide +kernel⟩,
    ⟨bu 6 fun s => { s with regions := [(0, { st := .training, stageOn := true })] }, 0, by dsimp only; decide +kernel⟩,
    ⟨bu 6 fun s => { s with regions := [(0, { st := .training, stageOn := true })] }, 0, by dsimp only; decide +kernel⟩,
    ⟨bu 6 fun s => { s with regions := [(0, { st := .training, stageOn := true, shortPassed := true })] },
      by dsimp only; decide +kernel⟩,
    ⟨bu 8 fun s =>
      { s with steward := {}, regions := [(100, { st := .healthy, stageOn := true }), (4000, { st := .healthy, stageOn := true })] },
      4000, by dsimp only; decide +kernel⟩,
    ⟨bu 9 fun s => { s with dev := { s.dev with rstHigh := true, conditions := [.toFault] } }, by dsimp only; decide +kernel⟩,
    ⟨bu 9 fun s => { s with dev := { s.dev with rstHigh := true }, power := { s.power with converters := 0 } },
      by dsimp only; decide +kernel⟩,
    ⟨bu 9 fun s => dv s [(0x2000, 5, 0)], by dsimp only; decide +kernel⟩,
    ⟨bu 9 fun s => { s with regions := (0, { st := .unpowered, shortPassed := true, lostInKat := true }) :: s.regions.drop 1 },
      by dsimp only; decide +kernel⟩,
    ⟨bu 9 fun s => { s with dev := { s.dev with retrainUsed := true } }, by dsimp only; decide +kernel⟩⟩

theorem witness_firmware_updates :
    (∃ (s : State) (q : Req),
      let b := s.boot
      let asks := fun n : Nat => NewWrite s q 0x2320 1 n ∧ (b.owner = none ∨ b.owner = some q.src)
      asks 1 ∧ ((b.update = 0 ∨ b.update = 5))) ∧
    (∃ (s : State) (q : Req),
      let b := s.boot
      let asks := fun n : Nat => NewWrite s q 0x2320 1 n ∧ (b.owner = none ∨ b.owner = some q.src)
      asks 1 ∧ b.update ≠ 0 ∧ b.update ≠ 5) ∧
    (∃ (s : State) (q : Req) (o : _),
      let b := s.boot
      NewWrite s q 0x2320 1 1 ∧ b.owner = some o ∧ o ≠ q.src) ∧
    (∃ (s : State),
      let b := s.boot
      eyepieceRuns s = true ∧ b.update = 1) ∧
    (∃ (s : State) (q : Req) (chunk : List Byte),
      let b := s.boot
      NewRequest s q ∧ checkLong s q.src 0x2320 3 = stOk ∧ heldByOther s q.src q.client (objKey 0x2320 3) = false ∧ chunk.length ≤ 2
        ^ 20 ∧ ((b.owner = none ∨ b.owner = some q.src)) ∧ b.update = 2 ∧ b.writeOff + chunk.length ≤ partitionBytes) ∧
    (∃ (s : State) (q : Req),
      let b := s.boot
      let asks := fun n : Nat => NewWrite s q 0x2320 1 n ∧ (b.owner = none ∨ b.owner = some q.src)
      let n := dnum s 0x2320 5 0
      asks 6 ∧ b.update = 2 ∧ b.writeOff + n ≤ partitionBytes) ∧
    (∃ (s : State) (q : Req),
      let b := s.boot
      let asks := fun n : Nat => NewWrite s q 0x2320 1 n ∧ (b.owner = none ∨ b.owner = some q.src)
      asks 2 ∧ b.update = 2) ∧
    (∃ (s : State),
      let b := s.boot
      eyepieceRuns s = true ∧ b.update = 3) ∧
    (∃ (s : State) (q : Req),
      let b := s.boot
      let asks := fun n : Nat => NewWrite s q 0x2320 1 n ∧ (b.owner = none ∨ b.owner = some q.src)
      asks 3 ∧ b.update = 4) ∧
    (∃ (s : State) (q : Req),
      let b := s.boot
      let asks := fun n : Nat => NewWrite s q 0x2320 1 n ∧ (b.owner = none ∨ b.owner = some q.src)
      asks 4 ∧ b.update = 0 ∧ b.trial = 3 ∧ b.booted = b.preferred + 1) ∧
    (∃ (s : State) (q : Req),
      let b := s.boot
      let asks := fun n : Nat => NewWrite s q 0x2320 1 n ∧ (b.owner = none ∨ b.owner = some q.src)
      asks 5 ∧ ((b.update = 2 ∨ b.update = 4 ∨ b.update = 5))) ∧
    (∃ (s : State) (q : Req),
      let b := s.boot
      let asks := fun n : Nat => NewWrite s q 0x2320 1 n ∧ (b.owner = none ∨ b.owner = some q.src)
      asks 5 ∧ b.update = 6) :=
  ⟨⟨up, q0, by dsimp only; decide +kernel⟩,
    ⟨boot0 fun b => { b with update := 2, owner := some 3 }, q0, by dsimp only; decide +kernel⟩,
    ⟨boot0 fun b => { b with owner := some 4 }, q0, 4, by dsimp only; decide +kernel⟩,
    ⟨boot0 fun b => { b with update := 1, owner := some 3 }, by dsimp only; decide +kernel⟩,
    ⟨boot0 fun b => { b with update := 2, owner := some 3 }, q0, [1, 2], by dsimp only; decide +kernel⟩,
    ⟨dv (boot0 fun b => { b with update := 2, owner := some 3 }) [(0x2320, 5, 4)], q0, by dsimp only; decide +kernel⟩,
    ⟨boot0 fun b => { b with update := 2, owner := some 3 }, q0, by dsimp only; decide +kernel⟩,
    ⟨boot0 fun b => { b with update := 3, owner := some 3 }, by dsimp only; decide +kernel⟩,
    ⟨boot0 fun b => { b with update := 4, owner := some 3 }, q0, by dsimp only; decide +kernel⟩,
    ⟨boot0 fun b => { b with update := 0, trial := 3, booted := 1, secVersion := 5 }, q0, by dsimp only; decide +kernel⟩,
    ⟨boot0 fun b => { b with update := 5, owner := some 3 }, q0, by dsimp only; decide +kernel⟩,
    ⟨boot0 fun b => { b with update := 6, owner := some 3 }, q0, by dsimp only; decide +kernel⟩⟩

theorem witness_fuses_attestation_and_debug :
    (∃ (s : State) (q : Req) (k : Nat),
      let b := s.boot
      NewWrite s q 0x2310 3 k ∧ ((b.booted = 0 ∨ b.keySlot ≠ k)) ∧ b.imgRevoked.getLsbD k = false ∧ ((∃ n, n < 4 ∧ n ≠ k ∧
        b.imgRevoked.getLsbD n = false))) ∧
    (∃ (s : State) (q : Req) (k : Nat),
      let b := s.boot
      NewWrite s q 0x2310 3 k ∧ b.booted ≠ 0 ∧ b.keySlot = k) ∧
    (∃ (s : State) (q : Req) (k : Nat) (hash : List Byte),
      let b := s.boot
      let whole := fun i sub : Nat => NewRequest s q ∧ checkLong s q.src i sub = stOk ∧ heldByOther s q.src q.client (objKey i sub)
        = false
      k < 8 ∧ whole (0x2350 + k) 2 ∧ b.perms.getLsbD 3 = true ∧ hash.length = 48 ∧ b.bundleKeys[k]? = some none) ∧
    (∃ (s : State) (q : Req) (k : Nat) (hash : List Byte) (h : _),
      let b := s.boot
      let whole := fun i sub : Nat => NewRequest s q ∧ checkLong s q.src i sub = stOk ∧ heldByOther s q.src q.client (objKey i sub)
        = false
      k < 8 ∧ whole (0x2350 + k) 2 ∧ b.perms.getLsbD 3 = true ∧ hash.length = 48 ∧ b.bundleKeys[k]? = some (some h)) ∧
    (∃ (s : State) (q : Req) (k : Nat) (hash : List Byte),
      let b := s.boot
      let whole := fun i sub : Nat => NewRequest s q ∧ checkLong s q.src i sub = stOk ∧ heldByOther s q.src q.client (objKey i sub)
        = false
      k < 8 ∧ whole (0x2350 + k) 2 ∧ b.perms.getLsbD 3 = false ∧ hash.length = 48) ∧
    (∃ (s : State) (q : Req) (k : Nat),
      let b := s.boot
      k < 8 ∧ NewWrite s q (0x2350 + k) 4 1 ∧ b.perms.getLsbD 3 = true ∧ b.bdlRevoked.getLsbD k = false) ∧
    (∃ (s : State) (q : Req) (k : Nat),
      let b := s.boot
      k < 8 ∧ NewWrite s q (0x2350 + k) 4 1 ∧ b.perms.getLsbD 3 = false) ∧
    (∃ (s : State) (g : Bundle) (x : BundleSig),
      let b := s.boot
      g.signature = some x ∧ b.bdlRevoked.getLsbD (fld x.header 4 1) = true) ∧
    (∃ (s : State) (q : Req) (nonce : List Byte),
      let b := s.boot
      let whole := fun i sub : Nat => NewRequest s q ∧ checkLong s q.src i sub = stOk ∧ heldByOther s q.src q.client (objKey i sub)
        = false
      whole 0x2330 1 ∧ b.attest ≠ 1 ∧ nonce.length = 32) ∧
    (∃ (s : State),
      let b := s.boot
      eyepieceRuns s = true ∧ b.attest = 1) ∧
    (∃ (s : State) (q : Req) (token : List Byte),
      let whole := fun i sub : Nat => NewRequest s q ∧ checkLong s q.src i sub = stOk ∧ heldByOther s q.src q.client (objKey i sub)
        = false
      whole 0x2340 2 ∧ token.length ≤ 2 ^ 20) ∧
    (∃ (s : State) (q : Req),
      let b := s.boot
      NewWrite s q 0x2340 4 1 ∧ b.perms ≠ 0) :=
  ⟨⟨up, q0, 2, by dsimp only; decide +kernel⟩,
    ⟨boot0 fun b => { b with booted := 1, keySlot := 2 }, q0, 2, by dsimp only; decide +kernel⟩,
    ⟨boot0 fun b => { b with perms := 8 }, q0, 2, List.replicate 48 7, by dsimp only; decide +kernel⟩,
    ⟨boot0 fun b => { b with perms := 8, bundleKeys := List.replicate 8 (some []) }, q0, 2, List.replicate 48 7, [],
      by dsimp only; decide +kernel⟩,
    ⟨up, q0, 2, List.replicate 48 7, by dsimp only; decide +kernel⟩,
    ⟨boot0 fun b => { b with perms := 8 }, q0, 2, by dsimp only; decide +kernel⟩,
    ⟨up, q0, 2, by dsimp only; decide +kernel⟩,
    ⟨boot0 fun b => { b with bdlRevoked := 4 }, { bun0 with signature := some sg2 }, sg2, by dsimp only; decide +kernel⟩,
    ⟨up, q0, List.replicate 32 1, by dsimp only; decide +kernel⟩,
    ⟨boot0 fun b => { b with attest := 1 }, by dsimp only; decide +kernel⟩,
    ⟨up, q0, [], by dsimp only; decide +kernel⟩,
    ⟨boot0 fun b => { b with perms := 8 }, q0, by dsimp only; decide +kernel⟩⟩

theorem witness_selections_per_source :
    (∃ (s : State) (q : Req) (i : Nat) (sub : Nat) (b : List Byte) (d : ObjDef),
      let kept := (i = 0x1031 ∧ sub = 1) ∨ (i = 0x6000 ∧ sub = 3) ∨ (i = 0x6100 ∧ sub = 0x10)
      kept ∧ objDef i sub = some d ∧ b.length = typeBytes d.typ ∧ NewWrite s q i sub (leNat b)) ∧
    (∃ (i : Nat) (sub : Nat),
      let kept := (i = 0x1031 ∧ sub = 1) ∨ (i = 0x6000 ∧ sub = 3) ∨ (i = 0x6100 ∧ sub = 0x10)
      kept) ∧
    (∃ (q : Req) (src : Nat),
      src ≠ q.src) :=
  ⟨⟨up, q0, 0x1031, 1, [0xFF, 0x7F], (objDef 0x1031 1).getD ⟨0,.ro,0⟩, by dsimp only; decide +kernel⟩,
    ⟨0x1031, 1, by dsimp only; decide +kernel⟩,
    ⟨q0, 2, by decide +kernel⟩⟩

end Sys2Proof.Tests
end

section
/-! PROOFS. What a write of memory reads back, and what writes into a scratchpad and the steward's broadcasts leave of a state:
facts about shared operations. -/

namespace Sys2Proof.Proofs

open Sys2Proof.Machine Sys2Proof.Laws

variable (s : State)

/-! Memory (R63, R66). -/

theorem smGet_smDel_same {α : Type} (m : SMap α) (a : Nat) : smGet (smDel m a) a = none := by
  induction m with
  | nil => rfl
  | cons x m ih =>
    by_cases h : x.1 = a
    · simpa [smDel, h] using ih
    · simpa [smDel, h, smGet, Ne.symm h] using ih

theorem smGet_smDel_ne {α : Type} (m : SMap α) {a b : Nat} (hb : b ≠ a) : smGet (smDel m a) b = smGet m b := by
  induction m with
  | nil => rfl
  | cons x m ih =>
    by_cases h : x.1 = a
    · simpa [smDel, h, smGet, hb] using ih
    · simp only [smDel, ne_eq, decide_not] at ih
      simp [smDel, h, smGet, ih]

theorem memRead_memWrite_same (m : Memory) (a : Nat) (b : Byte) : memRead (memWrite m a b) a = b := by
  unfold memWrite
  split
  · next h => simp [memRead, smGetD, smGet_smDel_same, h]
  · simp [memRead, smGetD]

theorem memRead_memWrite_ne (m : Memory) {a x : Nat} (b : Byte) (h : x ≠ a) :
    memRead (memWrite m a b) x = memRead m x := by
  unfold memWrite
  split <;> simp [memRead, smGetD, smGet_smDel_ne, h]

/-- Bytes written from an address on leave those below it. -/
theorem memRead_memWrites_below (m : Memory) {a x : Nat} (bs : List Byte) (h : x < a) :
    memRead (memWrites m a bs) x = memRead m x := by
  induction bs generalizing m a with
  | nil => rfl
  | cons b bs ih => rw [memWrites, ih _ (by omega), memRead_memWrite_ne _ _ (by omega)]

/-- A byte string reads as it was written. -/
theorem memReads_memWrites (m : Memory) (a : Nat) (bs : List Byte) : memReads (memWrites m a bs) a bs.length = bs := by
  induction bs generalizing m a with
  | nil => rfl
  | cons b bs ih =>
    rw [memWrites, List.length_cons, memReads, ih, memRead_memWrites_below _ _ (Nat.lt_succ_self a),
      memRead_memWrite_same]

/-! A write into a scratchpad: its bytes stand there, and the task slots of the tile stay (R66, R323). -/

theorem bulkWrite_core (t a : Nat) (bs : List Byte) : (tileOf (bulkWrite s t a bs) t).core = (tileOf s t).core := by
  simp [bulkWrite, queueOut]

theorem stageBlock_core (t l n : Nat) (b : List Byte) : (tileOf (stageBlock s t l n b) t).core = (tileOf s t).core := by
  unfold stageBlock
  split
  · split
    · exact foldl_keep (fun u => (tileOf u t).core) (fun u _ => bulkWrite_core u _ _ _) _ _
    · rfl
  · rfl

theorem copyBlock_slots (t b : Nat) : (tileOf (copyBlock s t b) t).core.slots = (tileOf s t).core.slots := by
  have h (f : Tile → Tile) (v : Recovery) : tileOf { updTile s t f with recov := v } t = f (tileOf s t) :=
    tileOf_updTile_same s t f
  unfold copyBlock
  dsimp only
  split
  · split
    · rw [h]
    · rw [stageBlock_core, h]
  · rfl

theorem copyFirst_slots (t b : Nat) : (tileOf (copyFirst s t b) t).core.slots = (tileOf s t).core.slots := by
  unfold copyFirst
  dsimp only [fresh]
  split
  · rw [copyBlock_slots, addHolds, tileOf_updTile_same]; rfl
  · exact copyBlock_slots s t b

theorem copyFirst_mem (t b : Nat) : (copyFirst s t b).mem = s.mem := by
  unfold copyFirst
  dsimp only [fresh]
  split <;> simp

theorem writeSpad_slots (t off : Nat) (bs : List Byte) :
    (tileOf (writeSpad s t off bs) t).core.slots = (tileOf s t).core.slots := by
  have h (u : State) (f : Core → Core) (m : Memory) :
      tileOf { updCore u t f with mem := m } t = { tileOf u t with core := f (tileOf u t).core } :=
    tileOf_updCore_same u t f
  unfold writeSpad
  dsimp only
  rw [h]
  exact foldl_keep (fun u => (tileOf u t).core.slots) (fun u b => copyFirst_slots u t b) _ s

theorem writeSpad_mem (t off : Nat) (bs : List Byte) :
    (writeSpad s t off bs).mem = memWrites s.mem (spad t off) bs := by
  unfold writeSpad
  dsimp only
  rw [updCore_mem, foldl_keep State.mem (fun u b => copyFirst_mem u t b)]

theorem readSpad_writeSpad (t off : Nat) (bs : List Byte) : readSpad (writeSpad s t off bs) t off bs.length = bs := by
  rw [readSpad, writeSpad_mem, memReads_memWrites]

/-! The steward's broadcast: it sends packets, and leaves memory, regions, the steward's own state and every core (R222, R299). -/

theorem queueOut_core (t t' : Nat) (k : Packet) : (tileOf (queueOut s t k) t').core = (tileOf s t').core := by
  by_cases h : t' = t
  · subst h; simp [queueOut]
  · rw [queueOut, updMsg, tileOf_updTile_ne _ _ h]

theorem tellStandby_shape : ∃ ts n, tellStandby s = { s with tiles := ts, free := n } ∧
    ∀ t, (tileOf (tellStandby s) t).core = (tileOf s t).core := by
  unfold tellStandby
  split
  · exact ⟨_, _, rfl, fun t => queueOut_core _ _ t _⟩
  · exact ⟨_, _, rfl, fun _ => rfl⟩

theorem floodTables_shape (l : Nat) : ∃ f n, (floodTables s l).2 = { s with fabric := f, free := n } := ⟨_, _, rfl⟩

theorem stewardBroadcast_shape : ∃ ts f n, stewardBroadcast s = { s with tiles := ts, fabric := f, free := n } ∧
    ∀ t, (tileOf (stewardBroadcast s) t).core = (tileOf s t).core := by
  obtain ⟨ts, n, e, hc⟩ := tellStandby_shape s
  obtain ⟨f, m, ef⟩ := floodTables_shape (tellStandby s) 364150
  unfold stewardBroadcast
  split
  · next t _ =>
    dsimp only
    rw [ef]
    refine ⟨_, _, _, by rw [e]; rfl, fun t' => ?_⟩
    rw [queueOut_core, ← hc t']
    rfl
  · exact ⟨_, _, _, rfl, fun _ => rfl⟩

@[simp] theorem stewardBroadcast_core (t : Nat) : (tileOf (stewardBroadcast s) t).core = (tileOf s t).core := by
  obtain ⟨_, _, _, -, h⟩ := stewardBroadcast_shape s
  exact h t

@[simp] theorem stewardBroadcast_mem : (stewardBroadcast s).mem = s.mem := by
  obtain ⟨_, _, _, e, -⟩ := stewardBroadcast_shape s
  rw [e]

@[simp] theorem stewardBroadcast_regions : (stewardBroadcast s).regions = s.regions := by
  obtain ⟨_, _, _, e, -⟩ := stewardBroadcast_shape s
  rw [e]

@[simp] theorem stewardBroadcast_steward : (stewardBroadcast s).steward = s.steward := by
  obtain ⟨_, _, _, e, -⟩ := stewardBroadcast_shape s
  rw [e]

/-- An update of a region that keeps its binding keeps every region's binding. -/
theorem updRegion_binding (p q : Nat) {f : Region → Region} (h : ∀ r, (f r).binding = r.binding) :
    (regionOfNo (updRegion s p f) q).binding = (regionOfNo s q).binding := by
  by_cases e : q = p
  · subst e; rw [regionOfNo_updRegion_same, h]
  · rw [regionOfNo_updRegion_ne _ _ e]

end Sys2Proof.Proofs
end

section
/-! PROOFS. The steps of BRINGUP (R438): what each command of chapter 15 does where its step has come. -/

namespace Sys2Proof.Proofs

open Sys2Proof.Machine Sys2Proof.Laws

variable {s : State}

theorem bringupRuns_iff : bringupRuns s = true ↔
    eyepieceRuns s = true ∧ s.dev.st = .bringup ∧ s.clock.holdStep = 0 ∧ s.clock.locked = true := by
  simp [bringupRuns, and_assoc]

/-- A command whose trigger holds answers the branch of its work. -/
theorem next_neg {c : Prop} [Decidable c] {a b : State} (h : ¬c) : (.next (if c then a else b) : Res) = .next b := by
  rw [if_neg h]

/-! Steps 1 to 5. -/

/-- From AUX the BRINGUP begins as the reset that is held asks for, or cold (R5, R437). -/
theorem bringupStart_aux {sel : Nat} {fails : List (Nat × Nat)} (he : eyepieceRuns s = true) (hr : s.dev.rstHigh = true)
    (hl : s.clock.locked = true) (hs : s.dev.st = .aux) (hv : s.power.vinOk = true) (ht : s.power.tripped = false) :
    let u := beginBringup s (s.dev.heldReset.getD .cold)
    exec (.bringupStart sel fails) s =
      .next (selectImage { u with dev := { u.dev with stagesOffWait := false } } sel fails) := by
  change execBringupStart sel fails s = _
  simp only [execBringupStart, he, hr, hl, hs, hv, ht, Bool.not_true, Bool.not_false, Bool.or_self, Bool.and_self,
    Bool.false_eq_true, if_false, if_true]

/-- In a BRINGUP that a reset began, the image is selected once the stages have been off long enough (R436). -/
theorem bringupStart_reset {sel : Nat} {fails : List (Nat × Nat)} (hb : bringupRuns s = true) (h1 : s.dev.bringupStep = 1)
    (hr : s.dev.rstHigh = true) (hw : s.dev.stagesOffWait = false) :
    exec (.bringupStart sel fails) s = .next (selectImage s sel fails) := by
  obtain ⟨he, hs, -, hl⟩ := bringupRuns_iff.mp hb
  change execBringupStart sel fails s = _
  simp [execBringupStart, he, hr, hl, hs, hb, h1, hw]

theorem powerStep_mem (s : State) (p : Nat) : (powerStep s p).mem = s.mem := by
  unfold powerStep
  dsimp only
  repeat' split
  all_goals rfl

theorem fieldGroupPower_next {f : Nat} (hb : bringupRuns s = true) (h3 : s.dev.bringupStep = 3) (hf : f = s.dev.nextGroup)
    (hlt : f < 48) : ∃ u, exec (.fieldGroupPower f) s = .next u ∧ u.dev.nextGroup = f + 1 ∧
      smGet u.recov.fieldFenced f = none ∧ u.mem = s.mem ∧ u.regions = ((fieldRegions f).foldl powerStep s).regions := by
  have hc : ¬(!bringupRuns s || s.dev.bringupStep ≠ 3 || f ≠ s.dev.nextGroup || f ≥ 48) = true := by
    simp [hb, h3, ← hf, hlt]
  refine ⟨_, next_neg hc, rfl, ?_, ?_, ?_⟩ <;> dsimp only
  · exact smGet_smDel_same _ f
  · exact foldl_keep State.mem powerStep_mem _ s

theorem groupCalibrate_next {f : Nat} {cals : List CrossingCal} (hb : bringupRuns s = true) (h3 : s.dev.bringupStep = 3)
    (hf : f = s.dev.nextCal) (hlt : f < s.dev.nextGroup) : ∃ u, exec (.groupCalibrate f cals) s = .next u ∧
      u.dev.nextCal = f + 1 ∧ u.dev.bringupStep = (if f = 47 then 5 else 3) ∧
      u.regions = (calibrateGroup s f cals).regions ∧ u.tiles = (calibrateGroup s f cals).tiles := by
  have hc : ¬(!bringupRuns s || s.dev.bringupStep ≠ 3 || f ≠ s.dev.nextCal || s.dev.nextGroup ≤ f) = true := by
    simp [hb, h3, ← hf, hlt]
  exact ⟨_, next_neg hc, rfl, rfl, rfl, rfl⟩

theorem monitorBroadcast_next {march : List (Nat × Nat × Nat × Nat)} {lost : List (Nat × Nat × Nat)}
    (hb : bringupRuns s = true) (h5 : s.dev.bringupStep = 5) :
    let u := (trainingRegions s).foldl (monitorRegion march lost) s
    exec (.monitorBroadcast march lost) s = .next (trainPorts { u with dev := { u.dev with bringupStep := 6 } }) := by
  have hc : ¬(!bringupRuns s || s.dev.bringupStep ≠ 5) = true := by simp [hb, h5]
  exact next_neg hc

/-- T0 starts at address 0 and runs (R445). -/
theorem startT0_slot (s : State) (t : Nat) (h : 0 < (tileOf s t).core.slots.length) :
    (slotAt (tileOf (startT0 s t) t).core 0).pc = 0 ∧ (tileOf (startT0 s t) t).core.cur = 0 ∧
      (slotAt (tileOf (startT0 s t) t).core 0).st = .running := by
  rw [startT0, tileOf_updCore_same]
  simp [runSlot, updSlot, slotAt, h]

/-- The monitor stands in the tile's scratchpad and T0 runs it (R445). -/
theorem startMonitor_slot (s : State) (t : Nat) (h : (tileOf s t).core.slots.length = 4) :
    (slotAt (tileOf (startMonitor s t) t).core 0).pc = 0 ∧ (tileOf (startMonitor s t) t).core.cur = 0 ∧
      (slotAt (tileOf (startMonitor s t) t).core 0).st = .running ∧
      readSpad (startMonitor s t) t 0 s.boot.monitor.length = s.boot.monitor := by
  obtain ⟨hpc, hcur, hst⟩ := startT0_slot (writeSpad s t 0 s.boot.monitor) t (by rw [writeSpad_slots, h]; decide)
  exact ⟨hpc, hcur, hst, readSpad_writeSpad s t 0 s.boot.monitor⟩

/-! Steps 6 and 7. -/

/-- Step 6 waits for region `p`: it is to train and has not (R447, R448). -/
structure Untrained (s : State) (p : Nat) : Prop where
  runs : bringupRuns s = true
  step : s.dev.bringupStep = 6
  region : p < regionCount
  st : (regionOfNo s p).st = .training
  retraining : (regionOfNo s p).retraining = false
  full : (regionOfNo s p).trainedFull = false
  short : (regionOfNo s p).shortPassed = false

theorem Untrained.ready {p : Nat} (h : Untrained s p) :
    ¬(!bringupRuns s || s.dev.bringupStep ≠ 6 || p ≥ regionCount || (regionOfNo s p).st ≠ .training
        || (regionOfNo s p).retraining || (regionOfNo s p).trainedFull || (regionOfNo s p).shortPassed) = true := by
  obtain ⟨hb, h6, hp, hst, hr, hf, hs⟩ := h
  simp [hb, h6, hp, hst, hr, hf, hs]

section
variable {p : Nat} {defective : List Nat} {spares : List (Nat × Nat × Nat)} {pass : Bool}

theorem regionTraining_full (h : Untrained s p) (hf : s.dev.fullTraining = true ∨ (regionOfNo s p).lostInKat = true)
    (full : Bool) : exec (.regionTraining p full defective spares pass) s = .next (fullTraining s p defective spares pass) := by
  have hs : startsFull s p = true := by simpa [startsFull] using hf
  exact congrArg Host.Outcome.next ((if_neg h.ready).trans (if_pos hs))

theorem regionTraining_passed (h : Untrained s p) (hf : s.dev.fullTraining = false)
    (hk : (regionOfNo s p).lostInKat = false) (hr : ∀ x, savedRecord s = some x → p ∉ x.failed)
    (hd : (regionOfNo s p).defect = []) (hb : sidesBad s p = false) :
    exec (.regionTraining p false [] spares pass) s = .next (updRegion s p fun r => { r with shortPassed := true }) := by
  have hs : ¬startsFull s p = true := by simp [startsFull, hf, hk]
  refine congrArg Host.Outcome.next ((if_neg h.ready).trans ((if_neg hs).trans (if_neg ?_)))
  cases hx : savedRecord s with
  | none => simp [hd, hb]
  | some x => simp [hd, hb, hr x hx]

theorem regionTraining_failed (h : Untrained s p) (hf : s.dev.fullTraining = false)
    (hk : (regionOfNo s p).lostInKat = false) : exec (.regionTraining p true defective spares pass) s =
      .next (fullTraining (logEvent { s with boot := { s.boot with trainingUsed := 2 } } 0x0803 1 p 0) p defective spares
        pass) := by
  have hs : ¬startsFull s p = true := by simp [startsFull, hf, hk]
  exact congrArg Host.Outcome.next ((if_neg h.ready).trans ((if_neg hs).trans (if_pos (by simp))))
end

theorem knownAnswerRun_next {results again : List (Nat × Nat)} (hb : bringupRuns s = true) (h6 : s.dev.bringupStep = 6)
    (ht : ∀ x ∈ trainingRegions s, (regionOfNo s x).trainedFull = true ∨ (regionOfNo s x).shortPassed = true) :
    ∃ u, exec (.knownAnswerRun results again) s = .next u ∧ u.dev.bringupStep = 8 ∧
      u.regions = ((trainingRegions s).foldl (katRegion results again) s).regions ∧
      u.mem = ((trainingRegions s).foldl (katRegion results again) s).mem := by
  have hc : ¬(!bringupRuns s || s.dev.bringupStep ≠ 6
      || !((trainingRegions s).all fun p => (regionOfNo s p).trainedFull || (regionOfNo s p).shortPassed)) = true := by
    simpa [hb, h6, or_iff_not_imp_left] using ht
  exact ⟨_, next_neg hc, rfl, rfl, rfl⟩

/-! Step 8: the steward pair (R300). -/

theorem choosePrimary_mem {ps : List Nat} {a : Nat} (h : choosePrimary ps = some a) : a ∈ ps := by
  unfold choosePrimary at h
  split at h
  · next hf => cases h; exact List.mem_of_find?_eq_some hf
  · exact List.mem_of_getLast? h

theorem chooseStandby_ne {ps : List Nat} {a b : Nat} (h : chooseStandby ps a = some b) : b ≠ a := by
  unfold chooseStandby at h
  dsimp only at h
  split at h
  · next hf =>
    cases h
    have hm := choosePrimary_mem hf
    rintro rfl
    simp at hm
  · simpa using List.of_mem_filter (List.mem_of_getLast? h)

theorem bindSteward_binding (s : State) (p b : Nat) : (regionOfNo (bindSteward s p b) p).binding = b := by
  rw [bindSteward, regionOfNo_updRegion_same]

/-- The region that becomes primary is bound and Periscope runs (R300). -/
def takePrimary (s : State) (a : Nat) : State :=
  { bindSteward s a 0xFFFE with steward := { s.steward with primary := a, running := true } }

/-- The region that becomes standby is bound, if one is left for it (R300). -/
def takeStandby (s : State) : State :=
  match chooseStandby (freshRegions s) s.steward.primary with
  | none => s
  | some b =>
    { bindSteward s b 0xFFFD with steward := { s.steward with standby := b, standbyCommits := s.steward.commits } }

/-- The other HEALTHY regions enter RESERVE (R300). -/
def fillReserve (s : State) : State :=
  (freshRegions s).foldl (fun s p => updRegion s p fun r => { r with
    role := .reserve, st := if r.st = .healthy then .reserve else r.st }) s

@[simp] theorem takeStandby_mem (s : State) : (takeStandby s).mem = s.mem := by
  unfold takeStandby
  split <;> rfl

@[simp] theorem takeStandby_tiles (s : State) : (takeStandby s).tiles = s.tiles := by
  unfold takeStandby
  split <;> rfl

@[simp] theorem takeStandby_running (s : State) : (takeStandby s).steward.running = s.steward.running := by
  unfold takeStandby
  split <;> rfl

@[simp] theorem takeStandby_primary (s : State) : (takeStandby s).steward.primary = s.steward.primary := by
  unfold takeStandby
  split <;> rfl

/-- The standby takes a binding of its own and leaves the other regions' (R299, R300). -/
theorem takeStandby_bindings (s : State) (q : Nat) :
    (q = s.steward.primary → (regionOfNo (takeStandby s) q).binding = (regionOfNo s q).binding) ∧
    (s.steward.standby = 0xFFFF → (takeStandby s).steward.standby = q → q ≠ 0xFFFF →
      (regionOfNo (takeStandby s) q).binding = 0xFFFD) := by
  have hreg (b : Nat) (v : Steward) : regionOfNo { bindSteward s b 0xFFFD with steward := v } q =
      regionOfNo (bindSteward s b 0xFFFD) q := rfl
  unfold takeStandby
  split
  · exact ⟨fun _ => rfl, fun h0 h hq => absurd (h.symm.trans h0) hq⟩
  · next b hb =>
    rw [hreg]
    refine ⟨fun hp => ?_, fun _ h _ => ?_⟩
    · rw [bindSteward, regionOfNo_updRegion_ne _ _ (hp ▸ (chooseStandby_ne hb).symm)]
    · rw [← h, bindSteward_binding]

@[simp] theorem fillReserve_steward (s : State) : (fillReserve s).steward = s.steward :=
  foldl_keep State.steward (fun u p => updRegion_steward u p _) _ s

@[simp] theorem fillReserve_mem (s : State) : (fillReserve s).mem = s.mem :=
  foldl_keep State.mem (fun u p => updRegion_mem u p _) _ s

@[simp] theorem fillReserve_tiles (s : State) : (fillReserve s).tiles = s.tiles :=
  foldl_keep State.tiles (fun u p => updRegion_tiles u p _) _ s

theorem fillReserve_binding (s : State) (q : Nat) :
    (regionOfNo (fillReserve s) q).binding = (regionOfNo s q).binding :=
  foldl_keep (fun u => (regionOfNo u q).binding) (fun u p => updRegion_binding u p q (f := fun r => { r with
    role := .reserve, st := if r.st = .healthy then .reserve else r.st }) fun _ => rfl) _ s

/-- The pair bound, the reserve filled, the tables broadcast (R300). -/
def startPair (s : State) (a : Nat) : State := stewardBroadcast (fillReserve (takeStandby (takePrimary s a)))

theorem startPair_mem (s : State) (a : Nat) : (startPair s a).mem = s.mem := by
  rw [startPair, stewardBroadcast_mem, fillReserve_mem, takeStandby_mem]; rfl

theorem startPair_core (s : State) (a t : Nat) : (tileOf (startPair s a) t).core = (tileOf s t).core := by
  rw [startPair, stewardBroadcast_core, tileOf, fillReserve_tiles, takeStandby_tiles]; rfl

theorem startPair_steward (s : State) (a : Nat) :
    (startPair s a).steward = (takeStandby (takePrimary s a)).steward := by
  rw [startPair, stewardBroadcast_steward, fillReserve_steward]

theorem startPair_binding (s : State) (a q : Nat) :
    (regionOfNo (startPair s a) q).binding = (regionOfNo (takeStandby (takePrimary s a)) q).binding := by
  rw [startPair, regionOfNo, stewardBroadcast_regions]
  exact fillReserve_binding _ q

/-- STEWARD_START where no steward runs and a primary can be chosen (R300). -/
theorem stewardStart_next {x : Nat} (hb : bringupRuns s = true) (h8 : s.dev.bringupStep = 8)
    (hr : s.steward.running = false) (hs : s.steward.standby = 0xFFFF) (hx : choosePrimary (freshRegions s) = some x) :
    exec .stewardStart s =
      .next { startPair s x with dev := { (startPair s x).dev with bringupStep := 9 } } := by
  have hc : ¬(!bringupRuns s || s.dev.bringupStep ≠ 8) = true := by simp [hb, h8]
  refine (next_neg hc).trans (congrArg Host.Outcome.next ?_)
  extract_lets -underBinder -merge -useContext +onlyGivenNames s1 s2 s3 s4
  have e1 : s1 = takePrimary s x := by simp only [s1, hr, hx, Bool.false_eq_true, if_false, takePrimary]
  have e2 : s2 = takeStandby (takePrimary s x) := by
    have hc : ¬(!s1.steward.running || s1.steward.standby ≠ 0xFFFF) = true := by simp [e1, takePrimary, hs]
    rw [← e1]
    exact if_neg hc
  have hrun : s2.steward.running = true := by rw [e2, takeStandby_running]; rfl
  have e3 : s3 = fillReserve s2 := if_pos hrun
  have e4 : s4 = stewardBroadcast s3 := if_pos (by rw [e3, fillReserve_steward, hrun])
  rw [e4, e3, e2, startPair]

/-- The pair that STEWARD_START binds, and what it leaves (R299, R300). -/
theorem stewardStart_pair {x : Nat} (y : Nat) (hb : bringupRuns s = true) (h8 : s.dev.bringupStep = 8)
    (hr : s.steward.running = false) (hs : s.steward.standby = 0xFFFF) (hx : choosePrimary (freshRegions s) = some x) :
    ∃ u, exec .stewardStart s = .next u ∧ u.dev.bringupStep = 9 ∧ u.steward.running = true ∧ u.steward.primary = x ∧
      (regionOfNo u x).binding = 0xFFFE ∧ u.mem = s.mem ∧ (∀ t, (tileOf u t).core = (tileOf s t).core) ∧
      (u.steward.standby = y → y ≠ 0xFFFF → y ≠ x → (regionOfNo u y).binding = 0xFFFD) := by
  obtain ⟨hkept, -⟩ := takeStandby_bindings (takePrimary s x) x
  obtain ⟨-, hnew⟩ := takeStandby_bindings (takePrimary s x) y
  have hbound : (regionOfNo (takePrimary s x) x).binding = 0xFFFE :=
    bindSteward_binding s x 0xFFFE
  have hstart := stewardStart_next hb h8 hr hs hx
  have hmem := startPair_mem s x
  have hcore := startPair_core s x
  have hst := startPair_steward s x
  have hbind := startPair_binding s x
  generalize startPair s x = v at *
  refine ⟨_, hstart, rfl, ?_, ?_, ?_, hmem, hcore, fun hy h1 _ => ?_⟩
  · exact (congrArg Steward.running hst).trans (takeStandby_running _)
  · exact (congrArg Steward.primary hst).trans (takeStandby_primary _)
  · exact (hbind x).trans ((hkept rfl).trans hbound)
  · exact (hbind y).trans (hnew hs ((congrArg Steward.standby hst).symm.trans hy) h1)

/-! Step 9: the ready criteria (R451). -/

section
variable {images : List (Nat × Bundle)}

/-- BRINGUP stands at its last step (R438). -/
structure LastStep (s : State) : Prop where
  runs : eyepieceRuns s = true
  st : s.dev.st = .bringup
  step : s.dev.bringupStep = 9

theorem LastStep.ready (h : LastStep s) :
    ¬(!eyepieceRuns s || s.dev.st ≠ .bringup || s.dev.bringupStep ≠ 9) = true := by
  obtain ⟨he, hs, h9⟩ := h
  simp [he, hs, h9]

/-- A condition that ranks before KEEP-ALIVE is taken first (R6). -/
theorem readyCriteria_outranked (h : LastStep s) (ho : outranked s = true) :
    exec (.readyCriteria images) s = .next (decideState s) :=
  congrArg Host.Outcome.next ((if_neg h.ready).trans (if_pos ho))

theorem readyCriteria_unrecoverable (h : LastStep s) (ho : outranked s = false) (hu : unrecoverable s = true) :
    exec (.readyCriteria images) s = .next (enterFault s) :=
  congrArg Host.Outcome.next ((if_neg h.ready).trans ((if_neg (by simp [ho])).trans (if_pos hu)))

/-- With no cause of FAULT and a reference, the healthy regions decide (R451). -/
theorem readyCriteria_clocked (h : LastStep s) (ho : outranked s = false) (hu : unrecoverable s = false)
    (hl : s.clock.locked = true) (h0 : s.clock.holdStep = 0) : exec (.readyCriteria images) s = .next (
      if s.steward.running && healthyCount s ≥ dnum s 0x2000 5 4544 then reachReady s images
      else if !s.dev.retrainUsed && secondChance s ≠ [] then retrainLost s
      else enterKeepAlive s) :=
  congrArg Host.Outcome.next ((if_neg h.ready).trans ((if_neg (by simp [ho])).trans ((if_neg (by simp [hu])).trans
    (if_neg (by simp [hl, h0])))))
end

/-- Settles O58: each step of BRINGUP by the lemma of its command, in the order of R438. -/
theorem bringupSteps : Obligations.BringupSteps := by
  intro s sel f p fails cals march lost spares results again defective images pass at_ r ps untrained last tested enough clocked
  have hun : untrained → Untrained s p := fun ⟨⟨hb, h6⟩, hp, hst, hr, hf, hs⟩ => ⟨hb, h6, hp, hst, hr, hf, hs⟩
  have hlast : last → LastStep s := fun ⟨he, hs, h9⟩ => ⟨he, hs, h9⟩
  refine ⟨bringupStart_aux, ?_, fun _ _ => rfl, ?_, ?_, ?_, fun t _ => startMonitor_slot s t, ?_, ?_, ?_, ?_, ?_, ?_, ?_, ?_,
    ?_, ?_⟩
  · exact fun ⟨hb, h1⟩ => bringupStart_reset hb h1
  · exact fun ⟨hb, h3⟩ => fieldGroupPower_next hb h3
  · exact fun ⟨hb, h3⟩ => groupCalibrate_next hb h3
  · exact fun ⟨hb, h5⟩ => monitorBroadcast_next hb h5
  · exact fun h hf => regionTraining_full (hun h) hf true
  · exact fun h => regionTraining_passed (hun h)
  · exact fun h => regionTraining_failed (hun h)
  · exact fun ⟨hb, h6⟩ => knownAnswerRun_next hb h6
  · exact fun ⟨hb, h8⟩ hr hs x y hx => stewardStart_pair y hb h8 hr hs hx
  · exact fun h => readyCriteria_outranked (hlast h)
  · exact fun ⟨h, ho⟩ => readyCriteria_unrecoverable (hlast h) ho
  · intro ⟨h, ho⟩ hu ⟨hl, h0⟩ ⟨hr, hn⟩
    rw [readyCriteria_clocked (hlast h) ho hu hl h0, if_pos (by simp [hr, hn])]
  · intro ⟨h, ho⟩ hu ⟨hl, h0⟩ hn hused hsec
    rw [readyCriteria_clocked (hlast h) ho hu hl h0, if_neg (by simpa [enough] using hn), if_pos (by simp [hused, hsec])]
  · intro ⟨h, ho⟩ hu ⟨hl, h0⟩ hn hno
    have hno' : ¬(!s.dev.retrainUsed && secondChance s ≠ []) = true := by
      obtain hused | hsec := hno
      · simp [hused]
      · simp [hsec]
    rw [readyCriteria_clocked (hlast h) ho hu hl h0, if_neg (by simpa [enough] using hn), if_neg hno']

end Sys2Proof.Proofs
end

section
/-! PROOFS. The block as a whole: its step and its reset state (R12, R71). -/

namespace Sys2Proof.Proofs

open Sys2Proof.Machine Sys2Proof.Laws

/-- Settles O1: by the two cases of the queue; no word spells a command. -/
theorem stepRunsFrontCommand : Obligations.StepRunsFrontCommand := by
  refine ⟨fun s c rest h => ?_, fun s h => ?_, fun _ _ _ => ⟨rfl, rfl⟩⟩
  · rw [step, h]
  · rw [step, h]

/-- At reset no tile is listed, so each has the default of every register (R71). -/
theorem tileOf_reset (t : Nat) : tileOf State.reset t = {} := rfl

theorem memRead_reset (a : Nat) : memRead State.reset.mem a = 0 := rfl

/-- Settles O2: the registers of a tile that reset does not list, and the reset state's memory, queue and device state. -/
theorem resetColumnOfTiles : Obligations.ResetColumnOfTiles := by
  refine ⟨fun t => ?_, memRead_reset, rfl, rfl⟩
  rw [tileOf_reset]
  decide

end Sys2Proof.Proofs
end

section
/-! PROOFS. What the device transitions of R5 leave of a state: the scan at entry to AUX, the ports, the stages. -/

namespace Sys2Proof.Proofs

open Sys2Proof.Machine Sys2Proof.Laws

/-- `t` is `s` but for what the Eyepiece notes and announces: the log and its queues, the alerts, the store, the dictionary, the
boot state, the beam links and the fabric. -/
structure Aside (s t : State) : Prop where
  dev : ∃ al, t.dev = { s.dev with alert := al }
  power : t.power = s.power
  clock : t.clock = s.clock
  time : t.time = s.time
  steward : t.steward = s.steward
  regions : t.regions = s.regions
  tiles : t.tiles = s.tiles
  mem : t.mem = s.mem

/-- A record update of fields that are no part of it. -/
theorem Aside.update (s : State) {beam : Beam} {sig : Signals} {dict : Dict} {log : EventLog} {store : Store} {boot : Boot}
    {fabric : Fabric} {out : List Out} : Aside s { s with
      beam := beam, sig := sig, dict := dict, log := log, store := store, boot := boot, fabric := fabric, out := out } :=
  ⟨⟨_, rfl⟩, rfl, rfl, rfl, rfl, rfl, rfl, rfl⟩

theorem Aside.rfl {s : State} : Aside s s := .update s

theorem Aside.trans {s t u : State} (h : Aside s t) (k : Aside t u) : Aside s u := by
  obtain ⟨a, ha⟩ := h.dev
  obtain ⟨b, hb⟩ := k.dev
  exact ⟨⟨b, by rw [hb, ha]⟩, k.power.trans h.power, k.clock.trans h.clock, k.time.trans h.time,
    k.steward.trans h.steward, k.regions.trans h.regions, k.tiles.trans h.tiles, k.mem.trans h.mem⟩

theorem Aside.st {s t : State} (h : Aside s t) : t.dev.st = s.dev.st := by
  obtain ⟨_, e⟩ := h.dev
  rw [e]

theorem Aside.pairs {s t : State} (h : Aside s t) : t.dev.pairs = s.dev.pairs := by
  obtain ⟨_, e⟩ := h.dev
  rw [e]

/-- A fold of steps that each only note and announce. -/
theorem Aside.foldl {α : Type} {f : State → α → State} (h : ∀ s a, Aside s (f s a)) (l : List α) (s : State) :
    Aside s (l.foldl f s) := by
  induction l generalizing s with
  | nil => exact .rfl
  | cons a l ih => exact (h s a).trans (ih _)

variable (s : State)

theorem logAt_aside (tb source code sev a b : Nat) (late : Bool) : Aside s (logAt s tb source code sev a b late) := by
  obtain ⟨_, _, _, e⟩ := logAt_shape s tb source code sev a b late
  rw [e]
  exact .update s

theorem logEvent_aside (code sev a b : Nat) : Aside s (logEvent s code sev a b) := logAt_aside s _ _ _ _ _ _ _

theorem setAlert_aside (k : Nat) : Aside s (setAlert s k) := ⟨⟨_, rfl⟩, rfl, rfl, rfl, rfl, rfl, rfl, rfl⟩

/-! Ports (R335, R339). -/

theorem updPort_aside (p : Nat) (f : Port → Port) : Aside s (updPort s p f) := .update s

theorem beamLink_aside (p : Nat) (up : Bool) : Aside s (beamLink s p up) := by
  have hbeam (b : Beam) (a : Nat) : Aside s (logSource { s with beam := b } (0x10 + p) 0x0203 1 p a) :=
    (Aside.update s).trans (logAt_aside { s with beam := b } _ _ _ _ _ _ _)
  unfold beamLink
  split
  · dsimp only
    split
    · exact hbeam _ _
    · split
      · exact hbeam _ _
      · exact .rfl
  · exact .rfl

theorem setPort_aside (p st cause : Nat) : Aside s (setPort s p st cause) := by
  unfold setPort
  extract_lets -underBinder -merge -useContext +onlyGivenNames old s1 s2 s3
  have h1 : Aside s s1 := updPort_aside s _ _
  have h2 : Aside s1 s2 := logAt_aside _ _ _ _ _ _ _ _
  have h3 : Aside s2 s3 := by
    unfold s3
    split
    · exact setAlert_aside _ _
    · exact .rfl
  split
  · exact h1
  · exact h1.trans (h2.trans (h3.trans (beamLink_aside _ _ _)))

theorem idlePorts_aside : Aside s (idlePorts s) :=
  Aside.foldl (fun u p => by
    split
    · exact setPort_aside u _ _ _
    · exact .rfl) _ s

/-! The scan at entry to AUX (R428, R429, R452). -/

theorem storeFails_aside (i sub : Nat) : Aside s (storeFails s i sub) := by
  unfold storeFails
  exact (Aside.update s).trans ((logEvent_aside _ _ _ _ _).trans (setAlert_aside _ _))

theorem compact_aside : Aside s (compact s) := by
  unfold compact
  split
  · exact storeFails_aside s 0 0
  · exact .update _

@[simp] theorem compact_boot : (compact s).boot = s.boot := by
  unfold compact
  split
  · rw [storeFails, setAlert_boot, logEvent_boot]
  · rfl

theorem scanStore_aside : Aside s (scanStore s) := .update _

theorem readRoutes_aside : Aside s (readRoutes s) := .update s

theorem auxScan_aside : Aside s (auxScan s) := by
  unfold auxScan
  extract_lets -underBinder -merge -useContext +onlyGivenNames b s1 s2 d
  have h1 : Aside s s1 := .update _
  have h2 : Aside s1 s2 := by
    unfold s2
    split
    · exact (scanStore_aside _).trans (readRoutes_aside _)
    · exact (compact_aside _).trans ((scanStore_aside _).trans (readRoutes_aside _))
  exact h1.trans (h2.trans (Aside.update s2))

theorem auxScan_serving : (auxScan s).dict.serving = true := by
  unfold auxScan
  dsimp only

theorem auxScan_identity : (auxScan s).boot.identity = Config.identityKeys Config.identitySeed := by
  have hboot (u : State) : (readRoutes (scanStore u)).boot = u.boot := rfl
  unfold auxScan
  dsimp only
  rw [hboot]
  split
  · rfl
  · rw [compact_boot]

/-! The straps (R190, R191, R435). -/

theorem sampleStraps_dev (x : Straps) :
    (sampleStraps s x).dev = { s.dev with clksel := x.clksel, nodeId := x.nodeId % 128 } := by
  unfold sampleStraps
  split <;> (dsimp only; split <;> simp)

/-- Another source starts from the trimmed oscillator, the same one goes on. -/
theorem sampleStraps_clock (x : Straps) : (sampleStraps s x).clock =
    if x.clksel = s.dev.clksel then s.clock else { s.clock with
      source := 1, present := x.sourcePresent, locked := false, qualified := false, lost := false, lastWindow := 0,
      agree := 0 } := by
  unfold sampleStraps
  split <;> (dsimp only; split <;> simp [*])

/-- The straps change the device and the clock, and may be noted in the log. -/
theorem sampleStraps_frame (x : Straps) : (sampleStraps s x).power = s.power ∧ (sampleStraps s x).time = s.time ∧
    (sampleStraps s x).dict = s.dict ∧ (sampleStraps s x).boot = s.boot ∧ (sampleStraps s x).regions = s.regions ∧
    (sampleStraps s x).mem = s.mem := by
  unfold sampleStraps
  split <;> (dsimp only; split <;> simp)

end Sys2Proof.Proofs
end

section
/-! PROOFS. The supplies, the breaker and the bus converters (R468 to R470, R475). -/

namespace Sys2Proof.Proofs

open Sys2Proof.Machine Sys2Proof.Laws

/-! Every stage off (R318, R479). -/

theorem closeHot_shape (s : State) : ∃ st, closeHot s = { s with store := st, power := { s.power with hotSince := none } } := by
  unfold closeHot
  split
  · next h => exact ⟨s.store, by rw [← h]⟩
  · exact ⟨_, rfl⟩

theorem allOff_power (s : State) : (allOff s).power = { s.power with hotSince := none } := by
  obtain ⟨_, e⟩ := closeHot_shape (stagesOff (dropRecovery (stopRuntime s)))
  rw [allOff, e]
  rfl

theorem allOff_stageOn (s : State) : ∀ e ∈ (allOff s).regions, e.2.stageOn = false := by
  obtain ⟨_, h⟩ := closeHot_shape (stagesOff (dropRecovery (stopRuntime s)))
  rw [allOff, h]
  intro e he
  obtain ⟨_, -, rfl⟩ := List.mem_map.mp he
  rfl

/-- AUX entered as VIN_54 leaves its range: every stage goes off, the breaker opens, then the straps are sampled (R435, R475). -/
theorem enterAux_shape (s : State) (x : Straps) : ∃ u v, enterAux s x = sampleStraps v x ∧
    Aside (enterState (allOff u) .aux) v ∧ u.power = { s.power with breaker := false, bus := 0 } :=
  ⟨_, _, rfl, (idlePorts_aside _).trans (auxScan_aside _), rfl⟩

theorem enterAux_facts (s : State) (x : Straps) : (enterAux s x).dev.st = .aux ∧ (enterAux s x).power.vinOk = s.power.vinOk ∧
    (enterAux s x).power.breaker = false ∧ (enterAux s x).dev.clksel = x.clksel ∧
    ∀ e ∈ (enterAux s x).regions, e.2.stageOn = false := by
  obtain ⟨u, v, e, hv, hu⟩ := enterAux_shape s x
  have hst : v.dev.st = .aux := hv.st.trans (enterState_st _ _)
  have hpower : v.power = { s.power with breaker := false, bus := 0, hotSince := none } := by
    rw [hv.power, enterState_power, allOff_power, hu]
  have hregions : v.regions = (allOff u).regions := by rw [hv.regions, enterState_regions]
  obtain ⟨hp, -, -, -, hr, -⟩ := sampleStraps_frame v x
  rw [e, sampleStraps_dev, hp, hr, hpower, hregions]
  exact ⟨hst, rfl, rfl, rfl, allOff_stageOn u⟩

/-! The auxiliary supply (R468). -/

@[simp] theorem enterState_pairs (s : State) (n : DevState) : (enterState s n).dev.pairs = s.dev.pairs := by
  unfold enterState
  dsimp only
  split
  all_goals
    split <;> simp [setAlert]

/-- The supply's return: OFF becomes AUX, the store is scanned, then the straps are sampled (R438). -/
theorem auxSupplyInRange_shape {s : State} {vin : Nat} (x : Straps) (hs : s.dev.st = .off) (hv : 32000 ≤ vin) :
    ∃ u v, exec (.auxSupplyInRange x vin) s = .next (sampleStraps v x) ∧ Aside (enterState u .aux) v ∧
      v.dict.serving = true ∧ v.boot.identity = Config.identityKeys Config.identitySeed ∧
      u.dev.pairs = [true, true] ∧ u.time.tb = 0 ∧ u.mem = s.mem ∧
      u.clock.source = 1 ∧ u.clock.locked = false ∧ u.clock.present = x.sourcePresent := by
  have hc : ¬(s.dev.st ≠ .off || vin < 32000) = true := by simp [hs, hv]
  refine ⟨_, _, next_neg hc, (auxScan_aside _).trans (setAlert_aside _ _), ?_, ?_, rfl, rfl, rfl, rfl, rfl, rfl⟩
  · rw [setAlert_dict, auxScan_serving]
  · rw [setAlert_boot, auxScan_identity]

theorem auxSupplyInRange_next {s : State} {vin : Nat} (x : Straps) (hs : s.dev.st = .off) (hv : 32000 ≤ vin) :
    ∃ u, exec (.auxSupplyInRange x vin) s = .next u ∧ u.dev.st = .aux ∧
      u.dev.clksel = x.clksel ∧ u.dev.nodeId = x.nodeId % 128 ∧ u.dev.pairs = [true, true] ∧ u.time.tb = 0 ∧
      u.clock.source = 1 ∧ u.clock.locked = false ∧ u.clock.present = x.sourcePresent ∧ u.dict.serving = true ∧
      u.boot.identity = Config.identityKeys Config.identitySeed ∧ u.mem = s.mem := by
  obtain ⟨u, v, e, ha, hserving, hkeys, hpairs, htb, hmem, hsource, hlocked, hpresent⟩ := auxSupplyInRange_shape x hs hv
  have hclock : v.clock = u.clock := by rw [ha.clock, enterState_clock]
  obtain ⟨-, ht, hd, hb, -, hm⟩ := sampleStraps_frame v x
  refine ⟨_, e, ?_⟩
  rw [sampleStraps_dev, sampleStraps_clock, ht, hd, hb, hm, hclock, ha.time, ha.mem, enterState_time, enterState_mem]
  refine ⟨ha.st.trans (enterState_st _ _), rfl, rfl, ha.pairs.trans ((enterState_pairs _ _).trans hpairs), htb, ?_, ?_, ?_,
    hserving, hkeys, hmem⟩
  · split
    · exact hsource
    · rfl
  · split
    · exact hlocked
    · rfl
  · split
    · exact hpresent
    · rfl

/-- A record without its COMMIT, where there is room for it (R427, R428). -/
theorem tearStore_record_eq (s : State) (i j : Nat) (b : List Byte) : ∃ r, r.commit = blankWord ∧
    tearStore s (.record i j b) = if isRws i j && hasRoom s r then
      setBank s (activeBank s) { theBank s with recs := (theBank s).recs ++ [r] } else s :=
  ⟨_, rfl, rfl⟩

theorem tearStore_shape (s : State) (x : Torn) : ∃ st, tearStore s x = { s with store := st } := by
  cases x with
  | record i j b =>
    obtain ⟨r, -, e⟩ := tearStore_record_eq s i j b
    rw [e]
    split <;> exact ⟨_, rfl⟩
  | _ => exact ⟨_, rfl⟩

/-- A write of flash cut short changes the store or a copy of the training record (R428, R447). -/
theorem tearFlash_shape (s : State) (x : Torn) : ∃ st a b, tearFlash s x = { s with
    store := st, boot := { s.boot with trainA := a, trainB := b } } := by
  have hstore : ∃ st a b, tearStore s x = { s with store := st, boot := { s.boot with trainA := a, trainB := b } } := by
    obtain ⟨st, e⟩ := tearStore_shape s x
    exact ⟨st, _, _, e⟩
  unfold tearFlash
  split
  · split <;> exact ⟨_, _, _, rfl⟩
  · exact hstore

theorem auxSupplyLost_next {s : State} {vin : Nat} (torn : Torn) (hs : s.dev.st ≠ .off) (hv : vin < 28000) :
    ∃ u, exec (.auxSupplyLost vin torn) s = .next u ∧ u.dev.st = .off ∧ u.mem = [] ∧ u.tiles = [] ∧
    u.regions = [] ∧ u.boot.imgRevoked = s.boot.imgRevoked ∧ u.boot.counter = s.boot.counter ∧ u.out = s.out ∧
    u.pending = s.pending ∧ u.store = (closeHot (if eyepieceRuns s then tearFlash s torn else s)).store ∧
    u.boot.trainA = (if eyepieceRuns s then tearFlash s torn else s).boot.trainA ∧
    u.boot.trainB = (if eyepieceRuns s then tearFlash s torn else s).boot.trainB := by
  have htorn : ∃ st a b, (if eyepieceRuns s then tearFlash s torn else s) = { s with
      store := st, boot := { s.boot with trainA := a, trainB := b } } := by
    split
    · exact tearFlash_shape s torn
    · exact ⟨_, _, _, rfl⟩
  have hc : (s.dev.st ≠ .off && vin < 28000) = true := by simp [hs, hv]
  refine ⟨_, congrArg Host.Outcome.next (if_pos hc), ?_⟩
  obtain ⟨st, a, b, e⟩ := htorn
  rw [e]
  obtain ⟨st', e'⟩ := closeHot_shape { s with store := st, boot := { s.boot with trainA := a, trainB := b } }
  rw [toOff, e']
  exact ⟨rfl, rfl, rfl, rfl, rfl, rfl, rfl, rfl, rfl, rfl, rfl⟩

/-! A record that a loss of power cuts short (R427, R428). -/

theorem blankWord_ne_commitWord (n : Nat) : blankWord ≠ commitWord n := by
  unfold blankWord commitWord
  omega

/-- More records leave a bank the active one. -/
theorem theBank_setBank_recs (s : State) (rs : List StoreRec) :
    theBank (setBank s (activeBank s) { theBank s with recs := rs }) = { theBank s with recs := rs } := by
  by_cases h : (bankValid s.store.bank1 && (!bankValid s.store.bank0 ||
      s.store.bank1.generation > s.store.bank0.generation)) = true
  · have hact : activeBank s = 1 := if_pos h
    have hbank : theBank s = s.store.bank1 := if_pos hact
    rw [hact, hbank]
    exact if_pos (if_pos h)
  · have hact : activeBank s = 0 := if_neg h
    have hbank : theBank s = s.store.bank0 := if_neg (by rw [hact]; decide)
    rw [hact, hbank]
    exact if_neg (ne_of_eq_of_ne (if_neg h) (by decide))

theorem tearStore_record (s : State) (i j : Nat) (b : List Byte) :
    (tearStore s (.record i j b)).store = s.store ∨ ∃ r, recValid r = false ∧
      theBank (tearStore s (.record i j b)) = { theBank s with recs := (theBank s).recs ++ [r] } := by
  obtain ⟨r, hr, e⟩ := tearStore_record_eq s i j b
  rw [e]
  split
  · refine .inr ⟨r, ?_, theBank_setBank_recs s _⟩
    simp [recValid, hr, blankWord_ne_commitWord]
  · exact .inl rfl

end Sys2Proof.Proofs
end

section
/-! PROOFS. A number written over the dictionary (R408, R409); VIN_54, the breaker and the converters (R468 to R470). -/

namespace Sys2Proof.Proofs

open Sys2Proof.Machine Sys2Proof.Laws

variable {s : State}

/-- A request that is new is applied to the state as it stands and answered with its status (R408, R414). -/
theorem onWrite_new {q : Req} (h : NewRequest s q) (cmd i sub : Nat) (act : State → State × Nat) :
    onWrite s q cmd i sub act = acked (act s).1 q cmd i sub (act s).2 := by
  obtain ⟨hreach, hclean, hnew, hroom, hcode, hflash⟩ := h
  have hfree : ¬(q.src ≠ 0 && q.env.ahead ≥ mostOutstanding q.src) = true := by
    obtain h0 | hlt := hroom
    · simp [h0]
    · simp [hlt]
  have hstore : { s with store := { s.store with broken := q.env.flashFails } } = s := by rw [hflash]
  rw [onWrite, onRequest, if_neg (by simp [hreach]), hclean, hnew]
  dsimp only
  rw [if_neg hfree, hcode, hstore]
  rfl

/-- A number written to an object that keeps nothing in the store does what the object's chapter says (R409). -/
theorem writeReq_volatile {q : Req} {i sub v : Nat} (h : NewWrite s q i sub v) (hr : isRws i sub = false) :
    writeReq s q i sub v = acked (writeVolatile s q.src i sub v none []).1 q 2 i sub
      (writeVolatile s q.src i sub v none []).2 := by
  obtain ⟨hnew, hok⟩ := h
  have hnum : writeNumber s q.src i sub v none [] = writeVolatile s q.src i sub v none [] := by
    rw [writeNumber, hok, if_neg (by decide), hr]
    rfl
  rw [writeReq, onWrite_new hnew, hnum]

theorem breakerPermit_next {q : Req} (h : NewWrite s q 0x2100 7 1) : exec (.breakerPermit q) s =
    .next (acked { s with power := { s.power with tripped := false } } q 2 0x2100 7 stOk) :=
  congrArg Host.Outcome.next (writeReq_volatile h (by decide))

/-! VIN_54 (R468, R475). -/

section
variable {vin : Nat} (x : Straps)

theorem vin54OutOfRange_above (hr : rimRuns s = true) (h1 : 61000 < vin) (h2 : vin ≤ 63000) :
    exec (.vin54OutOfRange vin x) s = .next (vinLeaves { s with power := { s.power with vin := vin } } 2 x) := by
  have hc : ¬(!rimRuns s || (45000 ≤ vin && vin ≤ 61000)) = true := by simp [hr]; omega
  refine (next_neg hc).trans (congrArg Host.Outcome.next ?_)
  dsimp only
  rw [if_neg (by omega), if_neg (by omega)]

theorem vin54OutOfRange_below (hr : rimRuns s = true) (h : vin < 45000) :
    exec (.vin54OutOfRange vin x) s = .next (vinLeaves { s with power := { s.power with vin := vin } } 1 x) := by
  have hc : ¬(!rimRuns s || (45000 ≤ vin && vin ≤ 61000)) = true := by simp [hr]; omega
  refine (next_neg hc).trans (congrArg Host.Outcome.next ?_)
  dsimp only
  rw [if_neg (by omega), if_pos h]

theorem vin54OutOfRange_trips (hr : rimRuns s = true) (h : 63000 < vin) : exec (.vin54OutOfRange vin x) s =
    .next (vinLeaves (tripBreaker { s with power := { s.power with vin := vin } } 2 s.power.iin) 2 x) := by
  have hc : ¬(!rimRuns s || (45000 ≤ vin && vin ≤ 61000)) = true := by simp [hr]; omega
  refine (next_neg hc).trans (congrArg Host.Outcome.next ?_)
  dsimp only
  rw [if_pos (by omega), if_neg (by omega)]

theorem vin54BackInRange_next (hr : rimRuns s = true) (h1 : 46000 ≤ vin) (h2 : vin ≤ 60000)
    (ht : s.power.tripped = false) (hv : s.power.vinOk = false) : exec (.vin54BackInRange vin) s =
    .next (logEvent { s with power := { s.power with vin := vin, vinOk := true } } 0x0701 0 0 vin) := by
  have hc : ¬(!rimRuns s || vin < 46000 || vin > 60000 || s.power.tripped) = true := by simp [hr, ht]; omega
  refine (next_neg hc).trans (congrArg Host.Outcome.next ?_)
  dsimp only
  rw [if_neg (by simp [hv])]

/-- Region power goes as VIN_54 leaves its range: AUX, the breaker open, every stage off (R475). -/
theorem vinLeaves_aux (why : Nat) (hv : s.power.vinOk = true) (hs : s.dev.st ≠ .aux) :
    (vinLeaves s why x).dev.st = .aux ∧ (vinLeaves s why x).power.vinOk = false ∧
    (vinLeaves s why x).power.breaker = false ∧ (vinLeaves s why x).dev.clksel = x.clksel ∧
    ∀ e ∈ (vinLeaves s why x).regions, e.2.stageOn = false := by
  have h : vinLeaves s why x =
      enterAux (logEvent { s with power := { s.power with vinOk := false } } 0x0700 2 why s.power.vin) x := by
    rw [vinLeaves, if_neg (by simp [hv])]
    dsimp only
    rw [logEvent_dev, if_neg hs]
  obtain ⟨hst, hok, hb, hk, hon⟩ := enterAux_facts
    (logEvent { s with power := { s.power with vinOk := false } } 0x0700 2 why s.power.vin) x
  rw [logEvent_power] at hok
  rw [h]
  exact ⟨hst, hok, hb, hk, hon⟩

/-! The breaker and the converters (R469, R470). -/

theorem breakerTrip_next (byV : Bool) (cur : Nat) (hr : rimRuns s = true) (hb : s.power.breaker = true) :
    exec (.breakerTrip byV cur x) s = .next (vinLeaves (logEvent { s with
      power := { s.power with iin := cur, breaker := false, tripped := true, bus := 0 } } 0x0702 2
        (if byV then 2 else 1) cur) 3 x) := by
  have hc : ¬(!rimRuns s || !s.power.breaker) = true := by simp [hr, hb]
  refine (next_neg hc).trans (congrArg Host.Outcome.next ?_)
  rw [tripBreaker, if_neg (by simp [hb])]
end

section
variable {n : Nat} (hr : rimRuns s = true) (hn : n < 26) (hup : s.power.converters.getLsbD n = true)
include hr hn hup

theorem converterLost_next :
    let off := { s with power := { s.power with converters := s.power.converters &&& ~~~(BitVec.twoPow 26 n) } }
    exec (.converterLost n) s = .next (
      if convertersUp off < 24 then report (setAlert (logEvent off 0x0703 3 n (convertersUp off)) 2) .toFault
      else setAlert (logEvent off 0x0703 1 n (convertersUp off)) 2) := by
  have hc : ¬(!rimRuns s || n ≥ 26 || !s.power.converters.getLsbD n) = true := by simp [hr, hup, hn]
  refine (next_neg hc).trans (congrArg Host.Outcome.next ?_)
  dsimp only
  split <;> rfl
end

/-- Settles O44: each clause by the lemma of its command. -/
theorem suppliesAndBreaker : Obligations.SuppliesAndBreaker := by
  intro s x torn byV vin cur n q off k read open_
  refine ⟨auxSupplyInRange_next x, auxSupplyLost_next torn, tearStore_record s, vin54OutOfRange_above x,
    vin54OutOfRange_below x, vin54OutOfRange_trips x, vin54BackInRange_next, breakerTrip_next x byV cur,
    fun why hv hs => ⟨_, rfl, vinLeaves_aux x why hv hs⟩, breakerPermit_next, ?_, ?_⟩
  · intro hr hn hup hk
    rw [converterLost_next hr hn hup, if_neg (Nat.not_lt.mpr hk)]
  · intro hr hn hup hk
    rw [converterLost_next hr hn hup, if_pos hk]

end Sys2Proof.Proofs
end

section
/-! PROOFS. Resets, lockstep pairs and the decision cycle (R6, R312, R404, R436, R437). -/

namespace Sys2Proof.Proofs

open Sys2Proof.Machine Sys2Proof.Laws

variable {s : State}

/-! Resets (R192, R436, R437). -/

/-- The states in which a reset over the dictionary is performed while a reference is locked (R437). -/
abbrev InService (s : State) : Prop := s.dev.st ∈ [DevState.ready, .serving, .recovering, .keepAlive, .fault]

/-- A reset held until SAFE-HOLD ends or a reference is locked: the first one stays (R192, R437). -/
def holdReset (s : State) (k : ResetKind) : State :=
  { s with dev := { s.dev with heldReset := if s.dev.heldReset.isSome then s.dev.heldReset else some k } }

theorem holdReset_first (k : ResetKind) (hn : s.dev.heldReset = none) :
    holdReset s k = { s with dev := { s.dev with heldReset := some k } } := by
  rw [holdReset, hn]; rfl

theorem holdReset_again (k : ResetKind) (hn : s.dev.heldReset ≠ none) : holdReset s k = s := by
  rw [holdReset, if_pos (Option.isSome_iff_ne_none.mpr hn)]

theorem inService_cases (h : InService s) : s.dev.st = .ready ∨ s.dev.st = .serving ∨ s.dev.st = .recovering ∨
    s.dev.st = .keepAlive ∨ s.dev.st = .fault := by
  simpa [InService] using h

theorem acceptReset_safeHold (k : ResetKind) (h : s.dev.st = .safeHold) : acceptReset s k = holdReset s k := by
  rw [acceptReset, h]
  rfl

theorem acceptReset_inService (k : ResetKind) (h : InService s) :
    acceptReset s k = if s.clock.locked then performReset s k else holdReset s k := by
  obtain h | h | h | h | h := inService_cases h
  all_goals
    rw [acceptReset, h]
    rfl

theorem acceptReset_performed (k : ResetKind) (h : InService s) (hl : s.clock.locked = true) :
    acceptReset s k = performReset s k := by
  rw [acceptReset_inService k h, if_pos hl]

theorem acceptReset_held (k : ResetKind) (h : s.dev.st = .safeHold ∨ (InService s ∧ s.clock.locked = false)) :
    acceptReset s k = holdReset s k := by
  obtain h | ⟨h, hl⟩ := h
  · exact acceptReset_safeHold k h
  · rw [acceptReset_inService k h, if_neg (by simp [hl])]

theorem writeReset_accepts (v : Nat) (h : InService s ∨ s.dev.st = .safeHold) :
    writeReset s v = (acceptReset s (if v = 2 then .full else .warm), stOk) := by
  have hs : s.dev.st = .safeHold ∨ s.dev.st = .ready ∨ s.dev.st = .serving ∨ s.dev.st = .recovering ∨
      s.dev.st = .keepAlive ∨ s.dev.st = .fault := h.elim (fun h => .inr (inService_cases h)) .inl
  obtain h | h | h | h | h | h := hs
  all_goals
    rw [writeReset, h]
    rfl

theorem writeReset_refuses (v : Nat) (h : s.dev.st = .aux ∨ s.dev.st = .bringup) : writeReset s v = (s, stState) := by
  obtain h | h := h
  all_goals
    rw [writeReset, h]
    rfl

/-- A reset over the dictionary: 0x2000.04 written (R419, R436). -/
theorem writeReq_reset {q : Req} {v : Nat} (h : NewWrite s q 0x2000 4 v) :
    writeReq s q 0x2000 4 v = acked (writeReset s v).1 q 2 0x2000 4 (writeReset s v).2 :=
  writeReq_volatile h (by decide)

section
variable {q : Req}

theorem dictWarmRestart_accepted (h : InService s ∨ s.dev.st = .safeHold) (hw : NewWrite s q 0x2000 4 1) :
    exec (.dictWarmRestart q) s = .next (acked (acceptReset s .warm) q 2 0x2000 4 stOk) := by
  refine congrArg Host.Outcome.next ?_
  rw [writeReq_reset hw, writeReset_accepts _ h, if_neg (by decide)]

theorem dictFullTrainingReset_accepted (h : InService s ∨ s.dev.st = .safeHold) (hw : NewWrite s q 0x2000 4 2) :
    exec (.dictFullTrainingReset q) s = .next (acked (acceptReset s .full) q 2 0x2000 4 stOk) := by
  refine congrArg Host.Outcome.next ?_
  rw [writeReq_reset hw, writeReset_accepts _ h, if_pos rfl]

theorem dictWarmRestart_refused (h : s.dev.st = .aux ∨ s.dev.st = .bringup) (hw : NewWrite s q 0x2000 4 1) :
    exec (.dictWarmRestart q) s = .next (acked s q 2 0x2000 4 stState) := by
  refine congrArg Host.Outcome.next ?_
  rw [writeReq_reset hw, writeReset_refuses _ h]
end

/-! RST_N and the lockstep pairs (R312, R404, R436). -/

theorem rstNFall_next (hr : s.dev.rstHigh = true) (hs : s.dev.st ≠ .off) (hp : s.dev.pairs.any id = true) :
    exec .rstNFall s = .next (acceptReset { s with
      dev := { s.dev with rstHigh := false }
      power := { s.power with tripped := false } } .rstN) := by
  change execRstNFall s = _
  rw [execRstNFall, if_neg (by simp [hr])]
  dsimp only
  rw [if_neg hs, if_pos hp]

theorem rstNFall_low (hr : s.dev.rstHigh = false) : exec .rstNFall s = .next s :=
  congrArg Host.Outcome.next (if_pos (by simp [hr]))

theorem eyepiecePairLost_next {pair : Nat} (hr : rimRuns s = true) (hp : s.dev.pairs[pair]? = some true) :
    let one := { s with dev := { s.dev with pairs := s.dev.pairs.set pair false } }
    exec (.eyepiecePairLost pair) s = .next (if one.dev.pairs.any id then one
      else enterFault { one with dict := { s.dict with serving := false, nextBeat := none } }) := by
  have hc : ¬(!rimRuns s || !(s.dev.pairs.getD pair false)) = true := by simp [hr, List.getD, hp]
  exact next_neg hc

/-! The decision cycle (R6). -/

theorem decisionCycle_takes (he : eyepieceRuns s = true) {c : Condition}
    (hc : ([Condition.toFault, .toSafeHold, .toKeepAlive, .toRecovering]).find? (fun c =>
      s.dev.conditions.contains c && mayTake s c) = some c) : exec .decisionCycle s = .next (takeCondition s c) := by
  refine congrArg Host.Outcome.next ((if_pos he).trans ?_)
  rw [decideState, hc]

/-- A condition taken leads to the state it asks for (R5, R6). -/
theorem takeCondition_st (s : State) :
    (takeCondition s .toFault).dev.st = .fault ∧ (takeCondition s .toKeepAlive).dev.st = .keepAlive ∧
    (takeCondition s .toSafeHold).dev.st = .safeHold ∧ (takeCondition s .toRecovering).dev.st = .recovering := by
  refine ⟨?_, ?_, ?_, ?_⟩
  · rw [takeCondition, enterFault, enterState_st]
  · rw [takeCondition, enterKeepAlive, (idlePorts_aside _).st, enterState_st]
  · rw [takeCondition, enterSafeHold, enterState_st]
  · rw [takeCondition, enterRecovering, enterState_st]

/-- Settles O46: each clause by the lemma of its command. -/
theorem resetsAndDecisions : Obligations.ResetsAndDecisions := by
  intro s pair q k fell one service held
  have hok (h : s.dev.st = .safeHold ∨ (service ∧ s.clock.locked = false)) : InService s ∨ s.dev.st = .safeHold :=
    h.elim .inr fun h => .inl h.1
  refine ⟨rstNFall_next, rstNFall_low, rfl, fun h => congrArg Host.Outcome.next (if_pos h), fun hr hp hone => ?_,
    fun hr hp hone => ?_, fun c he hc => decisionCycle_takes he hc, fun h hl hw => ?_, fun h hl hw => ?_, fun h hn hw => ?_,
    fun h hn hw => ?_, dictWarmRestart_refused,
    fun h hn => (acceptReset_safeHold k h).trans (holdReset_again k hn), takeCondition_st s⟩
  · rw [eyepiecePairLost_next hr hp, if_pos hone]
  · rw [eyepiecePairLost_next hr hp, if_neg (by simp only [one] at hone; simp [hone])]
  · rw [dictWarmRestart_accepted (.inl h) hw, acceptReset_performed _ h hl]
  · rw [dictFullTrainingReset_accepted (.inl h) hw, acceptReset_performed _ h hl]
  · rw [dictWarmRestart_accepted (hok h) hw, acceptReset_held _ h, holdReset_first _ hn]
  · rw [dictFullTrainingReset_accepted (hok h) hw, acceptReset_held _ h, holdReset_first _ hn]

end Sys2Proof.Proofs
end

section
/-! PROOFS. The links of the packet mesh: grants, receipt, replay and retraining (R32, R225, R228, R230, R234, R235). -/

namespace Sys2Proof.Proofs

open Sys2Proof.Machine Sys2Proof.Laws

variable {s : State}

/-! Grants (R230). -/

/-- A fold that takes the earlier of two by a key ends with one of the list and none of the list before it. -/
theorem foldl_earlier {α κ : Type} [LinearOrder κ] {before : α → α → Bool} {key : α → κ}
    (h : ∀ a b, before a b = true ↔ key a < key b) (l : List α) (a : α) :
    let c := l.foldl (fun a b => if before b a then b else a) a
    c ∈ a :: l ∧ ∀ d ∈ a :: l, key c ≤ key d := by
  induction l generalizing a with
  | nil => simp
  | cons b l ih =>
    obtain ⟨hmem, hle⟩ := ih (if before b a then b else a)
    obtain ⟨hfirst, hrest⟩ := List.forall_mem_cons.mp hle
    simp only [List.foldl_cons]
    by_cases hb : before b a = true
    · rw [if_pos hb] at hmem hfirst hrest ⊢
      have hlt := (h b a).mp hb
      exact ⟨List.mem_cons_of_mem a hmem,
        List.forall_mem_cons.mpr ⟨hfirst.trans hlt.le, List.forall_mem_cons.mpr ⟨hfirst, hrest⟩⟩⟩
    · rw [if_neg hb] at hmem hfirst hrest ⊢
      have hge : key a ≤ key b := not_lt.mp fun hlt => hb ((h b a).mpr hlt)
      refine ⟨?_, List.forall_mem_cons.mpr ⟨hfirst, List.forall_mem_cons.mpr ⟨hfirst.trans hge, hrest⟩⟩⟩
      obtain hm | hm := List.mem_cons.mp hmem
      · exact List.mem_cons.mpr (.inl hm)
      · exact List.mem_cons_of_mem a (List.mem_cons_of_mem b hm)

/-- What orders the candidates of an output: the higher priority in force, then the older head, then input and channel (R230). -/
def grantKey (s : State) (t : Nat) (c : Cand) : ℕᵒᵈ ×ₗ ℕ ×ₗ ℕ ×ₗ ℕ :=
  toLex (OrderDual.toDual (effPri s t c.flit), toLex (c.flit.age, toLex (c.inp, c.vc)))

theorem before_iff_grantKey_lt (s : State) (t : Nat) (a b : Cand) :
    before s t a b = true ↔ grantKey s t a < grantKey s t b := by
  simp only [before, grantKey, Prod.Lex.toLex_lt_toLex, OrderDual.toDual_lt_toDual, EmbeddingLike.apply_eq_iff_eq]
  split
  · next hp => simp [hp]
  · next hp =>
    have hp := not_not.mp hp
    split
    · next ha => simp [hp, ha]
    · next ha =>
      have ha := not_not.mp ha
      split
      · next hi => simp [hp, ha, hi]
      · next hi => simp [hp, ha, not_not.mp hi]

/-- The candidates that can go on an output (R230). -/
def goers (s : State) (t : Nat) (net : MeshNet) (out : Nat) : List Cand :=
  (heads s t net).filter fun c => (match c.route with | .out o _ _ => o = out | _ => false) && canGo s t out c

section
variable {t out : Nat} {net : MeshNet}

theorem flitGrant_next (hr : tileRuns s t = true) (hd : ((heads s t net).find? fun c => c.route = .discard) = none)
    {c : Cand} {rest : List Cand} (hc : goers s t net out = c :: rest) : exec (.flitGrant t net out) s =
      .next (grantFlit s t out (rest.foldl (fun a b => if before s t b a then b else a) c)) := by
  refine (next_neg (by simp [hr])).trans (congrArg Host.Outcome.next ?_)
  dsimp only
  rw [hd]
  exact congrArg (fun mine : List Cand => match mine with
    | [] => s
    | c :: rest => grantFlit s t out (rest.foldl (fun a b => if before s t b a then b else a) c)) hc

theorem flitGrant_earliest (hr : tileRuns s t = true)
    (hd : ((heads s t net).find? fun c => c.route = .discard) = none) (hm : goers s t net out ≠ []) :
    ∃ c ∈ goers s t net out, (∀ d ∈ goers s t net out, before s t d c = false) ∧
      exec (.flitGrant t net out) s = .next (grantFlit s t out c) := by
  obtain ⟨c, rest, hc⟩ := List.exists_cons_of_ne_nil hm
  obtain ⟨hmem, hle⟩ := foldl_earlier (before_iff_grantKey_lt s t) rest c
  rw [← hc] at hmem hle
  refine ⟨_, hmem, fun d hd => ?_, flitGrant_next hr hd hc⟩
  rw [Bool.eq_false_iff, Ne, before_iff_grantKey_lt, not_lt]
  exact hle d hd

theorem flitGrant_stopped (hr : tileRuns s t = true) {c : Cand}
    (hd : ((heads s t net).find? fun c => c.route = .discard) = some c) :
    exec (.flitGrant t net out) s = .next (stopPacket (removePacket s c.flit.pkt) t c.flit.pkt) := by
  refine (next_neg (by simp [hr])).trans (congrArg Host.Outcome.next ?_)
  dsimp only
  rw [hd]
end

/-! A router after an update (R225). -/

theorem tileOf_updRouter_ne {t t' : Nat} (f : Router → Router) (h : t' ≠ t) : tileOf (updRouter s t f) t' = tileOf s t' :=
  tileOf_updTile_ne s _ h

/-- An update of a router is what it makes of that router. -/
theorem updRouter_congr {t : Nat} {f g : Router → Router} (h : f (tileOf s t).router = g (tileOf s t).router) :
    updRouter s t f = updRouter s t g := updTile_congr (by rw [h])

/-- The other end of a link does not depend on what the routers hold. -/
theorem linkPeer_updRouter (t a port : Nat) (f : Router → Router) : linkPeer (updRouter s t f) a port = linkPeer s a port :=
  rfl

theorem qGet_smSet_same {α : Type} (m : SMap (List α)) (k : Nat) (l : List α) : qGet (smSet m k l) k = l := by
  simp [qGet, smGetD]

/-! A flit acknowledged (R234). -/

section
variable {t t' o inp n : Nat} {f : Flit}

/-- A flit received leaves its sender's replay buffer. -/
theorem ackFlit_peer (hp : linkPeer s t inp = some (t', o)) : ackFlit s t n inp f =
    updRouter (updRouter s t fun r => { r with
      link := smSet r.link (linkKey n inp) ((qGet r.link (linkKey n inp)).drop 1)
      rxSeq := smSet r.rxSeq (linkKey n inp) ((f.seq + 1) % 16)
      fails := smDel r.fails (linkKey n inp) }) t' fun r => { r with
        replay := smSet r.replay (linkKey n o) ((qGet r.replay (linkKey n o)).drop 1) } := by
  rw [ackFlit, linkPeer_updRouter, hp]

/-- The receiver of an acknowledged flit that comes from another router. -/
theorem ackFlit_receiver (hp : linkPeer s t inp = some (t', o)) (ht : t' ≠ t) : (tileOf (ackFlit s t n inp f) t).router =
    { (tileOf s t).router with
      link := smSet (tileOf s t).router.link (linkKey n inp) ((qGet (tileOf s t).router.link (linkKey n inp)).drop 1)
      rxSeq := smSet (tileOf s t).router.rxSeq (linkKey n inp) ((f.seq + 1) % 16)
      fails := smDel (tileOf s t).router.fails (linkKey n inp) } := by
  rw [ackFlit_peer hp, tileOf_updRouter_ne _ ht.symm, tileOf_updRouter_same]

/-- The sender of an acknowledged flit. -/
theorem ackFlit_sender (hp : linkPeer s t inp = some (t', o)) (ht : t' ≠ t) : (tileOf (ackFlit s t n inp f) t').router =
    { (tileOf s t').router with
      replay := smSet (tileOf s t').router.replay (linkKey n o) ((qGet (tileOf s t').router.replay (linkKey n o)).drop 1) } := by
  rw [ackFlit_peer hp, tileOf_updRouter_same, tileOf_updRouter_ne _ ht]

theorem ackFlit_mem (s : State) (t n inp : Nat) (f : Flit) : (ackFlit s t n inp f).mem = s.mem := by
  unfold ackFlit
  dsimp only
  split <;> simp
end

/-! What a receiver makes of the flit at the head of a link (R234, R235). -/

/-- The receiver's answer to a flit in sequence, by what its check finds (R234). -/
def receiveFlit (s : State) (t : Nat) (net : MeshNet) (inp : Nat) (f : Flit) : EccOutcome → State
  | .clean => acceptFlit s t net inp f
  | .corrected => countLink (acceptFlit s t net inp f) t (linkKey (netNo net) inp) 1 0 0
  | .uncorrectable => rejectFlit s t net inp f

/-- Flit `f` stands first on an input's live link, the flits `q` after it. -/
structure OnLink (s : State) (t : Nat) (net : MeshNet) (inp : Nat) (f : Flit) (q : List Flit) : Prop where
  runs : tileRuns s t = true
  live : linkLive s t (netNo net) inp = true
  head : qGet (tileOf s t).router.link (linkKey (netNo net) inp) = f :: q

section
variable {t inp : Nat} {net : MeshNet} {f : Flit} {q : List Flit}

theorem flitReceive_inTurn (h : OnLink s t net inp f q)
    (hs : f.seq = smGetD (tileOf s t).router.rxSeq (linkKey (netNo net) inp) 0) (e : EccOutcome) :
    exec (.flitReceive t net inp e) s = .next (receiveFlit s t net inp f e) := by
  obtain ⟨hr, hl, hq⟩ := h
  refine (next_neg (by simp [hr, hl])).trans (congrArg Host.Outcome.next ?_)
  rw [hq]
  dsimp only
  rw [if_neg (not_not.mpr hs)]
  cases e <;> rfl

theorem flitReceive_outOfTurn (h : OnLink s t net inp f q)
    (hs : f.seq ≠ smGetD (tileOf s t).router.rxSeq (linkKey (netNo net) inp) 0) (e : EccOutcome) :
    exec (.flitReceive t net inp e) s = .next (updRouter s t fun r => { r with
      link := smSet r.link (linkKey (netNo net) inp) q }) := by
  obtain ⟨hr, hl, hq⟩ := h
  refine (next_neg (by simp [hr, hl])).trans (congrArg Host.Outcome.next ?_)
  rw [hq]
  dsimp only
  rw [if_pos hs]
  exact updRouter_congr (by rw [hq, List.drop_one, List.tail_cons])

/-- A flit of a lost packet only moves the link on (R228). -/
theorem acceptFlit_dead (hd : f.dead = true) : acceptFlit s t net inp f = ackFlit s t (netNo net) inp f :=
  if_pos hd

/-- A flit at an injection tile's edge is the bridge's (R32). -/
theorem acceptFlit_bridge {p : Nat} (hd : f.dead = false) (hi : 4 ≤ inp)
    (hb : bridgeSide (ackFlit s t (netNo net) inp f) t (inp - 4) = some p) :
    acceptFlit s t net inp f = bridgeTakes (ackFlit s t (netNo net) inp f) t p (netNo net) f := by
  unfold acceptFlit
  dsimp only
  rw [if_neg (by simp [hd]), if_pos hi, hb]

/-- A flit from a neighbour enters its buffer (R234). -/
theorem acceptFlit_buffered (hd : f.dead = false) (hi : inp < 4) : ∃ (age : Nat) (cs : Router → List (Nat × Packet)),
    acceptFlit s t net inp f = updRouter (ackFlit s t (netNo net) inp f) t fun r => { r with
      buf := smSet r.buf (bufKey (netNo net) inp (vcAt t f.pkt))
        (qGet r.buf (bufKey (netNo net) inp (vcAt t f.pkt)) ++ [{ f with age := age }])
      combine := cs r } :=
  ⟨_, _, (if_neg (by simp [hd])).trans (if_neg (Nat.not_le.mpr hi))⟩

theorem acceptFlit_facts {t' o : Nat} (h : OnLink s t net inp f q) (hd : f.dead = false) (hi : inp < 4)
    (hp : linkPeer s t inp = some (t', o)) (ht : t' ≠ t) :
    let u := acceptFlit s t net inp f
    let key := bufKey (netNo net) inp (vcAt t f.pkt)
    qGet (tileOf u t).router.link (linkKey (netNo net) inp) = q ∧
      (∃ age, qGet (tileOf u t).router.buf key = qGet (tileOf s t).router.buf key ++ [{ f with age := age }]) ∧
      qGet (tileOf u t').router.replay (linkKey (netNo net) o) =
        (qGet (tileOf s t').router.replay (linkKey (netNo net) o)).drop 1 ∧ u.mem = s.mem := by
  obtain ⟨age, cs, e⟩ := acceptFlit_buffered (s := s) (t := t) (net := net) hd hi
  simp only [e, tileOf_updRouter_same, tileOf_updRouter_ne _ ht, updRouter_mem, ackFlit_mem, ackFlit_receiver hp ht,
    ackFlit_sender hp ht, qGet_smSet_same, h.head, List.drop_one, List.tail_cons, true_and, and_true]
  exact ⟨age, rfl⟩

/-- A flit with a CRC error: the fourth failure in succession retrains the link (R234, R235). -/
theorem rejectFlit_peer {t' o : Nat} (hp : linkPeer s t inp = some (t', o)) :
    let key := linkKey (netNo net) inp
    let fails := smGetD (tileOf s t).router.fails key 0
    rejectFlit s t net inp f = updRouter (updRouter s t fun r => { r with
      link := smSet r.link key []
      fails := smSet r.fails key (fails + 1)
      retraining := if fails ≥ 3 && !r.retraining.contains key then r.retraining ++ [key] else r.retraining }) t'
      fun r => { r with resend := smSet r.resend (linkKey (netNo net) o) f.seq } := by
  have hfour (n : Nat) : decide (n + 1 ≥ 4) = decide (n ≥ 3) := by simp
  simp only [rejectFlit, linkPeer_updRouter, hp, hfour]
end

theorem replayRequest_next {t t' out i v : Nat} {net : MeshNet} (hr : tileRuns s t = true)
    (hv : smGet (tileOf s t).router.resend (linkKey (netNo net) out) = some v) (hp : linkPeer s t out = some (t', i))
    (hl : linkLive s t' (netNo net) i = true) :
    exec (.replayRequest t net out) s = .next (countLink (updRouter (updRouter s t fun r => { r with
      resend := smDel r.resend (linkKey (netNo net) out) }) t' fun x => { x with
      link := smSet x.link (linkKey (netNo net) i) (qGet (tileOf s t).router.replay (linkKey (netNo net) out)) }) t'
      (linkKey (netNo net) i) 0 1 0) := by
  change execReplayRequest t net out s = _
  unfold execReplayRequest
  dsimp only
  rw [hp]
  exact congrArg Host.Outcome.next (if_pos (by simp [hr, hv, hl]))

theorem linkRetrain_next {t inp : Nat} {net : MeshNet} (ok : Bool) (hr : tileRuns s t = true)
    (hk : (tileOf s t).router.retraining.contains (linkKey (netNo net) inp) = true) :
    let key := linkKey (netNo net) inp
    let u := countLink (updRouter s t fun r => { r with
      retraining := r.retraining.filter (· ≠ key), fails := smDel r.fails key
      down := if ok then r.down else r.down ++ [key] }) t key 0 0 1
    let p := regionOfTile t
    exec (.linkRetrain t net inp ok) s = .next (if ok then u
      else regionFault (updCtr u p fun c => { c with linksDown := (c.linksDown + 1) % 2 ^ 32 }) p 0x34 0 none 0) :=
  congrArg Host.Outcome.next (if_pos (by rw [hr, hk]; rfl))

/-- Settles O30: a grant by the order of candidates, a receipt by what the check finds, each other clause by its command's
lemma. -/
theorem meshLinksCarryFlits : Obligations.MeshLinksCarryFlits := by
  intro s t t' o out inp net f q n cs mine key fails onLink inTurn bkey
  have hon : onLink → OnLink s t net inp f q := fun ⟨hr, hl, hq⟩ => ⟨hr, hl, hq⟩
  refine ⟨flitGrant_earliest, fun c hr hd => flitGrant_stopped hr hd, fun h hs hi hd hp ht => ?_, fun p h hs hi hd hb => ?_,
    fun h hs hd => ?_, fun h hs hp => ?_, fun e h hs => flitReceive_outOfTurn (hon h) hs e,
    fun i v => replayRequest_next, fun ok => linkRetrain_next ok⟩
  · obtain ⟨hlink, hbuf, hreplay, hmem⟩ := acceptFlit_facts (hon h) hd hi hp ht
    exact ⟨_, flitReceive_inTurn (hon h) hs .clean, hlink, hbuf, hreplay, hmem, flitReceive_inTurn (hon h) hs .corrected⟩
  · rw [flitReceive_inTurn (hon h) hs, receiveFlit, acceptFlit_bridge hd hi hb]
  · rw [flitReceive_inTurn (hon h) hs, receiveFlit, acceptFlit_dead hd]
  · rw [flitReceive_inTurn (hon h) hs, receiveFlit, rejectFlit_peer hp]

end Sys2Proof.Proofs
end

section
/-! PROOFS. Remote writes and reads, and accesses of the control space (R38, R253, R254). -/

namespace Sys2Proof.Proofs

open Sys2Proof.Machine Sys2Proof.Laws

variable {s : State}

/-- Tile `t` runs, and `k` is the first packet of kind `n` that has arrived at its message engine. -/
structure Takes (s : State) (t n : Nat) (k : Packet) : Prop where
  runs : tileRuns s t = true
  first : ((tileOf s t).msg.arrived.find? fun k => k.kind = n) = some k

theorem Takes.kind {t n : Nat} {k : Packet} (h : Takes s t n k) : k.kind = n := by
  simpa using List.find?_some h.first

/-- A piece whose address is outside the monitor area, or that has no byte (R254). -/
theorem not_inMonitor {off len : Nat} (h : 0x2000 ≤ off ∨ len = 0) : ¬(off < 0x2000 && len > 0) = true := by
  simp only [Bool.and_eq_true, decide_eq_true_eq]
  omega

theorem takeArrived_first {t : Nat} {k : Packet} {sel : Packet → Bool} (h : (tileOf s t).msg.arrived.find? sel = some k) :
    takeArrived s t sel = some (k, updMsg s t fun m => { m with arrived := m.arrived.erase k }) := by
  rw [takeArrived, h]

theorem isBroadcastWrite_kind {k : Packet} (h : k.kind = 2) : isBroadcastWrite k = bit (fld k.payload 0xB 1) 0 := by
  simp [isBroadcastWrite, h]

section
variable {t : Nat} {k : Packet}

/-- A write outside the monitor area stores its bytes and answers, unless it is a broadcast (R254). -/
theorem remoteWrite_stored (h : Takes s t 2 k) (ho : 0x2000 ≤ saOffset (pkAddr k) ∨ fld k.payload 8 2 = 0) :
    let u := updMsg s t fun m => { m with arrived := m.arrived.erase k }
    let v := countServed (writeSpad u t (saOffset (pkAddr k)) (slice k.payload 16 (fld k.payload 8 2))) t
    exec (.remoteWrite t {}) s =
      .next (if bit (fld k.payload 0xB 1) 0 then v else queueOut v t (ackPacket k)) := by
  refine (next_neg (by simp [h.runs])).trans (congrArg Host.Outcome.next ?_)
  rw [takeArrived_first h.first, ← isBroadcastWrite_kind h.kind]
  exact if_neg (not_inMonitor ho)

/-- A write into the monitor area is refused with NAK BOUND, a broadcast is only counted (R254). -/
theorem remoteWrite_refused (h : Takes s t 2 k) (ho : saOffset (pkAddr k) < 0x2000) (hl : 0 < fld k.payload 8 2) :
    let u := updMsg s t fun m => { m with arrived := m.arrived.erase k }
    exec (.remoteWrite t {}) s =
      .next (if bit (fld k.payload 0xB 1) 0 then countDiscard u (regionOfTile t) else refuseMsg u t k 5 none) := by
  refine (next_neg (by simp [h.runs])).trans (congrArg Host.Outcome.next ?_)
  rw [takeArrived_first h.first, ← isBroadcastWrite_kind h.kind]
  exact if_pos (by simp [ho, hl])

theorem remoteRead_answered (h : Takes s t 3 k) (ho : 0x2000 ≤ saOffset (pkAddr k) ∨ fld k.payload 8 2 = 0) :
    let u := updMsg s t fun m => { m with arrived := m.arrived.erase k }
    exec (.remoteRead t {}) s = .next (countServed (queueOut u t (readReply u t k)) t) := by
  refine (next_neg (by simp [h.runs])).trans (congrArg Host.Outcome.next ?_)
  rw [takeArrived_first h.first]
  exact if_neg (not_inMonitor ho)

theorem remoteRead_refused (h : Takes s t 3 k) (ho : saOffset (pkAddr k) < 0x2000) (hl : 0 < fld k.payload 8 2) :
    exec (.remoteRead t {}) s =
      .next (refuseMsg (updMsg s t fun m => { m with arrived := m.arrived.erase k }) t k 5 none) := by
  refine (next_neg (by simp [h.runs])).trans (congrArg Host.Outcome.next ?_)
  rw [takeArrived_first h.first]
  exact if_pos (by simp [ho, hl])
end

/-- The oldest access waiting is performed through the mirror; a broadcast one is not answered (R37, R38). -/
theorem controlSpaceAccess_next {k : Packet} {ks : List Packet} (he : eyepieceRuns s = true) (hs : s.dict.serving = true)
    (ha : s.dict.accesses = k :: ks) :
    let v := mirrorAccess { s with dict := { s.dict with accesses := ks } } (fld k.payload 0 8) (fld k.payload 0x10 1)
      (fld k.payload 0x11 1) (fld k.payload 8 8)
    exec .controlSpaceAccess s = .next (if k.dstDev = 0xFFFF then v.1 else replyAccess v.1 k v.2.1 v.2.2) := by
  refine (next_neg (by simp [he, hs])).trans (congrArg Host.Outcome.next ?_)
  rw [ha]

/-- Settles O35: a write and a read by where their bytes lie, an access by the mirror. -/
theorem remoteAccesses : Obligations.RemoteAccesses := by
  intro s t k u off len takes
  have htakes (n : Nat) : takes n → Takes s t n k := fun ⟨hr, hf⟩ => ⟨hr, hf⟩
  refine ⟨fun h ho hb => ?_, fun h ho hb => ?_, fun h ho hl hb => ?_, fun h ho hl hb => ?_,
    fun h ho => remoteRead_answered (htakes 3 h) ho, fun h ho hl => remoteRead_refused (htakes 3 h) ho hl,
    fun ks => controlSpaceAccess_next⟩
  · rw [remoteWrite_stored (htakes 2 h) ho, if_neg (by simp [hb])]
  · rw [remoteWrite_stored (htakes 2 h) ho, if_pos hb]
  · rw [remoteWrite_refused (htakes 2 h) ho hl, if_neg (by simp [hb])]
  · rw [remoteWrite_refused (htakes 2 h) ho hl, if_pos hb]

end Sys2Proof.Proofs
end

section
/-! PROOFS. What changes of a port's state leave of it, of its configuration and of the wafer (R335, R339, R340). -/

namespace Sys2Proof.Proofs

open Sys2Proof.Machine Sys2Proof.Laws

variable (s : State)

/-! A port in a new state. -/

theorem beamLink_kept (p : Nat) (up : Bool) :
    (beamLink s p up).fabric = s.fabric ∧ (beamLink s p up).dict = s.dict := by
  unfold beamLink logSource
  dsimp only
  split
  · split
    · simp
    · split <;> simp
  · exact ⟨rfl, rfl⟩

/-- Of fabric and dictionary a port's new state changes that port alone: its record, alert and beam link stand elsewhere. -/
theorem setPort_kept (p st cause : Nat) :
    (setPort s p st cause).fabric =
      (updPort s p fun x => { x with st := st, cause := if st = 1 || st = 5 then cause else x.cause }).fabric ∧
    (setPort s p st cause).dict = s.dict := by
  unfold setPort
  extract_lets -underBinder -merge -useContext +onlyGivenNames old s1 s2 s3
  have h2 : s2.fabric = s1.fabric ∧ s2.dict = s.dict := ⟨logAt_fabric _ _ _ _ _ _ _ _, logAt_dict _ _ _ _ _ _ _ _⟩
  have h3 : s3.fabric = s1.fabric ∧ s3.dict = s.dict := by
    unfold s3
    split
    · exact h2
    · exact h2
  split
  · exact ⟨rfl, rfl⟩
  · obtain ⟨hf3, hd3⟩ := h3
    obtain ⟨hf, hd⟩ := beamLink_kept s3 p (st = 3 || st = 4)
    exact ⟨hf.trans hf3, hd.trans hd3⟩

@[simp] theorem setPort_dict (p st cause : Nat) : (setPort s p st cause).dict = s.dict := (setPort_kept s p st cause).2

@[simp] theorem portOf_setPort_same (p st cause : Nat) : portOf (setPort s p st cause) p =
    { portOf s p with st := st, cause := if st = 1 || st = 5 then cause else (portOf s p).cause } := by
  obtain ⟨hf, -⟩ := setPort_kept s p st cause
  rw [portOf, hf]
  exact portOf_updPort_same s p _

@[simp] theorem personality_setPort (p q st cause : Nat) : personality (setPort s p st cause) q = personality s q := by
  simp only [personality, cfg, dnum, setPort_dict]

theorem portOf_emit (p : Nat) (o : Out) : portOf (emit s o) p = portOf s p := rfl

theorem emit_aside (o : Out) : Aside s (emit s o) := .update s

theorem equalise_aside (p : Nat) : Aside s (equalise s p) := ⟨⟨_, rfl⟩, rfl, rfl, rfl, rfl, rfl, rfl, rfl⟩

theorem portOf_equalise (p : Nat) : ∃ e, portOf (equalise s p) p = { portOf s p with equal := e } :=
  ⟨_, portOf_updPort_same _ p _⟩

/-! A port that enters service (R274, R339). -/

theorem enterService_aside (p st : Nat) : Aside s (enterService s p st) := by
  unfold enterService
  extract_lets -underBinder -merge -useContext +onlyGivenNames s1 s2 s3
  have h2 : Aside s s2 := (setPort_aside s p st 0).trans (updPort_aside _ _ _)
  have h3 : Aside s2 s3 := by
    unfold s3
    split
    · exact updPort_aside _ _ _
    · exact .rfl
  refine h2.trans (h3.trans ?_)
  split
  · exact Aside.foldl (fun u c => emit_aside u _) _ s3
  · exact .rfl

/-- Unacknowledged frames go again; lanes, partner and sequence numbers stay. -/
theorem portOf_enterService (p st : Nat) : ∃ c cs, portOf (enterService s p st) p = { portOf s p with
    st := st, cause := c, resend := (portOf s p).replay, refused := none, refusals := 0, nakOut := false, csOut := cs } := by
  generalize hr : enterService s p st = r
  unfold enterService at hr
  extract_lets -underBinder -merge -useContext +onlyGivenNames s1 s2 s3 at hr
  have h1 : portOf s1 p = { portOf s p with st := st, cause := if st = 1 || st = 5 then 0 else (portOf s p).cause } :=
    portOf_setPort_same s p st 0
  have h2 : portOf s2 p =
      { portOf s1 p with resend := (portOf s1 p).replay, refused := none, refusals := 0, nakOut := false } :=
    portOf_updPort_same s1 p _
  have h3 : ∃ cs, portOf s3 p = { portOf s2 p with csOut := cs } := by
    unfold s3
    split
    · exact ⟨_, portOf_updPort_same s2 p _⟩
    · exact ⟨_, rfl⟩
  obtain ⟨cs, h3⟩ := h3
  have h4 : portOf r p = portOf s3 p := by
    rw [← hr]
    split
    · refine foldl_keep (fun u => portOf u p) (fun u c => ?_) _ s3
      rfl
    · rfl
  exact ⟨_, cs, by rw [h4, h3, h2, h1]⟩

/-! A port that starts to train (R212, R340, R379). -/

/-- A port that was OFF takes the serving UDP port as stored (R379). -/
def takeUdpPort (s : State) (p : Nat) : State :=
  if (portOf s p).st = 0 then updPort s p fun x => { x with udpPort := dnum s 0x2600 1 20057 } else s

theorem takeUdpPort_shape (p : Nat) : ∃ ports, takeUdpPort s p = { s with fabric := { s.fabric with ports := ports } } := by
  unfold takeUdpPort
  split <;> exact ⟨_, rfl⟩

theorem takeUdpPort_kept (p : Nat) : localCause (takeUdpPort s p) p = localCause s p ∧ (takeUdpPort s p).dev = s.dev ∧
    (takeUdpPort s p).clock = s.clock := by
  obtain ⟨ports, e⟩ := takeUdpPort_shape s p
  rw [e]
  exact ⟨rfl, rfl, rfl⟩

/-- The port trains unless a cause, KEEP-ALIVE or a lost reference holds it DOWN. -/
def beginTraining (s : State) (p : Nat) : State :=
  if localCause s p ≠ 0 then setPort s p 1 (localCause s p)
  else if s.dev.st = .keepAlive && personality s p ≠ 1 then setPort s p 1 0
  else if !s.clock.locked || (1 ≤ s.clock.holdStep && s.clock.holdStep ≤ 6) then setPort s p 1 0
  else
    let u := setPort s p 2 0
    if personality u p = 1 || personality u p = 2 then emit u (.block p (trainBlock u p)) else u

theorem startTraining_eq (p : Nat) : startTraining s p = beginTraining (takeUdpPort s p) p := rfl

theorem startTraining_trains {p : Nat} (hc : localCause s p = 0) (hl : s.clock.locked = true) (h0 : s.clock.holdStep = 0)
    (hk : s.dev.st ≠ .keepAlive) : (portOf (startTraining s p) p).st = 2 := by
  obtain ⟨hcause, hdev, hclock⟩ := takeUdpPort_kept s p
  rw [startTraining_eq, beginTraining, hcause, hdev, hclock, if_neg (not_not.mpr hc), if_neg (by simp [hk]),
    if_neg (by simp [hl, h0])]
  dsimp only
  split
  · rw [portOf_emit, portOf_setPort_same]
  · rw [portOf_setPort_same]

theorem startTraining_held {p : Nat} (hc : localCause s p ≠ 0) :
    (portOf (startTraining s p) p).st = 1 ∧ (portOf (startTraining s p) p).cause = localCause s p := by
  obtain ⟨hcause, -, -⟩ := takeUdpPort_kept s p
  rw [startTraining_eq, beginTraining, hcause, if_pos hc, portOf_setPort_same]
  exact ⟨rfl, rfl⟩

theorem startTraining_unclocked {p : Nat} (hc : localCause s p = 0) (hl : s.clock.locked = false) :
    (portOf (startTraining s p) p).st = 1 := by
  obtain ⟨hcause, -, hclock⟩ := takeUdpPort_kept s p
  rw [startTraining_eq, beginTraining, hcause, hclock, if_neg (not_not.mpr hc)]
  split
  · rw [portOf_setPort_same]
  · rw [if_pos (by simp [hl]), portOf_setPort_same]

/-! A port in service that trains again (R339, R343). -/

theorem retrainPort_eq (p : Nat) : ∃ u, portOf u p = { portOf s p with
      st := 2, refused := none, refusals := 0, partnerReady := false
      ctr := { (portOf s p).ctr with retrains := ((portOf s p).ctr.retrains + 1) % 2 ^ 32 } } ∧
    retrainPort s p = if personality s p = 1 || personality s p = 2 then emit u (.block p (trainBlock u p)) else u := by
  refine ⟨_, ?_, Eq.trans rfl (if_congr (by rw [personality_setPort]; exact Iff.rfl) rfl rfl)⟩
  rw [portOf_setPort_same, portOf_updPort_same, updPortCtr, portOf_updPort_same]
  rfl

theorem portOf_retrainPort (p : Nat) : portOf (retrainPort s p) p = { portOf s p with
    st := 2, refused := none, refusals := 0, partnerReady := false
    ctr := { (portOf s p).ctr with retrains := ((portOf s p).ctr.retrains + 1) % 2 ^ 32 } } := by
  obtain ⟨u, hu, e⟩ := retrainPort_eq s p
  rw [e, ← hu]
  split <;> rfl

theorem retrainPort_block {p : Nat} (h : personality s p = 1 ∨ personality s p = 2) :
    ∃ u, retrainPort s p = emit u (.block p (trainBlock u p)) := by
  obtain ⟨u, -, e⟩ := retrainPort_eq s p
  exact ⟨u, e.trans (if_pos (by simpa using h))⟩

end Sys2Proof.Proofs
end

section
/-! PROOFS. Port states: enabling, training, retraining and rim segments (R26, R316, R335, R339, R340, R346, R351, R352,
R364). -/

namespace Sys2Proof.Proofs

open Sys2Proof.Machine Sys2Proof.Laws

variable {s : State}

/-! ENABLE written (R340, R409, R428). -/

/-- A number written to a stored object that takes it (R409). -/
theorem writeReq_stored {q : Req} {i sub v : Nat} (h : NewWrite s q i sub v) (hr : isRws i sub = true) :
    writeReq s q i sub v = acked (writeStored s q.src i sub v).1 q 2 i sub (writeStored s q.src i sub v).2 := by
  obtain ⟨hnew, hok⟩ := h
  have hnum : writeNumber s q.src i sub v none [] = writeStored s q.src i sub v := by
    rw [writeNumber, hok, if_neg (by decide), if_pos hr]
  rw [writeReq, onWrite_new hnew, hnum]

/-- A value that the store takes is in force (R428). -/
theorem storeVal_taken {i sub : Nat} {v : Val} {w : State} (after : State → State)
    (h : appendRec s (recordOf (objKey i sub) s.store.seq v) = (w, true)) : storeVal s i sub v after =
      (after { w with dict := { w.dict with vals := smSet w.dict.vals (objKey i sub) v } }, stOk) := by
  rw [storeVal, h]

section
variable {p v : Nat} (hp : p < 32)
include hp

theorem isRws_enable : isRws (0x3000 + p) 4 = true := by
  have hall : ∀ p < 32, isRws (0x3000 + p) 4 = true := by decide
  exact hall p hp

theorem afterStore_enable (s0 s : State) :
    afterStore s0 s (0x3000 + p) 4 v = writeEnable s p v (portEnabled s0 p) := by
  have hi : 0x3000 ≤ 0x3000 + p ∧ 0x3000 + p < 0x3020 := by omega
  unfold afterStore
  split
  case h_5 => rw [if_pos hi, if_pos rfl, Nat.add_sub_cancel_left]
  all_goals omega

theorem writeStored_enable {w : State} {src : Nat}
    (h : appendRec s (recordOf (objKey (0x3000 + p) 4) s.store.seq (.num v)) = (w, true)) :
    writeStored s src (0x3000 + p) 4 v = (writeEnable { w with dict := { w.dict with
      vals := smSet w.dict.vals (objKey (0x3000 + p) 4) (.num v) } } p v (portEnabled s p), stOk) := by
  have hfree : needsDisabled 4 = false := by decide
  rw [writeStored, if_neg (by omega), if_neg (by simp [hfree]), storeVal_taken _ h, afterStore_enable hp]

theorem writeReq_enable {q : Req} {w : State} (hw : NewWrite s q (0x3000 + p) 4 v)
    (h : appendRec s (recordOf (objKey (0x3000 + p) 4) s.store.seq (.num v)) = (w, true)) :
    writeReq s q (0x3000 + p) 4 v = acked (writeEnable { w with dict := { w.dict with
      vals := smSet w.dict.vals (objKey (0x3000 + p) 4) (.num v) } } p v (portEnabled s p)) q 2 (0x3000 + p) 4 stOk := by
  rw [writeReq_stored hw (isRws_enable hp), writeStored_enable hp h]

theorem portEnable_next {q : Req} {w : State} (hw : NewWrite s q (0x3000 + p) 4 1)
    (h : appendRec s (recordOf (objKey (0x3000 + p) 4) s.store.seq (.num 1)) = (w, true)) (he : portEnabled s p = false) :
    exec (.portEnable q p) s = .next (acked (recheckSets (portStart { w with dict := { w.dict with
      vals := smSet w.dict.vals (objKey (0x3000 + p) 4) (.num 1) } } p)) q 2 (0x3000 + p) 4 stOk) := by
  refine congrArg Host.Outcome.next ?_
  rw [member, if_pos hp, writeReq_enable hp hw h, writeEnable, if_pos rfl, he, if_neg Bool.false_ne_true]

theorem portDisable_next {q : Req} {w : State} (hw : NewWrite s q (0x3000 + p) 4 0)
    (h : appendRec s (recordOf (objKey (0x3000 + p) 4) s.store.seq (.num 0)) = (w, true)) :
    exec (.portDisable q p) s = .next (acked (recheckSets (portStop { w with dict := { w.dict with
      vals := smSet w.dict.vals (objKey (0x3000 + p) 4) (.num 0) } } p)) q 2 (0x3000 + p) 4 stOk) := by
  refine congrArg Host.Outcome.next ?_
  rw [member, if_pos hp, writeReq_enable hp hw h, writeEnable, if_neg (by decide)]
end

/-! Training done (R337, R339, R351, R352, R370). -/

/-- Port `p` of a running rim is TRAINING. -/
structure Training (s : State) (p : Nat) : Prop where
  runs : rimRuns s = true
  port : p < 32
  st : (portOf s p).st = 2

theorem Training.ready {p : Nat} (h : Training s p) : ¬(!rimRuns s || p ≥ 32 || (portOf s p).st ≠ 2) = true := by
  obtain ⟨hr, hp, hs⟩ := h
  simp [hr, hp, hs]

/-- The partner that a TRAIN block has named is known (R351). -/
def knowPartner (s : State) (p : Nat) (x : Partner) : State := updPort s p fun y => { y with partner := some x }

/-- What holds a port DOWN beside its partner: its own configuration's cause, else its partner's (R339, R351). -/
def trainingCause (s : State) (p : Nat) (x : Partner) : Nat :=
  if localCause s p ≠ 0 then localCause s p else partnerCause s p x

/-- Other members of the port's trunk carry traffic (R352). -/
def othersCarry (s : State) (p : Nat) : Bool :=
  personality s p = 1 && (trunkMembers s (trunkBase s p)).any fun q => q ≠ p && inService s q

/-- A port takes the lanes of its training, and counts a change of them (R337, R352). -/
def takeLanes (s : State) (p : Nat) (tx rx : List Nat) : State :=
  let changed := (portOf s p).saved && (portOf s p).txLanes ≠ 0
    && ((portOf s p).txLanes ≠ laneMask tx || (portOf s p).rxLanes ≠ laneMask rx)
  let u := if changed then updPortCtr s p fun c => { c with laneChanges := (c.laneChanges + 1) % 2 ^ 32 } else s
  updPort u p fun y => { y with
    saved := true, txLanes := laneMask tx, rxLanes := laneMask rx
    joinAt := if !othersCarry s p then none else some (if y.partnerReady then nextJoin u p else 65536) }

/-- A port enters service with its lanes; one whose trunk carries traffic says that it is ready (R339, R352). -/
def serveLanes (s : State) (p : Nat) (tx rx : List Nat) : State :=
  let u := enterService (takeLanes s p tx rx) p (if tx.length = 16 && rx.length = 16 then 3 else 4)
  if othersCarry s p then emit u (.block p (trainBlock u p)) else u

section
variable {p tx rx : Nat}

/-- Without a TRAIN block of its partner a port goes DOWN (R339). -/
theorem portTrainingDone_unheard (h : Training s p) (hq : personality s p ≠ 3) (hx : (portOf s p).heard = none) :
    exec (.portTrainingDone p tx rx) s = .next (setPort (equalise s p) p 1 0) := by
  obtain ⟨_, he⟩ := portOf_equalise s p
  have hx : (portOf (equalise s p) p).heard = none := by rw [he, hx]
  refine (next_neg h.ready).trans (congrArg Host.Outcome.next ((if_neg hq).trans ?_))
  rw [hx]

/-- With its partner known, a port goes DOWN by a cause, FAILED without lanes, or enters service (R337, R339, R351). -/
theorem portTrainingDone_heard {x : Partner} (h : Training s p) (hq : personality s p ≠ 3)
    (hx : (portOf s p).heard = some x) :
    let known := knowPartner (equalise s p) p x
    exec (.portTrainingDone p tx rx) s = .next (
      if trainingCause known p x ≠ 0 then setPort known p 1 (trainingCause known p x)
      else if chooseLanes tx = [] || chooseLanes rx = [] then setPort known p 5 4
      else serveLanes known p (chooseLanes tx) (chooseLanes rx)) := by
  obtain ⟨_, he⟩ := portOf_equalise s p
  have hx : (portOf (equalise s p) p).heard = some x := by rw [he, hx]
  refine (next_neg h.ready).trans (congrArg Host.Outcome.next ((if_neg hq).trans ?_))
  rw [hx]
  rfl

theorem portOf_knowPartner (x : Partner) : ∃ e, portOf (knowPartner (equalise s p) p x) p =
    { portOf s p with equal := e, partner := some x } := by
  obtain ⟨e, he⟩ := portOf_equalise s p
  exact ⟨e, by rw [knowPartner, portOf_updPort_same, he]⟩

theorem takeLanes_aside (s : State) (p : Nat) (tx rx : List Nat) : Aside s (takeLanes s p tx rx) := by
  unfold takeLanes
  extract_lets -underBinder -merge -useContext +onlyGivenNames changed u
  refine Aside.trans (t := u) ?_ (updPort_aside u p _)
  unfold u
  split
  · exact updPort_aside _ _ _
  · exact .rfl

theorem portOf_takeLanes (s : State) (p : Nat) (tx rx : List Nat) : ∃ c j, portOf (takeLanes s p tx rx) p =
    { portOf s p with saved := true, txLanes := laneMask tx, rxLanes := laneMask rx, joinAt := j, ctr := c } := by
  generalize hr : takeLanes s p tx rx = r
  unfold takeLanes at hr
  extract_lets -underBinder -merge -useContext +onlyGivenNames changed u at hr
  have hu : ∃ c, portOf u p = { portOf s p with ctr := c } := by
    unfold u
    split
    · exact ⟨_, portOf_updPort_same s p _⟩
    · exact ⟨_, rfl⟩
  obtain ⟨c, hu⟩ := hu
  exact ⟨c, _, by rw [← hr, portOf_updPort_same, hu]⟩

theorem serveLanes_aside (s : State) (p : Nat) (tx rx : List Nat) : Aside s (serveLanes s p tx rx) := by
  have h := (takeLanes_aside s p tx rx).trans (enterService_aside _ p (if tx.length = 16 && rx.length = 16 then 3 else 4))
  unfold serveLanes
  dsimp only
  split
  · exact h.trans (emit_aside _ _)
  · exact h

theorem portOf_serveLanes_enters (s : State) (p : Nat) (tx rx : List Nat) : portOf (serveLanes s p tx rx) p =
    portOf (enterService (takeLanes s p tx rx) p (if tx.length = 16 && rx.length = 16 then 3 else 4)) p := by
  unfold serveLanes
  dsimp only
  split
  · exact portOf_emit _ p _
  · rfl

theorem portOf_serveLanes (s : State) (p : Nat) (tx rx : List Nat) :
    (portOf (serveLanes s p tx rx) p).txLanes = laneMask tx ∧ (portOf (serveLanes s p tx rx) p).rxLanes = laneMask rx ∧
      (portOf (serveLanes s p tx rx) p).partner = (portOf s p).partner ∧
      (portOf (serveLanes s p tx rx) p).st = (if tx.length = 16 && rx.length = 16 then 3 else 4) ∧
      (portOf (serveLanes s p tx rx) p).resend = (portOf s p).replay := by
  obtain ⟨c, j, ht⟩ := portOf_takeLanes s p tx rx
  obtain ⟨d, cs, he⟩ := portOf_enterService (takeLanes s p tx rx) p (if tx.length = 16 && rx.length = 16 then 3 else 4)
  rw [portOf_serveLanes_enters, he, ht]
  exact ⟨rfl, rfl, rfl, rfl, rfl⟩

theorem portTrainingDone_serves {x : Partner} (h : Training s p) (hq : personality s p ≠ 3)
    (hx : (portOf s p).heard = some x) (hc : trainingCause (knowPartner (equalise s p) p x) p x = 0)
    (ht : chooseLanes tx ≠ []) (hr : chooseLanes rx ≠ []) :
    ∃ u, exec (.portTrainingDone p tx rx) s = .next u ∧ (portOf u p).txLanes = laneMask (chooseLanes tx) ∧
      (portOf u p).rxLanes = laneMask (chooseLanes rx) ∧ (portOf u p).partner = some x ∧
      (portOf u p).st = (if (chooseLanes tx).length = 16 ∧ (chooseLanes rx).length = 16 then 3 else 4) ∧
      (portOf u p).resend = (portOf s p).replay ∧ u.mem = s.mem ∧ u.tiles = s.tiles := by
  obtain ⟨_, hk⟩ := portOf_knowPartner (s := s) (p := p) x
  obtain ⟨htx, hrx, hpart, hst, hres⟩ :=
    portOf_serveLanes (knowPartner (equalise s p) p x) p (chooseLanes tx) (chooseLanes rx)
  have ha : Aside s (serveLanes (knowPartner (equalise s p) p x) p (chooseLanes tx) (chooseLanes rx)) :=
    (equalise_aside s p).trans ((updPort_aside _ p _).trans (serveLanes_aside _ p _ _))
  refine ⟨_, (portTrainingDone_heard h hq hx).trans (congrArg Host.Outcome.next ((if_neg (not_not.mpr hc)).trans
    (if_neg (by simp [ht, hr])))), htx, hrx, ?_, ?_, ?_, ha.mem, ha.tiles⟩
  · rw [hpart, hk]
  · simpa using hst
  · rw [hres, hk]

/-- An Ethernet port that has trained is in service with one interface whose lanes all pass, else DOWN (R337, R370). -/
theorem portTrainingDone_ethernet {k gen : Nat} {lanes : Nat → List Nat} (h : Training s p) (hq : personality s p = 3)
    (hm : ethModeInfo (ethMode s p) = some (k, lanes, gen)) : ∃ u, exec (.portTrainingDone p tx rx) s = .next u ∧
      (portOf u p).st = (if ∃ i < k, ∀ l ∈ lanes i, bit tx l = true ∧ bit rx l = true then 3 else 1) ∧
      (portOf u p).txLanes = laneMask (((List.range k).flatMap lanes).filter (bit tx)) ∧
      (portOf u p).rxLanes = laneMask (((List.range k).flatMap lanes).filter (bit rx)) ∧ u.mem = s.mem ∧ u.tiles = s.tiles := by
  let own := (List.range k).flatMap lanes
  let v := updPort (equalise s p) p fun x => { x with
    saved := true, txLanes := laneMask (own.filter (bit tx)), rxLanes := laneMask (own.filter (bit rx)) }
  have hv : Aside s v := (equalise_aside s p).trans (updPort_aside _ p _)
  have hport : portOf v p = { portOf (equalise s p) p with
      saved := true, txLanes := laneMask (own.filter (bit tx)), rxLanes := laneMask (own.filter (bit rx)) } :=
    portOf_updPort_same _ p _
  have hany : ((List.range k).any fun i => (lanes i).all fun l => bit tx l && bit rx l) = true ↔
      ∃ i < k, ∀ l ∈ lanes i, bit tx l = true ∧ bit rx l = true := by simp
  have hexec : exec (.portTrainingDone p tx rx) s = .next (
      if (List.range k).any fun i => (lanes i).all fun l => bit tx l && bit rx l then enterService v p 3
      else setPort v p 1 0) := by
    have hm : ethModeInfo (ethMode (equalise s p) p) = some (k, lanes, gen) := hm
    refine (next_neg h.ready).trans (congrArg Host.Outcome.next ((if_pos hq).trans ?_))
    rw [hm]
  refine ⟨_, hexec, ?_⟩
  by_cases hup : ∃ i < k, ∀ l ∈ lanes i, bit tx l = true ∧ bit rx l = true
  · obtain ⟨_, _, he⟩ := portOf_enterService v p 3
    have ha := hv.trans (enterService_aside v p 3)
    rw [if_pos (hany.mpr hup), if_pos hup, he, hport]
    exact ⟨rfl, rfl, rfl, ha.mem, ha.tiles⟩
  · have ha := hv.trans (setPort_aside v p 1 0)
    rw [if_neg (mt hany.mp hup), if_neg hup, portOf_setPort_same, hport]
    exact ⟨rfl, rfl, rfl, ha.mem, ha.tiles⟩
end

/-! A port trains again (R339, R351). -/

theorem causeCeased_down {p : Nat} (h : causeCeased s p = true) : portEnabled s p = true ∧ (portOf s p).st = 1 := by
  simp only [causeCeased, Bool.and_eq_true, decide_eq_true_eq] at h
  obtain ⟨⟨⟨⟨⟨he, hs⟩, -⟩, -⟩, -⟩, -⟩ := h
  exact ⟨he, hs⟩

section
variable {p : Nat} (hr : rimRuns s = true) (hp : p < 32)
include hr hp

theorem portTrainingRetry_next (hs : (portOf s p).st = 5) (he : portEnabled s p = true) :
    exec (.portTrainingRetry p) s = .next (startTraining (forgetPartner s p) p) :=
  congrArg Host.Outcome.next (if_pos (by simp [hr, hp, hs, he]))

theorem partnerSignalDetected_free (hs : (portOf s p).st = 1) (hc : (portOf s p).cause = 0) (he : portEnabled s p = true) :
    exec (.partnerSignalDetected p) s = .next (startTraining (forgetPartner s p) p) :=
  congrArg Host.Outcome.next ((if_neg (by simp [hr, hp, hs, he])).trans (if_pos hc))

theorem partnerSignalDetected_ceased (hc : (portOf s p).cause ≠ 0) (hx : causeCeased s p = true) :
    exec (.partnerSignalDetected p) s = .next (startTraining s p) := by
  obtain ⟨he, hs⟩ := causeCeased_down hx
  exact congrArg Host.Outcome.next ((if_neg (by simp [hr, hp, hs, he])).trans ((if_neg hc).trans (if_pos hx)))

theorem portRetrain_next {lane : Nat} (hs : inService s p = true) (hl : bit (portOf s p).rxLanes lane = true) :
    exec (.portRetrain p lane) s = .next (retrainPort s p) :=
  congrArg Host.Outcome.next (if_pos (by simp [hr, hp, hs, hl]))
end

/-! Rim segments (R26, R316). -/

section
variable {ring seg : Nat} (hr : rimRuns s = true) (h2 : ring < 2) (hs : seg < 32) (hn : (ring, seg) ∉ s.fabric.rimDown)
include hr h2 hs hn

/-- A segment that fails is reported where the other ring lost it too, else the other ring takes the traffic. -/
theorem rimSegmentFail_next :
    let cut := { s with fabric := { s.fabric with rimDown := s.fabric.rimDown ++ [(ring, seg)] } }
    exec (.rimSegmentFail ring seg) s =
      .next (if (1 - ring, seg) ∈ s.fabric.rimDown then report cut .toFault else rimReroute cut ring) := by
  have hother : 1 - ring ≠ ring := by omega
  have hc : ¬(!rimRuns s || ring ≥ 2 || seg ≥ 32 || s.fabric.rimDown.contains (ring, seg)) = true := by
    simp [hr, h2, hs, hn]
  exact (next_neg hc).trans (congrArg Host.Outcome.next (if_congr (by simp [hother]) rfl rfl))
end

/-- Settles O49: each clause by the lemma of its command or of the operation it names. -/
theorem portStates : Obligations.PortStates := by
  intro s p tx rx ring seg lane q x index stored tuned known cause trains knows forgot cut
  have htrains : trains → Training s p ∧ personality s p ≠ 3 := fun ⟨hr, hp, hs, hq⟩ => ⟨⟨hr, hp, hs⟩, hq⟩
  refine ⟨fun w hp => portEnable_next hp, fun w hp => portDisable_next hp, fun h => ?_, fun k lanes gen hr hp hs => ?_,
    fun ⟨h, hx⟩ hc => ?_, fun ⟨h, hx⟩ hc hl => ?_, fun ⟨h, hx⟩ hc => ?_, portTrainingRetry_next, partnerSignalDetected_free,
    partnerSignalDetected_ceased, fun hr hp hs hl => ⟨_, portRetrain_next hr hp hs hl, rfl⟩, ?_, retrainPort_block s,
    startTraining_trains s, startTraining_held s, startTraining_unclocked s, fun hr h2 hs hn ho => ?_,
    fun hr h2 hs hn ho => ?_⟩
  · obtain ⟨ht, hq⟩ := htrains h
    exact portTrainingDone_unheard ht hq
  · exact portTrainingDone_ethernet ⟨hr, hp, hs⟩
  · obtain ⟨ht, hq⟩ := htrains h
    exact (portTrainingDone_heard ht hq hx).trans (congrArg Host.Outcome.next (if_pos hc))
  · obtain ⟨ht, hq⟩ := htrains h
    exact (portTrainingDone_heard ht hq hx).trans (congrArg Host.Outcome.next ((if_neg (not_not.mpr hc)).trans
      (if_pos (by simpa using hl))))
  · obtain ⟨ht, hq⟩ := htrains h
    exact portTrainingDone_serves ht hq hx hc
  · rw [portOf_retrainPort]
    exact ⟨rfl, rfl, rfl, rfl, rfl, rfl⟩
  · rw [rimSegmentFail_next hr h2 hs hn, if_neg ho]
  · rw [rimSegmentFail_next hr h2 hs hn, if_pos ho]

end Sys2Proof.Proofs
end

section
/-! PROOFS. The invariant of every step: each command by what its meaning keeps, the tick of an empty queue too (R63, R71, R453). -/

namespace Sys2Proof.Proofs

open Sys2Proof.Machine Sys2Proof.Laws

/-- What Laws/Keeps.lean says holds of every command, by the lemma of its meaning. -/
theorem exec_keeps (c : Instr) (s : State) : KeepsR s (exec c s) := by
  cases c with
  | auxSupplyInRange => exact execAuxSupplyInRange_keeps .rfl
  | auxSupplyLost => exact execAuxSupplyLost_keeps .rfl
  | vin54OutOfRange => exact execVin54OutOfRange_keeps .rfl
  | vin54BackInRange => exact execVin54BackInRange_keeps .rfl
  | rstNFall => exact execRstNFall_keeps .rfl
  | rstNRelease => exact execRstNRelease_keeps .rfl
  | resetStagesOffExpiry => exact execResetStagesOffExpiry_keeps .rfl
  | eyepiecePairLost => exact execEyepiecePairLost_keeps .rfl
  | decisionCycle => exact execDecisionCycle_keeps .rfl
  | crystalQualWindowEnd => exact execCrystalQualWindowEnd_keeps .rfl
  | crystalNotStable => exact execCrystalNotStable_keeps .rfl
  | refclkQualified => exact execRefclkQualified_keeps .rfl
  | pllLocked => exact execPllLocked_keeps .rfl
  | referenceLost => exact execReferenceLost_keeps .rfl
  | safeHoldEntry => exact execSafeHoldEntry_keeps .rfl
  | referenceReturned => exact execReferenceReturned_keeps .rfl
  | safeHoldUngate => exact execSafeHoldUngate_keeps .rfl
  | safeHoldReturn => exact execSafeHoldReturn_keeps .rfl
  | safeHoldTimeout => exact execSafeHoldTimeout_keeps .rfl
  | generatorSwitchover => exact execGeneratorSwitchover_keeps .rfl
  | clockGeneratorFail => exact execClockGeneratorFail_keeps .rfl
  | droopStretch => exact execDroopStretch_keeps .rfl
  | crossingTokenRelease => exact execCrossingTokenRelease_keeps .rfl
  | temperatureSample => exact execTemperatureSample_keeps .rfl
  | fetchInstruction => exact execFetchInstruction_keeps .rfl
  | coreLoad => exact execCoreLoad_keeps .rfl
  | coreStore => exact execCoreStore_keeps .rfl
  | coreCompute => exact execCoreCompute_keeps .rfl
  | fence => exact execFence_keeps .rfl
  | fenceI => exact execFenceI_keeps .rfl
  | wfi => exact execWfi_keeps .rfl
  | ecall => exact execEcall_keeps .rfl
  | ebreak => exact execEbreak_keeps .rfl
  | mret => exact execMret_keeps .rfl
  | csrInstruction => exact execCsrInstruction_keeps .rfl
  | csrReadLowLatch => exact execCsrReadLowLatch_keeps .rfl
  | taskWindowWrite => exact execTaskWindowWrite_keeps .rfl
  | taskCtlRst => exact execTaskCtlRst_keeps .rfl
  | ringOpen => exact execRingOpen_keeps .rfl
  | ringClose => exact execRingClose_keeps .rfl
  | ringHeadWrite => exact execRingHeadWrite_keeps .rfl
  | ringEpochWrite => exact execRingEpochWrite_keeps .rfl
  | beamMaskWrite => exact execBeamMaskWrite_keeps .rfl
  | dirtyValClear => exact execDirtyValClear_keeps .rfl
  | fflagsXClear => exact execFflagsXClear_keeps .rfl
  | faultCauseClear => exact execFaultCauseClear_keeps .rfl
  | msgSend => exact execMsgSend_keeps .rfl
  | msgSendi => exact execMsgSendi_keeps .rfl
  | msgAvail => exact execMsgAvail_keeps .rfl
  | msgFence => exact execMsgFence_keeps .rfl
  | bmArrive => exact execBmArrive_keeps .rfl
  | bmTest => exact execBmTest_keeps .rfl
  | bmWait => exact execBmWait_keeps .rfl
  | slWait => exact execSlWait_keeps .rfl
  | mxRun => exact execMxRun_keeps .rfl
  | mxRuni => exact execMxRuni_keeps .rfl
  | mxFence => exact execMxFence_keeps .rfl
  | mxCount => exact execMxCount_keeps .rfl
  | pzRun => exact execPzRun_keeps .rfl
  | pzRuni => exact execPzRuni_keeps .rfl
  | pzFence => exact execPzFence_keeps .rfl
  | pzCount => exact execPzCount_keeps .rfl
  | tkStart => exact execTkStart_keeps .rfl
  | tkExit => exact execTkExit_keeps .rfl
  | tkYield => exact execTkYield_keeps .rfl
  | tkReset => exact execTkReset_keeps .rfl
  | tkWdog => exact execTkWdog_keeps .rfl
  | tbSnap => exact execTbSnap_keeps .rfl
  | tbWake => exact execTbWake_keeps .rfl
  | tbCancel => exact execTbCancel_keeps .rfl
  | tbNotify => exact execTbNotify_keeps .rfl
  | tbNotifyi => exact execTbNotifyi_keeps .rfl
  | ltSwitch => exact execLtSwitch_keeps .rfl
  | ltLdcfg => exact execLtLdcfg_keeps .rfl
  | wakeTimerFire => exact execWakeTimerFire_keeps .rfl
  | watchdogExpiry => exact execWatchdogExpiry_keeps .rfl
  | patrolRead => exact execPatrolRead_keeps .rfl
  | mxdCheck => exact execMxdCheck_keeps .rfl
  | matrixCompletion => exact execMatrixCompletion_keeps .rfl
  | residueMx => exact execResidueMx_keeps .rfl
  | pzdCheck => exact execPzdCheck_keeps .rfl
  | prismCompletion => exact execPrismCompletion_keeps .rfl
  | residuePz => exact execResiduePz_keeps .rfl
  | step => exact execStep_keeps .rfl
  | stallEvent => exact execStallEvent_keeps .rfl
  | latticeTokenArrival => exact execLatticeTokenArrival_keeps .rfl
  | routedForward => exact execRoutedForward_keeps .rfl
  | pairingQueueMove => exact execPairingQueueMove_keeps .rfl
  | planeSwap => exact execPlaneSwap_keeps .rfl
  | packetInject => exact execPacketInject_keeps .rfl
  | flitGrant => exact execFlitGrant_keeps .rfl
  | flitReceive => exact execFlitReceive_keeps .rfl
  | replayRequest => exact execReplayRequest_keeps .rfl
  | linkRetrain => exact execLinkRetrain_keeps .rfl
  | broadcastFlood => exact execBroadcastFlood_keeps .rfl
  | packetEject => exact execPacketEject_keeps .rfl
  | vc2Merge => exact execVc2Merge_keeps .rfl
  | reductionPacketArrival => exact execReductionPacketArrival_keeps .rfl
  | reductionComplete => exact execReductionComplete_keeps .rfl
  | sendQueueValidate => exact execSendQueueValidate_keeps .rfl
  | msgInjection => exact execMsgInjection_keeps .rfl
  | msgArrival => exact execMsgArrival_keeps .rfl
  | holdRegisterRetry => exact execHoldRegisterRetry_keeps .rfl
  | holdTimeout => exact execHoldTimeout_keeps .rfl
  | ringTailUpdate => exact execRingTailUpdate_keeps .rfl
  | ackArrival => exact execAckArrival_keeps .rfl
  | readReplyArrival => exact execReadReplyArrival_keeps .rfl
  | nakArrival => exact execNakArrival_keeps .rfl
  | senderTimeout => exact execSenderTimeout_keeps .rfl
  | remoteWrite => exact execRemoteWrite_keeps .rfl
  | remoteRead => exact execRemoteRead_keeps .rfl
  | controlSpaceAccess => exact execControlSpaceAccess_keeps .rfl
  | beamRelease => exact execBeamRelease_keeps .rfl
  | beamCopyFail => exact execBeamCopyFail_keeps .rfl
  | beamUpFrameRx => exact execBeamUpFrameRx_keeps .rfl
  | beamReleaseFrameRx => exact execBeamReleaseFrameRx_keeps .rfl
  | beamBlockRepeat => exact execBeamBlockRepeat_keeps .rfl
  | tbResync => exact execTbResync_keeps .rfl
  | tbReferenceMeasure => exact execTbReferenceMeasure_keeps .rfl
  | tbHoldover => exact execTbHoldover_keeps .rfl
  | ppsEdge => exact execPpsEdge_keeps .rfl
  | ptpMessage => exact execPtpMessage_keeps .rfl
  | ppsOutPulse => exact execPpsOutPulse_keeps .rfl
  | timeBlockTx => exact execTimeBlockTx_keeps .rfl
  | timeBlockRx => exact execTimeBlockRx_keeps .rfl
  | timedActionArm => exact execTimedActionArm_keeps .rfl
  | timedActionCancel => exact execTimedActionCancel_keeps .rfl
  | timedActionDistribute => exact execTimedActionDistribute_keeps .rfl
  | timedResume => exact execTimedResume_keeps .rfl
  | timedSnapshot => exact execTimedSnapshot_keeps .rfl
  | timedSectionSwitch => exact execTimedSectionSwitch_keeps .rfl
  | timedBeamRelease => exact execTimedBeamRelease_keeps .rfl
  | timedPortEnable => exact execTimedPortEnable_keeps .rfl
  | timedReset => exact execTimedReset_keeps .rfl
  | snapshotIntervalTick => exact execSnapshotIntervalTick_keeps .rfl
  | eventFire => exact execEventFire_keeps .rfl
  | notifyRecordArrival => exact execNotifyRecordArrival_keeps .rfl
  | notifyEmit => exact execNotifyEmit_keeps .rfl
  | quiescePoint => exact execQuiescePoint_keeps .rfl
  | snapshotAbort => exact execSnapshotAbort_keeps .rfl
  | snapshotBlockCopy => exact execSnapshotBlockCopy_keeps .rfl
  | snapshotTileDone => exact execSnapshotTileDone_keeps .rfl
  | snapshotCommit => exact execSnapshotCommit_keeps .rfl
  | stashApply => exact execStashApply_keeps .rfl
  | fenceComplete => exact execFenceComplete_keeps .rfl
  | fieldFence => exact execFieldFence_keeps .rfl
  | voltageFault => exact execVoltageFault_keeps .rfl
  | thermalComparator => exact execThermalComparator_keeps .rfl
  | stewardFailover => exact execStewardFailover_keeps .rfl
  | standbyPlacement => exact execStandbyPlacement_keeps .rfl
  | recoveryStart => exact execRecoveryStart_keeps .rfl
  | recoveryRollback => exact execRecoveryRollback_keeps .rfl
  | recoveryRebind => exact execRecoveryRebind_keeps .rfl
  | recoveryWeightRebuild => exact execRecoveryWeightRebuild_keeps .rfl
  | recoveryRestore => exact execRecoveryRestore_keeps .rfl
  | recoveryArmResume => exact execRecoveryArmResume_keeps .rfl
  | migrationQuiesce => exact execMigrationQuiesce_keeps .rfl
  | migrationCopy => exact execMigrationCopy_keeps .rfl
  | migrationSwitchOff => exact execMigrationSwitchOff_keeps .rfl
  | migrationReplace => exact execMigrationReplace_keeps .rfl
  | migrationTimeout => exact execMigrationTimeout_keeps .rfl
  | retrainRegion => exact execRetrainRegion_keeps .rfl
  | clearDeadMark => exact execClearDeadMark_keeps .rfl
  | scratchpadScrub => exact execScratchpadScrub_keeps .rfl
  | rimSegmentFail => exact execRimSegmentFail_keeps .rfl
  | portEnable => exact execPortEnable_keeps .rfl
  | portDisable => exact execPortDisable_keeps .rfl
  | portTrainingDone => exact execPortTrainingDone_keeps .rfl
  | portTrainingRetry => exact execPortTrainingRetry_keeps .rfl
  | portRetrain => exact execPortRetrain_keeps .rfl
  | frameTx => exact execFrameTx_keeps .rfl
  | frameRx => exact execFrameRx_keeps .rfl
  | idleBlockRx => exact execIdleBlockRx_keeps .rfl
  | alignBlockRx => exact execAlignBlockRx_keeps .rfl
  | ackBlockRx => exact execAckBlockRx_keeps .rfl
  | nakBlockRx => exact execNakBlockRx_keeps .rfl
  | creditBlockRx => exact execCreditBlockRx_keeps .rfl
  | trainBlockRx => exact execTrainBlockRx_keeps .rfl
  | linkAckTimer => exact execLinkAckTimer_keeps .rfl
  | linkCreditTimer => exact execLinkCreditTimer_keeps .rfl
  | trunkMemberDown => exact execTrunkMemberDown_keeps .rfl
  | routeEntryWrite => exact execRouteEntryWrite_keeps .rfl
  | routeTableApply => exact execRouteTableApply_keeps .rfl
  | csRdata => exact execCsRdata_keeps .rfl
  | csWack => exact execCsWack_keeps .rfl
  | csCack => exact execCsCack_keeps .rfl
  | csInfor => exact execCsInfor_keeps .rfl
  | arpRequest => exact execArpRequest_keeps .rfl
  | neighbourSolicitation => exact execNeighbourSolicitation_keeps .rfl
  | icmpEchoRequest => exact execIcmpEchoRequest_keeps .rfl
  | udpDatagramRx => exact execUdpDatagramRx_keeps .rfl
  | ethFrameDiscard => exact execEthFrameDiscard_keeps .rfl
  | gatewayResolve => exact execGatewayResolve_keeps .rfl
  | egressSegment => exact execEgressSegment_keeps .rfl
  | egressReassemblyTimeout => exact execEgressReassemblyTimeout_keeps .rfl
  | grpRequest => exact execGrpRequest_keeps .rfl
  | grpPromptMore => exact execGrpPromptMore_keeps .rfl
  | grpCancel => exact execGrpCancel_keeps .rfl
  | grpResend => exact execGrpResend_keeps .rfl
  | grpPing => exact execGrpPing_keeps .rfl
  | promptTimeout => exact execPromptTimeout_keeps .rfl
  | streamAdmit => exact execStreamAdmit_keeps .rfl
  | prefillChunkInject => exact execPrefillChunkInject_keeps .rfl
  | decodeTokenInject => exact execDecodeTokenInject_keeps .rfl
  | tokenSampled => exact execTokenSampled_keeps .rfl
  | slotLoad => exact execSlotLoad_keeps .rfl
  | slotLoadDone => exact execSlotLoadDone_keeps .rfl
  | slotServe => exact execSlotServe_keeps .rfl
  | slotStop => exact execSlotStop_keeps .rfl
  | slotUnload => exact execSlotUnload_keeps .rfl
  | read => exact execRead_keeps .rfl
  | write => exact execWrite_keeps .rfl
  | dread => exact execDread_keeps .rfl
  | dopen => exact execDopen_keeps .rfl
  | dwrite => exact execDwrite_keeps .rfl
  | dcommit => exact execDcommit_keeps .rfl
  | dabort => exact execDabort_keeps .rfl
  | sessionTimeout => exact execSessionTimeout_keeps .rfl
  | readCopyExpiry => exact execReadCopyExpiry_keeps .rfl
  | heartbeat => exact execHeartbeat_keeps .rfl
  | heartbeatPeriodWrite => exact execHeartbeatPeriodWrite_keeps .rfl
  | dictWarmRestart => exact execDictWarmRestart_keeps .rfl
  | dictFullTrainingReset => exact execDictFullTrainingReset_keeps .rfl
  | alertSummaryClear => exact execAlertSummaryClear_keeps .rfl
  | restoreDefaults => exact execRestoreDefaults_keeps .rfl
  | storeCompaction => exact execStoreCompaction_keeps .rfl
  | logFlush => exact execLogFlush_keeps .rfl
  | logErase => exact execLogErase_keeps .rfl
  | loupeClearAll => exact execLoupeClearAll_keeps .rfl
  | loupeClearRegion => exact execLoupeClearRegion_keeps .rfl
  | ppsValueWrite => exact execPpsValueWrite_keeps .rfl
  | breakerPermit => exact execBreakerPermit_keeps .rfl
  | bringupStart => exact execBringupStart_keeps .rfl
  | fieldGroupPower => exact execFieldGroupPower_keeps .rfl
  | groupCalibrate => exact execGroupCalibrate_keeps .rfl
  | monitorBroadcast => exact execMonitorBroadcast_keeps .rfl
  | regionTraining => exact execRegionTraining_keeps .rfl
  | knownAnswerRun => exact execKnownAnswerRun_keeps .rfl
  | stewardStart => exact execStewardStart_keeps .rfl
  | readyCriteria => exact execReadyCriteria_keeps .rfl
  | updateBegin => exact execUpdateBegin_keeps .rfl
  | updateEraseDone => exact execUpdateEraseDone_keeps .rfl
  | imageChunkWrite => exact execImageChunkWrite_keeps .rfl
  | updateFetch => exact execUpdateFetch_keeps .rfl
  | updateVerify => exact execUpdateVerify_keeps .rfl
  | updateActivate => exact execUpdateActivate_keeps .rfl
  | updateCommit => exact execUpdateCommit_keeps .rfl
  | updateCancel => exact execUpdateCancel_keeps .rfl
  | revokeImageKey => exact execRevokeImageKey_keeps .rfl
  | attestationNonce => exact execAttestationNonce_keeps .rfl
  | attestationReady => exact execAttestationReady_keeps .rfl
  | debugToken => exact execDebugToken_keeps .rfl
  | debugUnlockEnd => exact execDebugUnlockEnd_keeps .rfl
  | programBundleKey => exact execProgramBundleKey_keeps .rfl
  | revokeBundleKey => exact execRevokeBundleKey_keeps .rfl
  | bundleFlashCopy => exact execBundleFlashCopy_keeps .rfl
  | bundleFlashCopyDone => exact execBundleFlashCopyDone_keeps .rfl
  | breakerTrip => exact execBreakerTrip_keeps .rfl
  | converterLost => exact execConverterLost_keeps .rfl
  | phaseLost => exact execPhaseLost_keeps .rfl
  | powerFuseTrip => exact execPowerFuseTrip_keeps .rfl
  | powerAverageRefresh => exact execPowerAverageRefresh_keeps .rfl
  | coolantSample => exact execCoolantSample_keeps .rfl
  | canBusOff => exact execCanBusOff_keeps .rfl
  | partnerSignalDetected => exact execPartnerSignalDetected_keeps .rfl
  | updateVerifyDone => exact execUpdateVerifyDone_keeps .rfl
  | regionRetrainDone => exact execRegionRetrainDone_keeps .rfl
  | gatewayResolutionReply => exact execGatewayResolutionReply_keeps .rfl

/-- The invariant holds behind whatever keeps memory, the maps and the fuses. -/
theorem keeps_inv {s t : State} (h : Keeps s t) (hs : s.Inv) : t.Inv :=
  ⟨h.mem hs.mem, h.regions hs.regions, h.tiles hs.tiles, h.fuses.last hs.keys⟩

/-- Settles O4: a tick where the queue is empty, else the command at its front on the state with the queue's rest. -/
theorem stepKeepsStateInvariant : Obligations.StepKeepsStateInvariant := by
  intro s t hs hstep
  cases hq : s.pending with
  | nil =>
    rw [step, hq] at hstep
    cases hstep
    exact keeps_inv (tick_keeps .rfl) hs
  | cons c rest =>
    rw [step, hq] at hstep
    exact keeps_inv (exec_keeps c _ t hstep) ⟨hs.mem, hs.regions, hs.tiles, hs.keys⟩

end Sys2Proof.Proofs
end

section
/-! PROOFS. Memory and the scratchpads (R63, R66, R69): what a write reads back and what it leaves, on other tiles and on its own. -/

namespace Sys2Proof.Proofs

open Sys2Proof.Machine Sys2Proof.Laws

/-! Memory. -/

theorem memRead_memWrite (m : Memory) (a x : Nat) (b : Byte) :
    memRead (memWrite m a b) x = if x = a then b else memRead m x := by
  split
  · next h => rw [h, memRead_memWrite_same]
  · next h => exact memRead_memWrite_ne m b h

/-- Bytes written leave those below and above them. -/
theorem memRead_memWrites_outside (m : Memory) {a x : Nat} (bs : List Byte) (h : x < a ∨ a + bs.length ≤ x) :
    memRead (memWrites m a bs) x = memRead m x := by
  induction bs generalizing m a with
  | nil => rfl
  | cons b bs ih =>
    rw [List.length_cons] at h
    rw [memWrites, ih _ (by omega), memRead_memWrite_ne _ _ (by omega)]

/-- A number read back as it was written (R66). -/
theorem leNat_natLe (n v : Nat) : leNat (natLe n v) = v % 256 ^ n := by
  induction n generalizing v with
  | zero => simp [natLe, leNat, Nat.mod_one]
  | succ n ih =>
    simp only [natLe, leNat, ih]
    rw [pow_succ', Nat.mod_mul]
    simp

/-! Tracking bits. -/

theorem markDirty_cons (d : BitVec 256) (c : Nat) (bs : List Nat) :
    markDirty d (c :: bs) = markDirty (d ||| BitVec.twoPow 256 c) bs := rfl

theorem markDirty_keeps {bs : List Nat} {d : BitVec 256} {b : Nat} (h : d.getLsbD b = true) :
    (markDirty d bs).getLsbD b = true := by
  induction bs generalizing d with
  | nil => exact h
  | cons c bs ih =>
    rw [markDirty_cons]
    exact ih (by simp [h])

theorem markDirty_sets {bs : List Nat} {b : Nat} (d : BitVec 256) (hb : b < 256) (h : b ∈ bs) :
    (markDirty d bs).getLsbD b = true := by
  induction bs generalizing d with
  | nil => cases h
  | cons c bs ih =>
    rw [markDirty_cons]
    obtain rfl | h := List.mem_cons.mp h
    · exact markDirty_keeps (by rw [BitVec.getLsbD_or, BitVec.getLsbD_twoPow]; simp [hb])
    · exact ih _ h

/-! Other tiles. -/

variable {s : State} {t t' : Nat}

section
variable (ht : t' ≠ t)
include ht

theorem bulkWrite_other (a : Nat) (bs : List Byte) : tileOf (bulkWrite s t a bs) t' = tileOf s t' := by
  rw [bulkWrite, queueOut, updMsg, tileOf_updTile_ne _ _ ht, tileOf_updTile_ne _ _ ht]

theorem stageBlock_other (l n : Nat) (b : List Byte) : tileOf (stageBlock s t l n b) t' = tileOf s t' := by
  unfold stageBlock
  split
  · split
    · exact foldl_keep (tileOf · t') (fun u _ => bulkWrite_other ht _ _) _ _
    · rfl
  · rfl

theorem copyBlock_other (b : Nat) : tileOf (copyBlock s t b) t' = tileOf s t' := by
  have h (f : Tile → Tile) (v : Recovery) : tileOf { updTile s t f with recov := v } t' = tileOf s t' :=
    tileOf_updTile_ne s f ht
  unfold copyBlock
  dsimp only
  split
  · split
    · exact h _ _
    · exact (stageBlock_other ht _ _ _).trans (h _ _)
  · rfl

theorem copyFirst_other (b : Nat) : tileOf (copyFirst s t b) t' = tileOf s t' := by
  unfold copyFirst
  dsimp only [fresh]
  split
  · rw [copyBlock_other ht, addHolds, tileOf_updTile_ne _ _ ht]
    rfl
  · exact copyBlock_other ht b

theorem writeSpad_other (off : Nat) (bs : List Byte) : tileOf (writeSpad s t off bs) t' = tileOf s t' := by
  have h (u : State) (f : Core → Core) (m : Memory) : tileOf { updCore u t f with mem := m } t' = tileOf u t' :=
    tileOf_updCore_ne u f ht
  unfold writeSpad
  dsimp only
  rw [h]
  exact foldl_keep (tileOf · t') (fun u b => copyFirst_other ht b) _ s
end

/-! The tile itself. -/

/-- Behind a write stands what the copying of pending blocks left of the tile, with the tracking bits set (R69, R323). -/
theorem tileOf_writeSpad_same (s : State) (t off : Nat) (bs : List Byte) :
    let k := tileOf ((blocksOf off bs.length).foldl (fun u b => copyFirst u t b) s) t
    tileOf (writeSpad s t off bs) t =
      { k with core := { k.core with dirty := markDirty k.core.dirty (blocksOf off bs.length) } } := by
  have h (u : State) (f : Core → Core) (m : Memory) :
      tileOf { updCore u t f with mem := m } t = { tileOf u t with core := f (tileOf u t).core } :=
    tileOf_updCore_same u t f
  dsimp only [writeSpad]
  rw [h]

/-- Settles O8: the bytes by memory's own rules, the tracking bits by those of the blocks reached. -/
theorem memoryWritesAndTracking : Obligations.MemoryWritesAndTracking := by
  refine ⟨memRead_memWrite, memReads_memWrites, fun m a x bs h => memRead_memWrites_outside m bs h, fun s t off bs =>
    ⟨writeSpad_mem s t off bs, fun b hb h => ?_, fun t' ht => writeSpad_other ht off bs⟩⟩
  rw [tileOf_writeSpad_same]
  exact markDirty_sets _ hb h

end Sys2Proof.Proofs
end

section
/-! PROOFS. The control core (R40 to R51, R67, R76): what its commands do at their instruction, and the faults of its accesses. -/

namespace Sys2Proof.Proofs

open Sys2Proof.Machine Sys2Proof.Laws

variable {s : State} {t len : Nat}

/-! Registers (R40). -/

theorem setX_zero (k : TaskSlot) (v : Word) : setX k 0 v = k := rfl

theorem xreg_zero (k : TaskSlot) : xreg k 0 = 0 := rfl

theorem xreg_setX_same {k : TaskSlot} {r : Nat} (v : Word) (hr : r ≠ 0) (hk : r - 1 < k.regs.length) :
    xreg (setX k r v) r = v := by
  simp [xreg, setX, hr, hk]

theorem xreg_setX_ne {k : TaskSlot} {r q : Nat} (v : Word) (h : q ≠ r) : xreg (setX k r v) q = xreg k q := by
  by_cases hr : r = 0
  · rw [hr, setX_zero]
  · by_cases hq : q = 0
    · rw [hq, xreg_zero, xreg_zero]
    · have hne : r - 1 ≠ q - 1 := by omega
      simp [xreg, setX, hr, hq, hne]

/-- Settles O10: the cases of the register number. -/
theorem registerZeroDiscardsWrites : Obligations.RegisterZeroDiscardsWrites :=
  fun k _ _ v => ⟨setX_zero k v, xreg_zero k, xreg_setX_same v, xreg_setX_ne v⟩

/-! The core at its instruction. -/

/-- The slot that runs, of a core whose cycles are counted. -/
theorem runningSlot_countCycles : slotAt (tileOf (countCycles s t) t).core (tileOf (countCycles s t) t).core.cur = curSlot s t :=
  curSlot_countCycles

/-- An update of a core behind the count of its cycles, given on every core that runs the same slot. -/
theorem updCore_counted {f g : Core → Core}
    (h : ∀ c, c.cur = (tileOf s t).core.cur → slotAt c c.cur = curSlot s t → f c = g c) :
    updCore (countCycles s t) t f = updCore (countCycles s t) t g :=
  updCore_congr (h _ countCycles_cur runningSlot_countCycles)

/-- A command at an instruction that it takes: what its body makes of the state with the cycles counted. -/
theorem atOp_next {op : CoreOp} {sel : CoreOp → Bool} {f : State → CoreOp → Nat → State} {u : State} (h : AtInstr s t op len)
    (hs : sel op = true) (hu : f (countCycles s t) op len = u) : (.next (atOp s t sel f) : Res) = .next u :=
  congrArg Host.Outcome.next ((atOp_at h hs).trans hu)

theorem atXnt_next {x : XntOp} {sel : XntOp → Bool} {f : State → XntOp → Nat → State} {u : State}
    (h : AtInstr s t (.xnt x) len) (hs : sel x = true) (hu : f (countCycles s t) x len = u) :
    (.next (atXnt s t sel f) : Res) = .next u :=
  congrArg Host.Outcome.next ((atXnt_at h hs).trans hu)

theorem awake_guard (h : CoreAwake s t) : (tileActs s t && awake (tileOf s t).core) = true := by
  obtain ⟨ha, hw⟩ := h
  rw [ha, hw]
  rfl

/-- CORE_COMPUTE at an instruction of its kind. -/
theorem coreCompute_next {op : CoreOp} (h : AtInstr s t op len) (hop : isCompute op = true) {g : Core → Core}
    (hg : ∀ c, slotAt c c.cur = curSlot s t → computeCore c op len = g c) :
    exec (.coreCompute t) s = .next (updCore (countCycles s t) t g) := by
  refine congrArg Host.Outcome.next ((if_pos (awake_guard h.1)).trans ?_)
  obtain ⟨⟨w, o, n⟩, hf, e⟩ := Option.map_eq_some_iff.mp h.2
  cases e
  simp only [hf]
  exact (atOp_at h hop).trans (updCore_counted fun c _ => hg c)

/-- Settles O9: each kind of instruction by its branch of `computeCore`. -/
theorem coreComputeResults : Obligations.CoreComputeResults := by
  intro s t len rd rs1 rs2 f b imm
  refine ⟨fun h => ?_, fun h => ?_, fun h => ?_, fun h => ?_, fun h => ?_, fun h => ?_, fun h => ?_⟩
  case refine_7 =>
    refine coreCompute_next h rfl fun c hc => ?_
    dsimp only [computeCore]
    rw [hc]
    rfl
  all_goals exact coreCompute_next h rfl fun c hc => by simp only [computeCore, hc, xcur]

/-! Memory accesses (R43, R44, R48). -/

section
variable {addr : Word} {size : Nat} {store : Bool} {ok : Nat → State}

theorem onAccess_ok (h : AccessOk s t addr size) : onAccess s t addr size store ok = ok ((curSlot s t).base + addr.toNat) := by
  obtain ⟨ha, hb⟩ := h
  simp [onAccess, ha, hb]

theorem onAccess_misaligned (h : addr.toNat % size ≠ 0) : onAccess s t addr size store ok = faultHere s t 0x05 addr store :=
  if_pos h

theorem onAccess_outside (h : addr.toNat % size = 0)
    (hb : inBound (curSlot s t).base (curSlot s t).bound addr.toNat size = false) :
    onAccess s t addr size store ok = faultHere s t (if store then 0x03 else 0x02) addr store := by
  simp [onAccess, h, hb]

theorem accessOk_countCycles (h : AccessOk s t addr size) : AccessOk (countCycles s t) t addr size := by
  rwa [AccessOk, curSlot_countCycles]
end

section
variable {rd rs1 rs2 size : Nat} {imm : Word} {signed : Bool} {e : EccOutcome}

theorem coreLoad_next (h : AtInstr s t (.load rd rs1 imm size signed) len) : exec (.coreLoad t e) s =
    .next (doLoad (countCycles s t) t e rd (xcur s t rs1 + imm) size signed len) :=
  atOp_next h rfl (by simp only [xcur_countCycles])

theorem coreStore_next (h : AtInstr s t (.store rs1 rs2 imm size) len) : exec (.coreStore t e) s =
    .next (doStore (countCycles s t) t e (xcur s t rs1 + imm) (xcur s t rs2) size len) :=
  atOp_next h rfl (by simp only [xcur_countCycles])

/-- A load in bound reads its line, with what the line's check finds. -/
theorem coreLoad_inBound (h : AtInstr s t (.load rd rs1 imm size signed) len) (ha : AccessOk s t (xcur s t rs1 + imm) size) :
    let a := (curSlot s t).base + (xcur s t rs1 + imm).toNat
    exec (.coreLoad t e) s = .next (onLine (countCycles s t) t (a / 16) e fun u => updCore u t fun c =>
      retireRd c len rd (if signed then sext (8 * size) (readNum u t a size) else BitVec.ofNat 32 (readNum u t a size))) := by
  rw [coreLoad_next h, doLoad, onAccess_ok (accessOk_countCycles ha), curSlot_countCycles]

theorem coreStore_inBound (h : AtInstr s t (.store rs1 rs2 imm size) len) (ha : AccessOk s t (xcur s t rs1 + imm) size) :
    exec (.coreStore t .clean) s = .next (updCore (writeNum (countCycles s t) t
      ((curSlot s t).base + (xcur s t rs1 + imm).toNat) size (xcur s t rs2).toNat) t fun c => retire c len) := by
  rw [coreStore_next h, doStore, onAccess_ok (accessOk_countCycles ha), curSlot_countCycles]
  rfl
end

/-- FETCH_INSTRUCTION where a line is missing. -/
theorem fetchInstruction_next {line : Nat} {inside : Bool} {e : EccOutcome} (h : CoreAwake s t)
    (hl : neededLine (tileOf s t).core = some (line, inside)) : exec (.fetchInstruction t e) s = .next (
      if inside then onLine (countCycles s t) t line e fun s => updCore s t fun c => { c with
        fetchBuf := (c.fetchBuf.filter (·.1 ≠ line)).drop ((c.fetchBuf.filter (·.1 ≠ line)).length - 1)
          ++ [(line, readSpad s t (line * 16) 16)] }
      else faultHere (countCycles s t) t 0x04 (curSlot s t).pc false) := by
  refine congrArg Host.Outcome.next ((if_pos (awake_guard h)).trans ?_)
  unfold doFetch
  dsimp only
  rw [hl]
  cases inside <;> rfl

/-- PATROL_READ reads the next line of its bank. -/
theorem patrolRead_next {b n : Nat} {e : EccOutcome} (hr : tileRuns s t = true) (hb : b < 16)
    (hn : (tileOf s t).patrol[b]? = some n) : exec (.patrolRead t b e) s = .next (onLine
      (updTile s t fun k => { k with patrol := k.patrol.set b ((n + 1) % 1024) }) t (n * 16 + b) e id) := by
  have hline : (tileOf s t).patrol.getD b 0 = n := by rw [List.getD_eq_getElem?_getD, hn, Option.getD_some]
  refine congrArg Host.Outcome.next ((if_pos (by simp [hr, hb])).trans ?_)
  rw [hline]

/-- Settles O11: each access in bound, with its line clean or corrected. -/
theorem coreMemoryAccess : Obligations.CoreMemoryAccess := by
  intro s t line len rd rs1 rs2 size imm signed
  refine ⟨fun h hl => ?_, fun h ha => ⟨?_, ?_⟩, fun h ha => coreStore_inBound h ha, fun b n hr hb hn => ⟨?_, ?_⟩⟩
  · exact fetchInstruction_next h hl
  · exact coreLoad_inBound h ha
  · exact coreLoad_inBound h ha
  · exact patrolRead_next hr hb hn
  · exact patrolRead_next hr hb hn

/-- An encoding that the core does not have (R53, R76). -/
theorem coreCompute_illegal {w : Nat} (h : CoreAwake s t)
    (hf : (fetched (tileOf s t).core).map (fun f => (f.op, f.word)) = some (none, w)) :
    exec (.coreCompute t) s = .next (faultHere (countCycles s t) t 0x01 (BitVec.ofNat 32 w) false) := by
  refine congrArg Host.Outcome.next ((if_pos (awake_guard h)).trans ?_)
  obtain ⟨⟨w', o, n⟩, hg, e⟩ := Option.map_eq_some_iff.mp hf
  cases e
  simp only [hg]

/-- Settles O12: each access by the check of its that fails. -/
theorem coreAccessFaults : Obligations.CoreAccessFaults := by
  intro s t line len rd rs1 rs2 size w imm signed e a u
  refine ⟨fun h hl => fetchInstruction_next h hl, fun h ha => ?_, fun h ha hb => ?_, fun h ha => ?_, fun h ha hb => ?_,
    fun h hf => coreCompute_illegal h hf, fun h ha => coreLoad_inBound h ha⟩
  · rw [coreLoad_next h, doLoad, onAccess_misaligned ha]
  · rw [coreLoad_next h, doLoad, onAccess_outside ha (by rwa [curSlot_countCycles])]
    rfl
  · rw [coreStore_next h, doStore, onAccess_misaligned ha]
  · rw [coreStore_next h, doStore, onAccess_outside ha (by rwa [curSlot_countCycles])]
    rfl

/-! Fences, calls and the return (R43, R50, R51). -/

/-- A program fault of the running slot: of T0 a region fault, else R50's (R76). -/
theorem faultHere_T0 {code : Nat} {addr : Word} {store : Bool} (h : (tileOf s t).core.cur = 0) :
    faultHere (countCycles s t) t code addr store =
      regionFault (countCycles s t) (regionOfTile t) 0x24 addr.toNat (some t) 0 := by
  rw [faultHere, countCycles_cur, h]
  rfl

theorem faultHere_task {code : Nat} {addr : Word} {store : Bool} (h : (tileOf s t).core.cur ≠ 0) :
    faultHere (countCycles s t) t code addr store =
      updCore (countCycles s t) t fun c => programFault c (tileOf s t).core.cur code addr store := by
  rw [faultHere, countCycles_cur]
  exact if_neg h

theorem serviceRequest_counted : updCore (countCycles s t) t (serviceRequest · len) = updCore (countCycles s t) t fun c =>
    enterT0 (updSlot c (tileOf s t).core.cur fun k => { k with st := .ready, pc := (curSlot s t).pc + BitVec.ofNat 32 len })
      (tileOf s t).core.cur 0x09 0 (curSlot s t).pc 0 false :=
  updCore_counted fun c hn hc => by
    dsimp only [serviceRequest]
    rw [hc, hn]

theorem ecall_next (h : AtInstr s t .ecall len) : exec (.ecall t) s = .next (
    if (tileOf s t).core.cur = 0 then faultHere (countCycles s t) t 0x01 (wordHere (countCycles s t) t) false
    else updCore (countCycles s t) t fun c => serviceRequest c len) :=
  atOp_next h rfl (by rw [countCycles_cur])

theorem ebreak_next (h : AtInstr s t .ebreak len) : exec (.ebreak t) s = .next (
    if (tileOf s t).core.cur ≠ 0 && s.boot.perms.getLsbD 0 then updCore (countCycles s t) t fun c => serviceRequest c len
    else faultHere (countCycles s t) t 0x0A (curSlot s t).pc false) :=
  atOp_next h rfl (by rw [countCycles_cur, countCycles_boot, curSlot_countCycles])

theorem mret_next (h : AtInstr s t .mret len) (hn : (tileOf s t).core.cur = 0) :
    exec (.mret t) s = .next (updCore (countCycles s t) t returnT0) :=
  atOp_next h rfl (if_pos (countCycles_cur.trans hn))

/-- Settles O13: each instruction by who runs it and, for ebreak, by the debug permission. -/
theorem fencesCallsAndReturn : Obligations.FencesCallsAndReturn := by
  intro s t len u n pc request
  refine ⟨fun h => ?_, fun h => ?_, fun h => ?_, fun h hn => ?_, fun h hn => ?_, fun h hn hp => ?_, fun h hn => ?_,
    fun h hn hp => ?_, fun h hn => mret_next h hn⟩
  · exact atOp_next h rfl rfl
  · exact atOp_next h rfl rfl
  · exact atOp_next h rfl rfl
  · rw [ecall_next h, if_neg hn]
    exact congrArg Host.Outcome.next serviceRequest_counted
  · rw [ecall_next h, if_pos hn]
  · rw [ebreak_next h, if_neg (by rw [hp, Bool.and_false]; exact Bool.false_ne_true), faultHere_task hn]
  · rw [ebreak_next h, if_neg (by simp [show (tileOf s t).core.cur = 0 from hn]), faultHere_T0 hn]
  · rw [ebreak_next h, if_pos (by rw [hp, Bool.and_true]; exact decide_eq_true hn)]
    exact congrArg Host.Outcome.next serviceRequest_counted

/-! Program faults (R50). -/

theorem slotAt_updSlot_same {c : Core} {n : Nat} (f : TaskSlot → TaskSlot) (h : n < c.slots.length) :
    slotAt (updSlot c n f) n = f (slotAt c n) := by
  simp [slotAt, updSlot, h]

theorem switchSlot_pendingFaults (c : Core) : (switchSlot c).pendingFaults = c.pendingFaults := by
  unfold switchSlot
  split <;> rfl

theorem switchSlot_faultCause (c : Core) : (switchSlot c).faultCause = c.faultCause := by
  unfold switchSlot
  split <;> rfl

/-- Entered, T0 runs from address 0. -/
theorem enterT0_slot {c : Core} {n code : Nat} {addr epc tval : Word} {store : Bool} (h : c.slots ≠ []) :
    (slotAt (enterT0 c n code addr epc tval store) 0).st = .running ∧ (slotAt (enterT0 c n code addr epc tval store) 0).pc = 0 := by
  have hlen : 0 < c.slots.length := List.length_pos_iff.mpr h
  have hrun (d : Core) (hd : 0 < d.slots.length) :
      slotAt (updSlot d 0 fun k => { k with st := .running, wait := .nothing, pc := 0 }) 0 =
        { slotAt d 0 with st := .running, wait := .nothing, pc := 0 } := slotAt_updSlot_same _ hd
  unfold enterT0
  dsimp only
  split
  · have := hrun (updSlot c c.cur fun k => { k with st := .ready }) (by simpa [updSlot] using hlen)
    exact ⟨congrArg TaskSlot.st this, congrArg TaskSlot.pc this⟩
  · exact ⟨congrArg TaskSlot.st (hrun c hlen), congrArg TaskSlot.pc (hrun c hlen)⟩

/-- A fault of a slot waits while a record stands. -/
theorem programFault_held {c : Core} {n code : Nat} {addr : Word} {store : Bool} (hv : faultValid c = true)
    (hp : ∀ k ∈ c.pendingFaults, k.slot ≠ n) :
    (programFault c n code addr store).pendingFaults =
      c.pendingFaults ++ [{ slot := n, code := code, addr := addr, store := store }] ∧
    (programFault c n code addr store).faultCause = c.faultCause := by
  have hnone : c.pendingFaults.any (·.slot = n) = false := by simpa using hp
  unfold programFault
  simp only [hv, hnone, if_true, Bool.false_eq_true, if_false]
  split
  · rw [switchSlot_pendingFaults, switchSlot_faultCause]
    exact ⟨rfl, rfl⟩
  · exact ⟨rfl, rfl⟩

/-- Settles O14: the fields that the entry sets, T0's own slot, and a fault that is held. -/
theorem programFaultEntersT0 : Obligations.ProgramFaultEntersT0 := by
  intro c n code addr epc tval store e
  refine ⟨rfl, rfl, rfl, rfl, rfl, rfl, rfl, enterT0_slot, fun hv _ hp => ?_⟩
  obtain ⟨hheld, hcause⟩ := programFault_held (code := code) (addr := addr) (store := store) hv hp
  exact ⟨by simp [hheld], hcause⟩

end Sys2Proof.Proofs
end

section
/-! PROOFS. The CSRs (R42, R47 to R49, R52, R57 to R59): what a CSR instruction reads and writes, and the commands of single
registers. -/

namespace Sys2Proof.Proofs

open Sys2Proof.Machine Sys2Proof.Laws

variable {s : State} {t len : Nat}

theorem updCore_updCore (f g : Core → Core) : updCore (updCore s t f) t g = updCore s t fun c => g (f c) :=
  updTile_updTile _ _

@[simp] theorem countCycles_taskSel : (tileOf (countCycles s t) t).core.taskSel = (tileOf s t).core.taskSel := by
  obtain ⟨n, e⟩ := countCycles_core (s := s) (t := t); rw [e]

@[simp] theorem countCycles_resetting : (tileOf (countCycles s t) t).core.resetting = (tileOf s t).core.resetting := by
  obtain ⟨n, e⟩ := countCycles_core (s := s) (t := t); rw [e]

@[simp] theorem countCycles_stepCnt : (tileOf (countCycles s t) t).core.stepCnt = (tileOf s t).core.stepCnt := by
  obtain ⟨n, e⟩ := countCycles_core (s := s) (t := t); rw [e]

@[simp] theorem slotBusy_countCycles (n : Nat) : slotBusy (tileOf (countCycles s t) t) n = slotBusy (tileOf s t) n := by
  simp [slotBusy]

theorem csrOperand_countCycles (src : Nat) (isImm : Bool) :
    csrOperand (countCycles s t) t src isImm = csrOperand s t src isImm := by
  rw [csrOperand, xcur_countCycles]

/-! Reads and their latches (R42, R57, R58). -/

theorem csrRead_xnt {slot a : Nat} (h : 0x7C0 ≤ a ∧ a ≤ 0x7FF) : csrRead s t slot a = xntRead s t slot a := if_pos h

/-- An Xnt CSR by its mirror. -/
theorem csrRead_mirror {slot a : Nat} (h : 0x7C0 ≤ a ∧ a ≤ 0x7FF) (hr : readOnlyXnt a = true) :
    csrRead s t slot (a + 0x800) = xntRead s t slot a := by
  rw [csrRead, if_neg (by omega), if_pos (by omega), Nat.add_sub_cancel, if_pos hr]

theorem csrRead_xnt_countCycles {slot a : Nat} (h : 0x7C0 ≤ a ∧ a ≤ 0x7FF) :
    csrRead (countCycles s t) t slot a = csrRead s t slot a := by
  rw [csrRead_xnt h, csrRead_xnt h, xntRead_countCycles]

theorem csrLatch_none {slot a : Nat} (h : a ∉ [0x7E4, 0x7F0, 0xFE4, 0xFF0]) : csrLatch s t slot a = s := by
  simp only [List.mem_cons, List.not_mem_nil, or_false, not_or] at h
  obtain ⟨h1, h2, h3, h4⟩ := h
  rw [csrLatch, if_neg (by omega), if_neg (by omega)]

theorem csrRead_stepCnt {slot a : Nat} (h : a = 0x7E4 ∨ a = 0xFE4) :
    csrRead s t slot a = some (w32 ((tileOf s t).core.stepCnt.toNat % 2 ^ 32)) := by
  obtain rfl | rfl := h
  · exact csrRead_xnt (by omega)
  · exact csrRead_mirror (a := 0x7E4) (by omega) (by decide)

theorem csrRead_tb {slot a : Nat} (h : a = 0x7F0 ∨ a = 0xFF0) :
    csrRead s t slot a = some (w32 (tileTb s t % 2 ^ 32)) := by
  obtain rfl | rfl := h
  · exact csrRead_xnt (by omega)
  · exact csrRead_mirror (a := 0x7F0) (by omega) (by decide)

/-! A CSR instruction by what it finds and what it may write (R40, R47). -/

section
variable {f : CsrFn} {rd src a : Nat} {isImm : Bool} {old new : Word}

theorem csrNew_none_reads {v : Word} {z : Bool} (h : csrNew f old v z = none) : csrReads f rd = true := by
  cases f with
  | write => cases h
  | set => rfl
  | clear => rfl

theorem doCsr_absent (hr : csrRead s t (tileOf s t).core.cur a = none) :
    doCsr s t f rd src isImm a len = faultHere s t 0x01 (wordHere s t) false := by
  unfold doCsr
  dsimp only
  rw [hr]

theorem doCsr_reads (hr : csrRead s t (tileOf s t).core.cur a = some old)
    (hn : csrNew f old (csrOperand s t src isImm) (src = 0) = none) : doCsr s t f rd src isImm a len =
      updCore (csrLatch s t (tileOf s t).core.cur a) t fun c => retireRd c len rd old := by
  unfold doCsr
  dsimp only
  rw [hr]
  dsimp only
  rw [hn, csrNew_none_reads hn]
  rfl

/-- What a CSR instruction that reads `old` does once it may write `new`: the latch, then the register. -/
def csrEffect (s : State) (t : Nat) (f : CsrFn) (rd a len : Nat) (old new : Word) : State :=
  let u := if csrReads f rd then csrLatch s t (tileOf s t).core.cur a else s
  if 0x7C0 ≤ a ∧ a ≤ 0x7FF then
    if a = 0x7C4 ∧ bit new.toNat 4 ∧ (tileOf s t).core.taskSel ≠ 0 then
      doReset u t (tileOf s t).core.taskSel fun c => retireRd c len rd old
    else if a = 0x7F8 then updCore u t fun c => clearCause (retireRd c len rd old) new.toNat
    else updCore (updTile u t fun k => xntWrite k a new) t fun c => retireRd c len rd old
  else updCore u t fun c => stdWrite (retireRd c len rd old) c.minstret a new

theorem doCsr_writes (hr : csrRead s t (tileOf s t).core.cur a = some old)
    (hn : csrNew f old (csrOperand s t src isImm) (src = 0) = some new) : doCsr s t f rd src isImm a len =
      if 0xFC0 ≤ a ∧ a ≤ 0xFFF then faultHere s t 0x01 (wordHere s t) false
      else if (tileOf s t).core.cur ≠ 0 && !userWritable a then faultHere s t 0x08 (wordHere s t) false
      else csrEffect s t f rd a len old new := by
  unfold doCsr
  dsimp only
  rw [hr]
  dsimp only
  rw [hn]
  rfl

theorem mayWrite_guard (h : (tileOf s t).core.cur = 0 ∨ userWritable a = true) :
    ¬((tileOf s t).core.cur ≠ 0 && !userWritable a) = true := by
  obtain h | h := h <;> simp [h]

theorem doCsr_allowed (hr : csrRead s t (tileOf s t).core.cur a = some old)
    (hn : csrNew f old (csrOperand s t src isImm) (src = 0) = some new) (ha : a < 0xFC0)
    (hw : (tileOf s t).core.cur = 0 ∨ userWritable a = true) :
    doCsr s t f rd src isImm a len = csrEffect s t f rd a len old new := by
  rw [doCsr_writes hr hn, if_neg (by omega), if_neg (mayWrite_guard hw)]

/-! The register written. -/

theorem csrLatch_read_or_not (h : a ∉ [0x7E4, 0x7F0, 0xFE4, 0xFF0]) (b : Bool) (slot : Nat) :
    (if b then csrLatch s t slot a else s) = s := by
  rw [csrLatch_none h, ite_self]

theorem csrEffect_std (h : a < 0x7C0 ∨ (0x800 ≤ a ∧ a < 0xFC0)) : csrEffect s t f rd a len old new =
    updCore s t fun c => stdWrite (retireRd c len rd old) c.minstret a new := by
  have hl : a ∉ [0x7E4, 0x7F0, 0xFE4, 0xFF0] := by simp; omega
  rw [csrEffect, csrLatch_read_or_not hl]
  exact if_neg (by omega)

theorem csrEffect_xnt (h : 0x7C0 ≤ a ∧ a ≤ 0x7FF) (h8 : a ≠ 0x7F8)
    (h4 : a = 0x7C4 → bit new.toNat 4 = true → (tileOf s t).core.taskSel = 0) : csrEffect s t f rd a len old new =
      updCore (updTile (if csrReads f rd then csrLatch s t (tileOf s t).core.cur a else s) t fun k => xntWrite k a new) t
        fun c => retireRd c len rd old :=
  (if_pos h).trans ((if_neg fun ⟨ha, hb, ht⟩ => ht (h4 ha hb)).trans (if_neg h8))

theorem csrEffect_cause : csrEffect s t f rd 0x7F8 len old new =
    updCore s t fun c => clearCause (retireRd c len rd old) new.toNat := by
  have hl : 0x7F8 ∉ [0x7E4, 0x7F0, 0xFE4, 0xFF0] := by decide
  rw [csrEffect, csrLatch_read_or_not hl]
  rfl

theorem csrEffect_reset (hb : bit new.toNat 4 = true) (ht : (tileOf s t).core.taskSel ≠ 0) :
    csrEffect s t f rd 0x7C4 len old new = doReset s t (tileOf s t).core.taskSel fun c => retireRd c len rd old := by
  have hl : 0x7C4 ∉ [0x7E4, 0x7F0, 0xFE4, 0xFF0] := by decide
  rw [csrEffect, csrLatch_read_or_not hl]
  exact (if_pos (by omega)).trans (if_pos ⟨rfl, hb, ht⟩)

/-! The commands at a CSR instruction. -/

theorem csrCommand_at {sel : State → Nat → Option Word → Bool} (h : AtInstr s t (.csr f rd src isImm a) len)
    (hs : sel s a (csrNew f ((csrRead s t (tileOf s t).core.cur a).getD 0) (csrOperand s t src isImm) (src = 0)) = true) :
    csrCommand s t sel = doCsr (countCycles s t) t f rd src isImm a len :=
  atOp_at h hs

theorem csrInstruction_at (h : AtInstr s t (.csr f rd src isImm a) len) :
    exec (.csrInstruction t) s = .next (doCsr (countCycles s t) t f rd src isImm a len) :=
  congrArg Host.Outcome.next (csrCommand_at h rfl)

theorem csrReadLowLatch_at (h : AtInstr s t (.csr f rd src isImm a) len) (ha : a ∈ [0x7E4, 0x7F0, 0xFE4, 0xFF0]) :
    exec (.csrReadLowLatch t) s = .next (doCsr (countCycles s t) t f rd src isImm a len) :=
  congrArg Host.Outcome.next (csrCommand_at h (List.contains_iff_mem.mpr ha))

/-- A CSR instruction as it stands once its cycles are counted: it reads `old`. -/
structure CsrAt (s : State) (t len : Nat) (f : CsrFn) (rd src : Nat) (isImm : Bool) (a : Nat) (old : Word) : Prop where
  instr : AtInstr s t (.csr f rd src isImm a) len
  read : csrRead (countCycles s t) t (tileOf (countCycles s t) t).core.cur a = some old

theorem CsrAt.reads (h : CsrAt s t len f rd src isImm a old)
    (hn : csrNew f old (csrOperand s t src isImm) (src = 0) = none) :
    doCsr (countCycles s t) t f rd src isImm a len =
      updCore (csrLatch (countCycles s t) t (tileOf s t).core.cur a) t fun c => retireRd c len rd old := by
  rw [doCsr_reads h.read (by rwa [csrOperand_countCycles]), countCycles_cur]

theorem CsrAt.writes (h : CsrAt s t len f rd src isImm a old)
    (hn : csrNew f old (csrOperand s t src isImm) (src = 0) = some new) (ha : a < 0xFC0)
    (hw : (tileOf s t).core.cur = 0 ∨ userWritable a = true) :
    doCsr (countCycles s t) t f rd src isImm a len = csrEffect (countCycles s t) t f rd a len old new :=
  doCsr_allowed h.read (by rwa [csrOperand_countCycles]) ha (by rwa [countCycles_cur])

theorem CsrAt.refuses (h : CsrAt s t len f rd src isImm a old)
    (hn : csrNew f old (csrOperand s t src isImm) (src = 0) = some new) (ha : a < 0xFC0)
    (hw : ¬((tileOf s t).core.cur = 0 ∨ userWritable a = true)) :
    doCsr (countCycles s t) t f rd src isImm a len =
      faultHere (countCycles s t) t 0x08 (wordHere (countCycles s t) t) false := by
  have hc : ((tileOf (countCycles s t) t).core.cur ≠ 0 && !userWritable a) = true := by
    rw [countCycles_cur]
    simpa using hw
  rw [doCsr_writes h.read (by rwa [csrOperand_countCycles]), if_neg (by omega), if_pos hc]

/-- A write to a mirror (R57). -/
theorem CsrAt.mirror (h : CsrAt s t len f rd src isImm a old)
    (hn : csrNew f old (csrOperand s t src isImm) (src = 0) = some new) (ha : 0xFC0 ≤ a ∧ a ≤ 0xFFF) :
    doCsr (countCycles s t) t f rd src isImm a len =
      faultHere (countCycles s t) t 0x01 (wordHere (countCycles s t) t) false := by
  rw [doCsr_writes h.read (by rwa [csrOperand_countCycles]), if_pos ha]

/-- The low word of STEP_CNT latches the high word (R58). -/
theorem CsrAt.stepCnt (h : CsrAt s t len f rd src isImm a old) (ha : a = 0x7E4 ∨ a = 0xFE4)
    (hn : csrNew f old (csrOperand s t src isImm) (src = 0) = none) :
    doCsr (countCycles s t) t f rd src isImm a len = updCore (countCycles s t) t fun c => retireRd
      (updSlot c (tileOf s t).core.cur fun k => { k with stepLatch := w32 (c.stepCnt.toNat / 2 ^ 32) }) len rd
      (w32 ((tileOf s t).core.stepCnt.toNat % 2 ^ 32)) := by
  have hold : w32 ((tileOf s t).core.stepCnt.toNat % 2 ^ 32) = old := by
    rw [← countCycles_stepCnt]
    exact Option.some.inj ((csrRead_stepCnt ha).symm.trans h.read)
  rw [h.reads hn, hold, csrLatch, if_pos ha, updCore_updCore]

/-- The low word of TB latches the high word (R58). -/
theorem CsrAt.tb (h : CsrAt s t len f rd src isImm a old) (ha : a = 0x7F0 ∨ a = 0xFF0)
    (hn : csrNew f old (csrOperand s t src isImm) (src = 0) = none) :
    doCsr (countCycles s t) t f rd src isImm a len = updCore (countCycles s t) t fun c => retireRd
      (updSlot c (tileOf s t).core.cur fun k => { k with tbLatch := w32 (tileTb s t / 2 ^ 32) }) len rd
      (w32 (tileTb s t % 2 ^ 32)) := by
  have hold : w32 (tileTb s t % 2 ^ 32) = old := by
    rw [← tileTb_countCycles]
    exact Option.some.inj ((csrRead_tb ha).symm.trans h.read)
  rw [h.reads hn, hold, csrLatch, if_neg (by omega), if_pos ha, updCore_updCore]
  rfl

/-- TASK_CTL_RST is the CSR instruction that writes 1 to TASK_CTL.RST (R52). -/
theorem CsrAt.taskCtlRst (h : CsrAt s t len f rd src isImm 0x7C4 old)
    (hn : csrNew f old (csrOperand s t src isImm) (src = 0) = some new) (hb : bit new.toNat 4 = true) :
    exec (.taskCtlRst t) s = .next (doCsr (countCycles s t) t f rd src isImm 0x7C4 len) := by
  have hread : csrRead s t (tileOf s t).core.cur 0x7C4 = some old := by
    rw [← csrRead_xnt_countCycles (by omega), ← h.read, countCycles_cur]
  refine congrArg Host.Outcome.next (csrCommand_at h.instr ?_)
  rw [hread, Option.getD_some, hn]
  exact hb
end

/-- Settles O15: each kind of register and access by its lemma above. -/
theorem csrInstructionResults : Obligations.CsrInstructionResults := by
  intro s t len rd src a isImm f old new u n at_ reads writes mayWrite illegal
  have hat {a : Nat} : at_ a → CsrAt s t len f rd src isImm a old := fun ⟨hi, hr⟩ =>
    ⟨hi, by rw [countCycles_cur]; exact hr⟩
  have run {a : Nat} {v : State} (h : at_ a) (e : doCsr u t f rd src isImm a len = v) :
      exec (.csrInstruction t) s = .next v := by rw [csrInstruction_at h.1, e]
  refine ⟨fun h hn => ?_, fun h hn ha hw => ?_, fun h hn h1 h2 h8 h4 hw => ?_, fun h hn h0 => ?_, fun h hn h0 hb => ?_,
    fun h hn ha hw => ?_, fun h hn h1 h2 => ?_, fun h hr => ?_, fun ha h hn => ?_, fun ha h hn => ?_, fun ha h => ?_⟩
  · exact run h ((hat h).reads hn)
  · exact run h (((hat h).writes hn (by omega) hw).trans (csrEffect_std ha))
  · refine run h (((hat h).writes hn (by omega) hw).trans ((csrEffect_xnt ⟨h1, h2⟩ h8 ?_).trans ?_))
    · rwa [countCycles_taskSel]
    · rw [countCycles_cur]
  · exact run h (((hat h).writes hn (by decide) (.inl h0)).trans csrEffect_cause)
  · exact (csrInstruction_at h.1).trans ((hat h).taskCtlRst hn hb).symm
  · exact run h ((hat h).refuses hn ha hw)
  · exact run h ((hat h).mirror hn ⟨h1, h2⟩)
  · rw [csrInstruction_at h, doCsr_absent (by rw [countCycles_cur]; exact hr)]
  · rw [csrReadLowLatch_at h.1 (by simp; omega), (hat h).stepCnt ha hn]
  · rw [csrReadLowLatch_at h.1 (by simp; omega), (hat h).tb ha hn]
  · exact (csrReadLowLatch_at h.1 ha).trans (csrInstruction_at h.1).symm

/-! The commands of single Xnt registers (R48, R49, R52, R59). -/

section
variable {rd a n : Nat} {old new : Word} {sel : State → Nat → Option Word → Bool}

/-- A command at the write of an Xnt CSR does what the CSR instruction does. -/
theorem csrCommand_write (h : AtCsrWrite s t a rd len old new) (ha : 0x7C0 ≤ a ∧ a ≤ 0x7FF) (hs : sel s a (some new) = true) :
    ∃ f, csrCommand s t sel = csrEffect (countCycles s t) t f rd a len old new := by
  obtain ⟨f, src, isImm, hi, hr, hn, hw⟩ := h
  have hat : CsrAt s t len f rd src isImm a old := ⟨hi, by rw [countCycles_cur, csrRead_xnt_countCycles ha, hr]⟩
  exact ⟨f, (csrCommand_at hi (by rw [hr, Option.getD_some, hn, hs])).trans (hat.writes hn (by omega) hw)⟩

/-- A command that writes an Xnt CSR with no latch, no reset and no fault behind it. -/
theorem csrCommand_xntWrite (h : AtCsrWrite s t a rd len old new) (ha : 0x7C0 ≤ a ∧ a ≤ 0x7FF)
    (hl : a ∉ [0x7C4, 0x7E4, 0x7F0, 0x7F8]) (hs : sel s a (some new) = true) :
    (.next (csrCommand s t sel) : Res) = .next (updTile (countCycles s t) t fun k =>
      { xntWrite k a new with core := retireRd (xntWrite k a new).core len rd old }) := by
  simp only [List.mem_cons, List.not_mem_nil, or_false, not_or] at hl
  obtain ⟨h4, hst, htb, h8⟩ := hl
  obtain ⟨f, e⟩ := csrCommand_write h ha hs
  have hlatch : a ∉ [0x7E4, 0x7F0, 0xFE4, 0xFF0] := by simp; omega
  rw [e, csrEffect_xnt ha h8 fun h => absurd h h4, csrLatch_read_or_not hlatch, updCore, updTile_updTile]

theorem writeWindow_T0 {c : Core} {v : Nat} (h : c.taskSel = 0) : writeWindow c a v = c := if_pos h

theorem writeWindow_base {c : Core} {v : Nat} (h : c.taskSel ≠ 0) :
    writeWindow c 0x7C2 v = updSlot c c.taskSel fun k => { k with base := bits v 15 4 * 64 } :=
  (if_neg h).trans (if_pos rfl)

theorem writeWindow_bound {c : Core} {v : Nat} (h : c.taskSel ≠ 0) (hv : bits v 16 0 ≤ 65536) :
    writeWindow c 0x7C3 v = updSlot c c.taskSel fun k => { k with bound := bits v 16 0 * 4 } :=
  (if_neg h).trans ((if_neg (by decide)).trans (if_pos hv))

/-- A command that writes a register of the selected slot's window. -/
theorem taskWindowWrite_next {g : Core → Core} (h : AtCsrWrite s t a rd len old new) (ha : a = 0x7C2 ∨ a = 0x7C3)
    (hg : ∀ c, c.taskSel = (tileOf s t).core.taskSel → writeWindow c a new.toNat = g c) :
    exec (.taskWindowWrite t) s = .next (updCore (countCycles s t) t fun c => retireRd (g c) len rd old) := by
  have hx (k : Tile) : xntWrite k a new = { k with core := writeWindow k.core a new.toNat } := by
    obtain rfl | rfl := ha <;> rfl
  refine (csrCommand_xntWrite h (by omega) (by simp; omega) (by simpa using ha)).trans
    (congrArg Host.Outcome.next (updTile_congr ?_))
  rw [hx]
  dsimp only
  rw [hg _ countCycles_taskSel]

/-- A slot that has no operation under way is reset at once (R52). -/
theorem doReset_free {done : Core → Core} (hr : (tileOf s t).core.resetting ≠ some n) (hb : slotBusy (tileOf s t) n = false) :
    doReset s t n done = updTile s t fun k =>
      { resetSlot k n with core := done { (resetSlot k n).core with resetting := none } } := by
  have hbusy : ¬slotBusy (tileOf (updTile s t fun k =>
      { resetSlot k n with core := { (resetSlot k n).core with resetting := some n } }) t) n = true := by
    rw [tileOf_updTile_same]
    exact fun h => Bool.false_ne_true (hb.symm.trans h)
  dsimp only [doReset]
  rw [if_neg hr, if_neg hbusy, updCore, updTile_updTile]

/-- What is left of the window and the state of a slot that is reset. -/
theorem resetSlot_slot {k : Tile} {m : Nat} {x : TaskSlot} (h : k.core.slots[m]? = some x) :
    slotAt (resetSlot k m).core m = { x with st := .idle, pc := 0, wait := .nothing } := by
  simp [resetSlot, closeRings, slotAt, updSlot, h]

/-- Settles O16: the window's two registers by the slot selected, the reset by `doReset_free`. -/
theorem taskWindowAndReset : Obligations.TaskWindowAndReset := by
  intro s t len rd old new u n
  refine ⟨fun h hn => ?_, fun h hn hb => ?_, fun h hn => ?_, fun h hb hn hr hbusy => ?_, fun k m => ⟨rfl, fun x hx => ?_⟩⟩
  · refine taskWindowWrite_next h (.inl rfl) fun c hc => ?_
    rw [writeWindow_base (by rwa [hc]), hc]
  · refine taskWindowWrite_next h (.inr rfl) fun c hc => ?_
    rw [writeWindow_bound (by rwa [hc]) hb, hc]
  · exact taskWindowWrite_next h (.inl rfl) fun c hc => writeWindow_T0 (hc.trans hn)
  · obtain ⟨f, e⟩ := csrCommand_write (sel := fun _ a v =>
      a = 0x7C4 && (match v with | some v => bit v.toNat 4 | none => false)) h (by omega) hb
    refine congrArg Host.Outcome.next (e.trans ?_)
    rw [csrEffect_reset hb (by rwa [countCycles_taskSel]), countCycles_taskSel]
    exact doReset_free (by rwa [countCycles_resetting]) (by rwa [slotBusy_countCycles])
  · rw [resetSlot_slot hx]
    exact ⟨rfl, rfl, rfl⟩

/-! Rings (R59, R261, R263). -/

theorem xntWrite_head (k : Tile) (hn : n < 4) (v : Word) : xntWrite k (0x7D0 + n) v = writeHead k n v.toNat := by
  interval_cases n <;> rfl

theorem xntWrite_ctl (k : Tile) (v : Word) : xntWrite k 0x7D8 v = writeOpen k v.toNat := rfl

theorem xntWrite_epoch (k : Tile) (v : Word) : xntWrite k 0x7DA v = writeEpochs k v.toNat := rfl

theorem writeHead_eq (k : Tile) (n v : Nat) : writeHead k n v = { k with
    rings := k.rings.modify n fun r => if bits v 17 4 * 16 < r.size then { r with head := bits v 17 4 * 16 } else r } := by
  have h (r : Ring) : (if bits v 17 4 * 16 ≥ r.size then r else { r with head := bits v 17 4 * 16 }) =
      if bits v 17 4 * 16 < r.size then { r with head := bits v 17 4 * 16 } else r := by
    rw [← ite_not]
    simp only [ge_iff_le, not_le]
  simp only [writeHead, h]

/-- A ring behind a write of RING_CTL. -/
theorem writeOpen_ring {k : Tile} {v : Nat} {r : Ring} (h : k.rings[n]? = some r) : ∃ b, (writeOpen k v).rings[n]? = some (
    if bit v n then
      if !r.isOpen && r.size ≥ 256 && r.base + r.size ≤ spadBytes
        then { r with naked := b, isOpen := true, head := 0, tail := 0 } else { r with naked := b }
    else { r with naked := b, isOpen := false }) := by
  have e : (writeOpen k v).rings[n]? = some (
      let r := if bit v (n + 4) then { r with naked := false } else r
      if bit v n then
        if !r.isOpen && r.size ≥ 256 && r.base + r.size ≤ spadBytes then { r with isOpen := true, head := 0, tail := 0 } else r
      else { r with isOpen := false }) := by
    simp [writeOpen, h]
  rw [e]
  by_cases hb : bit v (n + 4) = true
  · exact ⟨false, by simp only [hb, if_true]⟩
  · exact ⟨r.naked, by simp only [hb, if_false, Bool.false_eq_true]⟩

/-- Settles O17: each register's write as a write of the tile, and a ring behind a write of RING_CTL. -/
theorem ringRegisterWrites : Obligations.RingRegisterWrites := by
  intro s t len rd n old new u
  refine ⟨fun h hany => ?_, fun h hany => ?_, fun hn h => ?_, fun h => ?_, fun k v r hr => ⟨fun hb ho h1 h2 => ?_, fun hb => ?_⟩⟩
  · exact (csrCommand_xntWrite h (by omega) (by decide) hany).trans
      (congrArg Host.Outcome.next (updTile_congr (by rw [xntWrite_ctl]; rfl)))
  · exact (csrCommand_xntWrite h (by omega) (by decide) hany).trans
      (congrArg Host.Outcome.next (updTile_congr (by rw [xntWrite_ctl]; rfl)))
  · refine (csrCommand_xntWrite h (by omega) (by simp; omega) (by simp; omega)).trans
      (congrArg Host.Outcome.next (updTile_congr ?_))
    rw [xntWrite_head _ hn, writeHead_eq]
  · exact (csrCommand_xntWrite h (by omega) (by decide) rfl).trans
      (congrArg Host.Outcome.next (updTile_congr (by rw [xntWrite_epoch]; rfl)))
  · obtain ⟨b, e⟩ := writeOpen_ring (v := v) hr
    rw [e, if_pos hb, if_pos (by simp [ho, h1, h2])]
    exact ⟨_, rfl, rfl, rfl, rfl, rfl, rfl, rfl⟩
  · obtain ⟨b, e⟩ := writeOpen_ring (v := v) hr
    rw [e, if_neg (by simp [hb])]
    exact ⟨_, rfl, rfl, rfl, rfl⟩
end

end Sys2Proof.Proofs
end

section
/-! PROOFS. The Xnt instructions of messages, engines, beams, timers and tasks (R46, R54, R55, R72, R75, R133, R266, R294). -/

namespace Sys2Proof.Proofs

open Sys2Proof.Machine Sys2Proof.Laws

variable {s : State} {t len : Nat}

/-! A tile whose cycles are counted. -/

/-- An update of a core behind the count of its cycles, given on the core but for what the count moves. -/
theorem updCore_timed {f g : Core → Core} (h : ∀ m w, f { (tileOf s t).core with mcycle := m, wdogCount := w } =
    g { (tileOf s t).core with mcycle := m, wdogCount := w }) :
    updCore (countCycles s t) t f = updCore (countCycles s t) t g := by
  obtain ⟨n, e⟩ := countCycles_core (s := s) (t := t)
  exact updCore_congr (by rw [e]; exact h _ _)

@[simp] theorem countCycles_snap : (tileOf (countCycles s t) t).snap = (tileOf s t).snap := by
  simp [countCycles, fresh]; rfl

@[simp] theorem countCycles_ltile : (tileOf (countCycles s t) t).core.ltile = (tileOf s t).core.ltile := by
  obtain ⟨n, e⟩ := countCycles_core (s := s) (t := t); rw [e]

@[simp] theorem tileActs_countCycles : tileActs (countCycles s t) t = tileActs s t := by
  rw [tileActs, countCycles_snap]
  rfl

@[simp] theorem reservedPlaces_countCycles (prism : Bool) : reservedPlaces (countCycles s t) t prism = reservedPlaces s t prism := by
  simp only [reservedPlaces, inSection, tileActs_countCycles, countCycles_lat]

@[simp] theorem ringAt_countCycles (n : Nat) : ringAt (tileOf (countCycles s t) t) n = ringAt (tileOf s t) n := by
  rw [ringAt, countCycles_rings]
  rfl

/-! Issuing instructions (R48, R54, R56). -/

theorem onLines_clean (ranges : List (Nat × Nat)) (ok : State → State) : onLines s t ranges {} ok = ok s := rfl

theorem onIssue_ok {off align : Nat} {n : Nat → Nat} {ok : Nat → State}
    (h : IssueOk s t off align (n ((curSlot s t).base + off))) : onIssue s t off align n ok = ok ((curSlot s t).base + off) := by
  obtain ⟨ha, hb, hl⟩ := h
  simp [onIssue, ha, hb, hl]

theorem issueOk_countCycles {off align n : Nat} (h : IssueOk s t off align n) : IssueOk (countCycles s t) t off align n := by
  rwa [IssueOk, curSlot_countCycles]

section
variable {off : Nat}

/-- The message that msg.send issues, copied with its slot's window. -/
def issuedMsg (s : State) (t off : Nat) : SendMsg := {
  hdr := readSpad s t ((curSlot s t).base + off) 32
  body := readSpad s t ((curSlot s t).base + off + 32) (bodyLen (readSpad s t ((curSlot s t).base + off) 32))
  base := (curSlot s t).base, bound := (curSlot s t).bound, slot := (tileOf s t).core.cur, off := off, validated := false }

theorem issuedMsg_countCycles : issuedMsg (countCycles s t) t off = issuedMsg s t off := by
  simp only [issuedMsg, readSpad_countCycles, curSlot_countCycles, countCycles_cur]

/-- The header at an offset and the body it declares are aligned and in bound. -/
abbrev SendOk (s : State) (t off : Nat) : Prop :=
  IssueOk s t off 32 (32 + bodyLen (readSpad s t ((curSlot s t).base + off) 32))

theorem sendOk_countCycles (h : SendOk s t off) : SendOk (countCycles s t) t off := by
  rw [SendOk, readSpad_countCycles, curSlot_countCycles]
  exact issueOk_countCycles h

/-- msg.send with room in the send queue. -/
theorem doSend_queues (h : SendOk s t off) (hq : (tileOf s t).msg.sendQ.length < 8) : doSend s t off len {} =
    updCore (updMsg s t fun e => { e with sendQ := e.sendQ ++ [issuedMsg s t off] }) t fun c => retire c len := by
  rw [doSend, onIssue_ok h]
  exact if_neg (Nat.not_le.mpr hq)

theorem doSend_queues_counted (h : SendOk s t off) (hq : (tileOf s t).msg.sendQ.length < 8) :
    doSend (countCycles s t) t off len {} = updCore (updMsg (countCycles s t) t fun e =>
      { e with sendQ := e.sendQ ++ [issuedMsg s t off] }) t fun c => retire c len := by
  rw [doSend_queues (sendOk_countCycles h) (by rwa [countCycles_msg]), issuedMsg_countCycles]

/-- msg.send with the send queue full stalls. -/
theorem doSend_stalls (h : SendOk s t off) (hq : 8 ≤ (tileOf s t).msg.sendQ.length) : doSend s t off len {} = s := by
  rw [doSend, onIssue_ok h]
  exact if_pos hq

/-- tb.notify with room for a record. -/
theorem doNotify_queues {payload : Word} (h : unsentNotify (tileOf s t).msg < 2) : doNotify (countCycles s t) t payload len =
      updCore (loupeTile (updMsg (countCycles s t) t fun e => { e with notify := e.notify ++ [{
        stamp := tileTb s t, source := s.fabric.devId * 65536 + 0x1000 + regionOfTile t
        ltile := (tileOf s t).core.ltile.getD 0, payload := payload.toNat, late := false }] }) t 0x05 0 payload.toNat) t
        fun c => retire c len := by
  have hq : ¬2 ≤ unsentNotify (tileOf (countCycles s t) t).msg := by
    rw [countCycles_msg]
    omega
  refine (if_neg hq).trans ?_
  rw [countCycles_ltile]
  rfl

theorem doNotify_stalls {payload : Word} (h : 2 ≤ unsentNotify (tileOf s t).msg) :
    doNotify (countCycles s t) t payload len = countCycles s t :=
  if_pos (by rwa [countCycles_msg])

/-- The operation that mx.run or pz.run issues. -/
def issuedOp (s : State) (t off : Nat) (s0 s1 : Word) : EngOp := {
  desc := readSpad s t ((curSlot s t).base + off) 64, base := (curSlot s t).base, bound := (curSlot s t).bound
  slot := (tileOf s t).core.cur, off := off, s0 := s0, s1 := s1, started := false }

theorem issuedOp_countCycles (s0 s1 : Word) : issuedOp (countCycles s t) t off s0 s1 = issuedOp s t off s0 s1 := by
  simp only [issuedOp, readSpad_countCycles, curSlot_countCycles, countCycles_cur]

theorem doRun_mx (h : IssueOk s t off 64 64) (hq : (tileOf s t).mxQ.length + reservedPlaces s t false < 4) :
    doRun s t off len false 0 0 {} =
      updCore (updTile s t fun x => { x with mxQ := x.mxQ ++ [issuedOp s t off 0 0] }) t fun c => retire c len := by
  rw [doRun, onIssue_ok h]
  exact if_neg (Nat.not_le.mpr hq)

theorem doRun_pz {s0 s1 : Word} (h : IssueOk s t off 64 64) (hq : (tileOf s t).pzQ.length + reservedPlaces s t true < 4) :
    doRun s t off len true s0 s1 {} =
      updCore (updTile s t fun x => { x with pzQ := x.pzQ ++ [issuedOp s t off s0 s1] }) t fun c => retire c len := by
  rw [doRun, onIssue_ok h]
  exact if_neg (Nat.not_le.mpr hq)

theorem doRun_mx_counted (h : IssueOk s t off 64 64) (hq : (tileOf s t).mxQ.length + reservedPlaces s t false < 4) :
    doRun (countCycles s t) t off len false 0 0 {} = updCore (updTile (countCycles s t) t fun x =>
      { x with mxQ := x.mxQ ++ [issuedOp s t off 0 0] }) t fun c => retire c len := by
  rw [doRun_mx (issueOk_countCycles h) (by rwa [countCycles_mxQ, reservedPlaces_countCycles]), issuedOp_countCycles]

theorem doRun_pz_counted {s0 s1 : Word} (h : IssueOk s t off 64 64)
    (hq : (tileOf s t).pzQ.length + reservedPlaces s t true < 4) :
    doRun (countCycles s t) t off len true s0 s1 {} = updCore (updTile (countCycles s t) t fun x =>
      { x with pzQ := x.pzQ ++ [issuedOp s t off s0 s1] }) t fun c => retire c len := by
  rw [doRun_pz (issueOk_countCycles h) (by rwa [countCycles_pzQ, reservedPlaces_countCycles]), issuedOp_countCycles]

theorem doRun_mx_stalls (h : IssueOk s t off 64 64) (hq : 4 ≤ (tileOf s t).mxQ.length) :
    doRun s t off len false 0 0 {} = s := by
  rw [doRun, onIssue_ok h]
  exact if_pos (Nat.le_add_right_of_le hq)
end

/-! The issuing instructions and the fences, at the core. -/

theorem msgFence_next (h : AtInstr s t (.xnt .msgFence) len) : exec (.msgFence t) s = .next (
    if (tileOf s t).msg.sendQ.isEmpty then updCore (countCycles s t) t fun c => retire c len else countCycles s t) :=
  atXnt_next h rfl (by rw [countCycles_msg])

theorem mxFence_next (h : AtInstr s t (.xnt .mxFence) len) : exec (.mxFence t) s = .next (
    if (tileOf s t).mxQ.isEmpty then updCore (countCycles s t) t fun c => retire c len else countCycles s t) :=
  atXnt_next h rfl (by rw [countCycles_mxQ])

theorem pzFence_next (h : AtInstr s t (.xnt .pzFence) len) : exec (.pzFence t) s = .next (
    if (tileOf s t).pzQ.isEmpty then updCore (countCycles s t) t fun c => retire c len else countCycles s t) :=
  atXnt_next h rfl (by rw [countCycles_pzQ])

theorem msgSend_next {rs1 : Nat} (h : AtInstr s t (.xnt (.msgSend rs1)) len) :
    exec (.msgSend t {}) s = .next (doSend (countCycles s t) t (xcur s t rs1).toNat len {}) :=
  atXnt_next h rfl (by simp only [xcur_countCycles])

theorem tbNotify_next {rs1 : Nat} (h : AtInstr s t (.xnt (.tbNotify rs1)) len) :
    exec (.tbNotify t) s = .next (doNotify (countCycles s t) t (xcur s t rs1) len) :=
  atXnt_next h rfl (by simp only [xcur_countCycles])

theorem mxRun_next {rs1 : Nat} (h : AtInstr s t (.xnt (.mxRun rs1)) len) :
    exec (.mxRun t {}) s = .next (doRun (countCycles s t) t (xcur s t rs1).toNat len false 0 0 {}) :=
  atXnt_next h rfl (by simp only [xcur_countCycles])

theorem pzRun_next {rs1 rs2 rs3 : Nat} (h : AtInstr s t (.xnt (.pzRun rs1 rs2 rs3)) len) : exec (.pzRun t {}) s =
    .next (doRun (countCycles s t) t (xcur s t rs1).toNat len true (xcur s t rs2) (xcur s t rs3) {}) :=
  atXnt_next h rfl (by simp only [xcur_countCycles])

theorem pzRuni_next {reg imm : Nat} (h : AtInstr s t (.xnt (.pzRuni reg imm)) len) : exec (.pzRuni t {}) s =
    .next (doRun (countCycles s t) t (imm * 4) len true (xcur s t reg) (xcur s t (reg + 1)) {}) :=
  atXnt_next h rfl (by simp only [xcur_countCycles])

/-- Settles O19: each instruction with room in its queue. -/
theorem messageIssue : Obligations.MessageIssue := by
  intro s t len rd rs1 imm u k send notify
  refine ⟨fun h hi hq => ?_, fun h hi hq => ?_, fun h => ?_, fun h hq => ?_, fun h hq => ?_, fun h himm hq => ?_⟩
  · exact (msgSend_next h).trans (congrArg Host.Outcome.next (doSend_queues_counted hi hq))
  · exact atXnt_next h rfl (doSend_queues_counted hi hq)
  · exact atXnt_next h rfl (by dsimp only; rw [xcur_countCycles, ringAt_countCycles])
  · rw [msgFence_next h, if_pos (List.isEmpty_iff.mpr hq)]
  · exact (tbNotify_next h).trans (congrArg Host.Outcome.next (doNotify_queues hq))
  · have himm : (w32 imm).toNat = imm := Nat.mod_eq_of_lt (by omega)
    refine congrArg Host.Outcome.next ((atXnt_at h rfl).trans ((doNotify_queues hq).trans ?_))
    rw [himm]

/-- Settles O20: each instruction with its queue full or not drained. -/
theorem fullQueuesStall : Obligations.FullQueuesStall := by
  intro s t len rs1 u off
  refine ⟨fun h hi hq => ?_, fun h hq => ?_, fun h hi hq => ?_, fun h hq => ?_, fun h hq => ?_, fun h hq => ?_⟩
  · rw [msgSend_next h, doSend_stalls (sendOk_countCycles hi) (by rwa [countCycles_msg])]
  · rw [msgFence_next h, if_neg (mt List.isEmpty_iff.mp hq)]
  · rw [mxRun_next h, doRun_mx_stalls (issueOk_countCycles hi) (by rwa [countCycles_mxQ])]
  · rw [tbNotify_next h, doNotify_stalls hq]
  · rw [mxFence_next h, if_neg (mt List.isEmpty_iff.mp hq)]
  · rw [pzFence_next h, if_neg (mt List.isEmpty_iff.mp hq)]

/-- Settles O21: each issue with a place free, the counts and the drained fences. -/
theorem engineIssue : Obligations.EngineIssue := by
  intro s t len rd rs1 rs2 rs3 imm u k op mx pz
  refine ⟨fun h hi hq => ?_, fun h hi hq => ?_, fun h hi hq => ?_, fun h hi hq => ?_, fun h => ?_, fun h => ?_, fun h hq => ?_,
    fun h hq => ?_⟩
  · exact (mxRun_next h).trans (congrArg Host.Outcome.next (doRun_mx_counted hi hq))
  · exact atXnt_next h rfl (doRun_mx_counted hi hq)
  · exact (pzRun_next h).trans (congrArg Host.Outcome.next (doRun_pz_counted hi hq))
  · exact (pzRuni_next h).trans (congrArg Host.Outcome.next (doRun_pz_counted hi hq))
  · exact atXnt_next h rfl (by dsimp only; rw [countCycles_mxQ])
  · exact atXnt_next h rfl (by dsimp only; rw [countCycles_pzQ])
  · rw [mxFence_next h, if_pos (List.isEmpty_iff.mpr hq)]
  · rw [pzFence_next h, if_pos (List.isEmpty_iff.mpr hq)]

/-! Beams and waits (R72, R266, R267). -/

theorem getLsbD_two_pow {n : Nat} (hn : n < 32) (m : Nat) : (BitVec.ofNat 32 (2 ^ n)).getLsbD m = decide (n = m) := by
  rw [BitVec.getLsbD_ofNat, Nat.testBit_two_pow]
  by_cases h : n = m
  · simp [← h, hn]
  · simp [h]

theorem arrive_released (c : Core) {n : Nat} (hn : n < 32) (m : Nat) :
    (arrive c n).released.getLsbD m = (c.released.getLsbD m && decide (m ≠ n)) := by
  rw [arrive, BitVec.getLsbD_and, BitVec.getLsbD_not, getLsbD_two_pow hn]
  by_cases hm : m < 32
  · simp [hm, eq_comm]
  · simp [BitVec.getLsbD_of_ge c.released m (by omega)]

theorem arrive_votes (c : Core) {n : Nat} (hn : n < 32) (m : Nat) :
    (arrive c n).votes.getLsbD m = (c.votes.getLsbD m || (c.beamMask.getLsbD n && decide (n = m))) := by
  unfold arrive
  dsimp only
  split
  · next h => rw [BitVec.getLsbD_or, getLsbD_two_pow hn, h, Bool.true_and]
  · next h => simp [h]

/-- Settles O22: each instruction on the core as its cycles are counted, and the bits of an arrival. -/
theorem beamsAndWaits : Obligations.BeamsAndWaits := by
  intro s t len rd rs1 u ch
  refine ⟨fun h => ?_, fun h => ?_, fun h => ?_, fun h hw => ?_, fun h hw => ?_, fun c n hn => ⟨fun hb => ?_, ?_, fun m hm =>
    ⟨?_, ?_⟩⟩⟩
  · exact atXnt_next h rfl (by dsimp only; rw [xcur_countCycles])
  · refine congrArg Host.Outcome.next ((atXnt_at h rfl).trans ?_)
    dsimp only
    rw [xcur_countCycles]
    exact updCore_timed fun _ _ => rfl
  · refine congrArg Host.Outcome.next ((atXnt_at h rfl).trans ?_)
    dsimp only
    rw [xcur_countCycles]
    rfl
  · exact atXnt_next h rfl (updCore_timed fun _ _ => if_pos hw)
  · exact atXnt_next h rfl (updCore_timed fun _ _ => if_neg (not_not.mpr hw))
  · rw [arrive_votes c hn, hb]
    simp
  · rw [arrive_released c hn]
    simp
  · rw [arrive_votes c hn]
    simp [hm.symm]
  · rw [arrive_released c hn]
    simp [hm]

/-! Timers and the watchdog (R54, R72, R75). -/

/-- The wake timer that has reached its value is disarmed; with TIMER_EN it wakes. -/
theorem wakeTimerFire_next {v : Nat} (hr : tileRuns s t = true) (hv : (tileOf s t).core.wakeTimer = some v)
    (hle : v ≤ tileTb s t) : exec (.wakeTimerFire t) s = .next (updCore s t fun c =>
      if c.wakeCtl.getLsbD 9 then wakeCondition { c with wakeTimer := none } 2 else { c with wakeTimer := none }) := by
  refine congrArg Host.Outcome.next ?_
  rw [hv]
  exact if_pos (by simp [hr, hle])

/-- Settles O23: each instruction, the timer by TIMER_EN, and the watchdog that has run out. -/
theorem timersAndWatchdog : Obligations.TimersAndWatchdog := by
  intro s t len rs1 rs2 v u
  refine ⟨fun h ha => ?_, fun h => ?_, fun h => ?_, fun hr hv hle he => ?_, fun hr hv hle he => ?_, fun h => ?_,
    fun hr hw hp hc => ?_⟩
  · refine congrArg Host.Outcome.next ((atXnt_at h rfl).trans ?_)
    dsimp only
    rw [xcur_countCycles, onAccess_ok (accessOk_countCycles ha), curSlot_countCycles]
    rfl
  · exact atXnt_next h rfl (by dsimp only; rw [xcur_countCycles, xcur_countCycles])
  · exact atXnt_next h rfl rfl
  · exact (wakeTimerFire_next hr hv hle).trans (congrArg Host.Outcome.next (updCore_congr (if_pos he)))
  · exact (wakeTimerFire_next hr hv hle).trans
      (congrArg Host.Outcome.next (updCore_congr (if_neg (by rw [he]; exact Bool.false_ne_true))))
  · exact atXnt_next h rfl rfl
  · exact congrArg Host.Outcome.next (if_pos (by simp [hr, hp, hc]))

/-! Tasks (R46, R47, R52, R54). -/

theorem onT0_T0 {ok : State} (h : (tileOf s t).core.cur = 0) : onT0 (countCycles s t) t ok = ok :=
  if_pos (countCycles_cur.trans h)

theorem onT0_task {ok : State} (h : (tileOf s t).core.cur ≠ 0) :
    onT0 (countCycles s t) t ok = faultHere (countCycles s t) t 0x08 (wordHere (countCycles s t) t) false :=
  if_neg (by rwa [countCycles_cur])

theorem tkStart_next {rd rs1 rs2 : Nat} (h : AtInstr s t (.xnt (.tkStart rd rs1 rs2)) len) : exec (.tkStart t) s =
    .next (onT0 (countCycles s t) t (updCore (countCycles s t) t fun c =>
      startCore c len rd ((xcur s t rs1).toNat % 4) (xcur s t rs2))) :=
  atXnt_next h rfl (by simp only [xcur_countCycles])

theorem tkReset_next {rs1 : Nat} (h : AtInstr s t (.xnt (.tkReset rs1)) len) : exec (.tkReset t) s =
    .next (onT0 (countCycles s t) t (
      if (xcur s t rs1).toNat % 4 = 0 then faultHere (countCycles s t) t 0x01 (wordHere (countCycles s t) t) false
      else doReset (countCycles s t) t ((xcur s t rs1).toNat % 4) fun c => retire c len)) :=
  atXnt_next h rfl (by simp only [xcur_countCycles])

/-- Settles O24: each instruction by who runs it and the state of the slot it names. -/
theorem taskInstructions : Obligations.TaskInstructions := by
  intro s t len rd rs1 rs2 u n
  refine ⟨fun h h0 hn hi => ?_, fun h h0 hno => ?_, fun h => ?_, fun h => ?_, fun h h0 hn hr hb => ?_, fun h h0 hn => ?_,
    fun h h0 => ?_⟩
  · rw [tkStart_next h, onT0_T0 h0]
    exact congrArg Host.Outcome.next (updCore_timed fun _ _ => if_pos (by simpa [n] using ⟨hn, hi⟩))
  · rw [tkStart_next h, onT0_T0 h0]
    refine congrArg Host.Outcome.next (updCore_timed fun _ _ => if_neg fun hc => ?_)
    simp only [Bool.and_eq_true, decide_eq_true_eq] at hc
    obtain ⟨hn, hi⟩ := hc
    exact hno.elim hn fun h => h hi
  · exact atXnt_next h rfl rfl
  · exact atXnt_next h rfl rfl
  · rw [tkReset_next h, onT0_T0 h0, if_neg hn,
      doReset_free (by rwa [countCycles_resetting]) (by rwa [slotBusy_countCycles])]
  · rw [tkReset_next h, onT0_T0 h0, if_pos hn]
  · rw [tkStart_next h, onT0_task h0]

end Sys2Proof.Proofs
end

section
/-! PROOFS. Planes: lt.switch, lt.ldcfg and the swap (R167, R168, R180, R181). -/

namespace Sys2Proof.Proofs

open Sys2Proof.Machine Sys2Proof.Laws

variable {s : State} {t len : Nat}

@[simp] theorem tileOf_logRegion (s : State) (t p code sev a b : Nat) : tileOf (logRegion s p code sev a b) t = tileOf s t := by
  rw [tileOf, logRegion_tiles]
  rfl

@[simp] theorem regionOfNo_logRegion (s : State) (q p code sev a b : Nat) :
    regionOfNo (logRegion s p code sev a b) q = regionOfNo s q := by
  rw [regionOfNo, logRegion_regions]
  rfl

@[simp] theorem tileOf_loupeTile (s : State) (t t' kind arg data : Nat) :
    tileOf (loupeTile s t' kind arg data) t = tileOf s t := by
  rw [tileOf, loupeTile, loupe_tiles]
  rfl

@[simp] theorem slotAt_countCycles (n : Nat) : slotAt (tileOf (countCycles s t) t).core n = slotAt (tileOf s t).core n := by
  simp [slotAt]

/-! lt.switch (R180). -/

theorem trigger_pends {cut : Bool} (hv : (tileOf s t).lat.shadowValid = true) (hp : (tileOf s t).lat.pend = none) :
    trigger s t cut = updLat s t fun l => { l with pend := some cut } := by
  simp [trigger, hv, hp]

theorem trigger_noPlane {cut : Bool} (hv : (tileOf s t).lat.shadowValid = false) : trigger s t cut =
    logRegion (updCtr s (regionOfTile t) fun c => { c with noPlane := (c.noPlane + 1) % 2 ^ 32 }) (regionOfTile t) 0x0301 1
      (regionOfTile t) 0 :=
  if_pos (by rw [hv]; rfl)

theorem ltSwitch_next {rs1 : Nat} (h : AtInstr s t (.xnt (.ltSwitch rs1)) len) : exec (.ltSwitch t) s =
    .next (updCore (trigger (countCycles s t) t ((xcur s t rs1).getLsbD 0)) t fun c => retire c len) :=
  atXnt_next h rfl (by simp only [xcur_countCycles])

/-! lt.ldcfg (R167, R168). -/

/-- The plane that an image describes, in the window of the task it names (R166). -/
def imagePlane (s : State) (t : Nat) (img : List Byte) : Plane :=
  let k := slotAt (tileOf s t).core (bits (fld img 0 4) 5 4)
  planeOf img k.base k.bound

theorem imagePlane_countCycles (img : List Byte) : imagePlane (countCycles s t) t img = imagePlane s t img := by
  rw [imagePlane, slotAt_countCycles]
  rfl

section
variable {n : Nat} {img : List Byte}

theorem takePlane_accepts (h : planeCase s t img n (imagePlane s t img) = none) : takePlane s t n img =
    updLat s t fun l => { l with
      shadow := some (imagePlane s t img), shadowValid := true, shadowGen := plGen (imagePlane s t img) } := by
  unfold imagePlane at h
  unfold takePlane
  dsimp only at h ⊢
  rw [h]
  rfl

theorem takePlane_refuses {k : Nat} (h : planeCase s t img n (imagePlane s t img) = some k) :
    (tileOf (takePlane s t n img) t).lat = { (tileOf s t).lat with shadowValid := false } ∧
    (regionOfNo (takePlane s t n img) (regionOfTile t)).ctr.refused =
      ((regionOfNo s (regionOfTile t)).ctr.refused + 1) % 2 ^ 32 ∧
    (regionOfNo (takePlane s t n img) (regionOfTile t)).ctr.refusedCase = k := by
  unfold imagePlane at h
  unfold takePlane
  dsimp only at h ⊢
  rw [h]
  simp only [tileOf_logRegion, regionOfNo_logRegion, updCtr, tileOf_updRegion, tileOf_updLat_same,
    regionOfNo_updRegion_same, true_and, and_true]
  rfl

/-- lt.ldcfg of T0 with no swap pending reads its image. -/
theorem ltLdcfg_next {rs1 rs2 : Nat} (h : AtInstr s t (.xnt (.ltLdcfg rs1 rs2)) len) (h0 : (tileOf s t).core.cur = 0)
    (hp : (tileOf s t).lat.pend = none) (hi : IssueOk s t (xcur s t rs1).toNat 64 (xcur s t rs2).toNat) :
    exec (.ltLdcfg t false {}) s = .next (updCore (takePlane (countCycles s t) t (xcur s t rs2).toNat
      (readSpad s t ((curSlot s t).base + (xcur s t rs1).toNat) (min (xcur s t rs2).toNat 4096))) t fun c => retire c len) := by
  have hp : ¬(tileOf (countCycles s t) t).lat.pend.isSome = true := by simp [hp]
  refine congrArg Host.Outcome.next ((atXnt_at h rfl).trans ((onT0_T0 h0).trans ((if_neg hp).trans ?_)))
  rw [if_neg Bool.false_ne_true, xcur_countCycles, xcur_countCycles, onIssue_ok (issueOk_countCycles hi), onLines_clean,
    curSlot_countCycles]
  rfl
end

/-! The swap (R181). -/

/-- A lattice at the start of plane `p` of generation `g`, with no shadow and no swap pending. -/
structure AtSwap (l : Lattice) (p : Plane) (g : Nat) : Prop where
  active : l.active = some p
  shadow : l.shadow = none
  gen : l.activeGen = g
  step : l.stepNo = 0
  pend : l.pend = none
  valid : l.shadowValid = false

theorem AtSwap.settled {k : Tile} {p : Plane} {g : Nat} (h : AtSwap k.lat p g) : AtSwap (settle k).lat p g := by
  unfold settle
  split
  · exact h
  · exact ⟨h.active, h.shadow, h.gen, h.step, h.pend, h.valid⟩

theorem AtSwap.ended {p : Plane} {g : Nat} (h : AtSwap (tileOf s t).lat p g) : AtSwap (tileOf (sectionEnd s t) t).lat p g := by
  rw [sectionEnd, tileOf_updTile_same]
  exact ⟨h.active, h.shadow, h.gen, h.step, h.pend, h.valid⟩

theorem sectionEnd_mem (s : State) (t : Nat) : (sectionEnd s t).mem = s.mem := rfl

theorem noteEnd_tile (s : State) (t t' : Nat) (cut : Bool) : tileOf (noteEnd s t cut) t' = tileOf s t' := rfl

theorem noteSwap_tile (s : State) (t t' g : Nat) : tileOf (noteSwap s t g) t' = tileOf s t' := rfl

/-- Behind a swap, memory is as it was and the shadow has become the active plane. -/
theorem swapPlane_facts (s : State) (t : Nat) (p : Plane) (cut : Bool) :
    AtSwap (tileOf (swapPlane s t p cut) t).lat p (tileOf s t).lat.shadowGen ∧ (swapPlane s t p cut).mem = s.mem := by
  generalize hr : swapPlane s t p cut = r
  unfold swapPlane at hr
  extract_lets -underBinder -merge -useContext +onlyGivenNames k g ended s1 s2 s3 s4 at hr
  have hmem : s4.mem = s.mem := by
    have h1 : s1.mem = s.mem := by
      unfold s1
      split
      · rfl
      · rfl
    have h2 : s2.mem = s1.mem := rfl
    have h4 : s4.mem = s3.mem := loupe_mem _ _ _ _ _ _
    exact h4.trans (h2.trans h1)
  have hlat : AtSwap (tileOf s4 t).lat p k.lat.shadowGen := by
    have h4 : tileOf s4 t = tileOf s3 t := tileOf_loupeTile _ _ _ _ _ _
    rw [h4, show tileOf s3 t = _ from tileOf_updTile_same _ _ _]
    exact AtSwap.settled ⟨rfl, rfl, rfl, rfl, rfl, rfl⟩
  rw [← hr]
  split
  · exact ⟨hlat.ended, (sectionEnd_mem s4 t).trans hmem⟩
  · exact ⟨hlat, hmem⟩

/-- PLANE_SWAP where the pending mode takes effect: a cut, or a drain at END with the queues drained. -/
theorem planeSwap_next {x : Plane} {now : Bool} (ha : tileActs s t = true) (hp : (tileOf s t).lat.pend = some now)
    (hs : (tileOf s t).lat.shadow = some x)
    (hd : now = true ∨ ((tileOf s t).lat.running = false ∧ drained (tileOf s t).lat = true)) :
    exec (.planeSwap t) s = .next (swapPlane s t x now) := by
  refine (next_neg (by simp [ha])).trans (congrArg Host.Outcome.next ?_)
  dsimp only
  rw [hp, hs]
  refine if_pos ?_
  obtain h | ⟨hr, hq⟩ := hd
  · simp [h]
  · simp [hr, hq]

/-- Settles O25: the trigger by whether a shadow is valid, the load by the case of its image, the swap by its mode. -/
theorem planeLoadTriggerAndSwap : Obligations.PlaneLoadTriggerAndSwap := by
  intro s t len rs1 rs2 u r cut off n img task p
  have hp : imagePlane u t img = p := imagePlane_countCycles img
  refine ⟨fun h hv hpend => ?_, fun h hv => ?_, fun h h0 hpend hi hcase => ?_, fun k h h0 hpend hi hcase => ?_,
    fun x now ha hpend hs hd => ?_⟩
  · rw [ltSwitch_next h, trigger_pends (by rwa [countCycles_lat]) (by rwa [countCycles_lat])]
  · rw [ltSwitch_next h, trigger_noPlane (by rwa [countCycles_lat])]
  · rw [ltLdcfg_next h h0 hpend hi, takePlane_accepts (by rw [hp]; exact hcase), hp]
  · obtain ⟨hlat, hcount, hno⟩ := takePlane_refuses (img := img) (n := n) (by rw [hp]; exact hcase)
    refine ⟨_, ltLdcfg_next h h0 hpend hi, ?_, hcount, hno⟩
    rw [tileOf_updCore_same]
    exact hlat.trans (by rw [countCycles_lat])
  · obtain ⟨⟨hact, hshadow, hgen, hstep, hnone, hvalid⟩, hmem⟩ := swapPlane_facts s t x now
    exact ⟨_, planeSwap_next ha hpend hs hd, hact, hshadow, hgen, hstep, hnone, hvalid, hmem⟩

end Sys2Proof.Proofs
end

section
/-! PROOFS. The engines: descriptor checks, completions, residue mismatches (R67, R115 to R117, R128, R129, R139 to R142, R157,
R158, R172). -/

namespace Sys2Proof.Proofs

open Sys2Proof.Machine Sys2Proof.Laws

variable {s : State} {t n : Nat} {prism : Bool} {op : EngOp}

/-- A double-bit error in a line that a requester reads (R67). -/
theorem onLines_bad {ranges : List (Nat × Nat)} {line : Nat} {ok : State → State} (h : lineIn ranges line = true) :
    onLines s t ranges { bad := some line } ok = regionFault s (regionOfTile t) 0x20 (line * 16) (some t) 0 := by
  simp [onLines, Option.filter_some, h]

/-! Descriptor checks (R115, R139). -/

/-- The status that an engine's check gives an operation. -/
def opStatus (prism : Bool) (op : EngOp) : Nat := if prism then pzStatus op else mxStatus op

/-- An operation at place `n` ended by its check: off the queue, with its record, its arrival and its count. -/
def failOp (s : State) (t : Nat) (prism : Bool) (n : Nat) (op : EngOp) (status : Nat) : State :=
  countEngine (completeOp (updTile s t fun k => setQueue k prism ((queueOf k prism).eraseIdx n)) t prism op 0 status) t prism
    false 0 0

/-- The engine's check looks at the operation at place `n`. -/
structure Checks (s : State) (t : Nat) (prism : Bool) (n : Nat) (op : EngOp) : Prop where
  place : checkPlace (tileOf s t) prism = some n
  op : (queueOf (tileOf s t) prism)[n]? = some op

theorem checkOp_passes (h : Checks s t prism n op) (hs : opStatus prism op = 0) : checkOp s t prism = updTile s t fun k =>
    if n = 0 || !waitPrev prism op then startOp k prism n
    else setQueue k prism ((queueOf k prism).modify n fun o => { o with checked := true }) := by
  simp only [checkOp, h.place, h.op]
  exact if_pos hs

theorem checkOp_starts (h : Checks s t prism n op) (hs : opStatus prism op = 0) (hn : n = 0 ∨ waitPrev prism op = false) :
    checkOp s t prism = updTile s t fun k => startOp k prism n := by
  have hc : (n = 0 || !waitPrev prism op) = true := by
    obtain hn | hn := hn <;> simp [hn]
  simp only [checkOp_passes h hs, if_pos hc]

theorem checkOp_waits (h : Checks s t prism n op) (hs : opStatus prism op = 0) (hn : n ≠ 0) (hw : waitPrev prism op = true) :
    checkOp s t prism =
      updTile s t fun k => setQueue k prism ((queueOf k prism).modify n fun o => { o with checked := true }) := by
  have hc : ¬(n = 0 || !waitPrev prism op) = true := by simp [hn, hw]
  simp only [checkOp_passes h hs, if_neg hc]

theorem checkOp_fails (h : Checks s t prism n op) (hs : opStatus prism op ≠ 0) : checkOp s t prism =
    if opStatus prism op = 4 then
      tileFault (failOp s t prism n op (opStatus prism op)) t op.slot 0x07 (BitVec.ofNat 32 op.off) false
    else failOp s t prism n op (opStatus prism op) := by
  simp only [checkOp, h.place, h.op]
  exact if_neg hs

theorem mxdCheck_next (h : enginesGo s t = true) : exec (.mxdCheck t {}) s = .next (checkOp s t false) :=
  congrArg Host.Outcome.next (if_pos h)

theorem pzdCheck_next (h : enginesGo s t = true) : exec (.pzdCheck t {}) s = .next (checkOp s t true) :=
  congrArg Host.Outcome.next (if_pos h)

/-- Settles O28: for either engine the check that passes, waits or fails, and a line that cannot be read. -/
theorem descriptorChecks : Obligations.DescriptorChecks := by
  intro s t n line op fail mx pz
  have hmx (h : mx) : enginesGo s t = true ∧ Checks s t false n op := ⟨h.1, h.2.1, h.2.2⟩
  have hpz (h : pz) : enginesGo s t = true ∧ Checks s t true n op := ⟨h.1, h.2.1, h.2.2⟩
  refine ⟨fun h hs hn => ?_, fun h hs hn hw => ?_, fun h hs hn => ?_, fun h hs hn hw => ?_, fun st h hs h0 h4 => ?_,
    fun h hs => ?_, fun st h hs h0 h4 => ?_, fun h hs => ?_, fun h hl => ?_, fun h hl => ?_⟩
  · obtain ⟨hg, hc⟩ := hmx h
    exact (mxdCheck_next hg).trans (congrArg Host.Outcome.next (checkOp_starts hc hs hn))
  · obtain ⟨hg, hc⟩ := hmx h
    exact (mxdCheck_next hg).trans (congrArg Host.Outcome.next (checkOp_waits hc hs hn hw))
  · obtain ⟨hg, hc⟩ := hpz h
    exact (pzdCheck_next hg).trans (congrArg Host.Outcome.next (checkOp_starts hc hs hn))
  · obtain ⟨hg, hc⟩ := hpz h
    exact (pzdCheck_next hg).trans (congrArg Host.Outcome.next (checkOp_waits hc hs hn hw))
  · obtain ⟨hg, hc⟩ := hmx h
    have hs : opStatus false op = st := hs
    rw [mxdCheck_next hg, checkOp_fails hc (by rwa [hs]), hs, if_neg h4]
    rfl
  · obtain ⟨hg, hc⟩ := hmx h
    have hs : opStatus false op = 4 := hs
    rw [mxdCheck_next hg, checkOp_fails hc (by rw [hs]; decide), hs, if_pos rfl]
    rfl
  · obtain ⟨hg, hc⟩ := hpz h
    have hs : opStatus true op = st := hs
    rw [pzdCheck_next hg, checkOp_fails hc (by rwa [hs]), hs, if_neg h4]
    rfl
  · obtain ⟨hg, hc⟩ := hpz h
    have hs : opStatus true op = 4 := hs
    rw [pzdCheck_next hg, checkOp_fails hc (by rw [hs]; decide), hs, if_pos rfl]
    rfl
  · exact congrArg Host.Outcome.next ((if_pos h).trans (onLines_bad hl))
  · exact congrArg Host.Outcome.next ((if_pos h).trans (onLines_bad hl))

/-! Writes of a tile that no snapshot copies (R323). -/

theorem copyFirst_idle {b : Nat} (h : (tileOf s t).snap.copying = false) : copyFirst s t b = s := by
  simp [copyFirst, copyBlock, h]

theorem copyFirsts_idle (h : (tileOf s t).snap.copying = false) (bs : List Nat) :
    bs.foldl (fun u b => copyFirst u t b) s = s := by
  induction bs with
  | nil => rfl
  | cons b bs ih => rw [List.foldl_cons, copyFirst_idle h, ih]

theorem writeSpads_idle (h : (tileOf s t).snap.copying = false) (ws : List (Nat × List Byte)) :
    ∃ c, tileOf (ws.foldl (fun u w => writeSpad u t w.1 w.2) s) t = { tileOf s t with core := c } := by
  induction ws generalizing s with
  | nil => exact ⟨_, rfl⟩
  | cons w ws ih =>
    have e := tileOf_writeSpad_same s t w.1 w.2
    rw [copyFirsts_idle h] at e
    obtain ⟨c, hc⟩ := ih (s := writeSpad s t w.1 w.2) (by rw [e]; exact h)
    exact ⟨c, by rw [List.foldl_cons, hc, e]⟩

/-! Completions (R116, R140). -/

theorem keepStale_holds (m : Memory) (ws : List (Nat × List Byte)) (pick j : Nat) (op : EngOp) :
    (keepStale m t ws pick j op).holds = op.holds := by
  unfold keepStale
  split
  · rfl
  · rfl

/-- The holds that the operation at the head of a queue has had, behind the writes of a completion. -/
theorem engineWrites_holds {rest : List EngOp} (hc : (tileOf s t).snap.copying = false)
    (hq : queueOf (tileOf s t) prism = op :: rest) (ws : List (Nat × List Byte)) (flags : Nat) :
    ((queueOf (tileOf (addFlags (engineWrites s t ws) t flags) t) prism).head?).map (·.holds) = some op.holds := by
  have hfresh (k : Nat) (f : Tile → Tile) : tileOf (updTile { s with free := k } t f) t = f (tileOf s t) :=
    tileOf_updTile_same _ _ _
  rw [addFlags, tileOf_updCore_same, engineWrites]
  dsimp only [fresh]
  obtain ⟨c, e⟩ := writeSpads_idle (s := updTile { s with free := s.free + 1 } t fun k => { k with
    mxQ := k.mxQ.zipIdx.map fun o => keepStale s.mem t ws (Config.freeNat s.free) o.2 o.1
    pzQ := k.pzQ.zipIdx.map fun o => keepStale s.mem t ws (Config.freeNat s.free) (o.2 + 4) o.1 })
    (by rw [hfresh]; exact hc) ws
  rw [e, hfresh]
  cases prism with
  | false =>
    have hq : (tileOf s t).mxQ = op :: rest := hq
    simp [queueOf, hq, keepStale_holds]
  | true =>
    have hq : (tileOf s t).pzQ = op :: rest := hq
    simp [queueOf, hq, keepStale_holds]

theorem readAhead_alone (h : (queueOf (tileOf s t) !prism).filter (·.started) = []) : readAhead s t prism op = (op, s) :=
  if_pos h

theorem copyWaits_idle (h : (tileOf s t).snap.copying = false) (ws : List (Nat × List Byte)) : copyWaits s t ws = (0, s) := by
  simp [copyWaits, h]

/-- What an operation computes: its writes and its flags. -/
def opResult (s : State) (t : Nat) (prism : Bool) (op : EngOp) : List (Nat × List Byte) × Nat :=
  if prism then pzResult s t op else mxResult s t op

/-- The completion of the operation at the head of its queue, beside no other and no snapshot's copying. -/
theorem finishOp_alone {rest : List EngOp} (added : Nat) (hq : queueOf (tileOf s t) prism = op :: rest)
    (ho : (queueOf (tileOf s t) !prism).filter (·.started) = []) (hc : (tileOf s t).snap.copying = false) :
    let v := addFlags (engineWrites s t (opResult s t prism op).1) t (opResult s t prism op).2
    let cycles := opCycles prism op + op.holds + added
    finishOp s t prism op added = countEngine (completeOp (updTile v t fun k =>
      startNext (setQueue k prism ((queueOf k prism).drop 1)) prism) t prism op cycles 0) t prism true
        (if prism then cycles else mxBodyCycles op.desc) added := by
  have hh := engineWrites_holds hc hq (opResult s t prism op).1 (opResult s t prism op).2
  rw [finishOp, readAhead_alone ho]
  dsimp only
  rw [copyWaits_idle hc]
  dsimp only [opResult] at hh ⊢
  rw [hh]
  rfl

/-- The operation that may complete is the one at the head of its queue. -/
theorem finishHead_at {rest : List EngOp} {extra : Nat} {errs : LineErrors} (hq : queueOf (tileOf s t) prism = op :: rest)
    (hf : mayFinish (tileOf s t) op = true) : finishHead s t prism extra errs =
      onLines s t (opLines prism op) errs fun s => finishOp s t prism op (addedCycles prism op extra) := by
  rw [finishHead, hq]
  exact if_pos hf

theorem matrixCompletion_next {rest : List EngOp} {extra : Nat} {errs : LineErrors} (ha : tileActs s t = true)
    (hq : (tileOf s t).mxQ = op :: rest) (hf : mayFinish (tileOf s t) op = true) : exec (.matrixCompletion t extra errs) s =
      .next (onLines s t (opLines false op) errs fun s => finishOp s t false op (addedCycles false op extra)) :=
  congrArg Host.Outcome.next ((if_pos ha).trans (finishHead_at hq hf))

theorem prismCompletion_next {rest : List EngOp} {extra : Nat} {errs : LineErrors} (ha : tileActs s t = true)
    (hq : (tileOf s t).pzQ = op :: rest) (hf : mayFinish (tileOf s t) op = true) : exec (.prismCompletion t extra errs) s =
      .next (onLines s t (opLines true op) errs fun s => finishOp s t true op (addedCycles true op extra)) :=
  congrArg Host.Outcome.next ((if_pos ha).trans (finishHead_at hq hf))

theorem completeOp_record {a cycles status : Nat} (hc : cplOf prism op = some a) (hb : beamOf prism op = none) :
    completeOp s t prism op cycles status =
      writeNum s t a 8 (cplRecord cycles status (if prism then pzTag op.desc else mxTag op.desc)) := by
  simp only [completeOp, hc, hb]

/-! Residue mismatches (R128, R157). -/

theorem residueFault_begun {behind : Bool} {code : Nat} (hq : (queueOf (tileOf s t) prism)[b2n behind]? = some op)
    (hb : begun op = true) : residueFault s t prism behind code = regionFault (updCtr s (regionOfTile t) fun r =>
      if prism then { r with pzResidue := (r.pzResidue + 1) % 2 ^ 32 } else { r with mxResidue := (r.mxResidue + 1) % 2 ^ 32 })
      (regionOfTile t) code op.off (some t) op.slot := by
  rw [residueFault, hq]
  exact if_neg (by simp [hb])

/-- Settles O29: for either engine the completion alone, the line that cannot be read and the record; a mismatch by where it
arose. -/
theorem engineCompletions : Obligations.EngineCompletions := by
  intro s t extra line behind op rest r q k
  refine ⟨fun ha hq hf ho hc => ?_, fun ha hq hf ho hc => ?_, fun ha hq hf hl => ?_, fun ha hq hf hl => ?_,
    fun a st hc hb => completeOp_record hc hb, fun a st hc hb => completeOp_record hc hb, fun ha hq hb => ?_,
    fun ha hq hb => ?_, fun ha hr => ?_⟩
  · exact (matrixCompletion_next ha hq hf).trans (congrArg Host.Outcome.next (finishOp_alone (prism := false) _ hq ho hc))
  · exact (prismCompletion_next ha hq hf).trans (congrArg Host.Outcome.next (finishOp_alone (prism := true) _ hq ho hc))
  · rw [matrixCompletion_next ha hq hf, onLines_bad hl]
  · rw [prismCompletion_next ha hq hf, onLines_bad hl]
  · exact congrArg Host.Outcome.next ((if_pos ha).trans (residueFault_begun (prism := false) hq hb))
  · exact (next_neg (by simp [ha])).trans (congrArg Host.Outcome.next (residueFault_begun (prism := true) hq hb))
  · refine (next_neg (by simp [ha])).trans (congrArg Host.Outcome.next ?_)
    rw [if_pos rfl, hr]

end Sys2Proof.Proofs
end

section
/-! PROOFS. The sending side of the message engine (R77, R249 to R252, R255, R294, R324). -/

namespace Sys2Proof.Proofs

open Sys2Proof.Machine Sys2Proof.Laws

variable {s : State} {t : Nat} {m : SendMsg} {rest : List SendMsg}

/-! Validation (R249). -/

/-- The first message of the send queue has not been checked. -/
structure Unchecked (s : State) (t : Nat) (m : SendMsg) (rest : List SendMsg) : Prop where
  acts : tileActs s t = true
  head : (tileOf s t).msg.sendQ = m :: rest
  fresh : m.validated = false

theorem sendQueueValidate_passes (h : Unchecked s t m rest) (hs : msgStatus m = 0) : exec (.sendQueueValidate t {}) s =
    .next (updMsg s t fun e => { e with sendQ := { m with validated := true } :: rest }) := by
  obtain ⟨ha, hq, hf⟩ := h
  refine (next_neg (by simp [ha])).trans (congrArg Host.Outcome.next ?_)
  rw [hq]
  exact (if_neg (by simp [hf])).trans (if_pos hs)

theorem sendQueueValidate_fails (h : Unchecked s t m rest) (hs : msgStatus m ≠ 0) :
    let u := msgFail (updCtr (updMsg s t fun e => { e with sendQ := rest }) (regionOfTile t) fun c =>
      { c with sendErr := (c.sendErr + 1) % 2 ^ 32 }) t m (msgStatus m)
    exec (.sendQueueValidate t {}) s =
      .next (if msgStatus m = 4 then tileFault u t m.slot 0x07 (BitVec.ofNat 32 m.off) false else u) := by
  obtain ⟨ha, hq, hf⟩ := h
  refine (next_neg (by simp [ha])).trans (congrArg Host.Outcome.next ?_)
  rw [hq]
  exact (if_neg (by simp [hf])).trans (if_neg hs)

/-! Injection (R250, R255, R294). -/

theorem queuePackets_one (k : Packet) (cpl : Option SendMsg) : queuePackets s t [k] cpl =
    updMsg s t fun e => { e with outPk := e.outPk ++ [{ pkt := k, cpl := cpl, start := cyclesNow s t }] } := rfl

/-- A notify record goes first, one at a time. -/
theorem msgInjection_notify {x : NotifyRec} {xs : List NotifyRec} (ha : tileActs s t = true)
    (hn : (tileOf s t).msg.notify = x :: xs) (hl : notifyLeaves (tileOf s t).msg = false) :
    exec (.msgInjection t {}) s = .next (queuePackets (updMsg s t fun m => { m with notify := xs }) t [notifyPacket s t x] none) := by
  refine (next_neg (by simp [ha])).trans (congrArg Host.Outcome.next ?_)
  rw [hn]
  exact if_neg (by simp [hl])

/-- The first message of the send queue may leave. -/
structure AtHead (s : State) (t : Nat) (m : SendMsg) (rest : List SendMsg) : Prop where
  acts : tileActs s t = true
  quiet : (tileOf s t).msg.notify = []
  going : (tileOf s t).snap.stopping = false
  head : (tileOf s t).msg.sendQ = m :: rest
  checked : m.validated = true

theorem msgInjection_head (h : AtHead s t m rest) (hf : isTracked m = true → (tileOf s t).msg.track.all (·.isSome) = false) :
    exec (.msgInjection t {}) s = .next (injectHead s t m rest {}) := by
  obtain ⟨ha, hn, hs, hq, hc⟩ := h
  have hfull : ¬(isTracked m && (tileOf s t).msg.track.all (·.isSome)) = true := fun hx => by
    obtain ⟨hx, hy⟩ := Bool.and_eq_true_iff.mp hx
    exact Bool.false_ne_true ((hf hx).symm.trans hy)
  refine (next_neg (by simp [ha])).trans (congrArg Host.Outcome.next ?_)
  rw [hn]
  refine (if_neg (by simp [hs])).trans ?_
  rw [hq]
  exact (if_neg (by simp [hc])).trans (if_neg hfull)

theorem isMsg_class (h : isMsg m = true) : hClass m.hdr ≠ 2 := by
  simp only [isMsg, Bool.and_eq_true, decide_eq_true_eq] at h
  exact h.1

theorem isTracked_msg (h : isMsg m = true) : isTracked m = hAck m.hdr := if_pos h

theorem isTracked_reduction (h : hClass m.hdr = 2) : isTracked m = false := by
  simp [isTracked, isMsg, isPutGet, h]

theorem redPacket_updMsg (f : MsgEngine → MsgEngine) : redPacket (updMsg s t f) t m = redPacket s t m := by
  rw [redPacket, tileOf_updMsg_same]
  rfl

theorem msgPacket_updMsg (f : MsgEngine → MsgEngine) (txid : Nat) : msgPacket (updMsg s t f) t m txid = msgPacket s t m txid := by
  rw [msgPacket, tileOf_updMsg_same]
  rfl

theorem msgPacket_dst (txid : Nat) :
    (msgPacket s t m txid).dstDev = hDstDev m.hdr ∧ (msgPacket s t m txid).dstLtile = hDstLtile m.hdr := by
  unfold msgPacket
  dsimp only
  split
  · exact ⟨rfl, rfl⟩
  · exact ⟨rfl, rfl⟩

/-- A contribution leaves as one packet (R239). -/
theorem injectHead_reduction (h : hClass m.hdr = 2) : injectHead s t m rest {} =
    queuePackets (updMsg s t fun e => { e with sendQ := rest }) t [redPacket s t m] none := by
  unfold injectHead
  dsimp only
  rw [if_neg (by simp [h]), if_pos h, redPacket_updMsg]

theorem injectHead_guard (hw : (hFence m.hdr && (tileOf s t).msg.track.any (·.isSome)) = false) :
    ¬(hClass m.hdr ≠ 2 && hFence m.hdr && (tileOf s t).msg.track.any (·.isSome)) = true := by
  rw [Bool.and_assoc, hw, Bool.and_false]
  exact Bool.false_ne_true

/-- A message for another tile leaves the engine (R247). -/
theorem msgPacket_leaves (haway : hDstDev m.hdr ≠ s.fabric.devId ∨ (tileOf s t).core.ltile ≠ some (hDstLtile m.hdr))
    (txid : Nat) : ¬((msgPacket s t m txid).dstDev = s.fabric.devId &&
      (tileOf s t).core.ltile = some (msgPacket s t m txid).dstLtile) = true := by
  obtain ⟨hd, hl⟩ := msgPacket_dst (s := s) (t := t) (m := m) txid
  rw [hd, hl]
  obtain h | h := haway
  · simp [h]
  · simp [h]

section
variable (hm : isMsg m = true) (hw : (hFence m.hdr && (tileOf s t).msg.track.any (·.isSome)) = false)
  (haway : hDstDev m.hdr ≠ s.fabric.devId ∨ (tileOf s t).core.ltile ≠ some (hDstLtile m.hdr))
include hm hw haway

/-- A message without acknowledgement leaves as one packet, which completes it (R251). -/
theorem injectHead_untracked (ha : hAck m.hdr = false) : injectHead s t m rest {} =
    queuePackets (updMsg s t fun e => { e with sendQ := rest }) t [msgPacket s t m 0] (some m) := by
  have hleaves := msgPacket_leaves (s := updMsg s t fun e => { e with sendQ := rest })
    (by rw [tileOf_updMsg_same]; exact haway) 0
  unfold injectHead
  dsimp only
  rw [if_neg (injectHead_guard hw), if_neg (isMsg_class hm), isTracked_msg hm, ha]
  dsimp only
  rw [if_pos hm, if_neg hleaves, msgPacket_updMsg, if_neg Bool.false_ne_true]

/-- A message with acknowledgement leaves under the first free entry (R250). -/
theorem injectHead_tracked {i : Nat} (ha : hAck m.hdr = true) (hi : (tileOf s t).msg.track.findIdx? (·.isNone) = some i) :
    let x := takeTrack (updMsg s t fun e => { e with sendQ := rest }) t i m
    injectHead s t m rest {} = queuePackets x.1 t [msgPacket s t m x.2] none := by
  have htile (f : MsgEngine → MsgEngine) (g : MsgEngine → MsgEngine) : tileOf (updMsg (updMsg s t f) t g) t =
      { tileOf s t with msg := g (f (tileOf s t).msg) } := by
    rw [tileOf_updMsg_same, tileOf_updMsg_same]
  unfold injectHead
  dsimp only
  rw [if_neg (injectHead_guard hw), if_neg (isMsg_class hm), isTracked_msg hm, ha, hi]
  dsimp only
  rw [if_pos hm, if_pos rfl]
  unfold takeTrack
  dsimp only
  rw [msgPacket_updMsg, msgPacket_updMsg]
  refine if_neg ?_
  rw [htile]
  exact msgPacket_leaves haway _
end

theorem nextReuse_lt (e r : Nat) : nextReuse e r < 16 := by
  unfold nextReuse
  split <;> omega

/-- The entry taken for a message (R251). -/
theorem takeTrack_msg {i : Nat} (hm : isMsg m = true) : ∃ y : Track, ∃ r : List Nat, ∃ tx,
    takeTrack s t i m = (updMsg s t fun x => { x with track := x.track.set i (some y), reuse := r }, tx) ∧
    (i < 16 → tx % 16 = i) ∧ y.txid = tx ∧ y.waiting = 1 ∧ y.tag = hTag m.hdr ∧ y.seq = hSeq m.hdr := by
  have hr := nextReuse_lt i ((tileOf s t).msg.reuse.getD i 0)
  refine ⟨_, _, _, congrArg₂ Prod.mk (updTile_congr rfl) rfl, fun hi => ?_, rfl, if_pos hm, rfl, rfl⟩
  omega

/-- MSG_INJECTION of a message with acknowledgement: what it leaves (R250, R251). -/
theorem msgInjection_tracked {i : Nat} (h : AtHead s t m rest) (hm : isMsg m = true) (ha : hAck m.hdr = true)
    (hw : (hFence m.hdr && (tileOf s t).msg.track.any (·.isSome)) = false)
    (haway : hDstDev m.hdr ≠ s.fabric.devId ∨ (tileOf s t).core.ltile ≠ some (hDstLtile m.hdr))
    (hi : (tileOf s t).msg.track.findIdx? (·.isNone) = some i) (h16 : i < 16) :
    ∃ u tx, exec (.msgInjection t {}) s = .next u ∧ (tileOf u t).msg.sendQ = rest ∧ tx % 16 = i ∧
      ((tileOf u t).msg.track.getD i none).map (fun y => (y.txid, y.waiting, y.tag, y.seq)) = some (tx, 1, hTag m.hdr, hSeq m.hdr) ∧
      (tileOf u t).msg.outPk = (tileOf s t).msg.outPk ++ [{ pkt := msgPacket s t m tx, start := cyclesNow s t }] ∧
      u.mem = s.mem := by
  obtain ⟨hlen, hnone, -⟩ := List.findIdx?_eq_some_iff_getElem.mp hi
  have hfree : (tileOf s t).msg.track.all (·.isSome) = false := by
    rw [List.all_eq_false]
    exact ⟨_, List.getElem_mem hlen, by simpa using hnone⟩
  obtain ⟨y, r, tx, e, htx, hid, hwait, htag, hseq⟩ :=
    takeTrack_msg (s := updMsg s t fun e => { e with sendQ := rest }) (t := t) (i := i) hm
  have hnext := (msgInjection_head h fun _ => hfree).trans (congrArg Host.Outcome.next (injectHead_tracked hm hw haway ha hi))
  rw [e] at hnext
  refine ⟨_, tx, hnext, ?_⟩
  rw [queuePackets_one, tileOf_updMsg_same, tileOf_updMsg_same, tileOf_updMsg_same]
  refine ⟨rfl, htx h16, ?_, rfl, rfl⟩
  simp [hlen, hid, hwait, htag, hseq]

/-! Responses (R251, R252). -/

section
variable {k : Packet} {sel : Packet → Bool} {e : Nat} {x : Track}

/-- The tile runs, and `k` is the first arrived packet that a command takes. -/
structure TakesBy (s : State) (t : Nat) (sel : Packet → Bool) (k : Packet) : Prop where
  runs : tileRuns s t = true
  first : (tileOf s t).msg.arrived.find? sel = some k

/-- The state with the packet taken. -/
def taken (s : State) (t : Nat) (k : Packet) : State := updMsg s t fun m => { m with arrived := m.arrived.erase k }

theorem TakesBy.take (h : TakesBy s t sel k) : takeArrived s t sel = some (k, taken s t k) := takeArrived_first h.first

theorem trackOf_taken (txid : Nat) : trackOf (taken s t k) t txid = trackOf s t txid := by
  rw [trackOf, taken, tileOf_updMsg_same]
  rfl

theorem ofEngine_taken (l : Packet) : ofEngine (taken s t k) t l = ofEngine s t l := by
  rw [ofEngine, taken, tileOf_updMsg_same]
  rfl

/-- The entry that a response names. -/
theorem trackOf_entry (h : (tileOf s t).msg.track[e]? = some (some x)) (hx : x.txid = pkTxid k) (he : x.txid % 16 = e) :
    trackOf s t (pkTxid k) = some (e, x) := by
  rw [← hx, trackOf, he, List.getD_eq_getElem?_getD, h]
  exact if_pos rfl

theorem ackArrival_ack (h : TakesBy s t (fun k => k.kind = 5 || (isCtlReply k && !ctlOfGet s t k)) k) (hk : k.kind = 5) :
    exec (.ackArrival t {}) s = .next (match trackOf s t (pkTxid k) with
      | some (e, x) => responseIn (taken s t k) t e x
      | none => if ofEngine s t k then copyAnswered (taken s t k) t else countLate (taken s t k) t) := by
  refine (next_neg (by simp [h.runs])).trans (congrArg Host.Outcome.next ?_)
  rw [h.take]
  refine (if_pos hk).trans ?_
  rw [trackOf_taken, ofEngine_taken]
  rfl

theorem ackArrival_control (h : TakesBy s t (fun k => k.kind = 5 || (isCtlReply k && !ctlOfGet s t k)) k) (hk : k.kind ≠ 5) :
    exec (.ackArrival t {}) s = .next (ctlReply (taken s t k) t k {}) := by
  refine (next_neg (by simp [h.runs])).trans (congrArg Host.Outcome.next ?_)
  rw [h.take]
  exact if_neg hk

theorem readReplyArrival_reply (h : TakesBy s t (fun k => k.kind = 4 || (isCtlReply k && ctlOfGet s t k)) k) (hk : k.kind = 4)
    (hx : trackOf s t (pkTxid k) = some (e, x)) : exec (.readReplyArrival t {}) s = .next (responseIn
      (writeSpad (taken s t k) t (fld k.payload 0 4) (slice k.payload 16 (fld k.payload 4 2))) t e x) := by
  refine (next_neg (by simp [h.runs])).trans (congrArg Host.Outcome.next ?_)
  rw [h.take]
  refine (if_pos hk).trans ?_
  rw [trackOf_taken, hx]
  rfl

theorem readReplyArrival_control (h : TakesBy s t (fun k => k.kind = 4 || (isCtlReply k && ctlOfGet s t k)) k)
    (hk : k.kind ≠ 4) : exec (.readReplyArrival t {}) s = .next (ctlReply (taken s t k) t k {}) := by
  refine (next_neg (by simp [h.runs])).trans (congrArg Host.Outcome.next ?_)
  rw [h.take]
  exact if_neg hk

/-- A NAK by what it refuses: a snapshot write of the engine's own, an untracked packet, a tracked operation (R252, R262, R324). -/
theorem nakArrival_next (h : TakesBy s t (fun k => k.kind = 6) k) (hp : (tileOf s t).msg.ringPend = none) :
    exec (.nakArrival t {}) s = .next (
      if ofEngine s t k && fld k.payload 2 1 = 1 then copyFailed (taken s t k) t
      else if pkTxid k = 0 then nakEntry (taken s t k) t k (fld k.payload 4 2) (fld k.payload 6 2)
      else match trackOf s t (pkTxid k) with
        | some (e, x) => nakEntry (trackDone (taken s t k) t e x (0x10 + fld k.payload 0 1)) t k x.tag x.seq
        | none => countLate (taken s t k) t) := by
  refine (next_neg (by simp [h.runs, hp])).trans (congrArg Host.Outcome.next ?_)
  rw [h.take]
  dsimp only
  rw [trackOf_taken, ofEngine_taken]
  rfl

theorem senderTimeout_next (hr : tileRuns s t = true) (hx : (tileOf s t).msg.track.getD e none = some x) :
    exec (.senderTimeout t e {}) s = .next
      (trackDone (updCtr s (regionOfTile t) fun c => { c with timeouts := (c.timeouts + 1) % 2 ^ 32 }) t e x 0x20) := by
  refine (next_neg (by simp [hr])).trans (congrArg Host.Outcome.next ?_)
  rw [hx]
  rfl
end

/-! What a write into the scratchpad leaves of the tracking entries (R323). -/

theorem bulkWrite_track (a : Nat) (bs : List Byte) :
    (tileOf (bulkWrite s t a bs) t).msg.track = (tileOf s t).msg.track := by
  simp [bulkWrite, queueOut]

theorem stageBlock_track (l n : Nat) (b : List Byte) :
    (tileOf (stageBlock s t l n b) t).msg.track = (tileOf s t).msg.track := by
  unfold stageBlock
  split
  · split
    · exact foldl_keep (fun u => (tileOf u t).msg.track) (fun u _ => bulkWrite_track _ _) _ _
    · rfl
  · rfl

theorem copyBlock_track (b : Nat) : (tileOf (copyBlock s t b) t).msg.track = (tileOf s t).msg.track := by
  have h (f : Tile → Tile) (v : Recovery) : tileOf { updTile s t f with recov := v } t = f (tileOf s t) :=
    tileOf_updTile_same s t f
  unfold copyBlock
  dsimp only
  split
  · split
    · rw [h]
    · rw [stageBlock_track, h]
  · rfl

theorem copyFirst_track (b : Nat) : (tileOf (copyFirst s t b) t).msg.track = (tileOf s t).msg.track := by
  unfold copyFirst
  dsimp only [fresh]
  split
  · rw [copyBlock_track, addHolds, tileOf_updTile_same]
    rfl
  · exact copyBlock_track b

theorem writeSpad_track (s : State) (t off : Nat) (bs : List Byte) :
    (tileOf (writeSpad s t off bs) t).msg.track = (tileOf s t).msg.track := by
  rw [tileOf_writeSpad_same]
  exact foldl_keep (fun u => (tileOf u t).msg.track) (fun u b => copyFirst_track b) _ s

theorem natLe_length (n v : Nat) : (natLe n v).length = n := by
  induction n generalizing v with
  | zero => rfl
  | succ n ih => rw [natLe, List.length_cons, ih]

/-- A number reads back as it was written (R66). -/
theorem readNum_writeNum (s : State) (t off n v : Nat) : readNum (writeNum s t off n v) t off n = v % 256 ^ n := by
  have h := readSpad_writeSpad s t off (natLe n v)
  rw [natLe_length] at h
  rw [readNum, writeNum, h, leNat_natLe]

/-! The end of a tracked operation (R251). -/

section
variable {e : Nat} {x : Track} {st : Nat}

theorem trackDone_unrecorded (hc : x.cpl = none) (hb : x.beam = none) :
    trackDone s t e x st = updMsg s t fun m => { m with track := m.track.set e none } := by
  simp only [trackDone, hc, hb]

theorem trackDone_recorded {a : Nat} (hc : x.cpl = some a) (hb : x.beam = none) : trackDone s t e x st =
    writeNum (updMsg s t fun m => { m with track := m.track.set e none }) t a 8
      (min (cyclesSince s t x.start + 1) 0xFFFFFFFF * 2 ^ 32 + st * 65536 + x.tag) := by
  simp only [trackDone, hc, hb]

theorem trackDone_frees (he : e < (tileOf s t).msg.track.length) (hb : x.beam = none) :
    (tileOf (trackDone s t e x st) t).msg.track[e]? = some none := by
  have hset : ((tileOf (updMsg s t fun m => { m with track := m.track.set e none }) t).msg.track)[e]? = some none := by
    rw [tileOf_updMsg_same]
    exact List.getElem?_set_self he
  cases hc : x.cpl with
  | none => rw [trackDone_unrecorded hc hb, hset]
  | some a => rw [trackDone_recorded hc hb, writeNum, writeSpad_track, hset]

theorem trackDone_reads {a : Nat} (hc : x.cpl = some a) (hb : x.beam = none) (ht : x.tag < 65536) (hs : st < 256) :
    readNum (trackDone s t e x st) t a 8 =
      min (cyclesSince s t x.start + 1) 0xFFFFFFFF * 2 ^ 32 + st * 65536 + x.tag := by
  rw [trackDone_recorded hc hb, readNum_writeNum]
  exact Nat.mod_eq_of_lt (by omega)
end

/-- Settles O33: each command by the lemma of its case. -/
theorem messageSenderSide : Obligations.MessageSenderSide := by
  intro s t e n m rest k x out takes entry answer head waits away sent reply
  have hhead : head → AtHead s t m rest := fun ⟨ha, hn, hs, hq, hc⟩ => ⟨ha, hn, hs, hq, hc⟩
  have htakes {sel : Packet → Bool} : takes sel → TakesBy s t sel k := fun ⟨hr, hf⟩ => ⟨hr, hf⟩
  have hentry : entry → trackOf s t (pkTxid k) = some (e, x) := fun ⟨h, _, hx, he⟩ => trackOf_entry h hx he
  refine ⟨fun ha hq hf hs => sendQueueValidate_passes ⟨ha, hq, hf⟩ hs, fun ha hq hf hs hn => ?_,
    fun h hf => msgInjection_head (hhead h) hf, fun y ys ha hn hl => msgInjection_notify ha hn hl, fun h hc => ?_,
    fun h hm ha hw haway => ?_, fun i h hm ha hw haway hi h16 => msgInjection_tracked (hhead h) hm ha hw haway hi h16,
    fun h he hk => ?_, fun h he hk => readReplyArrival_reply (htakes h) hk (hentry he), fun h hp he h0 => ?_,
    fun h hk => ackArrival_control (htakes h) hk, fun h hk => readReplyArrival_control (htakes h) hk, fun h hk hno => ?_,
    fun h hp hof hone => ?_, senderTimeout_next,
    fun st he hb => ⟨trackDone_frees he hb, fun a hc => trackDone_reads hc hb, fun hc => ?_⟩⟩
  · subst hs
    exact sendQueueValidate_fails ⟨ha, hq, hf⟩ hn
  · have htr : isTracked m = true → (tileOf s t).msg.track.all (·.isSome) = false := fun h =>
      absurd ((isTracked_reduction hc).symm.trans h) Bool.false_ne_true
    rw [msgInjection_head (hhead h) htr, injectHead_reduction hc]
    rfl
  · have htr : isTracked m = true → (tileOf s t).msg.track.all (·.isSome) = false := fun h =>
      absurd (ha.symm.trans ((isTracked_msg hm).symm.trans h)) Bool.false_ne_true
    rw [msgInjection_head (hhead h) htr, injectHead_untracked hm hw haway ha]
    rfl
  · rw [ackArrival_ack (htakes h) hk, hentry he]
    rfl
  · rw [nakArrival_next (htakes h) hp, hentry he, if_neg (by simp [ofEngine, h0]), if_neg h0]
    rfl
  · rw [ackArrival_ack (htakes h) hk, hno]
    rfl
  · rw [nakArrival_next (htakes h) hp, if_pos (by simp [hof, hone])]
    rfl
  · rw [trackDone_unrecorded hc hb]
    rfl

end Sys2Proof.Proofs
end

section
/-! PROOFS. A section's cycle that loses a displaced line (R123, R144, R174): the hold, and which engine's count it moves. -/

namespace Sys2Proof.Proofs

open Sys2Proof.Machine Sys2Proof.Laws

variable {s : State} {t denied : Nat} {p : Plane} {prism : Bool}

/-! What a hold counts in the region (R174, R176). -/

theorem regionOfNo_holdCycle (s : State) (t cause : Nat) : regionOfNo (holdCycle s t cause) (regionOfTile t) =
    { regionOfNo s (regionOfTile t) with hold := (regionOfNo s (regionOfTile t)).hold + 1 } := by
  rw [holdCycle, updLat, regionOfNo_updTile, addHolds, regionOfNo_updTile, regionOfNo_updRegion_same]

/-- A displaced line of Prism counts at Prism, one of the array at the array: the other count is not touched, and so not cut to
64 bits either. -/
theorem displacedCycle_mxDisp (s : State) (t : Nat) (prism : Bool) :
    (regionOfNo (displacedCycle s t prism) (regionOfTile t)).ctr.mxDisp =
      if prism then (regionOfNo s (regionOfTile t)).ctr.mxDisp
      else ((regionOfNo s (regionOfTile t)).ctr.mxDisp + 1) % 2 ^ 64 := by
  rw [displacedCycle, regionOfNo_holdCycle, updCtr, regionOfNo_updRegion_same]
  cases prism
  · rfl
  · rfl

/-! The cycle (R171, R174). -/

/-- The lines that a tile's present step needs. -/
def stepNeed (s : State) (t : Nat) (p : Plane) : Nat :=
  let l := (tileOf s t).lat
  (sendReads p (dueAt p l.stepNo)).length + writeLines l p (dueAt p l.stepNo)

/-- The lines granted to a tile's present step, with those of this cycle. -/
def stepLines (s : State) (t denied : Nat) (p : Plane) : SMap Nat :=
  let l := (tileOf s t).lat
  (grantedLines (stepNeed s t p) denied l.lines).foldl (fun m i =>
    smSet m i (match (sendReads p (dueAt p l.stepNo))[i]? with | some x => readNum s t x.1 x.2 | none => 0)) l.lines

/-- A section's cycle that no condition holds back and in which every line that its step still needs is granted. -/
structure Unhindered (s : State) (t denied : Nat) (p : Plane) : Prop where
  running : inSection s t = some p
  notDue : engineDue (tileOf s t) = false
  free : (tileOf s t).lat.reserved = true ∨ holdCauseOf s t p (dueAt p (tileOf s t).lat.stepNo) = 0
  granted : stepNeed s t p ≤
    (tileOf s t).lat.lines.length + (grantedLines (stepNeed s t p) denied (tileOf s t).lat.lines).length

/-- Such a cycle that loses a line an engine needs is a displaced one, and keeps its lines for the step. -/
theorem step_displaced (h : Unhindered s t denied p) (hd : canDisplace (tileOf s t) prism = true) :
    exec (.step t denied false (some prism) {}) s = .next (displacedCycle
      (updLat s t fun l => { l with lines := stepLines s t denied p, reserved := true }) t prism) := by
  obtain ⟨hs, he, hfree, hall⟩ := h
  have hcause : ¬(if (tileOf s t).lat.reserved then 0
      else holdCauseOf s t p (dueAt p (tileOf s t).lat.stepNo)) ≠ 0 := by
    obtain hr | hc := hfree
    · exact not_not.mpr (if_pos hr)
    · exact not_not.mpr (by rw [hc, ite_self])
  refine congrArg Host.Outcome.next ?_
  simp only [hs, he, Bool.false_eq_true, if_false]
  refine (if_neg hcause).trans ((onLines_clean _ _).trans ?_)
  exact (if_neg (by simpa [stepNeed] using hall)).trans (if_pos hd)

/-! The counterexample. -/

/-- A plane whose only entry ends it. -/
def endPlane : Plane := {
  ctl := 0, stallLimit := 0, steerCtl := 0, steerAct := [], steerOut := [], routes := []
  entries := [0], base := 0, bound := 0 }

/-- A Prism operation under way. -/
def prismOp : EngOp := {
  desc := List.replicate 64 0, base := 0, bound := 0, slot := 0, off := 0, s0 := 0, s1 := 0
  started := true }

/-- Tile 0 at the only step of a section, with a Prism operation under way, in a region whose count of the array's displaced
cycles stands at 2^64. -/
def pastWrap : State := {
  regions := [(0, { st := .bound, ctr := { mxDisp := 2 ^ 64 } })]
  tiles := [(0, { pzQ := [prismOp], lat := { running := true, active := some endPlane } })] }

theorem pastWrap_unhindered : Unhindered pastWrap 0 0 endPlane where
  running := by decide
  notDue := by decide
  free := by decide
  granted := by decide

theorem pastWrap_canDisplace : canDisplace (tileOf pastWrap 0) true = true := by decide

/-- The count that the refuted clause asks for is 0, the one that stands is 2^64. -/
theorem pastWrap_mxDisp : (regionOfNo pastWrap (regionOfTile 0)).ctr.mxDisp = 2 ^ 64 := by decide

/-- Refutes O26: the clause of a displaced line takes the array's count modulo 2^64 for a line of Prism too, while such a cycle
leaves that count as it is. So the clause fails where the count is 2^64, as its Nat may be: at `pastWrap`. -/
theorem not_sectionCycles : ¬ Obligations.SectionCycles := by
  intro h
  obtain ⟨-, -, -, hdisp, -⟩ := h pastWrap 0 0 endPlane
  have hu := pastWrap_unhindered
  obtain ⟨u, hnext, -, -, -, -, -, -, hcount, -⟩ :=
    hdisp true ⟨hu.running, hu.notDue, hu.free⟩ hu.granted pastWrap_canDisplace
  obtain rfl := Host.Outcome.next.inj (hnext.symm.trans (step_displaced hu pastWrap_canDisplace))
  rw [displacedCycle_mxDisp, if_pos rfl, updLat, regionOfNo_updTile, pastWrap_mxDisp] at hcount
  exact absurd hcount (by decide)

end Sys2Proof.Proofs
end

section
/-! PROOFS. Lattice tokens: arrival on a link or at a crossing, a crossing's release, routed forwarding, pairing (R160, R163,
R177, R179, R202, R203). -/

namespace Sys2Proof.Proofs

open Sys2Proof.Machine Sys2Proof.Laws

variable {s : State} {t inp : Nat} {k : Token} {q : List Token} {p : Plane}

/-! Arrivals and crossings (R160, R202, R203). -/

/-- A token whose link stays in its region, or leads nowhere, enters the input's queue. -/
theorem latticeTokenArrival_input (hr : tileRuns s t = true) (hq : latQ (tileOf s t).lat.flight inp = k :: q)
    (hc : ∀ t', linkTile s t (inp % 8) = some t' → viaCrossing t t' = false) :
    exec (.latticeTokenArrival t inp) s = .next (updTile s t fun x => settle { x with lat := { x.lat with
      flight := smSet x.lat.flight inp q, inq := smSet x.lat.inq inp (latQ x.lat.inq inp ++ [k]) } }) := by
  refine (next_neg (by simp [hr])).trans (congrArg Host.Outcome.next ?_)
  rw [hq]
  cases hl : linkTile s t (inp % 8) with
  | none => rfl
  | some t' =>
    dsimp only
    rw [hc t' hl]
    rfl

/-- A token whose link passes a crossing enters the crossing's queue. -/
theorem latticeTokenArrival_crossing {t' : Nat} (hr : tileRuns s t = true)
    (hq : latQ (tileOf s t).lat.flight inp = k :: q) (hl : linkTile s t (inp % 8) = some t') (hc : viaCrossing t t' = true) :
    exec (.latticeTokenArrival t inp) s = .next (updLat s t fun l => { l with
      flight := smSet l.flight inp q, xq := smSet l.xq inp (latQ l.xq inp ++ [k]) }) := by
  refine (next_neg (by simp [hr])).trans (congrArg Host.Outcome.next ?_)
  rw [hq, hl]
  dsimp only
  rw [hc]
  rfl

theorem crossingTokenRelease_next (hr : tileRuns s t = true) (hq : latQ (tileOf s t).lat.xq inp = k :: q)
    (hroom : (latQ (tileOf s t).lat.inq inp).length < 4) :
    exec (.crossingTokenRelease t inp) s = .next (updTile s t fun x => settle { x with lat := { x.lat with
      xq := smSet x.lat.xq inp q, inq := smSet x.lat.inq inp (latQ x.lat.inq inp ++ [k]) } }) := by
  refine (next_neg (by simp [hr])).trans (congrArg Host.Outcome.next ?_)
  rw [hq]
  exact if_neg (by omega)

/-! The head of an input leaves it (R163, R177, R179). -/

/-- Tile `t` runs plane `p`, and `k` is the usable token at the head of input `inp`. -/
structure UsableAt (s : State) (t inp : Nat) (p : Plane) (k : Token) : Prop where
  runs : tileRuns s t = true
  active : (tileOf s t).lat.active = some p
  head : ∃ q, usable (tileOf s t).lat inp = k :: q

/-- A lattice without the token at the head of an input. -/
def popInput (l : Lattice) (inp : Nat) : Lattice := { l with inq := smSet l.inq inp ((latQ l.inq inp).drop 1) }

/-- The outputs that the route words of an input drive, as network and port. -/
def routedOuts (p : Plane) (inp : Nat) : List (Nat × Nat) :=
  (p.routes.filter fun w => latIndex (rtNet w) (rtIn w) = inp).map fun w => (rtNet w, rtOut w)

theorem routedForward_next (h : UsableAt s t inp p k) (hne : routedOuts p inp ≠ [])
    (hroom : (routedOuts p inp).all (fun o => outRoom s t o.1 o.2) = true) :
    exec (.routedForward t inp) s = .next (updTile ((routedOuts p inp).foldl (fun u o => emitToken u t o.1 o.2 k) s) t
      fun x => settle { x with lat := popInput x.lat inp }) := by
  obtain ⟨hr, ha, q, hq⟩ := h
  refine (next_neg (by simp [hr])).trans (congrArg Host.Outcome.next ?_)
  rw [ha, hq]
  exact if_pos (Bool.and_eq_true_iff.mpr ⟨congrArg Bool.not (List.isEmpty_eq_false_iff.mpr hne), hroom⟩)

/-- The steering unit's input, data or control (R178). -/
def steerInput (p : Plane) (control : Bool) : Nat :=
  if control then latIndex 2 (steerCin p) else latIndex (steerNet p) (steerDin p)

/-- The steering unit's pairing queue of a side. -/
def pairQueue (l : Lattice) (control : Bool) : List Token := if control then l.pairCtl else l.pairData

/-- A lattice with a token behind the others in the pairing queue of a side. -/
def pushPair (l : Lattice) (control : Bool) (k : Token) : Lattice :=
  if control then { l with pairCtl := l.pairCtl ++ [k] } else { l with pairData := l.pairData ++ [k] }

/-- A usable token moves on either side alike, where its pairing queue has room (R179). -/
theorem pairingQueueMove_next {control : Bool} (h : UsableAt s t (steerInput p control) p k) (hen : steerEn p = true)
    (hroom : (pairQueue (tileOf s t).lat control).length < 4) :
    exec (.pairingQueueMove t control) s = .next (updTile s t fun x =>
      settle { x with lat := pushPair (popInput x.lat (steerInput p control)) control k }) := by
  obtain ⟨hr, ha, q, hq⟩ := h
  unfold steerInput at hq
  refine (next_neg (by simp [hr])).trans (congrArg Host.Outcome.next ?_)
  rw [ha]
  dsimp only
  rw [hq]
  exact if_pos (Bool.and_eq_true_iff.mpr ⟨hen, decide_eq_true hroom⟩)

/-- Settles O27: an arrival by whether its link passes a crossing, the release, the forwarding, and a pairing move by its side. -/
theorem latticeTokensMove : Obligations.LatticeTokensMove := by
  intro s t inp k q p l
  refine ⟨latticeTokenArrival_input, fun _ => latticeTokenArrival_crossing, crossingTokenRelease_next, ?_, ?_, ?_⟩
  · exact fun hr ha hq => routedForward_next ⟨hr, ha, q, hq⟩
  · exact fun hr ha hen hroom hq => pairingQueueMove_next (control := false) ⟨hr, ha, q, hq⟩ hen hroom
  · exact fun hr ha hen hroom hq => pairingQueueMove_next (control := true) ⟨hr, ha, q, hq⟩ hen hroom

end Sys2Proof.Proofs
end

section
/-! PROOFS. What a step leaves of every region and of the reference clock; the ports that train again, the end of a loss of
reference and the entry to KEEP-ALIVE (R211 to R215, R339). -/

namespace Sys2Proof.Proofs

open Sys2Proof.Machine Sys2Proof.Laws

variable {s : State}

/-! A property of every region. -/

/-- Every region of a state has a property. -/
def AllRegions (P : Region → Prop) (s : State) : Prop := ∀ e ∈ s.regions, P e.2

theorem smGet_mem {α : Type} {m : SMap α} {a : Nat} {v : α} (h : smGet m a = some v) : (a, v) ∈ m := by
  induction m with
  | nil => cases h
  | cons x m ih =>
    by_cases e : a = x.1
    · rw [smGet, if_pos e, Option.some.injEq] at h
      exact List.mem_cons.mpr (.inl (Prod.ext e h.symm))
    · rw [smGet, if_neg e] at h
      exact List.mem_cons_of_mem _ (ih h)

section
variable {P : Region → Prop}

theorem AllRegions.of_regions {t : State} (h : AllRegions P s) (hr : t.regions = s.regions) : AllRegions P t :=
  fun e he => h e (hr ▸ he)

/-- A region that is not listed is the default one. -/
theorem AllRegions.regionOfNo (h : AllRegions P s) (hd : P {}) (p : Nat) : P (regionOfNo s p) := by
  rw [Machine.regionOfNo, smGetD]
  cases hg : smGet s.regions p with
  | none => exact hd
  | some r => exact h _ (smGet_mem hg)

theorem AllRegions.updRegion {p : Nat} {f : Region → Region} (h : AllRegions P s) (hd : P {})
    (hf : ∀ r, P r → P (f r)) : AllRegions P (updRegion s p f) := by
  intro e he
  obtain rfl | he := mem_smSet he
  · exact hf _ (h.regionOfNo hd p)
  · exact h e he

/-- An update of every region. -/
theorem AllRegions.map {t : State} (f : Nat × Region → Region) (ht : t.regions = s.regions.map fun e => (e.1, f e))
    (hf : ∀ e ∈ s.regions, P (f e)) : AllRegions P t := by
  intro e he
  obtain ⟨x, hx, rfl⟩ := List.mem_map.mp (ht ▸ he)
  exact hf x hx
end

/-! Operations that leave the reference clock and gate no region. -/

/-- Clocked: no region's clock is gated (R212). -/
abbrev Clocked (s : State) : Prop := AllRegions (fun r => r.gated = false) s

/-- From `s` to `t` the reference clock stays, and no region is gated anew. -/
structure KeepsClocks (s t : State) : Prop where
  clock : t.clock = s.clock
  clocked : Clocked s → Clocked t

theorem KeepsClocks.of_regions {t : State} (hc : t.clock = s.clock) (hr : t.regions = s.regions) : KeepsClocks s t :=
  ⟨hc, fun h => h.of_regions hr⟩

theorem KeepsClocks.refl : KeepsClocks s s := ⟨rfl, id⟩

theorem KeepsClocks.trans {t u : State} (h : KeepsClocks s t) (k : KeepsClocks t u) : KeepsClocks s u :=
  ⟨k.clock.trans h.clock, k.clocked ∘ h.clocked⟩

theorem KeepsClocks.foldl {α : Type} {f : State → α → State} (h : ∀ s a, KeepsClocks s (f s a)) (l : List α) (s : State) :
    KeepsClocks s (l.foldl f s) := by
  induction l generalizing s with
  | nil => exact .refl
  | cons a l ih => exact (h s a).trans (ih _)

theorem KeepsClocks.updRegion {p : Nat} {f : Region → Region} (hf : ∀ r, r.gated = false → (f r).gated = false) :
    KeepsClocks s (updRegion s p f) :=
  ⟨updRegion_clock _ _ _, fun h => h.updRegion rfl hf⟩

theorem KeepsClocks.mapRegions (f : Region → Region) (hf : ∀ r, r.gated = false → (f r).gated = false) :
    KeepsClocks s { s with regions := s.regions.map fun e => (e.1, f e.2) } :=
  ⟨rfl, fun h => .map (s := s) (fun e => f e.2) rfl fun e he => hf e.2 (h e he)⟩

variable (s)

theorem loupe_keepsClocks (p tile kind arg data : Nat) : KeepsClocks s (loupe s p tile kind arg data) := by
  unfold loupe
  split
  · refine .updRegion fun r hr => ?_
    dsimp only
    split
    · exact hr
    · split <;> exact hr
  · exact .refl

theorem updCtr_keepsClocks (p : Nat) (f : Counters → Counters) : KeepsClocks s (updCtr s p f) :=
  .updRegion fun _ hr => hr

theorem trigger_keepsClocks (t : Nat) (cut : Bool) : KeepsClocks s (trigger s t cut) := by
  have hlat (f : Lattice → Lattice) : KeepsClocks s (updLat s t f) := .of_regions rfl rfl
  unfold trigger
  dsimp only
  split
  · exact (updCtr_keepsClocks s _ _).trans
      (.of_regions (logRegion_clock _ _ _ _ _ _) (logRegion_regions _ _ _ _ _ _))
  · split
    · exact hlat _
    · split
      · exact hlat _
      · exact .refl
    · exact .refl

theorem releaseTile_keepsClocks (t ch : Nat) (event : Bool) : KeepsClocks s (releaseTile s t ch event) := by
  have hcore (f : Core → Core) : KeepsClocks s (updCore s t f) := .of_regions rfl rfl
  unfold releaseTile
  dsimp only
  split
  · split
    · exact (hcore _).trans (trigger_keepsClocks _ _ _)
    · exact hcore _
  · exact hcore _

theorem releaseRegion_keepsClocks (p ch : Nat) (ts : List Nat) (event : Bool) :
    KeepsClocks s (releaseRegion s p ch ts event) := by
  unfold releaseRegion
  split
  · exact .refl
  · split
    · exact .updRegion fun _ hr => hr
    · extract_lets -underBinder -merge -useContext +onlyGivenNames s1 s2
      have h2 : KeepsClocks s s2 := (updCtr_keepsClocks s p _).trans (loupe_keepsClocks s1 _ _ _ _ _)
      refine h2.trans (.foldl (fun u t => ?_) ts s2)
      split
      · exact .refl
      · exact releaseTile_keepsClocks u t ch event

theorem snapshotCut_keepsClocks : KeepsClocks s (snapshotCut s) := by
  have hcut (u : State) (t : Nat) : KeepsClocks u (cutTile u t) := by
    unfold cutTile
    dsimp only
    split
    · exact .refl
    · exact .of_regions rfl rfl
  unfold snapshotCut
  split
  · exact .refl
  · extract_lets -underBinder -merge -useContext +onlyGivenNames scope s1 s2
    have h1 : KeepsClocks s s1 := .foldl (fun u e => hcut u e.1) s.tiles s
    have h2 : KeepsClocks s1 s2 := by
      refine .foldl (fun u m => ?_) scope s1
      exact .of_regions rfl rfl
    exact h1.trans (h2.trans (.of_regions rfl rfl))

theorem deliverReleases_keepsClocks : KeepsClocks s (deliverReleases s) := by
  have hdue (l : List (Nat × Nat × List Nat × Bool)) (u : State) : KeepsClocks u
      (l.foldl (fun s e => releaseRegion s e.1 e.2.1 e.2.2.1 e.2.2.2) u) :=
    .foldl (fun _ _ => releaseRegion_keepsClocks _ _ _ _ _) l u
  have hend (u : State) : KeepsClocks u (migrationsQuiesced (snapshotCut u)) :=
    (snapshotCut_keepsClocks u).trans
      (.mapRegions (fun r => if r.migrating = 2 then { r with migrating := 3 } else r) fun r hr => by split <;> exact hr)
  unfold deliverReleases
  dsimp only
  refine (KeepsClocks.mapRegions (fun r => { r with relPending := [] }) fun _ hr => hr).trans ?_
  split
  · exact (hdue _ _).trans (hend _)
  · exact hdue _ _

/-- No region has a release waiting for its clock (R212). -/
abbrev NoneWaits (s : State) : Prop := AllRegions (fun r => r.relPending = []) s

theorem deliverReleases_none {s : State} (h : NoneWaits s) :
    (deliverReleases s).mem = s.mem ∧ (deliverReleases s).tiles = s.tiles := by
  have hcut : (s.regions.any fun e => e.2.relPending.any (·.1 = 30)) = false :=
    List.any_eq_false.mpr fun e he => by simp [h e he]
  have hdue : (s.regions.flatMap fun e => e.2.relPending.map fun x => (e.1, x)) = [] :=
    List.flatMap_eq_nil_iff.mpr fun e he => by rw [h e he, List.map_nil]
  simp [deliverReleases, hcut, hdue]

/-! Ports that train again (R212, R339). -/

theorem startTraining_aside (p : Nat) : Aside s (startTraining s p) := by
  have hbegin (u : State) : Aside u (beginTraining u p) := by
    unfold beginTraining
    split
    · exact setPort_aside _ _ _ _
    · split
      · exact setPort_aside _ _ _ _
      · split
        · exact setPort_aside _ _ _ _
        · dsimp only
          split
          · exact (setPort_aside _ _ _ _).trans (emit_aside _ _)
          · exact setPort_aside _ _ _ _
  obtain ⟨_, e⟩ := takeUdpPort_shape s p
  rw [startTraining_eq]
  refine Aside.trans ?_ (hbegin _)
  rw [e]
  exact .update s

theorem trainPorts_aside : Aside s (trainPorts s) :=
  Aside.foldl (fun u p => by
    split
    · exact startTraining_aside u p
    · exact .rfl) _ s

/-! Device transitions (R5, R215). -/

theorem setAlert_dev (k : Nat) :
    (setAlert s k).dev = { s.dev with alert := s.dev.alert ||| BitVec.ofNat 32 (2 ^ k) } := rfl

/-- Of the device an entry to a state changes the state, what it notes of the one before, and the alert (R419, R420,
R461). -/
theorem enterState_dev (n : DevState) : ∃ d al, (enterState s n).dev = { s.dev with
    st := n, prior := s.dev.st, transTb := s.time.tb, bringupDur := d, alert := al } := by
  have hrec : (if n = .ready then writeRecord s else s).dev = s.dev ∧
      (if n = .ready then writeRecord s else s).time = s.time := by
    split
    · exact ⟨writeRecord_dev s, writeRecord_time s⟩
    · exact ⟨rfl, rfl⟩
  unfold enterState
  generalize (if n = .ready then writeRecord s else s) = u at hrec ⊢
  obtain ⟨hdev, htime⟩ := hrec
  rw [← hdev, ← htime]
  dsimp only
  split
  · exact ⟨_, _, by rw [setAlert_dev, logEvent_dev]⟩
  · exact ⟨_, _, logEvent_dev _ _ _ _ _⟩

/-- Every stage off leaves the device and the clock. -/
theorem allOff_kept : (allOff s).dev = s.dev ∧ (allOff s).clock = s.clock := by
  obtain ⟨_, e⟩ := closeHot_shape (stagesOff (dropRecovery (stopRuntime s)))
  rw [allOff, e]
  exact ⟨rfl, rfl⟩

/-- The frames of an entry to KEEP-ALIVE or FAULT leave the device and the clock (R384, R395). -/
theorem announceDown_kept : (announceDown s).dev = s.dev ∧ (announceDown s).clock = s.clock := by
  have hfail (code : Nat) : (failRecorded s code).dev = s.dev ∧ (failRecorded s code).clock = s.clock := by
    unfold failRecorded
    dsimp only
    constructor
    · refine foldl_keep State.dev (fun u r => ?_) _ s
      rfl
    · refine foldl_keep State.clock (fun u r => ?_) _ s
      rfl
  unfold announceDown
  split
  · exact ⟨rfl, rfl⟩
  · split
    · exact hfail 9
    · exact ⟨rfl, rfl⟩

/-- KEEP-ALIVE ends the sequence of a loss; a held reset stays held (R215, R437). -/
theorem enterKeepAlive_facts : (enterKeepAlive s).dev.st = .keepAlive ∧
    (enterKeepAlive s).clock = (endHold s).clock ∧ (enterKeepAlive s).dev.heldReset = s.dev.heldReset := by
  obtain ⟨hdev, hclock⟩ := announceDown_kept (endHold s)
  obtain ⟨hdev', hclock'⟩ := allOff_kept (announceDown (endHold s))
  obtain ⟨_, _, hst⟩ := enterState_dev (allOff (announceDown (endHold s))) .keepAlive
  have ha : Aside (enterState (allOff (announceDown (endHold s))) .keepAlive) (enterKeepAlive s) := idlePorts_aside _
  obtain ⟨_, he⟩ := ha.dev
  rw [he, hst, ha.clock, enterState_clock, hclock', hclock, hdev', hdev]
  exact ⟨rfl, rfl, rfl⟩

end Sys2Proof.Proofs
end

section
/-! PROOFS. The reference clock: qualification, lock and loss, and the steps of SAFE-HOLD (R191, R192, R211 to R216). -/

namespace Sys2Proof.Proofs

open Sys2Proof.Machine Sys2Proof.Laws

variable {s : State}

/-! Qualification (R191, R192). -/

section
variable {n : Nat} (hq : qualifying s = true) (hk : s.dev.clksel = false)
include hq hk

/-- Two windows that agree to within 1 in 1,000 qualify the crystal. -/
theorem crystalQualWindowEnd_agree (h0 : s.clock.lastWindow ≠ 0)
    (h : (n - s.clock.lastWindow + (s.clock.lastWindow - n)) * 1000 ≤ s.clock.lastWindow) :
    exec (.crystalQualWindowEnd n) s = .next { s with clock := { s.clock with
      lastWindow := n, agree := s.clock.agree + 1, qualified := true
      source := if s.clock.lost then s.clock.source else 2 } } := by
  have hc : ¬(!qualifying s || s.dev.clksel) = true := by simp [hq, hk]
  refine (next_neg hc).trans (congrArg Host.Outcome.next ?_)
  simp [h0, h, qualify, selectedSource, hk]

/-- A window that does not agree with the one before starts the count anew. -/
theorem crystalQualWindowEnd_apart
    (h : s.clock.lastWindow < (n - s.clock.lastWindow + (s.clock.lastWindow - n)) * 1000) :
    exec (.crystalQualWindowEnd n) s = .next { s with clock := { s.clock with lastWindow := n, agree := 0 } } := by
  have hc : ¬(!qualifying s || s.dev.clksel) = true := by simp [hq, hk]
  refine (next_neg hc).trans (congrArg Host.Outcome.next ?_)
  simp [Nat.not_le.mpr h]
end

theorem crystalNotStable_next (hr : rimRuns s = true) (hk : s.dev.clksel = false) (hq : s.clock.qualified = false)
    (hl : s.clock.locked = false) :
    exec .crystalNotStable s = .next (setAlert (logEvent s 0x0100 1 s.clock.source 0) 0) :=
  congrArg Host.Outcome.next (if_pos (by simp [hr, hk, hq, hl]))

theorem refclkQualified_next (hq : qualifying s = true) (hk : s.dev.clksel = true) :
    exec .refclkQualified s = .next { s with clock := { s.clock with
      qualified := true, source := if s.clock.lost then s.clock.source else 3 } } := by
  refine congrArg Host.Outcome.next ((if_pos (by simp [hq, hk])).trans ?_)
  rw [qualify, selectedSource, if_pos hk]

/-! The PLL locks (R191, R192, R212, R215). -/

/-- The PLL has locked to the selected source. -/
def lockPll (s : State) : State :=
  { s with clock := { s.clock with locked := true, lost := false, source := selectedSource s } }

/-- The PLL locks to a qualified source, and what follows is by the device state. -/
theorem pllLocked_next (hr : rimRuns s = true) (hq : s.clock.qualified = true) (hl : s.clock.locked = false) :
    exec .pllLocked s = .next (match s.dev.st with
      | .aux => endHoldover (lockPll s)
      | .safeHold => { lockPll s with clock := { (lockPll s).clock with
          holdStep := if s.clock.holdStep = 5 then 6 else s.clock.holdStep } }
      | .keepAlive | .fault => referenceBack (lockPll s)
      | _ => lockPll s) := by
  have hc : ¬(!rimRuns s || !s.clock.qualified || s.clock.locked) = true := by simp [hr, hq, hl]
  exact next_neg hc

/-! The reference is lost (R211, R212). -/

theorem dropReference_st (s : State) (mon : Nat) : (dropReference s mon).dev.st = s.dev.st := by
  have h : (if s.time.holdover then s else logEvent s 0x0111 1 1 0).dev.st = s.dev.st := by
    split
    · rfl
    · rw [logEvent_dev]
  exact h

/-- Steps 1 to 3, where the device was in BRINGUP or in service: every lane idle, every powered region gated, SAFE-HOLD
reported. -/
theorem referenceLost_reports (hr : rimRuns s = true) (hl : s.clock.locked = true)
    (hs : s.dev.st = .bringup ∨ s.dev.st = .ready ∨ s.dev.st = .serving ∨ s.dev.st = .recovering) :
    let drop := gateRegions (idleLanes (dropReference s 0))
    exec (.referenceLost 0) s = .next (report { drop with
      clock := { drop.clock with holdStep := 1, lossTb := drop.time.tb, lossMonitor := 0 }
      dev := { drop.dev with forcedSafe := true } } .toSafeHold) := by
  refine (next_neg (by simp [hr])).trans (congrArg Host.Outcome.next ((if_neg (by simp [hl])).trans ?_))
  obtain h | h | h | h := hs
  all_goals
    dsimp only
    rw [dropReference_st, h]

theorem gateRegions_gated : ∀ e ∈ (gateRegions s).regions, e.2.stageOn = true → e.2.gated = true := by
  refine AllRegions.map (P := fun r => r.stageOn = true → r.gated = true)
    (fun e => if e.2.stageOn then { markCycles s.time.tb e.2 with gated := true } else e.2) rfl fun e _ => ?_
  split
  · exact fun _ => rfl
  · next h => exact fun hon => absurd hon h

/-- The PLL runs from the trimmed oscillator and TB is in holdover (R191, R211, R214). -/
theorem dropReference_facts (mon : Nat) :
    (dropReference s mon).clock.locked = false ∧ (dropReference s mon).clock.source = 1 ∧
    (dropReference s mon).time.holdover = true ∧ (dropReference s mon).clock.losses = (s.clock.losses + 1) % 2 ^ 32 := by
  have hclock : (if s.time.holdover then s else logEvent s 0x0111 1 1 0).clock = s.clock := by
    split
    · rfl
    · exact logEvent_clock _ _ _ _ _
  refine ⟨rfl, rfl, rfl, ?_⟩
  exact congrArg (fun c : Clock => (c.losses + 1) % 2 ^ 32) hclock

/-! Steps 4 to 7 (R212). -/

theorem safeHoldEntry_next (he : eyepieceRuns s = true) (h1 : s.clock.holdStep = 1) :
    exec .safeHoldEntry s = .next (decideState s) :=
  congrArg Host.Outcome.next (if_pos (by simp [he, h1]))

theorem referenceReturned_next (hr : rimRuns s = true) (hl : s.clock.locked = false) (hq : s.clock.qualified = false)
    (hs : s.dev.st = .safeHold) (h4 : s.clock.holdStep = 4) :
    exec .referenceReturned s = .next { s with clock := { s.clock with
      present := true, lastWindow := 0, agree := 0, holdStep := 5 } } := by
  have hc : ¬(!rimRuns s || s.clock.locked || s.clock.qualified) = true := by simp [hr, hl, hq]
  refine (next_neg hc).trans (congrArg Host.Outcome.next ?_)
  rw [if_pos (by simp [hs, h4])]

theorem recalibrate_mem (s : State) (c : CrossingCal) : (recalibrate s c).mem = s.mem := by
  unfold recalibrate
  dsimp only
  split
  · rfl
  · split
    · rw [logRegion_mem]; rfl
    · rfl

theorem recalibrate_tiles (s : State) (c : CrossingCal) : (recalibrate s c).tiles = s.tiles := by
  unfold recalibrate
  dsimp only
  split
  · rfl
  · split
    · rw [logRegion_tiles]; rfl
    · rfl

theorem recalibrate_noneWaits (c : CrossingCal) (h : NoneWaits s) : NoneWaits (recalibrate s c) := by
  have hupd {u : State} {p : Nat} {f : Region → Region} (hf : ∀ r, (f r).relPending = r.relPending)
      (h : NoneWaits u) : NoneWaits (updRegion u p f) :=
    h.updRegion rfl fun r hr => (hf r).trans hr
  unfold recalibrate
  dsimp only
  split
  · exact h
  · split
    · refine AllRegions.of_regions (hupd ?_ (hupd ?_ h)) (logRegion_regions _ _ _ _ _ _)
      · exact fun _ => rfl
      · exact fun _ => rfl
    · exact hupd (fun _ => rfl) h

theorem recalibrates_noneWaits (cals : List CrossingCal) (h : NoneWaits s) :
    NoneWaits (cals.foldl recalibrate s) := by
  induction cals generalizing s with
  | nil => exact h
  | cons c cals ih => exact ih (recalibrate_noneWaits c h)

/-- A region whose clock runs again: operating voltage, TB copy at the master, every lag zero (R204, R212). -/
def ungated (s : State) (e : Nat × Region) : Region :=
  { syncCopy (someServing s) s.time.tb 0 (markCycles s.time.tb e.2) with
    gated := false, sramMv := if e.2.stageOn then 750 else e.2.sramMv
    crossings := e.2.crossings.map fun x => { x with lag := 0 } }

/-- Every region's clock runs again (R212). -/
def ungate (s : State) : State :=
  { s with clock := { s.clock with holdStep := 7 }, regions := s.regions.map fun e => (e.1, ungated s e) }

theorem ungate_facts (s : State) : (ungate s).clock.holdStep = 7 ∧ Clocked (ungate s) ∧
    (NoneWaits s → NoneWaits (ungate s)) ∧ (ungate s).mem = s.mem ∧ (ungate s).tiles = s.tiles :=
  ⟨rfl, .map (ungated s) rfl fun _ _ => rfl, fun h => .map (ungated s) rfl h, rfl, rfl⟩

section
variable (cals : List CrossingCal) (hr : rimRuns s = true) (hs : s.dev.st = .safeHold) (h6 : s.clock.holdStep = 6)
include hr hs h6

theorem safeHoldUngate_next : exec (.safeHoldUngate cals) s =
    .next (trainPorts (deliverReleases (ungate (cals.foldl recalibrate s)))) := by
  have hc : ¬(!rimRuns s || s.dev.st ≠ .safeHold || s.clock.holdStep ≠ 6) = true := by simp [hr, hs, h6]
  exact next_neg hc

/-- Steps 6 and 7: the clocks run again, and memory and tiles stay where no release waits. -/
theorem safeHoldUngate_facts : ∃ u, exec (.safeHoldUngate cals) s = .next u ∧ u.clock.holdStep = 7 ∧ Clocked u ∧
    (NoneWaits s → u.mem = s.mem ∧ u.tiles = s.tiles) := by
  obtain ⟨h7, hgate, hnone, hmem, htiles⟩ := ungate_facts (cals.foldl recalibrate s)
  have hnext := safeHoldUngate_next cals hr hs h6
  generalize ungate (cals.foldl recalibrate s) = v at *
  have hk := deliverReleases_keepsClocks v
  have ha := trainPorts_aside (deliverReleases v)
  refine ⟨_, hnext, by rw [ha.clock, hk.clock, h7], (hk.clocked hgate).of_regions ha.regions, fun hn => ?_⟩
  obtain ⟨hdmem, hdtiles⟩ := deliverReleases_none (hnone (recalibrates_noneWaits cals hn))
  rw [ha.mem, ha.tiles, hdmem, hdtiles, hmem, htiles]
  exact ⟨foldl_keep State.mem recalibrate_mem cals s, foldl_keep State.tiles recalibrate_tiles cals s⟩
end

/-! Step 8 and the timeout (R212, R214, R215, R437). -/

/-- Holdover that ends changes TB's state and the log, nothing else (R280). -/
theorem endHoldover_shape (s : State) : ∃ h lg sg o, endHoldover s = { s with
    time := { s.time with holdover := h }, log := lg, sig := sg, out := o } := by
  unfold endHoldover leaveHoldover
  split
  · split
    · obtain ⟨_, _, _, e⟩ := logAt_shape { s with time := { s.time with holdover := false } } s.time.tb 0 0x0111 1 0 0 false
      exact ⟨_, _, _, _, e⟩
    · exact ⟨_, _, _, _, rfl⟩
  · exact ⟨_, _, _, _, rfl⟩

/-- The end of a SAFE-HOLD noted: its duration, the actions that it made late, the record, holdover left (R214, R280,
R433). -/
def resumed (s : State) : State :=
  endHoldover (logEvent (lateTimed (endHold s)) 0x0102 0 0 (lateTimed (endHold s)).clock.lastHold)

theorem resumed_facts (s : State) : (resumed s).dev = { s.dev with forcedSafe := false } ∧
    (resumed s).clock = (endHold s).clock ∧ (resumed s).regions = s.regions ∧ (resumed s).mem = s.mem ∧
    (resumed s).tiles = s.tiles := by
  obtain ⟨_, _, _, _, e⟩ :=
    endHoldover_shape (logEvent (lateTimed (endHold s)) 0x0102 0 0 (lateTimed (endHold s)).clock.lastHold)
  rw [resumed, e]
  exact ⟨logEvent_dev _ _ _ _ _, logEvent_clock _ _ _ _ _, logEvent_regions _ _ _ _ _, logEvent_mem _ _ _ _ _,
    logEvent_tiles _ _ _ _ _⟩

/-- SAFE-HOLD stands before its last step (R212). -/
structure HoldEnds (s : State) : Prop where
  runs : eyepieceRuns s = true
  st : s.dev.st = .safeHold
  step : s.clock.holdStep = 7

/-- Step 8, unless a held reset waits for an Ethernet port that trains: the reset, or the state before the hold, in which the
regions whose fences are complete leave FENCED. -/
theorem safeHoldReturn_next (h : HoldEnds s)
    (hp : s.dev.heldReset ≠ none → ∀ p < 32, personality s p = 3 → (portOf s p).st ≠ 2) :
    exec .safeHoldReturn s = .next (match s.dev.heldReset with
      | some k => performReset (resumed s) k
      | none => (s.regions.map (·.1)).foldl settleFence (enterState (resumed s) s.dev.beforeHold)) := by
  obtain ⟨he, hs, h7⟩ := h
  have hc : ¬(!eyepieceRuns s || s.dev.st ≠ .safeHold || s.clock.holdStep ≠ 7
      || (s.dev.heldReset.isSome && (List.range 32).any fun p => personality s p = 3 && (portOf s p).st = 2)) = true := by
    simpa [he, hs, h7, Option.isSome_iff_ne_none] using hp
  obtain ⟨hdev, -, hregions, -⟩ := resumed_facts s
  have hheld : (resumed s).dev.heldReset = s.dev.heldReset := by rw [hdev]
  have hbefore : (resumed s).dev.beforeHold = s.dev.beforeHold := by rw [hdev]
  rw [← hheld, ← hregions, ← hbefore]
  exact next_neg hc

theorem safeHoldReturn_resumes (h : HoldEnds s) (hn : s.dev.heldReset = none) : exec .safeHoldReturn s =
    .next ((s.regions.map (·.1)).foldl settleFence (enterState (resumed s) s.dev.beforeHold)) := by
  rw [safeHoldReturn_next h fun hk => absurd hn hk, hn]

theorem safeHoldReturn_resets {k : ResetKind} (h : HoldEnds s) (hk : s.dev.heldReset = some k)
    (hp : ∀ p < 32, personality s p = 3 → (portOf s p).st ≠ 2) :
    exec .safeHoldReturn s = .next (performReset (resumed s) k) := by
  rw [safeHoldReturn_next h fun _ => hp, hk]

theorem safeHoldReturn_waits {k : ResetKind} {p : Nat} (hp : p < 32) (hk : s.dev.heldReset = some k)
    (hq : personality s p = 3) (ht : (portOf s p).st = 2) : exec .safeHoldReturn s = .next s := by
  have hany : ((List.range 32).any fun p => personality s p = 3 && (portOf s p).st = 2) = true :=
    List.any_eq_true.mpr ⟨p, List.mem_range.mpr hp, by simp [hq, ht]⟩
  exact congrArg Host.Outcome.next (if_pos (by simp [hk, hany]))

/-- Without a completed fence no region leaves FENCED. -/
theorem settleFences_none (ps : List Nat) (h : AllRegions (fun r => r.st = .fenced → r.fenceDone = false) s) :
    ps.foldl settleFence s = s := by
  refine List.foldl_fixed' (fun p => ?_) ps
  have hp := h.regionOfNo (fun hd => nomatch hd) p
  refine if_pos ?_
  by_cases hf : (regionOfNo s p).st = .fenced
  · simp [hp hf]
  · simp [hf]

/-- A resume without completed fences: the state before the hold, its duration, the pins no longer forced. -/
theorem safeHoldReturn_facts (h : HoldEnds s) (hn : s.dev.heldReset = none)
    (hf : AllRegions (fun r => r.st = .fenced → r.fenceDone = false) s) : ∃ u, exec .safeHoldReturn s = .next u ∧
      u.dev.st = s.dev.beforeHold ∧ u.clock.holdStep = 0 ∧ u.dev.forcedSafe = false ∧
      u.clock.lastHold = s.time.tb - s.clock.lossTb ∧ u.mem = s.mem ∧ u.tiles = s.tiles := by
  obtain ⟨hdev, hclock, hregions, hmem, htiles⟩ := resumed_facts s
  obtain ⟨_, _, he⟩ := enterState_dev (resumed s) s.dev.beforeHold
  have hfences : AllRegions (fun r => r.st = .fenced → r.fenceDone = false) (enterState (resumed s) s.dev.beforeHold) :=
    hf.of_regions ((enterState_regions _ _).trans hregions)
  have hnext := safeHoldReturn_resumes h hn
  rw [settleFences_none _ hfences] at hnext
  refine ⟨_, hnext, enterState_st _ _, ?_⟩
  rw [enterState_clock, enterState_mem, enterState_tiles, hclock, hmem, htiles, he, hdev]
  exact ⟨rfl, rfl, if_pos h.st, rfl, rfl⟩

section
variable (he : eyepieceRuns s = true) (hs : s.dev.st = .safeHold)
  (ht : s.dev.transTb + s.clock.holdTimeout * second ≤ s.time.tb)
include he hs ht

/-- Past the time of SAFE-HOLD: the decision, where a cause of FAULT waits for it, else KEEP-ALIVE (R6, R215). -/
theorem safeHoldTimeout_next :
    let u := enterKeepAlive (lateTimed s)
    exec .safeHoldTimeout s =
      .next (if outranked s then decideState s else if u.clock.locked then referenceBack u else u) := by
  have hc : ¬(!eyepieceRuns s || s.dev.st ≠ .safeHold
      || s.time.tb < s.dev.transTb + s.clock.holdTimeout * second) = true := by
    simpa [he, hs] using ht
  exact next_neg hc

/-- Past its time SAFE-HOLD ends in KEEP-ALIVE; a held reset stays held (R215, R437). -/
theorem safeHoldTimeout_keepAlive (ho : outranked s = false) (hl : s.clock.locked = false) :
    ∃ u, exec .safeHoldTimeout s = .next u ∧ u.dev.st = .keepAlive ∧
      u.clock.lastHold = s.time.tb - s.clock.lossTb ∧ u.dev.heldReset = s.dev.heldReset := by
  obtain ⟨hst, hclock, hheld⟩ := enterKeepAlive_facts (lateTimed s)
  have hunlocked : ¬(enterKeepAlive (lateTimed s)).clock.locked = true := by
    rw [hclock]
    exact ne_of_eq_of_ne hl Bool.false_ne_true
  refine ⟨enterKeepAlive (lateTimed s), ?_, hst, ?_, hheld⟩
  · rw [safeHoldTimeout_next he hs ht, if_neg (by simp [ho]), if_neg hunlocked]
  · exact (congrArg Clock.lastHold hclock).trans (if_pos hs)

theorem safeHoldTimeout_outranked (ho : outranked s = true) : exec .safeHoldTimeout s = .next (decideState s) := by
  rw [safeHoldTimeout_next he hs ht, if_pos ho]
end

/-- Settles O47: each clause by the lemma of its command. -/
theorem referenceAndSafeHold : Obligations.ReferenceAndSafeHold := by
  intro s n mon cals c code locks drop ended back
  refine ⟨crystalQualWindowEnd_agree, crystalQualWindowEnd_apart, crystalNotStable_next, refclkQualified_next,
    fun hr hq hl hs => ?_, fun hr hq hl hs => ?_, fun hr hq hl hs h5 => ?_, fun hr hq hl hs => ?_, fun hr hl hm hs => ?_,
    gateRegions_gated, dropReference_facts mon, safeHoldEntry_next, referenceReturned_next, safeHoldUngate_facts cals,
    fun he hs h7 hn _ hf => safeHoldReturn_facts ⟨he, hs, h7⟩ hn hf, fun he hs h7 => safeHoldReturn_resumes ⟨he, hs, h7⟩,
    fun k he hs h7 => safeHoldReturn_resets ⟨he, hs, h7⟩, fun k p => safeHoldReturn_waits, safeHoldTimeout_keepAlive,
    safeHoldTimeout_outranked⟩
  · rw [pllLocked_next hr hq hl, hs]
    rfl
  · rw [pllLocked_next hr hq hl, hs]
    rfl
  · rw [pllLocked_next hr hq hl, hs]
    dsimp only
    rw [if_pos h5]
    rfl
  · obtain hs | hs := hs
    all_goals
      rw [pllLocked_next hr hq hl, hs]
      rfl
  · subst hm
    exact referenceLost_reports hr hl hs

end Sys2Proof.Proofs
end

section
/-! PROOFS. Region generators: stretched periods, switchover, the loss of the second generator (R198, R199, R204). -/

namespace Sys2Proof.Proofs

open Sys2Proof.Machine Sys2Proof.Laws

variable {s : State}

/-! What a stretch changes (R199, R204). -/

theorem regionOfNo_loupe_ne (s : State) {p q : Nat} (tile kind arg data : Nat) (h : p ≠ q) :
    regionOfNo (loupe s q tile kind arg data) p = regionOfNo s p := by
  unfold loupe
  split
  · exact regionOfNo_updRegion_ne _ _ h
  · rfl

/-- The crossings into a region leave memory and the other regions. -/
theorem lagWhere_kept (s : State) (q : Nat) (sel : Crossing → Bool) (ext : Rat) : (lagWhere s q sel ext).mem = s.mem ∧
    ∀ p, p ≠ q → regionOfNo (lagWhere s q sel ext) p = regionOfNo s p := by
  unfold lagWhere
  refine ⟨foldl_keep State.mem (fun u x => ?_) _ _, fun p hp => ?_⟩
  · rw [loupe_mem, updRegion_mem]
  · refine (foldl_keep (fun u => regionOfNo u p) (fun u x => ?_) _ _).trans (regionOfNo_updRegion_ne _ _ hp)
    dsimp only
    rw [regionOfNo_loupe_ne _ _ _ _ _ hp, regionOfNo_updRegion_ne _ _ hp]

/-- The stretched region itself: one stretch more, and a cycle count that lacks the extension. -/
theorem stretchRegion_facts (s : State) (p e : Nat) :
    (regionOfNo (stretchRegion s p e) p).stretch = (regionOfNo s p).stretch + 1 ∧ (stretchRegion s p e).mem = s.mem ∧
    (regionOfNo (stretchRegion s p e) p).cyc = cyclesAt s.time.tb (regionOfNo s p) - 4 * e := by
  unfold stretchRegion
  extract_lets -underBinder -merge -useContext +onlyGivenNames ext s1 s2
  have hregions : s1.regions = s.regions := foldl_keep State.regions (fun u t => updCore_regions u t _) _ s
  have htime : s1.time = s.time := foldl_keep State.time (fun u t => updCore_time u t _) _ s
  have hmem : s2.mem = s.mem := (updRegion_mem s1 p _).trans (foldl_keep State.mem (fun u t => updCore_mem u t _) _ s)
  have hr1 : regionOfNo s1 p = regionOfNo s p := by rw [regionOfNo, hregions, regionOfNo]
  have hr2 : regionOfNo s2 p = { regionOfNo s p with
      stretch := (regionOfNo s p).stretch + 1, cyc := cyclesAt s.time.tb (regionOfNo s p) - 4 * e, cycTb := s.time.tb
      crossings := (regionOfNo s p).crossings.map fun x => { x with lag := max 0 (x.lag - ext) } } := by
    rw [regionOfNo_updRegion_same, hr1, htime]
  have hother (u : State) (q : Nat) : (if q = p then u else lagInto u p q ext).mem = u.mem ∧
      regionOfNo (if q = p then u else lagInto u p q ext) p = regionOfNo u p := by
    split
    · exact ⟨rfl, rfl⟩
    · next h =>
      obtain ⟨hm, hr⟩ := lagWhere_kept u q (fun x => x.src = p) ext
      exact ⟨hm, hr p (Ne.symm h)⟩
  have hend : regionOfNo ((s2.regions.map (·.1)).foldl (fun s q => if q = p then s else lagInto s p q ext) s2) p =
      regionOfNo s2 p := foldl_keep (fun u => regionOfNo u p) (fun u q => (hother u q).2) _ s2
  rw [hend, hr2]
  exact ⟨rfl, (foldl_keep State.mem (fun u q => (hother u q).1) _ s2).trans hmem, rfl⟩

/-! The commands (R198, R199). -/

theorem droopStretch_next {p e : Nat} (hp : p < regionCount) (hc : clocksRun (regionOfNo s p) = true) (h1 : 1 ≤ e)
    (h8 : e ≤ 8) : exec (.droopStretch p e) s = .next (stretchRegion s p e) :=
  congrArg Host.Outcome.next (if_pos (by simp [hp, hc, h1, h8]))

/-- A switchover is a stretched period with its record; its extension is at most half a period. -/
theorem generatorSwitchover_next {p : Nat} (hp : p < regionCount) (hc : clocksRun (regionOfNo s p) = true)
    (hl : (regionOfNo s p).standbyLost = false) : ∃ n : Nat, n ≤ 8 ∧
      let v := updRegion (stretchRegion { s with free := s.free + 1 } p n) p fun r =>
        { r with onStandby := true, standbyLost := true }
      exec (.generatorSwitchover p) s = .next (logRegion { v with clock := { v.clock with
        switchovers := (v.clock.switchovers + 1) % 2 ^ 32 } } p 0x0103 1 p 0) :=
  ⟨Config.freeNat s.free % 9, by omega, congrArg Host.Outcome.next (if_pos (by simp [hp, hc, hl]))⟩

theorem clockGeneratorFail_next {p : Nat} (hp : p < regionCount) (hc : clocksRun (regionOfNo s p) = true)
    (hl : (regionOfNo s p).standbyLost = true) :
    exec (.clockGeneratorFail p) s = .next (regionFault s p 0x33 0 none 0) :=
  congrArg Host.Outcome.next (if_pos (by simp [hp, hc, hl]))

/-- Settles O48: each clause by the lemma of its command, a stretch by what it changes. -/
theorem regionClocks : Obligations.RegionClocks := by
  intro s p e r
  refine ⟨droopStretch_next, generatorSwitchover_next, clockGeneratorFail_next, fun x => ?_⟩
  obtain ⟨hstretch, hmem, hcyc⟩ := stretchRegion_facts s p x
  refine ⟨hstretch, hmem, fun hg => ?_⟩
  exact hcyc.trans (by rw [cyclesAt, if_neg (ne_of_eq_of_ne hg Bool.false_ne_true)])

end Sys2Proof.Proofs
end

section
/-! PROOFS. What the broadcasts of the Eyepiece leave of a state (R33, R287, R314). -/

namespace Sys2Proof.Proofs

open Sys2Proof.Machine Sys2Proof.Laws

variable (s : State)

/-- The Eyepiece's packets join the rim before their bridge, so none is delivered where it joins. -/
theorem sendBy_shape (p : Nat) (k : Packet) : ∃ f, sendBy s p k = { s with fabric := f } :=
  ⟨_, if_neg (show ¬p = (p + 31) % 32 by omega)⟩

theorem eyepieceSend_shape (k : Packet) : ∃ f, eyepieceSend s k = { s with fabric := f } := by
  unfold eyepieceSend
  split
  · exact sendBy_shape s _ k
  · exact ⟨_, rfl⟩

theorem eyepieceBroadcast_shape : ∃ f n, eyepieceBroadcast s = { s with fabric := f, free := n } := by
  obtain ⟨_, e⟩ := eyepieceSend_shape (floodPacket s 0x7FFFF).2 (floodPacket s 0x7FFFF).1
  exact ⟨_, _, e⟩

theorem mapBroadcast_shape : ∃ f n, mapBroadcast s = { s with fabric := f, free := n } := by
  obtain ⟨_, e⟩ := eyepieceSend_shape (floodTables s 0x7FFFF).2 (floodTables s 0x7FFFF).1
  exact ⟨_, _, e⟩

end Sys2Proof.Proofs
end

section
/-! PROOFS. Phases and fuses of a region, power and coolant samples, and a region's temperature (R200, R331, R466, R472,
R473, R476 to R479). -/

namespace Sys2Proof.Proofs

open Sys2Proof.Machine Sys2Proof.Laws

variable {s : State}

/-! Phases and fuses (R472, R473). -/

section
variable {p phase : Nat} (hp : p < regionCount) (hon : (regionOfNo s p).stageOn = true)
include hp hon

theorem phaseLost_next (h3 : phase < 3) (hnew : phase ∉ (regionOfNo s p).phases) :
    let lost := updRegion s p fun r => { r with phases := r.phases ++ [phase] }
    exec (.phaseLost p phase) s = .next (
      if (regionOfNo s p).phases = [] then logEvent lost 0x0704 1 p phase
      else if (regionOfNo s p).phases.length = 1 then regionFault lost p 0x31 0 none 0
      else lost) := by
  have hc : ¬(p ≥ regionCount || phase ≥ 3 || !(regionOfNo s p).stageOn
      || (regionOfNo s p).phases.contains phase) = true := by
    simp [hp, h3, hon, hnew]
  exact next_neg hc

theorem powerFuseTrip_next (hf : (regionOfNo s p).fuse = false) (hb : 10800 < s.power.bus) :
    let tripped := updRegion { s with power := { s.power with fuseTrips := (s.power.fuseTrips + 1) % 2 ^ 32 } } p fun r =>
      { r with fuse := true }
    exec (.powerFuseTrip p) s = .next (cutStage (regionFault tripped p 0x30 0 none 0) p) := by
  have hc : ¬(p ≥ regionCount || !(regionOfNo s p).stageOn || (regionOfNo s p).fuse || s.power.bus ≤ 10800) = true := by
    simp [hp, hon, hf, hb]
  exact next_neg hc
end

/-! The wafer's power and coolant (R466, R477, R478). -/

/-- The samples of the last second, with a new one. -/
def lastSecondWith (s : State) (pw : Nat) : List Nat :=
  (s.power.lastSecond ++ [pw]).drop (s.power.lastSecond.length - 99)

/-- The averages of a 10 ms sample taken. -/
def withAverages (s : State) (vin iin pw rim : Nat) : State :=
  { s with power := { s.power with
    vin := vin, iin := iin, avg := pw, peak := max s.power.peak pw, lastSecond := lastSecondWith s pw
    energy := s.power.energy + pw * 10, rim := rim } }

theorem powerAverageRefresh_next {vin iin pw rim : Nat} (hr : rimRuns s = true) :
    let averaged := withAverages s vin iin pw rim
    let sum := (lastSecondWith s pw).foldl (· + ·) 0
    let noted := if (lastSecondWith s pw).length = 100 && sum > 3000000 then
      setAlert (logEvent averaged 0x0705 1 1 (sum / 100)) 2 else averaged
    exec (.powerAverageRefresh vin iin pw rim) s = .next (
      if 34000 < pw then setAlert (logEvent noted 0x0705 1 2 pw) 2 else noted) := by
  have hc : ¬(!rimRuns s) = true := by simp [hr]
  exact next_neg hc

theorem overRun_within {past : Prop} [Decidable past] (h : ¬past) (n : Nat) : overRun past n = 0 := by
  simp [overRun, h]

/-- Up to the tenth sample past a threshold each one counts. -/
theorem overRun_past {past : Prop} [Decidable past] {n : Nat} (h : past) (hn : n < 11) : overRun past n = n + 1 := by
  simp only [overRun, h, decide_true, if_true]
  omega

/-- The coolant values of a sample taken, with the samples in a row past each threshold. -/
def withCoolant (s : State) (i a b : Int) (fa fb ni na nb : Nat) : State :=
  { s with power := { s.power with
    inlet := i, outA := a, outB := b, flowA := fa, flowB := fb, inletRun := ni, flowARun := na, flowBRun := nb } }

/-- A sample by the samples in a row past each threshold: the tenth makes an event. -/
theorem coolantSample_next {i a b : Int} {fa fb ni na nb : Nat} (hr : rimRuns s = true)
    (hi : overRun (i > toSigned 16 (dnum s 0x2200 0xB 300)) s.power.inletRun = ni)
    (ha : overRun (fa < dnum s 0x2200 0xC 250) s.power.flowARun = na)
    (hb : overRun (fb < dnum s 0x2200 0xC 250) s.power.flowBRun = nb) :
    let u := withCoolant s i a b fa fb ni na nb
    let u1 := if ni = 10 then logEvent u 0x0706 1 1 (ofSigned 64 i) else u
    let u2 := if na = 10 then logEvent u1 0x0706 1 2 fa else u1
    let u3 := if nb = 10 then logEvent u2 0x0706 1 3 fb else u2
    exec (.coolantSample i a b fa fb) s = .next (if ni ≥ 10 || na ≥ 10 || nb ≥ 10 then setAlert u3 2 else u3) := by
  subst hi ha hb
  have hc : ¬(!rimRuns s) = true := by simp [hr]
  exact next_neg hc

/-! The temperature of a region (R200, R331, R476). -/

/-- A sample noted: the region's temperature, a record of a first one above 105 degrees, the alert from 95 degrees on and
the hot spell of the wafer (R476, R479). -/
def noteSample (s : State) (p : Nat) (temp : Int) : State :=
  let sampled := updRegion s p fun r => { r with temp := temp }
  let noted := if temp > 1050 ∧ (regionOfNo s p).temp ≤ 1050 then logRegion sampled p 0x0707 1 p (ofSigned 64 temp)
    else sampled
  trackHot (if temp ≥ 950 then setAlert noted 1 else noted)

theorem trackHot_shape (s : State) : ∃ st pw, trackHot s = { s with store := st, power := pw } := by
  unfold trackHot
  dsimp only
  split
  · split <;> exact ⟨_, _, rfl⟩
  · split
    · exact ⟨_, _, rfl⟩
    · obtain ⟨_, e⟩ := closeHot_shape s
      exact ⟨_, _, e⟩

theorem noteSample_facts (s : State) (p : Nat) (temp : Int) :
    regionOfNo (noteSample s p temp) p = { regionOfNo s p with temp := temp } ∧ (noteSample s p temp).time = s.time ∧
    (noteSample s p temp).mem = s.mem ∧ (noteSample s p temp).tiles = s.tiles := by
  unfold noteSample
  extract_lets -underBinder -merge -useContext +onlyGivenNames sampled noted
  have hnoted : noted.regions = sampled.regions ∧ noted.time = s.time ∧ noted.mem = s.mem ∧ noted.tiles = s.tiles := by
    unfold noted
    split
    · exact ⟨logRegion_regions _ _ _ _ _ _, logRegion_time _ _ _ _ _ _, logRegion_mem _ _ _ _ _ _,
        logRegion_tiles _ _ _ _ _ _⟩
    · exact ⟨rfl, rfl, rfl, rfl⟩
  obtain ⟨hregions, htime, hmem, htiles⟩ := hnoted
  have hreg : regionOfNo noted p = { regionOfNo s p with temp := temp } := by
    rw [regionOfNo, hregions]
    exact regionOfNo_updRegion_same s p _
  obtain ⟨_, _, e⟩ := trackHot_shape (if temp ≥ 950 then setAlert noted 1 else noted)
  rw [e]
  split <;> exact ⟨hreg, htime, hmem, htiles⟩

theorem temperature_taken {p : Nat} (hp : p < regionCount) (hg : (regionOfNo s p).gated = false)
    (h : (regionOfNo s p).stageOn = true ∨ (regionOfNo s p).st = .offThermal) : ¬(p ≥ regionCount || (regionOfNo s p).gated
      || !((regionOfNo s p).stageOn || (regionOfNo s p).st = .offThermal)) = true := by
  simpa [hp, hg, or_iff_not_imp_left] using h

/-- A region whose temperature is sampled runs in service, with its clock (R200, R476). -/
structure Sampled (s : State) (p : Nat) : Prop where
  region : p < regionCount
  clocked : (regionOfNo s p).gated = false
  on : (regionOfNo s p).stageOn = true
  st : (regionOfNo s p).st = .healthy ∨ (regionOfNo s p).st = .reserve ∨ (regionOfNo s p).st = .bound ∨
    (regionOfNo s p).st = .dimmed

/-- What follows a sample of a region in service, by its temperature. -/
theorem temperatureSample_next {p : Nat} (temp : Int) (h : Sampled s p) :
    let r := regionOfNo s p
    let seen := noteSample s p temp
    exec (.temperatureSample p temp) s = .next (
      if temp ≥ 1100 then
        if roleOf r = .bound then (if r.migrating = 0 then noticeHeat seen p else seen)
        else mapBroadcast (switchOffHeat (clampRegion seen p) p)
      else if temp ≥ 950 then setDim seen p (max 16 (r.dim - 1)) temp
      else if temp > 900 then seen
      else setDim seen p (min 32 (r.dim + 1)) temp) := by
  obtain ⟨hp, hg, hon, hst⟩ := h
  refine (next_neg (temperature_taken hp hg (.inl hon))).trans (congrArg Host.Outcome.next ?_)
  dsimp only
  simp only [Bool.and_eq_true, decide_eq_true_eq]
  obtain h | h | h | h := hst
  all_goals
    rw [h]
    rfl

/-- A region that is off for heat is sampled on (R331). -/
theorem temperatureSample_off {p : Nat} (temp : Int) (hp : p < regionCount) (hg : (regionOfNo s p).gated = false)
    (hst : (regionOfNo s p).st = .offThermal) : exec (.temperatureSample p temp) s = .next (noteSample s p temp) := by
  refine (next_neg (temperature_taken hp hg (.inr hst))).trans (congrArg Host.Outcome.next ?_)
  dsimp only
  simp only [Bool.and_eq_true, decide_eq_true_eq]
  rw [hst]
  rfl

/-- Step 1 of a thermal migration (R331). -/
theorem noticeHeat_facts (s : State) (p : Nat) :
    regionOfNo (noticeHeat s p) p = { regionOfNo s p with migrating := 1, migTb := s.time.tb } ∧
    (noticeHeat s p).mem = s.mem ∧ (noticeHeat s p).tiles = s.tiles :=
  ⟨regionOfNo_updRegion_same s p fun r => { r with migrating := 1, migTb := s.time.tb }, rfl, rfl⟩

/-- A region cut off and switched off for heat keeps its last sample (R318, R331). -/
theorem switchOffHeat_facts (s : State) (p : Nat) :
    let u := mapBroadcast (switchOffHeat (clampRegion s p) p)
    (regionOfNo u p).st = .offThermal ∧ (regionOfNo u p).stageOn = false ∧
      (regionOfNo u p).temp = (regionOfNo s p).temp := by
  obtain ⟨_, _, e⟩ := mapBroadcast_shape (switchOffHeat (clampRegion s p) p)
  have hdrop (u : State) : (regionOfNo (dropRegion u p) p).stageOn = false := by
    simp [dropRegion, regionOfNo, updRegion]
  have hreg : regionOfNo (switchOffHeat (clampRegion s p) p) p = { regionOfNo (dropRegion (clampRegion s p) p) p with
      st := .offThermal, temp := (regionOfNo s p).temp } := regionOfNo_updRegion_same _ p _
  dsimp only
  rw [e]
  change (regionOfNo (switchOffHeat (clampRegion s p) p) p).st = _ ∧
    (regionOfNo (switchOffHeat (clampRegion s p) p) p).stageOn = _ ∧
    (regionOfNo (switchOffHeat (clampRegion s p) p) p).temp = _
  rw [hreg]
  exact ⟨rfl, hdrop _, rfl⟩

/-- Settles O45: each clause by the lemma of its command, at the branch that its values take. -/
theorem powerAndThermalSamples : Obligations.PowerAndThermalSamples := by
  intro s p phase vin iin pw rim fa fb temp i a b r lost tripped sampled noted seen takes last sum averaged hot slow cooled
  have htakes (h : takes) : Sampled s p := by
    obtain ⟨hp, hg, hon, hst⟩ := h
    exact ⟨hp, hg, hon, hst⟩
  have hcalm (h : last.length ≠ 100 ∨ sum ≤ 3000000) : ¬(last.length = 100 && sum > 3000000) = true := by
    simpa [imp_iff_not_or] using h
  refine ⟨fun hp h3 hon hn => ?_, fun hp h3 hon h1 hnew => ?_, fun hp => powerFuseTrip_next hp, fun hr hpw hsum => ?_,
    fun hr hpw hlen hsum => ?_, fun hr hpw hsum => ?_, fun hr hi ha hb => ?_, fun hr hi ha hb hn => ?_,
    fun hr hi ha hb hn => ?_, fun hr hi ha hb hn => ?_, fun h hlo hhi => ?_, fun h hlo hhi => ?_, fun h hhi => ?_,
    fun h hhi hrole hm => ?_, fun h hhi hrole => ?_, temperatureSample_off temp⟩
  · have hnew : phase ∉ (regionOfNo s p).phases := fun h => List.not_mem_nil (hn ▸ h)
    exact (phaseLost_next hp hon h3 hnew).trans (congrArg Host.Outcome.next (if_pos hn))
  · exact (phaseLost_next hp hon h3 hnew).trans (congrArg Host.Outcome.next
      ((if_neg (List.ne_nil_of_length_eq_add_one h1)).trans (if_pos h1)))
  · exact (powerAverageRefresh_next hr).trans (congrArg Host.Outcome.next
      ((if_neg (Nat.not_lt.mpr hpw)).trans (if_neg (hcalm hsum))))
  · exact (powerAverageRefresh_next hr).trans (congrArg Host.Outcome.next
      ((if_neg (Nat.not_lt.mpr hpw)).trans (if_pos (Bool.and_eq_true_iff.mpr ⟨decide_eq_true hlen, decide_eq_true hsum⟩))))
  · exact (powerAverageRefresh_next hr).trans (congrArg Host.Outcome.next
      ((if_pos hpw).trans (congrArg (fun u => setAlert (logEvent u 0x0705 1 2 pw) 2) (if_neg (hcalm hsum)))))
  · exact coolantSample_next hr (overRun_within (Int.not_lt.mpr hi) _) (overRun_within (Nat.not_lt.mpr ha) _)
      (overRun_within (Nat.not_lt.mpr hb) _)
  · refine (coolantSample_next hr (overRun_past hi (by omega)) (overRun_within (Nat.not_lt.mpr ha) _)
      (overRun_within (Nat.not_lt.mpr hb) _)).trans (congrArg Host.Outcome.next ((if_neg ?_).trans ?_))
    · simpa using hn
    · change (if s.power.inletRun + 1 = 10 then _ else _) = _
      exact if_neg (by omega)
  · exact coolantSample_next hr ((overRun_past hi (by omega)).trans (congrArg (· + 1) hn))
      (overRun_within (Nat.not_lt.mpr ha) _) (overRun_within (Nat.not_lt.mpr hb) _)
  · exact coolantSample_next hr (overRun_within (Int.not_lt.mpr hi) _)
      ((overRun_past ha (by omega)).trans (congrArg (· + 1) hn)) (overRun_within (Nat.not_lt.mpr hb) _)
  · exact (temperatureSample_next temp (htakes h)).trans (congrArg Host.Outcome.next
      ((if_neg (by omega)).trans (if_pos hlo)))
  · exact (temperatureSample_next temp (htakes h)).trans (congrArg Host.Outcome.next
      ((if_neg (by omega)).trans ((if_neg (by omega)).trans (if_pos hlo))))
  · exact (temperatureSample_next temp (htakes h)).trans (congrArg Host.Outcome.next
      ((if_neg (by omega)).trans ((if_neg (by omega)).trans (if_neg (by omega)))))
  · obtain ⟨hreg, htime, hmem, htiles⟩ := noteSample_facts s p temp
    obtain ⟨hheat, hmem', htiles'⟩ := noticeHeat_facts (noteSample s p temp) p
    refine ⟨noticeHeat (noteSample s p temp) p, (temperatureSample_next temp (htakes h)).trans
      (congrArg Host.Outcome.next ((if_pos hhi).trans ((if_pos hrole).trans (if_pos hm)))), ?_⟩
    rw [hheat, hreg, htime, hmem', htiles', hmem, htiles]
    exact ⟨rfl, rfl, rfl, rfl, rfl, rfl⟩
  · obtain ⟨hreg, -⟩ := noteSample_facts s p temp
    obtain ⟨hst, hon, htemp⟩ := switchOffHeat_facts (noteSample s p temp) p
    exact ⟨_, (temperatureSample_next temp (htakes h)).trans (congrArg Host.Outcome.next
      ((if_pos hhi).trans (if_neg hrole))), rfl, hst, hon, htemp.trans (congrArg Region.temp hreg)⟩

end Sys2Proof.Proofs
end

section
/-! PROOFS. Timed actions: arming, cancelling, distribution, and what each does when it is due (R214, R284 to R289, R328,
R331). -/

namespace Sys2Proof.Proofs

open Sys2Proof.Machine Sys2Proof.Laws

variable {s : State} {n : Nat}

/-! Arming and cancelling: 0x2510 + n.03 written (R286). -/

@[simp] theorem timedSlot_updTimed (s : State) (n : Nat) (f : TimedSlot → TimedSlot) :
    timedSlot (updTimed s n f) n = f (timedSlot s n) :=
  smGetD_upd_same _ _ _ _

section
variable (hn : n < 64)
include hn

theorem isRws_timed : isRws (0x2510 + n) 3 = false := by
  have hall : ∀ n < 64, isRws (0x2510 + n) 3 = false := by decide
  exact hall n hn

theorem writeVolatile_timed (s : State) (src v : Nat) (image : Option Bundle) (peers : List PeerReport) :
    writeVolatile s src (0x2510 + n) 3 v image peers = writeTimed s src n 3 v := by
  have h1 : ¬(0x2350 ≤ 0x2510 + n ∧ 0x2510 + n < 0x2358) := by omega
  have h2 : ¬(0x2510 + n = 0x2360 ∨ 0x2510 + n = 0x2361) := by omega
  have h3 : 0x2510 ≤ 0x2510 + n ∧ 0x2510 + n < 0x2550 := by omega
  unfold writeVolatile
  split
  case h_18 => rw [if_neg h1, if_neg h2, if_pos h3, Nat.add_sub_cancel_left]
  all_goals omega

theorem writeReq_timed {q : Req} {v : Nat} (hw : NewWrite s q (0x2510 + n) 3 v) :
    writeReq s q (0x2510 + n) 3 v =
      acked (writeTimed s q.src n 3 v).1 q 2 (0x2510 + n) 3 (writeTimed s q.src n 3 v).2 := by
  rw [writeReq_volatile hw (isRws_timed hn), writeVolatile_timed hn]

section
variable {q : Req}

/-- A slot that is free is armed, or refused with its reason. -/
theorem timedActionArm_free (hw : NewWrite s q (0x2510 + n) 3 1) (h1 : (timedSlot s n).status ≠ 1)
    (h2 : (timedSlot s n).status ≠ 2) :
    exec (.timedActionArm q n) s = .next (acked (armSlot s q.src n) q 2 (0x2510 + n) 3 stOk) := by
  refine congrArg Host.Outcome.next ?_
  rw [member, if_pos hn, writeReq_timed hn hw, writeTimed, if_pos rfl, if_pos rfl, if_neg (by simp [h1, h2])]
  rfl

theorem timedActionArm_held (hw : NewWrite s q (0x2510 + n) 3 1)
    (h : (timedSlot s n).status = 1 ∨ (timedSlot s n).status = 2) :
    exec (.timedActionArm q n) s = .next (acked s q 2 (0x2510 + n) 3 stState) := by
  refine congrArg Host.Outcome.next ?_
  rw [member, if_pos hn, writeReq_timed hn hw, writeTimed, if_pos rfl, if_pos rfl, if_pos (by simpa using h)]
  rfl

theorem timedActionCancel_armed (hw : NewWrite s q (0x2510 + n) 3 0) (h : (timedSlot s n).status = 1) :
    exec (.timedActionCancel q n) s =
      .next (acked (updTimed s n fun x => { x with status := 6 }) q 2 (0x2510 + n) 3 stOk) := by
  refine congrArg Host.Outcome.next ?_
  rw [member, if_pos hn, writeReq_timed hn hw, writeTimed, if_pos rfl, if_neg (by decide), if_pos h, cancelSlot, if_pos h]
  rfl
end
end

theorem armSlot_free (src : Nat) (h1 : (timedSlot s n).status ≠ 1) (h2 : (timedSlot s n).status ≠ 2) :
    let x := timedSlot s n
    armSlot s src n = updTimed { s with sig := { s.sig with armCount := s.sig.armCount + 1 } } n fun y => { y with
      armT := y.t, armOp := y.op, late := false, reason := armRefusal s x.t x.op, armSrc := src, armSeq := s.sig.armCount
      begun := false, status := if armRefusal s x.t x.op = 0 then 1 else 5 } := by
  rw [armSlot, if_neg (by simp [h1, h2])]

/-! Distribution (R287). -/

theorem timedActionDistribute_next (he : eyepieceRuns s = true) (h1 : (timedSlot s n).status = 1)
    (hr : regional (timedSlot s n).armOp = true) (ht : (timedSlot s n).armT ≤ s.time.tb + leadTicks s)
    (hs : s.dev.st ≠ .safeHold) :
    exec (.timedActionDistribute n) s = .next (giveAction s n (scopeRegions s (timedSlot s n).armOp)) :=
  congrArg Host.Outcome.next (if_pos (by simp [he, h1, hr, ht, hs]))

/-- A region takes a distributed action. -/
def takeAction (a : RegionAction) (s : State) (p : Nat) : State :=
  updRegion s p fun r => { r with actions := r.actions ++ [a] }

/-- Of the regions that take an action each one holds it. -/
theorem takeActions_mem (a : RegionAction) {p : Nat} (ps : List Nat) (s : State)
    (h : p ∈ ps ∨ a ∈ (regionOfNo s p).actions) : a ∈ (regionOfNo (ps.foldl (takeAction a) s) p).actions := by
  induction ps generalizing s with
  | nil => exact h.resolve_left List.not_mem_nil
  | cons q ps ih =>
    refine ih _ ?_
    by_cases e : p = q
    · subst e
      exact .inr (by simp [takeAction])
    · rw [takeAction, regionOfNo_updRegion_ne _ _ e]
      exact h.imp_left fun h => (List.mem_cons.mp h).resolve_left e

/-- A slot's action as a region holds it (R285). -/
def slotAction (s : State) (n : Nat) : RegionAction :=
  { code := taCode (timedSlot s n).armOp, at_ := (timedSlot s n).armT, arg := taArg (timedSlot s n).armOp, owner := n }

/-- The regions of a scope that have clocks take a slot's action. -/
def handOut (s : State) (n : Nat) (ps : List Nat) : State :=
  (ps.filter fun p => clocksRun (regionOfNo s p)).foldl (takeAction (slotAction s n)) s

theorem giveAction_eq (s : State) (n : Nat) (ps : List Nat) :
    giveAction s n ps = updTimed (eyepieceBroadcast (handOut s n ps)) n fun y =>
      { y with status := 2, late := decide ((handOut s n ps).time.tb > (timedSlot s n).armT) } := rfl

/-- A distributed action stands with the regions of its scope that have clocks. -/
theorem giveAction_facts (s : State) (n : Nat) (ps : List Nat) (p : Nat) :
    (timedSlot (giveAction s n ps) n).status = 2 ∧
    (timedSlot (giveAction s n ps) n).late = decide (s.time.tb > (timedSlot s n).armT) ∧
    (p ∈ ps → clocksRun (regionOfNo s p) = true → slotAction s n ∈ (regionOfNo (giveAction s n ps) p).actions) := by
  have htime : (handOut s n ps).time = s.time := foldl_keep State.time (fun u p => updRegion_time u p _) _ s
  have hregions : (giveAction s n ps).regions = (handOut s n ps).regions := by
    obtain ⟨_, _, e⟩ := eyepieceBroadcast_shape (handOut s n ps)
    rw [giveAction_eq, e]
    rfl
  refine ⟨?_, ?_, fun hp hc => ?_⟩
  · rw [giveAction_eq, timedSlot_updTimed]
  · rw [giveAction_eq, timedSlot_updTimed, htime]
  · rw [regionOfNo, hregions]
    exact takeActions_mem _ _ s (.inl (List.mem_filter.mpr ⟨hp, hc⟩))

/-! Actions that are due (R214, R284, R287, R288). -/

theorem actionDue_safeHold (n c : Nat) (h : s.dev.st = .safeHold) : actionDue s n c = false := by
  simp [actionDue, fallsDue, h]

/-- A slot's action performed where it is due, and what follows its last region. -/
def performThen (n : Nat) (v : State) (f : State → State) : State :=
  if (perform v n).2 then f (perform v n).1 else (perform v n).1

section
variable (hd : actionDue s n 1 = true)
include hd

/-- A resume by what it resumes: a recovery, a migration, or nothing. -/
theorem timedResume_due :
    let ok := resumesRecovery s n (taArg (timedSlot s n).armOp)
    let ps := performers s n
    exec (.timedResume n) s = .next (performThen n
      (if ok then unfreezeRegions s ps else if n ≥ 4096 then goOnRegions s (n - 4096) ps else s)
      fun v => if ok then resumeRecovery v else if n ≥ 4096 then resumeMigration v (n - 4096) else v) := by
  have hc : ¬(!actionDue s n 1) = true := by simp [hd]
  refine (next_neg hc).trans (congrArg Host.Outcome.next ?_)
  dsimp only
  rw [performThen]
  cases (perform _ n).2
  · rfl
  · rfl

theorem timedResume_recovery (hr : resumesRecovery s n (taArg (timedSlot s n).armOp) = true) :
    exec (.timedResume n) s = .next (performThen n (unfreezeRegions s (performers s n)) resumeRecovery) := by
  rw [timedResume_due hd]
  simp only [hr, if_true]

theorem timedResume_migration (hn : 4096 ≤ n) : exec (.timedResume n) s =
    .next (performThen n (goOnRegions s (n - 4096) (performers s n)) fun v => resumeMigration v (n - 4096)) := by
  have hr : resumesRecovery s n (taArg (timedSlot s n).armOp) = false := by
    have h1 : n ≠ resumeAction := fun e => absurd (e ▸ hn) (by decide)
    have h2 : ¬n < 64 := by omega
    simp [resumesRecovery, h1, h2]
  rw [timedResume_due hd]
  simp only [hr, Bool.false_eq_true, if_false, if_pos (show n ≥ 4096 from hn)]

theorem timedResume_other (hr : resumesRecovery s n (taArg (timedSlot s n).armOp) = false) (hn : n < 4096) :
    exec (.timedResume n) s = .next (perform s n).1 := by
  rw [timedResume_due hd]
  simp only [hr, Bool.false_eq_true, if_false, if_neg (show ¬n ≥ 4096 by omega), performThen, ite_self]
end

/-- A snapshot may be taken: the steward runs, and the device serves or may (R320). -/
abbrev SnapshotRuns (s : State) : Prop :=
  s.steward.running = true ∧ (s.dev.st = .ready ∨ s.dev.st = .serving ∨ s.dev.st = .recovering)

section
variable (hd : actionDue s n 2 = true)
include hd

/-- A snapshot's shares begin with the first region that is due, and each region's tiles stop with its own. -/
theorem timedSnapshot_runs (hr : SnapshotRuns s) :
    let x := timedSlot s n
    let v := if x.begun then s
      else beginSnapshot (updTimed s n fun y => { y with begun := true }) (taArg x.armOp) (scopeModels s x.armOp)
    exec (.timedSnapshot n) s = .next (perform (stopRegions v (taArg x.armOp) (performers s n)) n).1 := by
  have hc : ¬(!actionDue s n 2) = true := by simp [hd]
  have hruns : (s.steward.running && (s.dev.st = .ready || s.dev.st = .serving || s.dev.st = .recovering)) = true := by
    simpa [or_assoc] using hr
  refine (next_neg hc).trans (congrArg Host.Outcome.next ?_)
  dsimp only
  rw [hruns, if_pos rfl]
  cases (timedSlot s n).begun
  · rfl
  · rfl

theorem timedSnapshot_idle (hr : ¬SnapshotRuns s) : exec (.timedSnapshot n) s = .next (perform s n).1 := by
  have hc : ¬(!actionDue s n 2) = true := by simp [hd]
  have hruns : (s.steward.running && (s.dev.st = .ready || s.dev.st = .serving || s.dev.st = .recovering)) = false := by
    simpa [SnapshotRuns, and_assoc] using hr
  refine (next_neg hc).trans (congrArg Host.Outcome.next ?_)
  dsimp only
  rw [hruns]
  rfl
end

theorem timedSectionSwitch_next (hd : actionDue s n 3 = true) : exec (.timedSectionSwitch n) s =
    .next (perform ((performers s n).foldl (fun s p =>
      (regionTiles p).foldl (fun s t => if tileRuns s t then timedSwitch s t else s) s) s) n).1 := by
  have hc : ¬(!actionDue s n 3) = true := by simp [hd]
  exact next_neg hc

theorem timedBeamRelease_next (hd : actionDue s n 4 = true) :
    let ch := taArg (timedSlot s n).armOp
    exec (.timedBeamRelease n) s = .next (performThen n
      ((performers s n).foldl (fun s p => releaseRegion s p ch (regionTiles p) false) s) fun v => countRelease v ch) := by
  have hc : ¬(!actionDue s n 4) = true := by simp [hd]
  exact next_neg hc

theorem timedPortEnable_next {w : State} (hd : actionDue s n 5 = true)
    (hw : appendRec (actionDone s n) (recordOf (objKey (0x3000 + taArg (timedSlot s n).armOp % 32) 4) s.store.seq
      (.num (b2n (bit (taArg (timedSlot s n).armOp) 8)))) = (w, true)) :
    let arg := taArg (timedSlot s n).armOp
    exec (.timedPortEnable n) s = .next (writeEnable w (arg % 32) (b2n (bit arg 8)) (portEnabled w (arg % 32))) := by
  have hc : ¬(!actionDue s n 5) = true := by simp [hd]
  refine (next_neg hc).trans (congrArg Host.Outcome.next ?_)
  dsimp only
  rw [hw]

theorem timedReset_next (hd : actionDue s n 6 = true) : exec (.timedReset n) s = .next (
    if s.dev.st = .aux || s.dev.st = .bringup then updTimed s n fun x => { x with status := 6 }
    else acceptReset (actionDone s n) .warm) := by
  have hc : ¬(!actionDue s n 6) = true := by simp [hd]
  exact next_neg hc

/-- Settles O38: each clause by the lemma of its command. -/
theorem timedActions : Obligations.TimedActions := by
  intro s n q x op ps serving port u then_
  refine ⟨fun hn hw h1 h2 => ?_, fun hn => timedActionArm_held hn, fun hn => timedActionCancel_armed hn,
    timedActionDistribute_next, giveAction_facts s n, fun c => actionDue_safeHold n c, timedResume_recovery,
    timedResume_migration, timedResume_other, fun hd hr hb => ?_, fun hd hr hb => ?_, timedSnapshot_idle,
    timedSectionSwitch_next, timedBeamRelease_next, fun w => timedPortEnable_next, fun hd ha hb => ?_, fun hd hs => ?_⟩
  · exact (timedActionArm_free hn hw h1 h2).trans
      (congrArg (fun v => Host.Outcome.next (acked v q 2 (0x2510 + n) 3 stOk)) (armSlot_free q.src h1 h2))
  · refine (timedSnapshot_runs hd hr).trans (congrArg (fun v => Host.Outcome.next
      (perform (stopRegions v (taArg op) ps) n).1) (if_neg ?_))
    exact ne_of_eq_of_ne hb Bool.false_ne_true
  · exact (timedSnapshot_runs hd hr).trans (congrArg (fun v => Host.Outcome.next
      (perform (stopRegions v (taArg op) ps) n).1) (if_pos hb))
  · exact (timedReset_next hd).trans (congrArg Host.Outcome.next (if_neg (by simp [ha, hb])))
  · exact (timedReset_next hd).trans (congrArg Host.Outcome.next (if_pos (by simpa using hs)))

end Sys2Proof.Proofs
end

section
/-! PROOFS. The CSRs that clear or mask bits: BEAM_MASK, DIRTY_VAL, FFLAGS_X and FAULT_CAUSE (R50, R69, R103, R269). -/

namespace Sys2Proof.Proofs

open Sys2Proof.Machine Sys2Proof.Laws

variable {s : State} {t len rd : Nat} {old new : Word}

/-- A command that writes an Xnt CSR of the control core alone. -/
theorem csrCommand_coreWrite {a : Nat} {sel : State → Nat → Option Word → Bool} {g : Core → Core}
    (h : AtCsrWrite s t a rd len old new) (ha : 0x7C0 ≤ a ∧ a ≤ 0x7FF) (hl : a ∉ [0x7C4, 0x7E4, 0x7F0, 0x7F8])
    (hs : sel s a (some new) = true) (hg : ∀ k, xntWrite k a new = { k with core := g k.core }) :
    (.next (csrCommand s t sel) : Res) = .next (updCore (countCycles s t) t fun c => retireRd (g c) len rd old) :=
  (csrCommand_xntWrite h ha hl hs).trans (congrArg Host.Outcome.next (updTile_congr (by rw [hg])))

theorem beamMaskWrite_next (h : AtCsrWrite s t 0x7E0 rd len old new) : exec (.beamMaskWrite t) s =
    .next (updCore (countCycles s t) t fun c => retireRd (writeMask c new) len rd old) :=
  csrCommand_coreWrite h (by omega) (by decide) rfl fun _ => rfl

theorem dirtyValClear_next (h : AtCsrWrite s t 0x7F3 rd len old new) : exec (.dirtyValClear t) s =
    .next (updCore (countCycles s t) t fun c => retireRd (clearDirty c new.toNat) len rd old) :=
  csrCommand_coreWrite h (by omega) (by decide) rfl fun _ => rfl

theorem fflagsXClear_next (h : AtCsrWrite s t 0x7F4 rd len old new) : exec (.fflagsXClear t) s =
    .next (updCore (countCycles s t) t fun c => retireRd { c with fflagsX := c.fflagsX &&& ~~~new } len rd old) :=
  csrCommand_coreWrite h (by omega) (by decide) rfl fun _ => rfl

/-- VALID is cleared behind the instruction that retires, and a held fault follows (R50). -/
theorem faultCauseClear_next (h : AtCsrWrite s t 0x7F8 rd len old new) : exec (.faultCauseClear t) s =
    .next (updCore (countCycles s t) t fun c => clearCause (retireRd c len rd old) new.toNat) := by
  obtain ⟨f, e⟩ := csrCommand_write (sel := fun _ a v => a = 0x7F8 && v.isSome) h (by omega) rfl
  exact congrArg Host.Outcome.next (e.trans csrEffect_cause)

/-! Votes behind a write of BEAM_MASK (R266, R269). -/

section
variable (c : Core) {v : Word} {ch : Nat}

theorem tileVote_writeMask_new (hv : v.getLsbD ch = true) (hc : c.beamMask.getLsbD ch = false) :
    tileVote (writeMask c v) ch = false := by
  simp [tileVote, writeMask, hv, hc]

theorem tileVote_writeMask_kept (hv : v.getLsbD ch = true) (hc : c.beamMask.getLsbD ch = true) :
    tileVote (writeMask c v) ch = tileVote c ch := by
  simp [tileVote, writeMask, hv, hc]

theorem tileVote_writeMask_none (hv : v.getLsbD ch = false) : tileVote (writeMask c v) ch = true := by
  simp [tileVote, writeMask, hv]
end

/-- Settles O18: each register's write as a write of the core, and the vote of a channel by its old and its new bit. -/
theorem maskAndFlagWrites : Obligations.MaskAndFlagWrites := by
  intro s t len rd old new u
  refine ⟨beamMaskWrite_next, fun c v ch _ => ⟨rfl, rfl, tileVote_writeMask_new c, tileVote_writeMask_kept c,
    tileVote_writeMask_none c⟩, dirtyValClear_next, fflagsXClear_next, fun h hb => ?_⟩
  refine (faultCauseClear_next h).trans (congrArg Host.Outcome.next (updCore_congr ?_))
  exact if_pos hb

end Sys2Proof.Proofs
end

section
/-! PROOFS. Beam channels: releases on the wafer and across devices, failed copies and the frames of the tree (R266, R267,
R272, R273, R350). -/

namespace Sys2Proof.Proofs

open Sys2Proof.Machine Sys2Proof.Laws

variable {s : State}

/-! A release at a tile (R267). -/

/-- Slot n of a core runs or may run, waiting for nothing, at `pc`. -/
def GoesOn (c : Core) (n : Nat) (pc : Word) : Prop :=
  ∃ y : TaskSlot, c.slots[n]? = some y ∧ (y.st = .ready ∨ y.st = .running) ∧ y.wait = .nothing ∧ y.pc = pc

section
variable {c : Core} {n : Nat} {pc : Word}

theorem GoesOn.runSlot (h : GoesOn c n pc) (m : Nat) : GoesOn (runSlot c m) n pc := by
  obtain ⟨y, hy, hst, hw, hpc⟩ := h
  by_cases hm : m = n
  · exact ⟨{ y with st := .running }, by simp [Machine.runSlot, updSlot, hm, hy], .inr rfl, hw, hpc⟩
  · exact ⟨y, by simp [Machine.runSlot, updSlot, hm, hy], hst, hw, hpc⟩

theorem GoesOn.wakeCore (h : GoesOn c n pc) : GoesOn (wakeCore c) n pc := by
  unfold Machine.wakeCore switchSlot
  split
  · exact h
  · split
    · exact h.runSlot _
    · exact h

theorem GoesOn.wakeWaiters (h : GoesOn c n pc) : GoesOn (wakeWaiters c) n pc := by
  obtain ⟨y, hy, hst, hw, hpc⟩ := h
  refine ⟨y, ?_, hst, hw, hpc⟩
  simp [Machine.wakeWaiters, hy, hw]

theorem GoesOn.wakeCondition (h : GoesOn c n pc) (k : Nat) : GoesOn (wakeCondition c k) n pc := by
  unfold Machine.wakeCondition
  dsimp only
  split
  · exact GoesOn.wakeCore (GoesOn.wakeWaiters h)
  · exact h
end

theorem wakeCore_shape (c : Core) : ∃ sl m, wakeCore c = { c with slots := sl, cur := m } := by
  unfold wakeCore switchSlot
  split
  · exact ⟨_, _, rfl⟩
  · split
    · exact ⟨_, _, rfl⟩
    · exact ⟨_, _, rfl⟩

theorem wakeCondition_shape (c : Core) (k : Nat) :
    ∃ sl m w, wakeCondition c k = { c with slots := sl, cur := m, wakePend := w } := by
  unfold wakeCondition
  dsimp only
  split
  · obtain ⟨sl, m, e⟩ := wakeCore_shape
      { wakeWaiters { c with wakePend := c.wakePend ||| BitVec.ofNat 32 (2 ^ k) } with wakePend := 0 }
    rw [e]
    exact ⟨_, _, _, rfl⟩
  · exact ⟨_, _, _, rfl⟩

/-- The core of a release before anything wakes: the vote gone, the flag set, the slots that wait for it READY. -/
def markRelease (c : Core) (ch : Nat) : Core :=
  { c with
    votes := c.votes &&& ~~~(BitVec.ofNat 32 (2 ^ ch))
    released := c.released ||| BitVec.ofNat 32 (2 ^ ch)
    slots := c.slots.map fun k =>
      if k.st = .waiting && k.wait = .release ch then { k with st := .ready, wait := .nothing } else k }

/-- A release wakes at most: for its own condition, then for the slots that waited. -/
theorem releaseCore_cases (c : Core) (ch : Nat) (event : Bool) :
    ∃ d, (d = markRelease c ch ∨ ∃ k, d = wakeCondition (markRelease c ch) k) ∧
      (releaseCore c ch event = d ∨ releaseCore c ch event = wakeCore d) := by
  unfold releaseCore
  extract_lets b waits c1 c2
  refine ⟨c2, ?_, ?_⟩
  · unfold c2
    split
    · split
      · exact .inr ⟨3, rfl⟩
      · exact .inl rfl
    · split
      · exact .inr ⟨0, rfl⟩
      · exact .inl rfl
  · split
    · exact .inr rfl
    · exact .inl rfl

theorem releaseCore_bits (c : Core) (ch : Nat) (event : Bool) :
    (releaseCore c ch event).votes = c.votes &&& ~~~(BitVec.ofNat 32 (2 ^ ch)) ∧
    (releaseCore c ch event).released = c.released ||| BitVec.ofNat 32 (2 ^ ch) := by
  obtain ⟨d, hd, hr⟩ := releaseCore_cases c ch event
  have hbits : d.votes = (markRelease c ch).votes ∧ d.released = (markRelease c ch).released := by
    obtain rfl | ⟨k, rfl⟩ := hd
    · exact ⟨rfl, rfl⟩
    · obtain ⟨_, _, _, e⟩ := wakeCondition_shape (markRelease c ch) k
      rw [e]
      exact ⟨rfl, rfl⟩
  obtain e | e := hr
  · rw [e]
    exact hbits
  · obtain ⟨_, _, e'⟩ := wakeCore_shape d
    rw [e, e']
    exact hbits

theorem releaseCore_goesOn {c : Core} {ch n : Nat} {x : TaskSlot} (event : Bool) (hx : c.slots[n]? = some x)
    (hs : x.st = .waiting) (hw : x.wait = .release ch) : GoesOn (releaseCore c ch event) n x.pc := by
  have hmark : GoesOn (markRelease c ch) n x.pc :=
    ⟨{ x with st := .ready, wait := .nothing }, by simp [markRelease, hx, hs, hw], .inl rfl, rfl, rfl⟩
  obtain ⟨d, hd, hr⟩ := releaseCore_cases c ch event
  have hgo : GoesOn d n x.pc := by
    obtain rfl | ⟨k, rfl⟩ := hd
    · exact hmark
    · exact hmark.wakeCondition k
  obtain e | e := hr
  · rw [e]
    exact hgo
  · rw [e]
    exact hgo.wakeCore

/-! The decision at the wafer root (R267, R273). -/

section
variable {ch : Nat}

theorem beamRelease_decides (hr : rootsRun s = true) (hc : ch < 31) : exec (.beamRelease ch) s = .next (
    if systemScope s ch then decideSystem s ch else if localUp s ch then releaseWafer s ch else s) :=
  next_neg (by simp [hr, hc])

theorem beamRelease_wafer (hr : rootsRun s = true) (hc : ch < 31) (hs : systemScope s ch = false) :
    exec (.beamRelease ch) s = .next (if localUp s ch then releaseWafer s ch else s) :=
  (beamRelease_decides hr hc).trans (next_neg (by simp [hs]))

theorem beamRelease_system (hr : rootsRun s = true) (hc : ch < 31) (hs : systemScope s ch = true) :
    exec (.beamRelease ch) s = .next (decideSystem s ch) :=
  (beamRelease_decides hr hc).trans (congrArg Host.Outcome.next (if_pos hs))

/-- Channel 31 is never released by votes. -/
theorem beamRelease_event : exec (.beamRelease 31) s = .next s := congrArg Host.Outcome.next (if_pos (by simp))

theorem decideSystem_root (h : parentPort s = 0xFF) : decideSystem s ch =
    if upState s ch then releaseSystem s ch ((s.beam.count.getD ch 0 + 1) % 256) else s := if_pos h

theorem decideSystem_below (h : parentPort s ≠ 0xFF) : decideSystem s ch =
    if b2n (upState s ch) = smGetD s.beam.upSent ch 0 then s
    else emit { s with beam := { s.beam with upSent := smSet s.beam.upSent ch (b2n (upState s ch)) } }
      (.block (parentPort s) (beamBlock 0 ch (s.beam.count.getD ch 0) (b2n (upState s ch)))) := by
  refine (if_neg h).trans ?_
  simp only [ne_eq, ite_not]
end

/-! Failed copies (R272). -/

/-- A copy of a segment that fails for the first time, with its record. -/
def noteCopy (s : State) (segment copy : Nat) : State :=
  logEvent { s with beam := { s.beam with
    failed := smSet s.beam.failed segment (smGetD s.beam.failed segment [] ++ [copy])
    copiesFailed := (s.beam.copiesFailed + 1) % 2 ^ 32 } } 0x0202 1 segment copy

theorem beamCopyFail_new {segment copy : Nat} (hr : rimRuns s = true) (hs : segment < 48 + regionCount) (hc : copy < 3)
    (hb : copy ∉ smGetD s.beam.failed segment []) : exec (.beamCopyFail segment copy) s = .next (
      if (smGetD s.beam.failed segment []).length ≠ 1 then noteCopy s segment copy
      else if segment < 48 then fenceField (noteCopy s segment copy) segment
      else regionFault (noteCopy s segment copy) (segment - 48) 0x35 0 none 0) :=
  next_neg (by simp [hr, hs, hc, hb])

/-! Frames of the tree (R273, R350). -/

theorem onBlock_taken {p kind : Nat} {b : List Byte} {f : State → State} (hk : kind ≠ 7) (hc : carriesBlocks s p = true)
    (hg : blockGood b = true) (hb : fld b 0 1 = kind) : onBlock s p kind b f = f s := by
  rw [onBlock, if_neg hk, if_neg (by simp [hc]), if_neg (by simp [hg]), if_pos hb]

section
variable {p : Nat} {block : List Byte}

/-- A child's up state that port p brings is kept. -/
def keepChild (s : State) (p : Nat) (block : List Byte) : State :=
  { s with beam := { s.beam with childUp := smSet s.beam.childUp (p * 32 + fld block 2 1) (fld block 4 1) } }

/-- A BEAM block that port p takes. -/
abbrev TakesBeam (s : State) (p : Nat) (block : List Byte) : Prop :=
  carriesBlocks s p = true ∧ blockGood block = true ∧ fld block 0 1 = 6

theorem TakesBeam.onBlock {f : State → State} (h : TakesBeam s p block) : onBlock s p 6 block f = f s := by
  obtain ⟨hc, hg, hk⟩ := h
  exact onBlock_taken (by decide) hc hg hk

theorem beamUpFrameRx_kept (h : TakesBeam s p block) (h0 : fld block 1 1 = 0) (hc : fld block 2 1 < 31)
    (hs : systemScope s (fld block 2 1) = true) (hp : p ∈ childPorts s)
    (hn : fld block 3 1 = s.beam.count.getD (fld block 2 1) 0) : exec (.beamUpFrameRx p block) s =
      .next (if rootsRun s then decideSystem (keepChild s p block) (fld block 2 1) else keepChild s p block) :=
  congrArg Host.Outcome.next (h.onBlock.trans (if_pos (by simp [h0, hc, hs, hp, hn])))

theorem beamUpFrameRx_otherCount (h : TakesBeam s p block) (hn : fld block 3 1 ≠ s.beam.count.getD (fld block 2 1) 0) :
    exec (.beamUpFrameRx p block) s = .next s :=
  congrArg Host.Outcome.next (h.onBlock.trans (if_neg (by simp [hn, -List.getD_eq_getElem?_getD])))

theorem beamReleaseFrameRx_acts (h : TakesBeam s p block) (h1 : fld block 1 1 = 1) (hc : fld block 2 1 < 31)
    (hs : systemScope s (fld block 2 1) = true) (hp : parentPort s = p) (hr : rootsRun s = true)
    (hn : fld block 3 1 ≠ s.beam.count.getD (fld block 2 1) 0) :
    exec (.beamReleaseFrameRx p block) s = .next (releaseSystem s (fld block 2 1) (fld block 3 1)) :=
  congrArg Host.Outcome.next (h.onBlock.trans (if_pos (by simp [h1, hc, hs, hp, hr, hn, -List.getD_eq_getElem?_getD])))

theorem beamReleaseFrameRx_again (h : TakesBeam s p block) (hn : fld block 3 1 = s.beam.count.getD (fld block 2 1) 0) :
    exec (.beamReleaseFrameRx p block) s = .next s :=
  congrArg Host.Outcome.next (h.onBlock.trans (if_neg (by simp [hn, -List.getD_eq_getElem?_getD])))
end

/-! What a device sends (R273, R350). -/

theorem foldl_emit {α : Type} (f : α → Out) (l : List α) (s : State) :
    l.foldl (fun s a => emit s (f a)) s = { s with out := s.out ++ l.map f } := by
  induction l generalizing s with
  | nil => simp
  | cons a l ih =>
    rw [List.foldl_cons, ih]
    simp [emit]

/-- The state of a device that acts on a release of a system-scope channel, before its frames leave. -/
def actRelease (s : State) (ch n : Nat) : State :=
  releaseWafer { s with beam := { s.beam with
    count := s.beam.count.set ch n, lastRelease := smSet s.beam.lastRelease ch n
    upSent := smSet s.beam.upSent ch 0, childUp := s.beam.childUp.filter fun e => e.1 % 32 ≠ ch } } ch

theorem releaseSystem_eq (s : State) (ch n : Nat) : releaseSystem s ch n = { actRelease s ch n with
    out := (actRelease s ch n).out ++ ((childPorts (actRelease s ch n)).filter (inService (actRelease s ch n))).map
      fun q => .block q (beamBlock 1 ch n 0) } :=
  foldl_emit _ _ _

/-- The blocks of a channel repeated at a port: the up state toward the parent, the last release toward a child. -/
def repeated (s : State) (p ch : Nat) : List Out :=
  (if parentPort s = p then [.block p (beamBlock 0 ch (s.beam.count.getD ch 0) (smGetD s.beam.upSent ch 0))] else [])
  ++ match smGet s.beam.lastRelease ch with
    | some n => if (childPorts s).contains p then [.block p (beamBlock 1 ch n 0)] else []
    | none => []

/-- One channel's turn in BEAM_BLOCK_REPEAT. -/
def repeatStep (p : Nat) (s : State) (ch : Nat) : State :=
  let s := if parentPort s = p then
      emit s (.block p (beamBlock 0 ch (s.beam.count.getD ch 0) (smGetD s.beam.upSent ch 0)))
    else s
  match smGet s.beam.lastRelease ch with
  | some n => if (childPorts s).contains p then emit s (.block p (beamBlock 1 ch n 0)) else s
  | none => s

theorem ite_emit (c : Prop) [Decidable c] (s : State) (o : Out) :
    (if c then emit s o else s) = { s with out := s.out ++ if c then [o] else [] } := by
  split
  · rfl
  · simp

theorem repeatStep_eq (p ch : Nat) (s : State) : repeatStep p s ch = { s with out := s.out ++ repeated s p ch } := by
  unfold repeatStep repeated
  rw [ite_emit]
  dsimp only
  cases smGet s.beam.lastRelease ch with
  | none => simp only [List.append_nil]
  | some n =>
    dsimp only
    rw [ite_emit, ← List.append_assoc]
    rfl

theorem foldl_repeatStep (p : Nat) (l : List Nat) (s : State) :
    l.foldl (repeatStep p) s = { s with out := s.out ++ l.flatMap (repeated s p) } := by
  induction l generalizing s with
  | nil => simp
  | cons ch l ih =>
    rw [List.foldl_cons, repeatStep_eq, ih, List.flatMap_cons, ← List.append_assoc]
    rfl

theorem beamBlockRepeat_next {p : Nat} (hr : rimRuns s = true) (hp : p < 32) (h1 : personality s p = 1)
    (hs : inService s p = true) : exec (.beamBlockRepeat p) s =
      .next { s with out := s.out ++ ((List.range 31).filter (systemScope s)).flatMap (repeated s p) } :=
  (next_neg (by simp [hr, hp, h1, hs])).trans (congrArg Host.Outcome.next (foldl_repeatStep p _ s))

theorem mem_repeated_up {p ch : Nat} (h : parentPort s = p) :
    .block p (beamBlock 0 ch (s.beam.count.getD ch 0) (smGetD s.beam.upSent ch 0)) ∈ repeated s p ch := by
  simp [repeated, h]

theorem mem_repeated_release {p ch n : Nat} (hp : p ∈ childPorts s) (hn : smGet s.beam.lastRelease ch = some n) :
    .block p (beamBlock 1 ch n 0) ∈ repeated s p ch := by
  simp [repeated, hp, hn]

/-- Settles O36: each frame and command by its lemma, a release of the tree by what it sends, and a release at a tile. -/
theorem beamChannels : Obligations.BeamChannels := by
  intro s ch p segment copy block bad child noted takes here
  refine ⟨fun ⟨hr, hc⟩ => beamRelease_wafer hr hc, fun ⟨hr, hc⟩ => beamRelease_system hr hc, decideSystem_root,
    decideSystem_below, beamRelease_event, fun hr hs hc hb hn => ?_, fun hr hs hc hb hn => ?_, fun hr h48 hs hc hb hn => ?_,
    fun h => beamUpFrameRx_kept h, fun h => beamUpFrameRx_otherCount h, fun h => beamReleaseFrameRx_acts h,
    fun h _ => beamReleaseFrameRx_again h, fun n => ?_, fun hr hp h1 hs => ?_, fun c event => ?_⟩
  · exact (beamCopyFail_new hr hs hc hb).trans (congrArg Host.Outcome.next (if_pos hn))
  · exact (beamCopyFail_new hr (by omega) hc hb).trans ((next_neg (not_not.mpr hn)).trans
      (congrArg Host.Outcome.next (if_pos hs)))
  · exact (beamCopyFail_new hr hs hc hb).trans ((next_neg (not_not.mpr hn)).trans (next_neg (by omega)))
  · intro v
    rw [releaseSystem_eq]
    exact ⟨rfl, fun q hq hs => List.mem_append_right _ (List.mem_map_of_mem (List.mem_filter.mpr ⟨hq, hs⟩))⟩
  · refine ⟨_, beamBlockRepeat_next hr hp h1 hs, rfl, fun c hc hsys => ?_⟩
    have hmem {o : Out} (ho : o ∈ repeated s p c) :
        o ∈ s.out ++ ((List.range 31).filter (systemScope s)).flatMap (repeated s p) :=
      List.mem_append_right _ (List.mem_flatMap.mpr ⟨c, List.mem_filter.mpr ⟨List.mem_range.mpr hc, hsys⟩, ho⟩)
    exact ⟨fun h => hmem (mem_repeated_up h), fun n hq hn => hmem (mem_repeated_release hq hn)⟩
  · obtain ⟨hvotes, hreleased⟩ := releaseCore_bits c ch event
    exact ⟨hvotes, hreleased, fun n x => releaseCore_goesOn event⟩

end Sys2Proof.Proofs
end

section
/-! PROOFS. The timebase: a region's copy, its references PPS, PTP and TIME blocks, holdover and the output pulse (R275 to
R281, R349). -/

namespace Sys2Proof.Proofs

open Sys2Proof.Machine Sys2Proof.Laws

variable {s : State}

/-! A region's copy of TB (R275, R276). -/

theorem tbResync_next {p : Nat} {skew : Int} (hp : p < regionCount) (hc : clocksRun (regionOfNo s p) = true)
    (hs : skew.natAbs ≤ 2) :
    exec (.tbResync p skew) s = .next (updRegion s p (syncCopy (someServing s) s.time.tb skew)) :=
  congrArg Host.Outcome.next (if_pos (by simp [hp, hc, hs]))

/-- A copy that is set stands at the master and its skew, or, while a model slot serves, where it stood if that is later. -/
theorem regionTb_resynced (s : State) (p : Nat) (skew : Int) :
    regionTb (updRegion s p (syncCopy (someServing s) s.time.tb skew)) p =
      max (if someServing s then regionTb s p else 0) (Int.ofNat s.time.tb + skew).toNat := by
  rw [regionTb, regionOfNo_updRegion_same]
  rfl

/-! A measurement disciplines TB; a reference that fails leaves it to holdover (R276, R280). -/

section
variable {offset : Int}

theorem tbReferenceMeasure_next (hr : rimRuns s = true) (h0 : tbReference s ≠ 0) :
    exec (.tbReferenceMeasure offset) s = .next (discipline s offset) :=
  congrArg Host.Outcome.next (if_pos (by simp [hr, h0]))

theorem tbHoldover_next (hr : rimRuns s = true) (h0 : tbReference s ≠ 0) (hh : s.time.holdover = false) :
    exec .tbHoldover s = .next (setAlert (logEvent { s with time := { s.time with
      holdover := true, locked := false, good := 0 } } 0x0111 1 1 0) 6) :=
  congrArg Host.Outcome.next (if_pos (by simp [hr, h0, hh]))

theorem leaveHoldover_none (h : s.time.holdover = false) : leaveHoldover s = s := if_neg (by simp [h])

theorem discipline_slews (hh : s.time.holdover = false) (ho : offset.natAbs ≤ 2500) :
    let good := if offset.natAbs ≤ 50 then min 10 (s.time.good + 1) else 0
    discipline s offset = { s with time := { s.time with
      offset := offset, good := good, locked := decide (good = 10), slew := offset } } := by
  rw [discipline, leaveHoldover_none hh]
  exact if_neg (by simp [ho])

theorem stepTb_time (s : State) (new : Nat) : (stepTb s new).time =
    { s.time with tb := new, stepped := true, steps := (s.time.steps + 1) % 2 ^ 32, slew := 0 } :=
  logEvent_time _ _ _ _ _

theorem discipline_steps (hh : s.time.holdover = false) (ho : 2500 < offset.natAbs) (hs : s.dev.st = .ready)
    (hv : someServing s = false) : (discipline s offset).time.tb = ((s.time.tb : Int) + offset).toNat ∧
      (discipline s offset).time.slew = 0 ∧ (discipline s offset).time.steps = (s.time.steps + 1) % 2 ^ 32 := by
  let good := if offset.natAbs ≤ 50 then min 10 (s.time.good + 1) else 0
  let v : State := { s with time := { s.time with offset := offset, good := good, locked := decide (good = 10) } }
  have e : discipline s offset = stepTb v ((s.time.tb : Int) + offset).toNat := by
    rw [discipline, leaveHoldover_none hh]
    exact if_pos (Bool.and_eq_true_iff.mpr ⟨by simp [ho, hs], congrArg not hv⟩)
  rw [e, stepTb_time]
  exact ⟨rfl, rfl, rfl⟩
end

/-! PPS (R278, R281). -/

section
variable (hr : rimRuns s = true) (h1 : tbReference s = 1)
include hr h1

/-- An edge near the second whose value was written before. -/
theorem ppsEdge_valued {v w : Nat} (hv : s.time.ppsNext = some (v, w)) (hlo : w + 250000000 ≤ s.time.tb)
    (hhi : s.time.tb ≤ w + 2250000000) : exec .ppsEdge s = .next (discipline
      { s with time := { s.time with ppsNext := none, ppsLast := s.time.tb } } ((v : Int) - s.time.tb)) := by
  refine (next_neg (by simp [hr, h1])).trans (congrArg Host.Outcome.next ?_)
  dsimp only
  rw [hv]
  dsimp only
  rw [if_pos (by simp [hlo, hhi])]

/-- An edge in the early half of a second whose value was not written. -/
theorem ppsEdge_phase (hv : s.time.ppsNext = none) (hp : s.time.tb % second ≤ second / 2) :
    exec .ppsEdge s = .next (discipline { s with time := { s.time with ppsNext := none, ppsLast := s.time.tb } }
      (-(s.time.tb % second : Nat))) := by
  refine (next_neg (by simp [hr, h1])).trans (congrArg Host.Outcome.next ?_)
  dsimp only
  rw [hv]
  dsimp only
  rw [if_pos hp]
end

theorem ppsValueWrite_next {q : Req} {v : Nat} (h : NewWrite s q 0x2020 3 v) : exec (.ppsValueWrite q v) s =
    .next (acked { s with time := { s.time with ppsNext := some (v, s.time.tb) } } q 2 0x2020 3 stOk) :=
  congrArg Host.Outcome.next (writeReq_volatile h (by decide))

theorem ppsOutPulse_next (hr : rimRuns s = true) (ho : dnum s 0x2020 8 0 = 1) (hs : s.time.tb % second ≤ 5)
    (hl : s.time.locked = true ∨ s.time.holdover = true) :
    exec .ppsOutPulse s = .next { s with time := { s.time with ppsOut := true } } :=
  congrArg Host.Outcome.next (if_pos (by simp [hr, ho, hs, hl]))

/-! PTP (R279). -/

/-- A PTP message of the selected port and domain, under reference code 2. -/
abbrev HearsPtp (s : State) (port : Nat) (m : PtpMsg) : Prop :=
  eyepieceRuns s = true ∧ tbReference s = 2 ∧ m.udp = true ∧ port = dnum s 0x2020 6 0 ∧ m.domain = dnum s 0x2020 7 0

section
variable {port : Nat} {m : PtpMsg} (h : HearsPtp s port m)
include h

theorem HearsPtp.guard : ¬(!(eyepieceRuns s && tbReference s = 2 && m.udp && port = dnum s 0x2020 6 0
    && m.domain = dnum s 0x2020 7 0)) = true := by
  obtain ⟨he, h2, hu, hp, hd⟩ := h
  simp [he, h2, hu, ← hp, ← hd]

theorem ptpMessage_sync (hk : m.kind = 0) (ht : m.twoStep = false) :
    exec (.ptpMessage port m) s = .next (ptpSynced s port (ptpTime m 1) s.time.tb) := by
  refine (next_neg h.guard).trans (congrArg Host.Outcome.next ?_)
  rw [hk]
  exact if_neg (by simp [ht])

theorem ptpMessage_twoStepSync (hk : m.kind = 0) (ht : m.twoStep = true) :
    exec (.ptpMessage port m) s = .next { s with time := { s.time with ptpWait := some (m.seq, s.time.tb) } } := by
  refine (next_neg h.guard).trans (congrArg Host.Outcome.next ?_)
  rw [hk]
  exact if_pos ht

theorem ptpMessage_followUp {came : Nat} (hk : m.kind = 8) (hw : s.time.ptpWait = some (m.seq, came)) :
    exec (.ptpMessage port m) s = .next (ptpSynced s port (ptpTime m 1) came) := by
  refine (next_neg h.guard).trans (congrArg Host.Outcome.next ?_)
  rw [hk]
  dsimp only
  rw [hw]
  exact if_pos rfl

theorem ptpMessage_delayResp {t1 t2 t3 : Nat} (hk : m.kind = 9) (hs : s.time.ptpSync = some (t1, t2))
    (hq : s.time.ptpReq = some (m.seq, t3)) : exec (.ptpMessage port m) s = .next (discipline
      { s with time := { s.time with ptpReq := none } }
      ((((t1 : Int) - t2) + ((ptpTime m (-1) : Int) - t3)) / 2)) := by
  refine (next_neg h.guard).trans (congrArg Host.Outcome.next ?_)
  rw [hk]
  dsimp only
  rw [hs, hq]
  exact if_pos rfl
end

/-! TIME blocks (R349). -/

section
variable {p : Nat}

theorem timeBlockTx_next (hr : rimRuns s = true) (hp : p < 32) (h1 : personality s p = 1) (hs : inService s p = true)
    (hb : p = trunkBase s p) : exec (.timeBlockTx p) s = .next (emit s (.block p (controlBlock 5 (natLe 8 s.time.tb
      ++ natLe 8 ((portOf s p).timeRx.getD (0, 0)).1 ++ natLe 8 ((portOf s p).timeRx.getD (0, 0)).2
      ++ natLe 1 (b2n (s.time.locked || s.time.holdover)))))) :=
  next_neg (by simp [hr, hp, h1, hs, ← hb])

/-- Port p keeps the time that a block brings, for the echo. -/
def keepTime (s : State) (p t3 : Nat) : State := updPort s p fun x => { x with timeRx := some (t3, s.time.tb) }

theorem timeBlockRx_next {block : List Byte} (hc : carriesBlocks s p = true) (hg : blockGood block = true)
    (hk : fld block 0 1 = 5) :
    let t1 := fld block 9 8
    let kept := keepTime s p (fld block 1 8)
    exec (.timeBlockRx p block) s = .next (if tbReference kept = 3 ∧ dnum kept 0x2020 5 0xFF = p ∧ t1 ≠ 0 then
      discipline kept ((((fld block 17 8 : Int) - t1) - ((s.time.tb : Int) - fld block 1 8)) / 2) else kept) := by
  refine congrArg Host.Outcome.next ((onBlock_taken (by decide) hc hg hk).trans (if_congr ?_ rfl rfl))
  simp only [Bool.and_eq_true, decide_eq_true_eq, and_assoc]
  rfl
end

/-- Settles O37: each command by its lemma, a disciplined TB by the size of its offset. -/
theorem timebaseReferences : Obligations.TimebaseReferences := by
  intro s p port v skew offset block q m t1 t2 t3 kept ptp answered
  refine ⟨fun hp hc hs => ⟨_, tbResync_next hp hc hs, ?_, fun x hx => regionOfNo_updRegion_ne s _ hx,
    regionTb_resynced s p skew⟩, tbReferenceMeasure_next, tbHoldover_next, fun w hr h1 => ppsEdge_valued hr h1,
    ppsEdge_phase, ptpMessage_sync, ptpMessage_twoStepSync, fun a h => ptpMessage_followUp h,
    fun a b c h => ptpMessage_delayResp h, ppsOutPulse_next, timeBlockTx_next, timeBlockRx_next,
    fun a b => ⟨fun hh e ho => ?_, fun hh e ho hs hv => ?_⟩,
    ppsValueWrite_next⟩
  · rw [regionOfNo_updRegion_same]
    rfl
  · exact e.trans (discipline_slews hh ho)
  · rw [e]
    exact discipline_steps hh ho hs hv

end Sys2Proof.Proofs
end

section
/-! PROOFS. Event objects, notify records, the heartbeat, the log in flash and errors on CAN (R291 to R295, R431, R434). -/

namespace Sys2Proof.Proofs

open Sys2Proof.Machine Sys2Proof.Laws

variable {s : State}

/-! Event objects: 0x2560 + n.02 written (R291 to R293). -/

section
variable {n payload : Nat}

section
variable (hn : n < 32)
include hn

theorem isRws_event : isRws (0x2560 + n) 2 = false := by
  have hall : ∀ n < 32, isRws (0x2560 + n) 2 = false := by decide
  exact hall n hn

theorem writeVolatile_event (s : State) (src v : Nat) (image : Option Bundle) (peers : List PeerReport) :
    writeVolatile s src (0x2560 + n) 2 v image peers = accept (fireEvent s n v) := by
  have h1 : ¬(0x2350 ≤ 0x2560 + n ∧ 0x2560 + n < 0x2358) := by omega
  have h2 : ¬(0x2560 + n = 0x2360 ∨ 0x2560 + n = 0x2361) := by omega
  have h3 : ¬(0x2510 ≤ 0x2560 + n ∧ 0x2560 + n < 0x2550) := by omega
  have h4 : 0x2560 ≤ 0x2560 + n ∧ 0x2560 + n < 0x2580 := by omega
  unfold writeVolatile
  split
  case h_18 => rw [if_neg h1, if_neg h2, if_neg h3, if_pos h4, Nat.add_sub_cancel_left]
  all_goals omega

theorem eventFire_next {q : Req} (hw : NewWrite s q (0x2560 + n) 2 payload) :
    exec (.eventFire q n payload) s = .next (acked (fireEvent s n payload) q 2 (0x2560 + n) 2 stOk) := by
  refine congrArg Host.Outcome.next ?_
  rw [member, if_pos hn, writeReq_volatile hw (isRws_event hn), writeVolatile_event hn]
  rfl
end

/-- A firing counted, with its time (R291). -/
def countFiring (s : State) (n : Nat) : State :=
  updEvent s n fun e => { e with fired := (e.fired + 1) % 2 ^ 32, lastTb := s.time.tb }

theorem fireEvent_disabled (hk : bits (eventConfig s n) 63 62 = 0) :
    fireEvent s n payload = updEvent s n fun e => { e with refused := (e.refused + 1) % 2 ^ 32 } := if_pos hk

theorem fireEvent_wake (hk : bits (eventConfig s n) 63 62 = 1) :
    fireEvent s n payload = fireWake (countFiring s n) (eventConfig s n) := by
  unfold fireEvent
  dsimp only
  rw [hk]
  rfl

theorem fireEvent_message (hk : bits (eventConfig s n) 63 62 = 2) : fireEvent s n payload =
    fireMessage (countFiring s n) n (eventConfig s n) payload (eventOf (countFiring s n) n).fired := by
  unfold fireEvent
  dsimp only
  rw [hk]
  rfl
end

/-! The output queue (R283, R294). -/

section
variable {r : NotifyRec} {rest : List NotifyRec} (hq : s.sig.notifyIn = r :: rest) (he : eyepieceRuns s = true)
include hq he

theorem notifyRecordArrival_queued (hl : s.sig.notifyQ.length < 512) : exec .notifyRecordArrival s =
    .next { s with sig := { s.sig with notifyIn := rest, notifyQ := s.sig.notifyQ ++
      [{ r with late := decide ((s.time.tb : Int) > r.stamp + r.moved + reorderWindow) }] } } := by
  refine congrArg Host.Outcome.next ?_
  rw [hq]
  exact (if_neg (by simp [he])).trans (if_neg (by simp [hl]))

theorem notifyRecordArrival_lost (hl : 512 ≤ s.sig.notifyQ.length) : exec .notifyRecordArrival s =
    .next { s with sig := { s.sig with
      notifyIn := rest, lost := min 0xFFFF (s.sig.lost + 1), discarded := (s.sig.discarded + 1) % 2 ^ 32 } } := by
  refine congrArg Host.Outcome.next ?_
  rw [hq]
  exact (if_neg (by simp [he])).trans (if_pos hl)
end

/-- One record before another or level with it is the order of their keys. -/
theorem outBefore_iff (x y : OutRec) : outBefore x y = true ↔
    (outKey x).1 < (outKey y).1 ∨ ((outKey x).1 = (outKey y).1 ∧ ((outKey x).2.1 < (outKey y).2.1 ∨
      ((outKey x).2.1 = (outKey y).2.1 ∧ (outKey x).2.2 ≤ (outKey y).2.2))) := by
  unfold outBefore
  dsimp only
  split
  · rw [decide_eq_true_iff]
    omega
  · split
    · rw [decide_eq_true_iff]
      omega
    · rw [decide_eq_true_iff]
      omega

theorem outBefore_trans (x y z : OutRec) (h : outBefore x y = true) (k : outBefore y z = true) : outBefore x z = true := by
  rw [outBefore_iff] at *
  omega

theorem outBefore_total (x y : OutRec) : (outBefore x y || outBefore y x) = true := by
  rw [Bool.or_eq_true, outBefore_iff, outBefore_iff]
  omega

/-! The heartbeat (R434). -/

theorem heartbeat_next {tb : Nat} (hn : s.dict.nextBeat = some tb) (he : eyepieceRuns s = true)
    (hs : s.dict.serving = true) (ht : tb ≤ s.time.tb) :
    let u := sendFrame32 s 0x73 8 (heartbeatBytes s)
    exec .heartbeat s = .next { u with dict := { u.dict with nextBeat := some (tb + dnum u 0x1010 3 1000 * msTicks) } } := by
  refine congrArg Host.Outcome.next ?_
  rw [hn]
  exact if_neg (by simp [he, hs, ht])

theorem heartbeatPeriodWrite_next {q : Req} {v : Nat} {w : State} (hq : NewWrite s q 0x1010 3 v)
    (h : appendRec s (recordOf (objKey 0x1010 3) s.store.seq (.num v)) = (w, true)) :
    exec (.heartbeatPeriodWrite q v) s = .next (acked (restartBeat { w with dict := { w.dict with
      vals := smSet w.dict.vals (objKey 0x1010 3) (.num v) } }) q 2 0x1010 3 stOk) := by
  have hst : writeStored s q.src 0x1010 3 v = (restartBeat { w with dict := { w.dict with
      vals := smSet w.dict.vals (objKey 0x1010 3) (.num v) } }, stOk) :=
    storeVal_taken (fun t => afterStore s t 0x1010 3 v) h
  refine congrArg Host.Outcome.next ?_
  rw [writeReq_stored hq (by decide), hst]

/-! Errors on CAN (R412, R418, R433). -/

theorem canBusOff_next {iface : Nat} (he : eyepieceRuns s = true) (hi : iface < 2)
    (hb : s.dict.busOff[iface]? = some false) : exec (.canBusOff iface) s =
      .next (logSource { canError s iface with dict := { (canError s iface).dict with
        busOff := (canError s iface).dict.busOff.set iface true } } (iface + 1) 0x0501 1 iface 0) :=
  congrArg Host.Outcome.next (if_pos (by simp [he, hi, hb, List.getD_eq_getElem?_getD]))

/-- A frame with an error is counted in the low half of the interface's error counter. -/
theorem canError_counts {iface e : Nat} (h : s.dict.canErr[iface]? = some e) :
    ∃ v, (canError s iface).dict.canErr = s.dict.canErr.set iface v ∧ v % 2 ^ 16 = (bits e 15 0 + 1) % 2 ^ 16 := by
  have hd : s.dict.canErr.getD iface 0 = e := by rw [List.getD_eq_getElem?_getD, h, Option.getD_some]
  refine ⟨_, rfl, ?_⟩
  rw [hd]
  omega

/-- Settles O39: each command by its lemma; the records leave sorted by `outBefore`, a total order of their keys. -/
theorem eventsAndOutputs : Obligations.EventsAndOutputs := by
  intro s n payload v iface tb q r rest cfg fired due
  refine ⟨fun hn hw hk => ?_, fun hn hw hk => ?_, fun hn hw hk => ?_, notifyRecordArrival_queued, notifyRecordArrival_lost,
    fun he => ⟨_, List.pairwise_mergeSort outBefore_trans outBefore_total _, List.mergeSort_perm _ _,
      next_neg (by simp [he])⟩,
    heartbeat_next, fun hw w => heartbeatPeriodWrite_next hw, fun he => next_neg (by simp [he]), canBusOff_next,
    fun e => canError_counts⟩
  · rw [eventFire_next hn hw, fireEvent_disabled hk]
  · rw [eventFire_next hn hw, fireEvent_wake hk]
    rfl
  · rw [eventFire_next hn hw, fireEvent_message hk]
    rfl

end Sys2Proof.Proofs
end

section
/-! PROOFS. Device management: alerts, the configuration store, the event log and Loupe cleared (R298, R420, R428 to R431). -/

namespace Sys2Proof.Proofs

open Sys2Proof.Machine Sys2Proof.Laws

variable {s w : State}

theorem alertSummaryClear_next {q : Req} {mask : Nat} (h : NewWrite s q 0x2000 6 mask) :
    exec (.alertSummaryClear q mask) s = .next (acked (clearAlert s mask) q 2 0x2000 6 stOk) :=
  congrArg Host.Outcome.next (writeReq_volatile h (by decide))

/-! Restore-defaults (R430). -/

/-- The record of restore-defaults that is written next. -/
def restoreMark (s : State) : StoreRec := sealRec tRestore 0 0 s.store.seq (.bytes [])

section
variable {q : Req}

theorem restoreDefaults_next (h : NewWrite s q 0x1020 1 1) :
    exec (.restoreDefaults q) s = .next (acked (writeRestore s).1 q 2 0x1020 1 (writeRestore s).2) :=
  congrArg Host.Outcome.next (writeReq_volatile h (by decide))

theorem writeRestore_taken (h : appendRec s (restoreMark s) = (w, true)) : writeRestore s = (w, stOk) := by
  unfold restoreMark at h
  rw [writeRestore, h]

theorem writeRestore_refused (h : appendRec s (restoreMark s) = (w, false)) : writeRestore s = (w, stStore) := by
  unfold restoreMark at h
  rw [writeRestore, h]
end

/-! The store (R428, R429). -/

theorem setBank_compactions (s : State) (n : Nat) (b : Bank) : (setBank s n b).store.compactions = s.store.compactions := by
  unfold setBank
  dsimp only
  split
  · rfl
  · rfl

/-- A valid bank with a higher generation, written beside the active one, becomes the active one. -/
theorem theBank_setBank_other {b : Bank} (hv : bankValid b = true) (hg : (theBank s).generation < b.generation) :
    theBank (setBank s (1 - activeBank s) b) = b := by
  by_cases h : (bankValid s.store.bank1 && (!bankValid s.store.bank0 ||
      s.store.bank1.generation > s.store.bank0.generation)) = true
  · have hact : activeBank s = 1 := if_pos h
    have hbank : theBank s = s.store.bank1 := if_pos hact
    rw [hbank] at hg
    have hnew : activeBank (setBank s (1 - activeBank s) b) = 0 := by
      rw [hact]
      exact if_neg (by simp [setBank, hv]; omega)
    rw [theBank, hnew, hact]
    rfl
  · have hact : activeBank s = 0 := if_neg h
    have hbank : theBank s = s.store.bank0 := if_neg (by rw [hact]; decide)
    rw [hbank] at hg
    have hnew : activeBank (setBank s (1 - activeBank s) b) = 1 := by
      rw [hact]
      exact if_pos (by simp [setBank, hv, hg])
    rw [theBank, hnew, hact]
    rfl

/-- The bank that a compaction writes. -/
def compactedBank (s : State) : Bank :=
  let g := ((theBank s).generation + 1) % 2 ^ 32
  { generation := g, commit := commitWord g, recs := compactRecs s }

theorem compactedBank_valid (s : State) : bankValid (compactedBank s) = true := decide_eq_true rfl

theorem compact_banks (hb : s.store.broken = false) : ∃ n, compact s =
    let v := setBank s (1 - activeBank s) (compactedBank s)
    { v with store := { v.store with seq := n, compactions := (v.store.compactions + 1) % 2 ^ 32 } } :=
  ⟨_, if_neg (by simp [hb])⟩

/-- A compaction leaves its bank in force, one generation on. -/
theorem compact_facts (hb : s.store.broken = false) (hg : (theBank s).generation + 1 < 2 ^ 32) :
    theBank (compact s) = compactedBank s ∧ (compactedBank s).generation = (theBank s).generation + 1 ∧
    (compact s).store.compactions = (s.store.compactions + 1) % 2 ^ 32 ∧
    compact s = { s with store := (compact s).store } := by
  have hgen : (compactedBank s).generation = (theBank s).generation + 1 := Nat.mod_eq_of_lt hg
  obtain ⟨n, e⟩ := compact_banks hb
  rw [e]
  refine ⟨theBank_setBank_other (compactedBank_valid s) (by omega), hgen, ?_, rfl⟩
  dsimp only
  rw [setBank_compactions]

theorem storeCompaction_next (he : eyepieceRuns s = true) : exec .storeCompaction s = .next (compact s) :=
  congrArg Host.Outcome.next (if_pos he)

/-- A record that the active bank has room for is sealed at its end. -/
theorem appendRec_room {r : StoreRec} (hb : s.store.broken = false) (hr : hasRoom s r = true) :
    ∃ u, appendRec s r = (u, true) ∧
      (theBank u).recs = (theBank s).recs ++ [sealRec r.typ r.index r.sub s.store.seq r.val] ∧ u.dict = s.dict :=
  ⟨_, (if_neg (by simp [hb])).trans (if_pos hr), congrArg Bank.recs (theBank_setBank_recs s _), rfl⟩

theorem appendRec_broken {r : StoreRec} (hb : s.store.broken = true) :
    appendRec s r = (storeFails s r.index r.sub, false) := if_pos hb

theorem storeFails_failures (s : State) (i sub : Nat) :
    (storeFails s i sub).store.failures = (s.store.failures + 1) % 2 ^ 32 := by
  rw [storeFails, setAlert_store, logEvent_store]

/-! The log and Loupe cleared (R298, R431). -/

section
variable {q : Req}

theorem logErase_next (h : NewWrite s q 0x6000 7 1) :
    exec (.logErase q) s = .next (acked (writeErase s).1 q 2 0x6000 7 (writeErase s).2) :=
  congrArg Host.Outcome.next (writeReq_volatile h (by decide))

theorem logErase_permitted (h : NewWrite s q 0x6000 7 1) (hp : s.boot.perms.getLsbD 2 = true) :
    exec (.logErase q) s = .next (acked (eraseLog s) q 2 0x6000 7 stOk) := by
  rw [logErase_next h, writeErase, if_pos hp]
  rfl

theorem logErase_locked (h : NewWrite s q 0x6000 7 1) (hp : s.boot.perms.getLsbD 2 = false) :
    exec (.logErase q) s = .next (acked s q 2 0x6000 7 stLocked) := by
  rw [logErase_next h, writeErase, if_neg (ne_of_eq_of_ne hp Bool.false_ne_true)]
  rfl

theorem loupeClearAll_next (h : NewWrite s q 0x6100 3 1) : exec (.loupeClearAll q) s =
    .next (acked { s with regions := s.regions.map fun e => (e.1, { e.2 with loupe := [] }) } q 2 0x6100 3 stOk) :=
  congrArg Host.Outcome.next (writeReq_volatile h (by decide))

theorem loupeClearRegion_next (h : NewWrite s q 0x6100 3 2) : exec (.loupeClearRegion q) s =
    .next (acked (updRegion s (selection s q.src 0x6100 0x10) fun r => { r with loupe := [] }) q 2 0x6100 3 stOk) :=
  congrArg Host.Outcome.next (writeReq_volatile h (by decide))
end

/-! Stored values (R409, R428). -/

/-- The indexes here whose stored values have no effect beside their value. -/
abbrev PlainIndex (i : Nat) : Prop := i = 0x2010 ∨ i = 0x2200 ∨ i = 0x2410 ∨ i = 0x2600

section
variable {i sub v : Nat} (hi : PlainIndex i)
include hi

theorem afterStore_plain (s0 s : State) : afterStore s0 s i sub v = s := by
  have hport : ¬(0x3000 ≤ i ∧ i < 0x3020) := by omega
  unfold afterStore
  split
  case h_5 => rw [if_neg hport]
  all_goals omega

/-- A number written to such an object is a value for the store. -/
theorem writeNumber_plain {src : Nat} (hc : checkNum s src i sub v = stOk) (hr : isRws i sub = true) :
    writeNumber s src i sub v none [] = storeVal s i sub (.num v) id := by
  have hafter : (fun t => afterStore s t i sub v) = id := funext fun t => afterStore_plain hi s t
  rw [writeNumber, hc, if_neg (by decide), if_pos hr, writeStored, if_neg (by omega), if_neg (by omega), hafter]
end

theorem storeVal_refused {i sub : Nat} {v : Val} {after : State → State}
    (h : appendRec s (recordOf (objKey i sub) s.store.seq v) = (w, false)) : storeVal s i sub v after = (w, stStore) := by
  rw [storeVal, h]

theorem dnum_set (s : State) (i sub v d : Nat) : dnum { s with dict := { s.dict with
    vals := smSet s.dict.vals (objKey i sub) (.num v) } } i sub d = v := dnum_setNum_same s i sub v d

/-- Settles O57: each command by its lemma, a stored value by whether the store takes its record. -/
theorem deviceManagement : Obligations.DeviceManagement := by
  intro s w q mask i sub v mark
  refine ⟨alertSummaryClear_next, fun hq hw => ?_, fun hq hw => ?_, fun he hb hg => ?_, fun he hb => ?_, logErase_permitted,
    logErase_locked, loupeClearAll_next, loupeClearRegion_next, fun hq hi hr hw => ?_, fun hq hi hr hw => ?_,
    fun hb hr => appendRec_room hb hr, fun hb => ⟨appendRec_broken hb, storeFails_failures s i sub⟩⟩
  · rw [restoreDefaults_next hq, writeRestore_taken hw]
  · rw [restoreDefaults_next hq, writeRestore_refused hw]
  · obtain ⟨hbank, hgen, hcount, hframe⟩ := compact_facts hb hg
    exact ⟨_, storeCompaction_next he, by rw [hbank, hgen], by rw [hbank]; rfl, by rw [hbank, compactedBank_valid], hcount,
      hframe⟩
  · exact (storeCompaction_next he).trans (congrArg Host.Outcome.next (if_pos hb))
  · exact ⟨_, (writeNumber_plain hi hq.2 hr).trans (storeVal_taken id hw), dnum_set w i sub v 0, rfl, rfl⟩
  · exact (writeNumber_plain hi hq.2 hr).trans (storeVal_refused hw)

end Sys2Proof.Proofs
end

section
/-! PROOFS. Fences of regions and fields, the causes by which a region leaves FENCED, the steward pair, and a region's retraining,
mark and scrub (R71, R299 to R301, R310 to R319, R327). -/

namespace Sys2Proof.Proofs

open Sys2Proof.Machine Sys2Proof.Laws

variable {s : State} {p : Nat}

/-! Fences (R313 to R315, R327, R471, R476). -/

theorem fenceComplete_next (hp : p < regionCount) (hr : rimRuns s = true) (hf : (regionOfNo s p).st = .fenced)
    (hd : (regionOfNo s p).fenceDone = false) : exec (.fenceComplete p) s = .next (settleFence (fenceNotice (mapReached
      (mapBroadcast (updRegion s p fun r => { r with fenceDone := true }))) p) p) := by
  have hc : ¬(p ≥ regionCount || !rimRuns s || (regionOfNo s p).st ≠ .fenced || (regionOfNo s p).fenceDone) = true := by
    simp [hp, hr, hf, hd]
  exact next_neg hc

/-- A fenced region that no recovery and no failover waits for leaves FENCED. -/
theorem settleFence_leaves (hf : (regionOfNo s p).st = .fenced) (hd : (regionOfNo s p).fenceDone = true)
    (h0 : s.clock.holdStep = 0) (hl : lostSlot (regionOfNo s p) = false) (hn : s.recov.lost.contains p = false)
    (hs : isSteward s p = false) : settleFence s p =
      leaveFenced (if chosenSpare s (regionOfNo s p) then chooseAgain s p (regionOfNo s p) else s) p :=
  if_neg (by rw [hf, hd, h0, hl, hn, hs]; decide)

theorem settleFence_waits (h : lostSlot (regionOfNo s p) = true ∨ s.recov.lost.contains p = true ∨ isSteward s p = true) :
    settleFence s p = s := by
  refine if_pos ?_
  obtain h | h | h := h
  · rw [h, Bool.or_true, Bool.true_or, Bool.true_or]
  · rw [h, Bool.or_true, Bool.true_or]
  · rw [h, Bool.or_true]

section
variable (hf : (regionOfNo s p).st = .fenced) (h0 : s.clock.holdStep = 0)
include hf h0

theorem leaveFenced_dead (hd : deadDue (regionOfNo s p) = true) : leaveFenced s p = markDead (dropRegion s p) p := by
  have hc : ¬((regionOfNo s p).st ≠ .fenced || s.clock.holdStep ≠ 0) = true := by simp [hf, h0]
  exact (if_neg hc).trans (if_pos hd)

theorem leaveFenced_byCause (hd : deadDue (regionOfNo s p) = false) : leaveFenced s p =
    if (regionOfNo s p).fence.cause = 0x36 then switchOffHeat s p
    else if (regionOfNo s p).fence.cause ∈ [0x33, 0x34, 0x35, 0x37] then
      updRegion (dropRegion s p) p fun r => { r with st := .unpowered, held := true }
    else startRetrain s p := by
  have hc : ¬((regionOfNo s p).st ≠ .fenced || s.clock.holdStep ≠ 0) = true := by simp [hf, h0]
  refine ((if_neg hc).trans (if_neg (by simp [hd]))).trans ?_
  simp only [List.mem_cons, List.not_mem_nil, or_false, Bool.or_eq_true, decide_eq_true_eq, or_assoc]
end

theorem fieldFence_next {f : Nat} (hf : f < 48) (hr : rimRuns s = true) (h8 : 8 ≤ (smGetD s.recov.fieldFences f []).length)
    (hn : smGet s.recov.fieldFenced f = none) : exec (.fieldFence f) s = .next (fenceField s f) :=
  congrArg Host.Outcome.next (if_pos (by simp [hf, hr, h8, hn]))

theorem voltageFault_next (hp : p < regionCount) (hs : (regionOfNo s p).stageOn = true) :
    exec (.voltageFault p) s = .next (regionFault s p 0x32 0 none 0) :=
  congrArg Host.Outcome.next (if_pos (by simp [hp, hs]))

theorem thermalComparator_next (hp : p < regionCount) (hs : (regionOfNo s p).stageOn = true) :
    exec (.thermalComparator p) s = .next (cutStage (regionFault s p 0x36 0 none 0) p) :=
  congrArg Host.Outcome.next (if_pos (by simp [hp, hs]))

/-! The steward pair (R299 to R301). -/

theorem leaveFenced_steward (s : State) (p : Nat) : (leaveFenced s p).steward = s.steward := by
  unfold leaveFenced
  dsimp only
  repeat' split
  all_goals rfl

/-- A steward region given up changes nothing of the steward's own state. -/
theorem dropSteward_steward (s : State) (p : Nat) : (dropSteward s p).steward = s.steward := by
  unfold dropSteward
  dsimp only
  split
  · rfl
  · split
    · exact leaveFenced_steward _ p
    · rfl

theorem serveIngress_steward (s : State) : (serveIngress s).steward = s.steward := rfl

theorem serveIngress_regions (s : State) : (serveIngress s).regions = s.regions := rfl

/-- The standby made primary in place of a lost one, which is given up (R301). -/
def promoteStandby (s : State) : State :=
  let b := s.steward.standby
  let u := { s with steward := { s.steward with
    primary := b, standby := 0xFFFF, failovers := (s.steward.failovers + 1) % 2 ^ 32, inbox := [], parts := []
    commits := s.steward.standbyCommits, standbyCommits := [] } }
  updRegion (dropSteward u s.steward.primary) b fun r => { r with binding := 0xFFFE }

theorem promoteStandby_steward (s : State) : (promoteStandby s).steward = { s.steward with
    primary := s.steward.standby, standby := 0xFFFF, failovers := (s.steward.failovers + 1) % 2 ^ 32, inbox := [], parts := []
    commits := s.steward.standbyCommits, standbyCommits := [] } :=
  dropSteward_steward _ _

theorem promoteStandby_binding (s : State) : (regionOfNo (promoteStandby s) s.steward.standby).binding = 0xFFFE := by
  rw [promoteStandby, regionOfNo_updRegion_same]

section
variable (he : eyepieceRuns s = true) (hr : s.steward.running = true)
include he hr

theorem stewardFailover_promotes (ha : healthyRegion (regionOfNo s s.steward.primary) = false)
    (hs : s.steward.standby ≠ 0xFFFF) (hb : healthyRegion (regionOfNo s s.steward.standby) = true) :
    exec .stewardFailover s = .next (
      logEvent (stewardBroadcast (serveIngress (promoteStandby s))) 0x0212 2 s.steward.standby 0) := by
  have hc : ¬(!eyepieceRuns s || !s.steward.running) = true := by simp [he, hr]
  have hsome : ¬(s.steward.standby = 0xFFFF || !healthyRegion (regionOfNo s s.steward.standby)) = true := by simp [hs, hb]
  exact (next_neg hc).trans (congrArg Host.Outcome.next ((if_pos (by simp [ha])).trans (if_neg hsome)))

/-- The standby is primary after the failover, and bound as such. -/
theorem stewardFailover_next (ha : healthyRegion (regionOfNo s s.steward.primary) = false)
    (hs : s.steward.standby ≠ 0xFFFF) (hb : healthyRegion (regionOfNo s s.steward.standby) = true) :
    ∃ u, exec .stewardFailover s = .next u ∧ u.steward.primary = s.steward.standby ∧ u.steward.standby = 0xFFFF ∧
      u.steward.failovers = (s.steward.failovers + 1) % 2 ^ 32 ∧ (regionOfNo u s.steward.standby).binding = 0xFFFE := by
  refine ⟨_, stewardFailover_promotes he hr ha hs hb, ?_⟩
  rw [regionOfNo, logEvent_steward, logEvent_regions, stewardBroadcast_steward, stewardBroadcast_regions,
    serveIngress_steward, serveIngress_regions, promoteStandby_steward]
  exact ⟨rfl, rfl, rfl, promoteStandby_binding s⟩

theorem stewardFailover_alone (ha : healthyRegion (regionOfNo s s.steward.primary) = false)
    (hs : s.steward.standby = 0xFFFF) : exec .stewardFailover s = .next (report s .toFault) := by
  have hc : ¬(!eyepieceRuns s || !s.steward.running) = true := by simp [he, hr]
  exact (next_neg hc).trans (congrArg Host.Outcome.next ((if_pos (by simp [ha])).trans (if_pos (by simp [hs]))))

theorem standbyPlacement_next {rest : List Nat} (ha : healthyRegion (regionOfNo s s.steward.primary) = true)
    (hs : s.steward.standby = 0xFFFF) (hl : (s.regions.filter fun e => e.2.st = .reserve && freeRegion s (mainSet s) e.1 &&
      fieldOf e.1 ≠ fieldOf s.steward.primary).map (·.1) = p :: rest) :
    exec .standbyPlacement s = .next (stewardBroadcast (bindSteward { s with steward := { s.steward with
      standby := p, standbyCommits := s.steward.commits } } p 0xFFFD)) := by
  have hc : ¬(!eyepieceRuns s || !s.steward.running || !healthyRegion (regionOfNo s s.steward.primary) ||
      !(s.steward.standby = 0xFFFF || fieldOf s.steward.standby = fieldOf s.steward.primary)) = true := by
    simp [he, hr, ha, hs]
  refine (next_neg hc).trans (congrArg Host.Outcome.next ?_)
  rw [hl]
  dsimp only
  rw [if_pos hs]
end

/-! A region retrained in service (R207, R318). -/

section
variable {q : Req}

theorem retrainRegion_allowed (h : NewWrite s q 0x2420 8 p) (hm : mayRetrain s p = true) :
    exec (.retrainRegion q p) s = .next (acked (startRetrain s p) q 2 0x2420 8 stOk) := by
  have hw : writeVolatile s q.src 0x2420 8 p none [] = accept (startRetrain s p) := if_pos hm
  exact congrArg Host.Outcome.next ((writeReq_volatile h (by decide)).trans (by rw [hw]; rfl))

theorem retrainRegion_refused (h : NewWrite s q 0x2420 8 p) (hm : mayRetrain s p = false) :
    exec (.retrainRegion q p) s = .next (acked s q 2 0x2420 8 stState) := by
  have hw : writeVolatile s q.src 0x2420 8 p none [] = refuse s stState := if_neg (by simp [hm])
  exact congrArg Host.Outcome.next ((writeReq_volatile h (by decide)).trans (by rw [hw]; rfl))

/-- The retrained region is taken in reserve, or goes UNPOWERED with its crossings as calibrated. -/
theorem regionRetrainDone_next (ok : Bool) (result : List CrossingCal) (hp : p < regionCount)
    (ht : (regionOfNo s p).st = .training) (hr : (regionOfNo s p).retraining = true) (hg : (regionOfNo s p).gated = false) :
    let w := calibrateRetrained s p result
    exec (.regionRetrainDone p ok result) s = .next (
      if ok = true ∧ sidesBad w p = false then mapBroadcast (updRegion w p fun r => { r with
        retraining := false, trainedFull := true, role := .reserve, st := if w.steward.running then .reserve else .healthy })
      else updRegion (dropRegion w p) p fun r => { r with
        st := .unpowered, trainedFull := true, crossings := (regionOfNo w p).crossings }) := by
  have hc : ¬(p ≥ regionCount || (regionOfNo s p).st ≠ .training || !(regionOfNo s p).retraining ||
      (regionOfNo s p).gated) = true := by
    simp [hp, ht, hr, hg]
  refine (next_neg hc).trans (congrArg Host.Outcome.next ?_)
  simp only [Bool.and_eq_true, Bool.not_eq_true']

/-! The DEAD mark cleared (R319), a region's scratchpads scrubbed (R71). -/

theorem clearDeadMark_permitted (h : NewWrite s q 0x2420 9 p) (hb : s.boot.perms.getLsbD 1 = true)
    (hm : s.store.deadMarks.contains p = true) :
    exec (.clearDeadMark q p) s = .next (acked (clearMark s p) q 2 0x2420 9 stOk) := by
  have hw : writeVolatile s q.src 0x2420 9 p none [] = accept (clearMark s p) :=
    (if_neg (by rw [hb]; decide)).trans (congrArg accept (if_pos hm))
  exact congrArg Host.Outcome.next ((writeReq_volatile h (by decide)).trans (by rw [hw]; rfl))

theorem clearDeadMark_locked (h : NewWrite s q 0x2420 9 p) (hb : s.boot.perms.getLsbD 1 = false) :
    exec (.clearDeadMark q p) s = .next (acked s q 2 0x2420 9 stLocked) := by
  have hw : writeVolatile s q.src 0x2420 9 p none [] = refuse s stLocked := if_pos (by rw [hb]; rfl)
  exact congrArg Host.Outcome.next ((writeReq_volatile h (by decide)).trans (by rw [hw]; rfl))

theorem objDef_scrub (hp : p < 4608) : objDef (0x4000 + p) 0x19 = some { typ := tU8, acc := .wo } := by
  have hrows : rowsHigh (0x4000 + p) = rowsHigh 0x4000 := by
    unfold rowsHigh
    rw [if_neg (by omega), if_neg (by omega), if_pos (by omega)]
    rfl
  unfold objDef
  dsimp only
  rw [if_neg (by omega), if_neg (by omega), if_neg (by omega), if_neg (by omega), if_neg (by omega), if_neg (by omega), hrows]
  rfl

theorem writeVolatile_scrub (hp : p < 4608) (s : State) (src v : Nat) (image : Option Bundle) (peers : List PeerReport) :
    writeVolatile s src (0x4000 + p) 0x19 v image peers = writeScrub s p := by
  unfold writeVolatile
  split
  case h_18 =>
    rw [if_neg (by omega), if_neg (by omega), if_neg (by omega), if_neg (by omega), if_neg (by omega), if_neg (by omega),
      if_pos (by omega), Nat.add_sub_cancel_left]
  all_goals omega

theorem writeScrub_accepts (h : (regionOfNo s p).st = .healthy ∨ (regionOfNo s p).st = .reserve) :
    writeScrub s p = accept (scrubRegion s p) := by
  unfold writeScrub
  obtain h | h := h
  · rw [h]
  · rw [h]

theorem scratchpadScrub_next (hp : p < 4608) (h : NewWrite s q (0x4000 + p) 0x19 1)
    (hs : (regionOfNo s p).st = .healthy ∨ (regionOfNo s p).st = .reserve) :
    exec (.scratchpadScrub q p) s = .next (acked (scrubRegion s p) q 2 (0x4000 + p) 0x19 stOk) := by
  have hrws : isRws (0x4000 + p) 0x19 = false := by rw [isRws, objDef_scrub hp]; rfl
  refine congrArg Host.Outcome.next ?_
  rw [member, if_pos hp, writeReq_volatile h hrws, writeVolatile_scrub hp, writeScrub_accepts hs, accept]
end

/-- Settles O41: each command by its lemma, the leaving of FENCED by what waits for the region and by its cause. -/
theorem fencesAndStewards : Obligations.FencesAndStewards := by
  intro s p f q r a
  exact ⟨fenceComplete_next, settleFence_leaves, settleFence_waits, leaveFenced_dead, leaveFenced_byCause, fieldFence_next,
    fun hp hs => ⟨voltageFault_next hp hs, thermalComparator_next hp hs⟩,
    fun he hr ha hs hb _ => stewardFailover_next he hr ha hs hb, stewardFailover_alone,
    fun _ he hr => standbyPlacement_next he hr, retrainRegion_allowed, retrainRegion_refused, regionRetrainDone_next,
    clearDeadMark_permitted, clearDeadMark_locked, scratchpadScrub_next⟩

end Sys2Proof.Proofs
end

section
/-! PROOFS. A recovery from its start to its resume: what each step does when it is due (R67, R76, R307, R310, R326 to R330,
R400). -/

namespace Sys2Proof.Proofs

open Sys2Proof.Machine Sys2Proof.Laws

variable {s : State}

/-! The start (R6, R328 to R330, R400). -/

/-- The slots of pipelines over several devices that another device recovers and that roll back here too. -/
def joiningSlots (s : State) (peers : List Nat) : List Nat :=
  peers.filter fun m => piped s m && holdsBundle (modelSlot s m) && !s.recov.scope.contains m

/-- A condition that comes before RECOVERING may be taken (R6). -/
def soonerDue (s : State) : Bool := s.dev.conditions.any fun c => c ≠ .toRecovering && c ≠ .toKeepAlive && mayTake s c

/-- The notice of a lost region, or of another device's recovery, finds the steward able to act on it. -/
structure NoticeTaken (s : State) (peers : List Nat) : Prop where
  runs : eyepieceRuns s = true
  steward : s.steward.running = true
  healthy : healthyRegion (regionOfNo s s.steward.primary) = true
  unarmed : s.recov.armed = false
  state : s.dev.st = .ready ∨ s.dev.st = .serving ∨ s.dev.st = .recovering
  cause : newlyLost s ≠ [] ∨ joiningSlots s peers ≠ []

theorem soonerDue_iff : soonerDue s = true ↔
    ∃ c ∈ s.dev.conditions, c ≠ .toRecovering ∧ c ≠ .toKeepAlive ∧ mayTake s c = true := by
  simp [soonerDue, and_assoc]

section
variable {peers : List Nat} (h : NoticeTaken s peers)
include h

theorem recoveryStart_next : exec (.recoveryStart peers) s = .next (
    if soonerDue s then decideState s
    else if s.recov.step ≠ 0 && affected s (newlyLost s) = [] && joiningSlots s peers = [] then joinSteward s (newlyLost s)
    else startRecovery s (newlyLost s) (joiningSlots s peers)) := by
  obtain ⟨he, hr, hh, ha, hst, hn⟩ := h
  have hc : ¬(!eyepieceRuns s || !s.steward.running || !healthyRegion (regionOfNo s s.steward.primary) ||
      (newlyLost s = [] && joiningSlots s peers = []) || s.recov.armed) = true := by
    simpa [he, hr, hh, ha, or_iff_not_imp_left] using hn
  refine (next_neg hc).trans (congrArg Host.Outcome.next ?_)
  obtain hst | hst | hst := hst
  all_goals rw [hst]; rfl

theorem recoveryStart_outranked (hs : soonerDue s = true) : exec (.recoveryStart peers) s = .next (decideState s) := by
  rw [recoveryStart_next h, if_pos hs]

theorem recoveryStart_starts (hs : soonerDue s = false)
    (hw : s.recov.step = 0 ∨ affected s (newlyLost s) ≠ [] ∨ joiningSlots s peers ≠ []) :
    exec (.recoveryStart peers) s = .next (startRecovery s (newlyLost s) (joiningSlots s peers)) := by
  have hc : ¬(s.recov.step ≠ 0 && affected s (newlyLost s) = [] && joiningSlots s peers = []) = true := by
    simpa [or_iff_not_imp_left] using hw
  rw [recoveryStart_next h, if_neg (by simp [hs]), if_neg hc]

theorem recoveryStart_joins (hs : soonerDue s = false) (h0 : s.recov.step ≠ 0) (ha : affected s (newlyLost s) = [])
    (hm : joiningSlots s peers = []) : exec (.recoveryStart peers) s = .next (joinSteward s (newlyLost s)) := by
  rw [recoveryStart_next h, if_neg (by simp [hs]), if_pos (by simp [h0, ha, hm])]
end

/-! Steps 4 and 5 (R310, R326, R328, R400). -/

section
variable (h : recovers s = true)
include h

theorem recoveryRollback_next {bad cuts : List (Nat × Nat)} (hb : s.recov.rolledBack = false) (ha : s.recov.armed = false) :
    let u := s.recov.scope.foldl (commonCut cuts) s
    let v := ((dropRecords u bad).tiles.map (·.1)).foldl rollbackTile (dropRecords u bad)
    let w := (v.recov.scope.flatMap (modelTiles v)).foldl joinSection v
    let x := if w.recov.restored then w.recov.scope.foldl (fun s m =>
      if restorable s m || !(u.recov.scope.filter (restorable u)).contains m then replanSlot s m else reloadSlot s m) w else w
    exec (.recoveryRollback bad cuts) s = .next { x with recov := { x.recov with rolledBack := true } } := by
  have hc : ¬(!recovers s || s.recov.rolledBack || s.recov.armed) = true := by simp [h, hb, ha]
  exact next_neg hc

theorem recoveryRebind_next (hb : s.recov.rebound = false) (ha : s.recov.armed = false) :
    exec .recoveryRebind s = .next (rebindScope s.recov.scope s) := by
  have hc : ¬(!recovers s || s.recov.rebound || s.recov.armed) = true := by simp [h, hb, ha]
  exact next_neg hc
end

theorem rebindScope_bound {m : Nat} {ms : List Nat} {u v : State} (h : rebindSlot u m = .inr v) :
    rebindScope (m :: ms) u = rebindScope ms v := by
  rw [rebindScope, h]

theorem rebindScope_failed {m c d : Nat} {ms : List Nat} {u : State} (h : rebindSlot u m = .inl (c, d)) :
    rebindScope (m :: ms) u = report (updModel u m fun x => { x with code := c, detail := d }) .toKeepAlive := by
  rw [rebindScope, h]

/-! Step 6 (R307, R328): from a source that reads. -/

/-- Step 6 is due and every slot's weights have a source. -/
structure RebuildDue (s : State) : Prop where
  runs : recovers s = true
  rebound : s.recov.rebound = true
  rebuilt : s.recov.rebuilt = false
  sources : s.recov.scope.all (hasSource s) = true

theorem recoveryWeightRebuild_due (h : RebuildDue s) (errs : List (Nat × LineErrors)) :
    exec (.recoveryWeightRebuild true errs) s =
      .next (readTiles s (s.recov.scope.flatMap (peerTiles s)) errs rebuildScope) := by
  obtain ⟨hr, hb, hn, hs⟩ := h
  have hc : ¬(!recovers s || !s.recov.rebound || s.recov.rebuilt || !true || !s.recov.scope.all (hasSource s)) = true := by
    rw [hr, hb, hn, hs]
    decide
  exact next_neg hc

theorem recoveryWeightRebuild_fails (errs : List (Nat × LineErrors)) :
    exec (.recoveryWeightRebuild false errs) s = .next s :=
  congrArg Host.Outcome.next (if_pos (by simp))

theorem lineIn_scratchpad {line : Nat} (h : line < 16384) : lineIn [(0, spadBytes)] line = true := by
  have hle : line ≤ 16383 := by omega
  simpa [lineIn, spadBytes] using hle

/-- A tile whose scratchpad holds a double-bit error is not read: SPAD_UE (R67, R76). -/
theorem readTiles_bad {t line : Nat} {ts : List Nat} {errs : List (Nat × LineErrors)} (ok : State → State) (ht : t ∈ ts)
    (hl : line < 16384) : readTiles s ts ((t, { bad := some line }) :: errs) ok =
      regionFault s (regionOfTile t) 0x20 (line * 16) (some t) 0 := by
  have hbad : (some line).filter (lineIn [(0, spadBytes)]) = some line :=
    Option.filter_eq_some_iff.mpr ⟨rfl, lineIn_scratchpad hl⟩
  rw [readTiles, if_pos (List.contains_iff_mem.mpr ht), onLines, hbad]
  rfl

/-! Step 7 (R325, R327, R328). -/

/-- Step 7 waits while a region that step 5 chose is FENCED. -/
theorem recoveryRestore_next {bad : List (Nat × Nat)} (h : recovers s = true) (hb : s.recov.rebuilt = true)
    (hn : s.recov.restored = false) :
    let waits := s.regions.any fun e => e.2.st = .fenced && chosenSpare s e.2
    exec (.recoveryRestore [] bad) s = .next (if waits then s else restoreScope (dropRecords s bad)) := by
  intro waits
  have hguard : (!recovers s || !s.recov.rebuilt || s.recov.restored || waits) = waits := by
    rw [h, hb, hn]
    rfl
  exact congrArg Host.Outcome.next (congrArg (fun c : Bool => if c then s else restoreScope (dropRecords s bad)) hguard)

/-- The end of the forced votes changes no tile and no memory. -/
theorem restoreScope_facts (s : State) : let v := settleMoves s []
    (restoreScope s).recov.restored = true ∧ (restoreScope s).tiles = (v.recov.scope.foldl restoreSlot v).tiles ∧
      (restoreScope s).mem = (v.recov.scope.foldl restoreSlot v).mem :=
  ⟨rfl, foldl_keep State.tiles (fun u p => updRegion_tiles u p _) _ _,
    foldl_keep State.mem (fun u p => updRegion_mem u p _) _ _⟩

/-! Step 8 (R328). -/

/-- Actions handed to regions leave everything but the regions. -/
theorem handOut_frame (s : State) (n : Nat) (ps : List Nat) : (handOut s n ps).sig = s.sig ∧
    (handOut s n ps).tiles = s.tiles ∧ (handOut s n ps).mem = s.mem :=
  ⟨foldl_keep State.sig (fun u p => updRegion_sig u p _) _ s, foldl_keep State.tiles (fun u p => updRegion_tiles u p _) _ s,
    foldl_keep State.mem (fun u p => updRegion_mem u p _) _ s⟩

/-- A slot's action distributed keeps its time; no tile and no memory changes with it (R287). -/
theorem giveAction_frame (s : State) (n : Nat) (ps : List Nat) :
    (timedSlot (giveAction s n ps) n).armT = (timedSlot s n).armT ∧
      (giveAction s n ps).tiles = s.tiles ∧ (giveAction s n ps).mem = s.mem := by
  obtain ⟨hsig, htiles, hmem⟩ := handOut_frame s n ps
  obtain ⟨f, k, e⟩ := eyepieceBroadcast_shape (handOut s n ps)
  have hslot : timedSlot (eyepieceBroadcast (handOut s n ps)) n = timedSlot s n := by
    rw [e, timedSlot, hsig]
    rfl
  rw [giveAction_eq, timedSlot_updTimed]
  refine ⟨?_, ?_, ?_⟩
  · rw [hslot]
  · rw [e]
    exact htiles
  · rw [e]
    exact hmem

theorem armInternal_facts (s : State) (n t op : Nat) (ps : List Nat) :
    (timedSlot (armInternal s n t op ps) n).armT = t ∧ (timedSlot (armInternal s n t op ps) n).status = 2 ∧
      (armInternal s n t op ps).tiles = s.tiles ∧ (armInternal s n t op ps).mem = s.mem := by
  let u := updTimed s n fun _ => { t := t, op := op, armT := t, armOp := op, status := 1 }
  obtain ⟨hstatus, -, -⟩ := giveAction_facts u n ps 0
  obtain ⟨ht, htiles, hmem⟩ := giveAction_frame u n ps
  rw [timedSlot_updTimed] at ht
  exact ⟨ht, hstatus, htiles, hmem⟩

theorem recoveryArmResume_next (h : recovers s = true) (hb : s.recov.rolledBack = true) (hr : s.recov.restored = true)
    (ha : s.recov.armed = false) : ∃ u, exec .recoveryArmResume s = .next u ∧ u.recov.armed = true ∧ u.recov.step = 8 ∧
      (timedSlot u 257).armT = s.time.tb + leadTicks s ∧ (timedSlot u 257).status = 2 ∧ u.tiles = s.tiles ∧ u.mem = s.mem := by
  have hc : ¬(!recovers s || !s.recov.rolledBack || !s.recov.restored || s.recov.armed) = true := by simp [h, hb, hr, ha]
  exact ⟨_, next_neg hc, rfl, rfl, armInternal_facts s _ _ _ _⟩

/-- Settles O42: each step by the lemma of its command, in the order of R328. -/
theorem recoverySteps : Obligations.RecoverySteps := by
  intro s peers bad cuts errs ps ms on may sooner step6
  have hmay : may → NoticeTaken s peers := fun ⟨he, hr, hh, ha, hst, hn⟩ => ⟨he, hr, hh, ha, hst, hn⟩
  have hlate : ¬sooner → soonerDue s = false := fun hn => Bool.eq_false_iff.mpr fun hs => hn (soonerDue_iff.mp hs)
  have hdue : step6 → RebuildDue s := fun ⟨hr, hb, hn, hs⟩ => ⟨hr, hb, hn, hs⟩
  exact ⟨fun h hn => recoveryStart_starts (hmay h) (hlate hn), fun h hn => recoveryStart_joins (hmay h) (hlate hn),
    fun h hs => recoveryStart_outranked (hmay h) (soonerDue_iff.mpr hs), fun h => recoveryRollback_next h, recoveryRebind_next,
    fun _ => rfl, fun _ _ _ _ => rebindScope_bound, fun _ _ _ _ _ => rebindScope_failed,
    fun h => recoveryWeightRebuild_due (hdue h) [],
    fun _ _ h ht hl => (recoveryWeightRebuild_due (hdue h) _).trans (congrArg Host.Outcome.next (readTiles_bad _ ht hl)),
    recoveryWeightRebuild_fails errs, recoveryRestore_next, restoreScope_facts s, recoveryArmResume_next⟩

end Sys2Proof.Proofs
end

section
/-! PROOFS. Link frames and control blocks in both directions, trunks (R339, R343, R345, R346, R347, R352). -/

namespace Sys2Proof.Proofs

open Sys2Proof.Machine Sys2Proof.Laws

variable {s : State} {p : Nat}

/-! A port after an update. -/

@[simp] theorem portOf_updPortCtr (f : PortCounters → PortCounters) :
    portOf (updPortCtr s p f) p = { portOf s p with ctr := f (portOf s p).ctr } := portOf_updPort_same s p _

/-- An update of a port is what it makes of that port. -/
theorem updPort_congr {f g : Port → Port} (h : f (portOf s p) = g (portOf s p)) : updPort s p f = updPort s p g := by
  rw [updPort, updPort, smUpd, smUpd]
  exact congrArg (fun x => { s with fabric := { s.fabric with ports := smSet s.fabric.ports p x } }) h

theorem inService_congr {t : State} (h : (portOf t p).st = (portOf s p).st) : inService t p = inService s p := by
  rw [inService, inService, h]

/-- Port `p` of a running rim is in service. -/
structure PortServes (s : State) (p : Nat) : Prop where
  runs : rimRuns s = true
  port : p < 32
  serves : inService s p = true

/-! Frames out (R345, R346). -/

theorem PortServes.ready (h : PortServes s p) : ¬(!rimRuns s || p ≥ 32 || !inService s p) = true := by
  obtain ⟨hr, hp, hs⟩ := h
  simp [hr, hp, hs]

theorem frameTx_resends {f : LinkFrame} {rest : List LinkFrame} (h : PortServes s p)
    (hx : (portOf s p).resend = f :: rest) : exec (.frameTx p) s =
      .next (emit (updPort s p fun x => { x with resend := rest }) (.frame p (frameOctets f))) := by
  refine (next_neg h.ready).trans (congrArg Host.Outcome.next ?_)
  rw [hx]

theorem frameTx_new (h : PortServes s p) (hx : (portOf s p).resend = []) (hn : (portOf s p).replay.length < 2048) :
    exec (.frameTx p) s =
      .next (if personality s p = 1 then sendLink s p else if personality s p = 2 then sendStream s p else s) := by
  refine (next_neg h.ready).trans (congrArg Host.Outcome.next ?_)
  rw [hx]
  exact if_neg (Nat.not_le.mpr hn)

theorem sendFrame_out (f : LinkFrame) :
    (sendFrame s p f).out = s.out ++ [.frame p (frameOctets { f with seq := (portOf s p).txSeq })] := rfl

/-- A frame sent is numbered and kept for replay (R346). -/
theorem portOf_sendFrame (f : LinkFrame) : (portOf (sendFrame s p f) p).txSeq = ((portOf s p).txSeq + 1) % 4096 ∧
    (portOf (sendFrame s p f) p).replay = (portOf s p).replay ++ [{ f with seq := (portOf s p).txSeq }] := by
  unfold sendFrame
  rw [portOf_emit, portOf_updPortCtr, portOf_updPort_same]
  exact ⟨rfl, rfl⟩

/-- A trunk whose window is shut numbers no new frame (R352). -/
theorem sendLink_shut (ha : (portOf s p).again = []) (hn : 1 < trunkSize s p) (hw : windowOpen s (trunkBase s p) = false) :
    sendLink s p = s := by
  rw [sendLink, ha]
  exact if_pos (by simp [hn, hw])

/-! Frames in (R346). -/

/-- What the codewords of a frame have shown is counted (R376). -/
def countCodewords (s : State) (p fixed lost : Nat) : State :=
  updPortCtr s p fun c => { c with fec := c.fec + fixed, badCodewords := (c.badCodewords + lost) % 2 ^ 32 }

/-- A frame in order is taken and counted (R346, R376). -/
def passFrame (s : State) (p : Nat) (f : LinkFrame) : State :=
  updPortCtr (updPort s p fun x => { x with rxSeq := (x.rxSeq + 1) % 4096, nakOut := false, sinceAck := x.sinceAck + 1 }) p
    fun c => { c with framesRx := c.framesRx + 1, bytesRx := c.bytesRx + frameBytes f }

theorem portOf_countCodewords (fixed lost : Nat) : ∃ c, portOf (countCodewords s p fixed lost) p =
    { portOf s p with ctr := c } := ⟨_, portOf_updPortCtr _⟩

theorem sinceAck_passFrame (f : LinkFrame) : (portOf (passFrame s p f) p).sinceAck = (portOf s p).sinceAck + 1 := by
  rw [passFrame, portOf_updPortCtr, portOf_updPort_same]

/-- A frame is refused as damaged, refused out of order unless a NAK is out, or accepted, the 64th with an ACK (R346). -/
theorem frameRx_next {f : LinkFrame} {crc fixed lost : Nat} (h : PortServes s p) (hq : personality s p ≠ 3) :
    let counted := countCodewords s p fixed lost
    let passed := passFrame counted p f
    exec (.frameRx p f crc fixed lost) s = .next (
      if lost ≠ 0 || frameCrc f ≠ crc then sendNak counted p
      else if f.seq ≠ (portOf s p).rxSeq then (if (portOf s p).nakOut then counted else sendNak counted p)
      else acceptFrame (if 64 ≤ (portOf s p).sinceAck + 1 then sendAck passed p else passed) p f) := by
  intro counted passed
  obtain ⟨hr, hp, hs⟩ := h
  obtain ⟨c, hc⟩ := portOf_countCodewords (s := s) (p := p) fixed lost
  have hseq : (portOf (countCodewords s p fixed lost) p).rxSeq = (portOf s p).rxSeq := by rw [hc]
  have hnak : (portOf (countCodewords s p fixed lost) p).nakOut = (portOf s p).nakOut := by rw [hc]
  have hack : (portOf (passFrame (countCodewords s p fixed lost) p f) p).sinceAck = (portOf s p).sinceAck + 1 := by
    rw [sinceAck_passFrame, hc]
  rw [← hseq, ← hnak, ← hack]
  exact next_neg (by simp [hr, hp, hs, hq])

section
variable {f : LinkFrame} {crc fixed lost : Nat} (h : PortServes s p) (hq : personality s p ≠ 3)
include h hq

theorem frameRx_inOrder (hl : lost = 0) (hc : crc = frameCrc f) (hs : f.seq = (portOf s p).rxSeq) :
    let passed := passFrame (countCodewords s p fixed lost) p f
    exec (.frameRx p f crc fixed lost) s =
      .next (acceptFrame (if 63 ≤ (portOf s p).sinceAck then sendAck passed p else passed) p f) := by
  have hfull : 64 ≤ (portOf s p).sinceAck + 1 ↔ 63 ≤ (portOf s p).sinceAck := Nat.add_le_add_iff_right (n := 1)
  rw [frameRx_next h hq, if_neg (by simp [hl, hc]), if_neg (not_not.mpr hs), if_congr hfull rfl rfl]

theorem frameRx_damaged (hb : lost ≠ 0 ∨ crc ≠ frameCrc f) :
    exec (.frameRx p f crc fixed lost) s = .next (sendNak (countCodewords s p fixed lost) p) := by
  rw [frameRx_next h hq, if_pos (by simpa using hb.imp_right Ne.symm)]

theorem frameRx_outOfOrder (hl : lost = 0) (hc : crc = frameCrc f) (hs : f.seq ≠ (portOf s p).rxSeq) :
    let counted := countCodewords s p fixed lost
    exec (.frameRx p f crc fixed lost) s = .next (if (portOf s p).nakOut then counted else sendNak counted p) := by
  rw [frameRx_next h hq, if_neg (by simp [hl, hc]), if_pos hs]
end

/-! Control blocks in (R343, R346, R347). -/

/-- A good control block of a kind arrives at a port that carries blocks. -/
structure BlockIn (s : State) (p : Nat) (block : List Byte) (kind : Nat) : Prop where
  carries : carriesBlocks s p = true
  good : blockGood block = true
  kind : fld block 0 1 = kind

theorem onBlock_bad {kind : Nat} {b : List Byte} {f : State → State} (hk : kind ≠ 7) (hc : carriesBlocks s p = true)
    (hb : blockGood b = false) :
    onBlock s p kind b f = updPortCtr s p fun c => { c with badBlocks := (c.badBlocks + 1) % 2 ^ 32 } := by
  rw [onBlock, if_neg hk, if_neg (by simp [hc]), if_pos (by simp [hb])]

theorem carriesBlocks_st (h : carriesBlocks s p = true) : 2 ≤ (portOf s p).st := by
  simp only [carriesBlocks, Bool.and_eq_true, decide_eq_true_eq] at h
  obtain ⟨⟨-, hst⟩, -⟩ := h
  exact hst

/-- A port that carries blocks hears TRAIN blocks. -/
theorem carriesBlocks_hears (h : carriesBlocks s p = true) : hearsTrain s p = true := by
  simp only [carriesBlocks, hearsTrain, Bool.and_eq_true, decide_eq_true_eq] at h ⊢
  obtain ⟨⟨hport, hst⟩, hle⟩ := h
  exact ⟨⟨hport, by omega⟩, hle⟩

section
variable {block : List Byte}

theorem BlockIn.taken {kind : Nat} {f : State → State} (h : BlockIn s p block kind) : onBlock s p kind block f = f s := by
  obtain ⟨hc, hg, hk⟩ := h
  by_cases h7 : kind = 7
  · rw [onBlock, if_pos h7, if_neg (by simp [carriesBlocks_hears hc]), if_neg (by simp [hg]), if_pos hk]
  · exact onBlock_taken h7 hc hg hk

theorem ackBlockRx_next {i : Nat} (h : BlockIn s p block 2)
    (hi : ((portOf s p).replay.findIdx? fun f => f.seq = fld block 1 2 % 4096) = some i) :
    exec (.ackBlockRx p block) s = .next (updPort s p fun y => { y with
      replay := (portOf s p).replay.drop (i + 1)
      resend := y.resend.filter fun f => !((portOf s p).replay.take (i + 1)).contains f
      refused := none, refusals := 0 }) := by
  refine congrArg Host.Outcome.next (h.taken.trans ?_)
  dsimp only
  rw [hi]

/-- The frame that a NAK names is refused once more (R346). -/
def refuseFrame (s : State) (p n : Nat) : State :=
  let x := portOf s p
  updPort (updPortCtr s p fun c => { c with naks := (c.naks + 1) % 2 ^ 32 }) p fun y => { y with
    resend := y.replay.dropWhile fun f => f.seq ≠ n
    refusals := if x.refused = some n then x.refusals + 1 else 1, refused := some n }

theorem portOf_refuseFrame (n : Nat) : (portOf (refuseFrame s p n) p).st = (portOf s p).st ∧
    (portOf (refuseFrame s p n) p).refusals =
      if (portOf s p).refused = some n then (portOf s p).refusals + 1 else 1 := by
  rw [refuseFrame, portOf_updPort_same, portOf_updPortCtr]
  exact ⟨rfl, rfl⟩

theorem nakBlockRx_next (h : BlockIn s p block 3) :
    let x := portOf s p
    let n := fld block 1 2 % 4096
    let again := if x.refused = some n then x.refusals + 1 else 1
    exec (.nakBlockRx p block) s = .next (if 8 ≤ again ∧ inService s p = true then retrainPort (refuseFrame s p n) p
      else refuseFrame s p n) := by
  intro x n again
  let counted := updPortCtr s p fun c => { c with naks := (c.naks + 1) % 2 ^ 32 }
  let resent := updPort counted p fun x => { x with
    resend := x.replay.dropWhile fun f => f.seq ≠ n
    refusals := if x.refused = some n then x.refusals + 1 else 1, refused := some n }
  have hresent : resent = refuseFrame s p n := updPort_congr (by rw [portOf_updPortCtr])
  obtain ⟨hst, hrefusals⟩ := portOf_refuseFrame (s := s) (p := p) n
  have hcond : ((portOf resent p).refusals ≥ 8 && inService resent p) = true ↔ 8 ≤ again ∧ inService s p = true := by
    rw [hresent, hrefusals, inService_congr hst, Bool.and_eq_true, decide_eq_true_eq]
  exact congrArg Host.Outcome.next (h.taken.trans ((if_congr hcond rfl rfl).trans
    (congrArg (fun u => if 8 ≤ again ∧ inService s p = true then retrainPort u p else u) hresent)))

theorem creditBlockRx_next (h : BlockIn s p block 4) : ∃ u, exec (.creditBlockRx p block) s = .next u ∧
    (portOf u p).freedByPartner = (List.range 6).map (fun v => fld block (1 + 2 * v) 2) ∧
    (portOf u p).replay = (portOf s p).replay ∧ u.out = s.out := by
  refine ⟨_, congrArg Host.Outcome.next h.taken, ?_, ?_, rfl⟩
  · rw [portOf_updPort_same]
  · rw [portOf_updPort_same]

/-- What a TRAIN block says of the partner is noted (R343, R352). -/
def noteTrain (s : State) (p : Nat) (block : List Byte) : State :=
  let ready := fld block 8 3 ≠ 0 && fld block 11 3 ≠ 0
  updPort s p fun x => { x with
    heard := some (partnerOf block), partnerReady := ready
    joinAt := if ready && x.joinAt = some 65536 then some (nextJoin s p) else x.joinAt }

theorem portOf_noteTrain (block : List Byte) : ∃ j, portOf (noteTrain s p block) p = { portOf s p with
    heard := some (partnerOf block), partnerReady := fld block 8 3 ≠ 0 && fld block 11 3 ≠ 0, joinAt := j } :=
  ⟨_, portOf_updPort_same s p _⟩

/-- What a port says of itself does not depend on what it has heard. -/
theorem trainBlock_noteTrain : trainBlock (noteTrain s p block) p = trainBlock s p := by
  obtain ⟨j, hx⟩ := portOf_noteTrain (s := s) (p := p) block
  have hs : inService (noteTrain s p block) p = inService s p := inService_congr (by rw [hx])
  rw [trainBlock, trainBlock, hs, hx]
  rfl

/-- A port past DOWN notes what a TRAIN block says, and in training answers the first. -/
theorem trainBlockRx_next (h : BlockIn s p block 7) : exec (.trainBlockRx p block) s =
    .next (if (portOf s p).st = 2 ∧ (portOf s p).heard = none then
      emit (noteTrain s p block) (.block p (trainBlock s p)) else noteTrain s p block) := by
  obtain ⟨j, hx⟩ := portOf_noteTrain (s := s) (p := p) block
  have hst : 2 ≤ (portOf (noteTrain s p block) p).st := by
    rw [hx]
    exact carriesBlocks_st h.carries
  have hceased : ¬causeCeased (noteTrain s p block) p = true := fun hc => by
    obtain ⟨-, hdown⟩ := causeCeased_down hc
    omega
  refine congrArg Host.Outcome.next (h.taken.trans (if_congr (by simp) ?_ (if_neg hceased)))
  exact congrArg (fun b => emit (noteTrain s p block) (.block p b)) trainBlock_noteTrain

theorem trainBlockRx_facts (h : BlockIn s p block 7) : ∃ u, exec (.trainBlockRx p block) s = .next u ∧
    (portOf u p).heard = some (partnerOf block) ∧
    (portOf u p).partnerReady = (fld block 8 3 ≠ 0 && fld block 11 3 ≠ 0) ∧
    (portOf u p).replay = (portOf s p).replay ∧ (portOf u p).partner = (portOf s p).partner ∧
    u.out = s.out ++ (if (portOf s p).st = 2 ∧ (portOf s p).heard = none then [.block p (trainBlock s p)] else []) := by
  obtain ⟨j, hx⟩ := portOf_noteTrain (s := s) (p := p) block
  refine ⟨_, trainBlockRx_next h, ?_⟩
  split
  · rw [portOf_emit, hx]
    exact ⟨rfl, rfl, rfl, rfl, rfl⟩
  · rw [hx]
    exact ⟨rfl, rfl, rfl, rfl, (List.append_nil _).symm⟩
end

/-! ACK and CREDIT out (R346, R347). -/

theorem linkAckTimer_next (h : PortServes s p) (ha : 0 < (portOf s p).sinceAck) :
    exec (.linkAckTimer p) s = .next (sendAck s p) := by
  obtain ⟨hr, hp, hs⟩ := h
  exact congrArg Host.Outcome.next (if_pos (by simp [hr, hp, hs, ha]))

theorem linkCreditTimer_next (h : PortServes s p) (hq : personality s p ≠ 3)
    (hf : (portOf s p).freed ≠ (portOf s p).freedTold) : exec (.linkCreditTimer p) s =
      .next (emit (updPort s p fun x => { x with freedTold := (portOf s p).freed })
        (.block p (controlBlock 4 ((portOf s p).freed.flatMap (natLe 2))))) := by
  obtain ⟨hr, hp, hs⟩ := h
  exact congrArg Host.Outcome.next (if_pos (by simp [hr, hp, hs, hq, hf]))

/-! A lost member (R352). -/

/-- How far a frame's TSEQ is past the oldest that its trunk may still wait for (R352). -/
def tseqAge (s : State) (b : Nat) (f : LinkFrame) : Nat :=
  (f.tseq + 65536 - ((portOf s b).tseqTx + 32768) % 65536) % 65536

/-- The lost member's link starts anew; its frames join those that the lowest member sends again. -/
theorem trunkMemberDown_next {m : Nat} (hr : rimRuns s = true) (hp : p < 32) (h1 : personality s p = 1)
    (hn : 1 < trunkSize s p) (hs : inService s p = false)
    (hm : (trunkMembers s (trunkBase s p)).find? (inService s) = some m) : exec (.trunkMemberDown p) s =
      .next (updPort (updPort s p fun x => { freshSeqs x with again := [] }) m fun y => { y with
        again := (y.again ++ (portOf s p).again ++ (portOf s p).replay).mergeSort fun f g =>
          tseqAge s (trunkBase s p) f ≤ tseqAge s (trunkBase s p) g }) := by
  refine congrArg Host.Outcome.next ?_
  dsimp only
  rw [hm]
  exact if_pos (by simp [hr, hp, h1, hn, hs])

theorem trunkMemberDown_facts {m : Nat} (hr : rimRuns s = true) (hp : p < 32) (h1 : personality s p = 1)
    (hn : 1 < trunkSize s p) (hs : inService s p = false)
    (hm : (trunkMembers s (trunkBase s p)).find? (inService s) = some m) (hne : m ≠ p) :
    ∃ u, exec (.trunkMemberDown p) s = .next u ∧ (portOf u p).replay = [] ∧ (portOf u p).again = [] ∧
      (portOf u p).txSeq = 0 ∧ List.Perm (portOf u m).again ((portOf s m).again ++ (portOf s p).again ++ (portOf s p).replay) ∧
      u.out = s.out := by
  refine ⟨_, trunkMemberDown_next hr hp h1 hn hs hm, ?_⟩
  rw [portOf_updPort_ne _ _ hne.symm, portOf_updPort_same, portOf_updPort_same, portOf_updPort_ne _ _ hne]
  exact ⟨rfl, rfl, rfl, List.mergeSort_perm _ _, rfl⟩

/-- Settles O50: each clause by the lemma of its command, a frame received by what its check finds. -/
theorem linkFramesAndBlocks : Obligations.LinkFramesAndBlocks := by
  intro s p fixed lost crc i f rest block x on counted taken passed good n again resent
  have hon : on → PortServes s p := fun ⟨hr, hp, hs⟩ => ⟨hr, hp, hs⟩
  have hgood {kind : Nat} : good kind → BlockIn s p block kind := fun ⟨hc, hg, hk⟩ => ⟨hc, hg, hk⟩
  refine ⟨fun h => frameTx_resends (hon h), fun h hx hn h1 => ?_, fun h hx hn h2 => ?_, ?_, fun h hq hc hs ha hl => ?_,
    fun h hq hl hc hs ha => ?_, fun h => frameRx_damaged (hon h), fun h => frameRx_outOfOrder (hon h),
    fun h => congrArg Host.Outcome.next (hgood h).taken, fun h => congrArg Host.Outcome.next (hgood h).taken,
    fun hc hb => congrArg Host.Outcome.next (onBlock_bad (by decide) hc hb), fun h => ackBlockRx_next (hgood h),
    fun h => nakBlockRx_next (hgood h), fun h => creditBlockRx_next (hgood h), fun h => trainBlockRx_facts (hgood h),
    fun h => linkAckTimer_next (hon h), fun h => linkCreditTimer_next (hon h),
    fun m hr hp h1 hn hs _ => trunkMemberDown_facts hr hp h1 hn hs, sendLink_shut⟩
  · rw [frameTx_new (hon h) hx hn, if_pos h1]
  · rw [frameTx_new (hon h) hx hn, if_neg (by simp [h2]), if_pos h2]
  · exact ⟨sendFrame_out f, portOf_sendFrame f⟩
  · rw [frameRx_inOrder (hon h) hq hl hc hs, if_neg (Nat.not_le.mpr ha)]
    rfl
  · rw [frameRx_inOrder (hon h) hq hl hc hs, if_pos ha]
    rfl

end Sys2Proof.Proofs
end

section
/-! PROOFS. The route table and the answers of companion boxes (R354, R355, R364 to R368). -/

namespace Sys2Proof.Proofs

open Sys2Proof.Machine Sys2Proof.Laws

variable {s : State}

/-! The route table written and applied (R354, R355). -/

/-- An entry that may be stored has no reserved encoding. -/
theorem routeEntryOk_reserved {e : Nat} (h : routeEntryOk s e = true) : bits e 7 2 = 0 ∧ rtPolicy e ≤ 1 := by
  simp only [routeEntryOk, Bool.and_eq_true, decide_eq_true_eq] at h
  obtain ⟨⟨⟨⟨⟨⟨hres, hpol⟩, -⟩, -⟩, -⟩, -⟩, -⟩ := h
  exact ⟨hres, hpol⟩

/-- The stored table with the entry that a source has selected set to `e`; an entry of 0 is not listed (R354). -/
def routesWith (s : State) (src e : Nat) : SMap Nat :=
  (smSet s.fabric.routes (selection s src 0x1031 1) e).filter fun x => x.2 ≠ 0

section
variable {w : State} {e : Nat} (ho : routeEntryOk s e = true)
include ho

theorem writeRoute_taken {src : Nat}
    (h : appendRec s (recordOf (objKey 0x1031 5) s.store.seq (.bytes (routeBytes (routesWith s src e)))) = (w, true)) :
    writeRoute s src e = ({ w with
      dict := { w.dict with
        vals := smSet w.dict.vals (objKey 0x1031 5) (.bytes (routeBytes (routesWith s src e))) }
      fabric := { w.fabric with routes := routesWith s src e } }, stOk) := by
  obtain ⟨hres, hpol⟩ := routeEntryOk_reserved ho
  rw [writeRoute, if_neg (by simp [hres, hpol]), if_neg (by simp [ho])]
  exact storeVal_taken _ h

theorem routeEntryWrite_next {q : Req} (hw : NewWrite s q 0x1031 2 e)
    (h : appendRec s (recordOf (objKey 0x1031 5) s.store.seq (.bytes (routeBytes (routesWith s q.src e)))) = (w, true)) :
    ∃ v, exec (.routeEntryWrite q e) s = .next (acked v q 2 0x1031 2 stOk) ∧
      v.fabric = { w.fabric with routes := routesWith s q.src e } ∧ v.mem = w.mem ∧ v.tiles = w.tiles := by
  have hstored : writeStored s q.src 0x1031 2 e = writeRoute s q.src e := if_pos ⟨rfl, rfl⟩
  have hreq := writeReq_stored hw (by decide)
  rw [hstored, writeRoute_taken ho h] at hreq
  exact ⟨_, congrArg Host.Outcome.next hreq, rfl, rfl, rfl⟩
end

theorem routeTableApply_next {q : Req} (hw : NewWrite s q 0x1031 3 1) :
    exec (.routeTableApply q) s = .next (acked (applyRoutes s) q 2 0x1031 3 stOk) :=
  congrArg Host.Outcome.next (writeReq_volatile hw (by decide))

/-! A companion's answer (R365 to R368). -/

/-- The first stream frame received leaves the receive buffer (R347). -/
def popStream (s : State) (p : Nat) (g : LinkFrame) (rest : List LinkFrame) : State :=
  leaveBuffer (updPort s p fun x => { x with csIn := rest }) p g.vc g.nblk

theorem popStream_tags (p : Nat) (g : LinkFrame) (rest : List LinkFrame) :
    (portOf (popStream s p g rest) p).tags = (portOf s p).tags := by
  rw [popStream, leaveBuffer, portOf_updPort_same, portOf_updPort_same]

theorem countCs_ok {p : Nat} {c : CsFrame} (h : c.status = 0) : countCs s p c = s := if_pos h

theorem countCs_tags (p : Nat) (c : CsFrame) : (portOf (countCs s p c) p).tags = (portOf s p).tags := by
  unfold countCs
  split
  · rfl
  · rw [portOf_updPortCtr]

/-- The answer `c` with operation `op` stands first at port `p` of a running rim, in frame `g`, the frames `rest` after it. -/
structure Answers (s : State) (p op : Nat) (g : LinkFrame) (rest : List LinkFrame) (c : CsFrame) : Prop where
  first : (portOf s p).csIn = g :: rest
  body : g.body = .stream c
  runs : rimRuns s = true
  port : p < 32
  op : c.op = op

section
variable {p op : Nat} {g : LinkFrame} {rest : List LinkFrame} {c : CsFrame}

theorem Answers.taken {f : State → CsFrame → State} (h : Answers s p op g rest c) :
    onStream s p op f = f (popStream s p g rest) c := by
  obtain ⟨hx, hb, hr, hp, ho⟩ := h
  unfold onStream
  rw [hx]
  dsimp only
  rw [hb]
  exact if_pos (by simp [hr, hp, ho])

/-- The answer's tag is that of request `q`. -/
def Asked (s : State) (p : Nat) (c : CsFrame) (q : CsReq) : Prop := smGet (portOf s p).tags c.tag = some q

theorem Asked.taken {q : CsReq} (h : Asked s p c q) :
    smGet (portOf (countCs (popStream s p g rest) p c) p).tags c.tag = some q := by
  rw [countCs_tags, popStream_tags]
  exact h

/-! Data (R366, R368). -/

theorem csRdata_packet {k : Packet} (h : Answers s p 0x81 g rest c) (ht : Asked s p c (.packet k)) (h0 : c.status = 0)
    (hl : c.last = true) :
    let v := endTag (popStream s p g rest) p c.tag
    let base := ((compPlace v (saComp (pkAddr k))).map (·.2.2)).getD c.boxOff
    exec (.csRdata p) s = .next (bridgeSend v p (mkPacket .data (if bit (fld k.payload 0xB 1) 0 then 3 else 1) 4 k.pri k.srcDev
      k.srcLtile v.fabric.devId 0x7FFFF (natLe 4 (fld k.payload 0xC 4 + (c.boxOff - base)) ++ natLe 2 c.data.length
        ++ natLe 1 (pkTxid k) ++ List.replicate 9 0 ++ c.data))) := by
  refine congrArg Host.Outcome.next (h.taken.trans ?_)
  dsimp only
  rw [ht.taken]
  dsimp only
  rw [if_neg (not_not.mpr h0), if_pos (by simp [hl]), countCs_ok h0]

theorem csRdata_stream {d : List (Nat × Nat × Nat × Nat)} (h : Answers s p 0x81 g rest c) (ht : Asked s p c (.stream d))
    (h0 : c.status = 0) (hl : c.last = false) :
    exec (.csRdata p) s = .next (streamData (popStream s p g rest) p d c) := by
  refine congrArg Host.Outcome.next (h.taken.trans ?_)
  dsimp only
  rw [ht.taken]
  dsimp only
  rw [if_pos h0, if_neg (by simp [h0, hl]), countCs_ok h0]

theorem csRdata_error {k : Packet} (h : Answers s p 0x81 g rest c) (ht : Asked s p c (.packet k)) (h0 : c.status ≠ 0) :
    exec (.csRdata p) s =
      .next (csNak (endTag (countCs (popStream s p g rest) p c) p c.tag) p k c.status) := by
  refine congrArg Host.Outcome.next (h.taken.trans ?_)
  dsimp only
  rw [ht.taken]
  dsimp only
  rw [if_pos h0, if_pos (by simp [h0])]

/-! Acknowledgements (R366, R367). -/

/-- A write's answer frees its tag; an error gets NAK, a writer that wants it an acknowledgement. -/
theorem csWack_next {k : Packet} (h : Answers s p 0x82 g rest c) (ht : Asked s p c (.packet k)) :
    let v := endTag (countCs (popStream s p g rest) p c) p c.tag
    exec (.csWack p) s = .next (if c.status ≠ 0 then csNak v p k c.status
      else if bit (fld k.payload 0xB 1) 0 then v
      else bridgeSend v p (mkPacket .data 1 5 k.pri k.srcDev k.srcLtile v.fabric.devId 0x7FFFF
        (natLe 1 (pkTxid k) ++ List.replicate 15 0))) := by
  refine congrArg Host.Outcome.next (h.taken.trans ?_)
  dsimp only
  rw [ht.taken]

theorem csCack_next {n : Nat} (h : Answers s p 0x84 g rest c) (ht : Asked s p c (.commit n)) : exec (.csCack p) s =
    .next (updModel (endTag (countCs (popStream s p g rest) p c) p c.tag) n fun x => { x with
      cmtWait := x.cmtWait.filter (· ≠ p), logFail := x.logFail || decide (c.status ≠ 0) }) := by
  refine congrArg Host.Outcome.next (h.taken.trans ?_)
  dsimp only
  rw [ht.taken]

theorem csInfor_next (h : Answers s p 0x85 g rest c) (ht : Asked s p c .info) (h0 : c.status = 0) : exec (.csInfor p) s =
    .next (updPort (endTag (popStream s p g rest) p c.tag) p fun x => { x with
      boxInfo := some (fld c.data 0 8, fld c.data 8 1) }) := by
  refine congrArg Host.Outcome.next (h.taken.trans ?_)
  dsimp only
  rw [ht.taken]
  dsimp only
  rw [if_pos h0, countCs_ok h0]
end

/-- Settles O51: an entry by the store's record, each answer by what its tag asked for and its status. -/
theorem routesAndCompanions : Obligations.RoutesAndCompanions := by
  intro s p e q c g rest k m u takes
  have hans {op : Nat} : takes op → Answers s p op g rest c := fun ⟨hx, hb, hr, hp, ho⟩ => ⟨hx, hb, hr, hp, ho⟩
  refine ⟨fun w hw ho => routeEntryWrite_next ho hw, routeTableApply_next,
    fun h h0 hl ht => csRdata_packet (hans h) ht h0 hl, fun d h h0 hl ht => csRdata_stream (hans h) ht h0 hl,
    fun h h0 ht => csRdata_error (hans h) ht h0, fun h h0 ht hw => ?_, fun h h0 ht hw => ?_, fun h h0 ht => ?_,
    fun n h => csCack_next (hans h), fun h h0 ht => csInfor_next (hans h) ht h0⟩
  · rw [csWack_next (hans h) ht, if_neg (not_not.mpr h0), if_neg (by simp [hw]), countCs_ok h0]
    rfl
  · rw [csWack_next (hans h) ht, if_neg (not_not.mpr h0), if_pos hw, countCs_ok h0]
    rfl
  · rw [csWack_next (hans h) ht, if_pos h0]
    rfl

end Sys2Proof.Proofs
end

section
/-! PROOFS. Ethernet interfaces: frames by what the MAC accepts, gateways, datagrams in and out (R371 to R374, R376, R490). -/

namespace Sys2Proof.Proofs

open Sys2Proof.Machine Sys2Proof.Laws

variable {s : State} {p i : Nat}

/-! Frames sent (R376). -/

theorem portOf_ethSend (bytes : Nat) (x : Out) : portOf (ethSend s p bytes x) p = { portOf s p with
    ctr := { (portOf s p).ctr with
      framesTx := (portOf s p).ctr.framesTx + 1, bytesTx := (portOf s p).ctr.bytesTx + max 46 bytes } } := by
  rw [ethSend, portOf_emit, portOf_updPortCtr]

/-- Between two states only ports and output differ. -/
def PortsOnly (s t : State) : Prop := t = { s with out := t.out, fabric := { s.fabric with ports := t.fabric.ports } }

theorem PortsOnly.trans {t u : State} (h : PortsOnly s t) (k : PortsOnly t u) : PortsOnly s u := by
  refine Eq.trans k ?_
  rw [h]

/-- A frame sent where a condition asks for it. -/
theorem ethSend_if {c : Prop} [Decidable c] (bytes : Nat) (x : Out) :
    let u := if c then ethSend s p bytes x else s
    u.out = s.out ++ (if c then [x] else []) ∧
      (portOf u p).ctr.framesTx = (portOf s p).ctr.framesTx + b2n (decide c) ∧ PortsOnly s u := by
  intro u
  by_cases hc : c
  · have hu : u = ethSend s p bytes x := if_pos hc
    rw [hu, if_pos hc, portOf_ethSend, decide_eq_true hc]
    exact ⟨rfl, rfl, rfl⟩
  · have hu : u = s := if_neg hc
    rw [hu, if_neg hc, decide_eq_false hc]
    exact ⟨(List.append_nil _).symm, rfl, rfl⟩

/-! Frames received (R371, R372). -/

theorem ethGood_iff {h : EthHead} : ethGood s p i h = true ↔
    (h.fcsGood = true ∧ 64 ≤ h.size ∧ h.size ≤ 9216 ∧ h.vlan = ifVlan (ifaceRec s p i)) := by
  simp [ethGood, and_assoc]

/-- A frame that the MAC accepts is counted, with the bytes behind its Ethernet header (R376). -/
def countFrame (s : State) (p : Nat) (h : EthHead) : State :=
  updPortCtr s p fun c => { c with
    framesRx := c.framesRx + 1, bytesRx := c.bytesRx + (h.size - 18 - if h.vlan = 0 then 0 else 4) }

/-- Interface `i` of Ethernet port `p` works on a running rim. -/
structure IfaceWorks (s : State) (p i : Nat) : Prop where
  runs : rimRuns s = true
  port : p < 32
  up : ifaceUp s p i = true

/-- A frame that interface `i` accepts. -/
structure FrameIn (s : State) (p i : Nat) (h : EthHead) : Prop where
  works : IfaceWorks s p i
  good : ethGood s p i h = true

section
variable {f : State → State} {h : EthHead}

theorem IfaceWorks.taken (hi : IfaceWorks s p i) : onIface s p i f = f s := by
  obtain ⟨hr, hp, hu⟩ := hi
  exact if_pos (by simp [hr, hp, hu])

theorem IfaceWorks.refused (hi : IfaceWorks s p i) (hg : ethGood s p i h = false) :
    onFrame s p i h f = ethDiscard s p := hi.taken.trans (if_neg (by simp [hg]))

theorem FrameIn.taken (hf : FrameIn s p i h) : onFrame s p i h f = f (countFrame s p h) :=
  hf.works.taken.trans (if_pos hf.good)
end

/-- No frame is handled that the interface does not accept (R371, R372). -/
theorem frames_refused {h : EthHead} (hi : IfaceWorks s p i) (hg : ethGood s p i h = false) (mac ip n : Nat)
    (data : List Byte) (g : Datagram) : exec (.arpRequest p i h mac ip n) s = .next (ethDiscard s p) ∧
      exec (.neighbourSolicitation p i h mac ip n) s = .next (ethDiscard s p) ∧
      exec (.icmpEchoRequest p i h false mac ip n data) s = .next (ethDiscard s p) ∧
      exec (.udpDatagramRx p i h g) s = .next (ethDiscard s p) ∧
      exec (.gatewayResolutionReply p i h false ip mac) s = .next (ethDiscard s p) := by
  have hd (f : State → State) : (.next (onFrame s p i h f) : Res) = .next (ethDiscard s p) :=
    congrArg Host.Outcome.next (hi.refused hg)
  exact ⟨hd _, hd _, hd _, hd _, hd _⟩

/-! Requests for the interface's own address (R372). -/

/-- The address of an interface in one of the two protocols. -/
def ifaceIp (s : State) (p i : Nat) (v6 : Bool) : Nat := if v6 then ifIp6 (ifaceRec s p i) else ifIp4 (ifaceRec s p i)

/-- The gateway of an interface in one of the two protocols. -/
def ifaceGw (s : State) (p i : Nat) (v6 : Bool) : Nat := if v6 then ifGw6 (ifaceRec s p i) else ifGw4 (ifaceRec s p i)

section
variable {h : EthHead} {mac ip n : Nat} (hf : FrameIn s p i h)
include hf

theorem arpRequest_next : exec (.arpRequest p i h mac ip n) s = .next (
    if n = ifIp4 (ifaceRec s p i) && ifIp4 (ifaceRec s p i) ≠ 0 then
      ethSend (countFrame s p h) p 28 (.ethernet p i (ifVlan (ifaceRec s p i)) mac frArpReply
        (natBe 6 (ifaceMac p i) ++ natBe 4 (ifIp4 (ifaceRec s p i)) ++ natBe 6 mac ++ natBe 4 ip))
    else ethDiscard (countFrame s p h) p) := congrArg Host.Outcome.next hf.taken

theorem neighbourSolicitation_next : exec (.neighbourSolicitation p i h mac ip n) s = .next (
    if n = ifIp6 (ifaceRec s p i) && ifIp6 (ifaceRec s p i) ≠ 0 then
      ethSend (countFrame s p h) p 72 (.ethernet p i (ifVlan (ifaceRec s p i)) mac frAdvert
        (natBe 16 (ifIp6 (ifaceRec s p i)) ++ natBe 6 (ifaceMac p i) ++ natBe 16 ip))
    else ethDiscard (countFrame s p h) p) := congrArg Host.Outcome.next hf.taken

theorem icmpEchoRequest_next {v6 : Bool} {data : List Byte} : exec (.icmpEchoRequest p i h v6 mac ip n data) s = .next (
    if n = ifaceIp s p i v6 && ifaceIp s p i v6 ≠ 0 && data.length ≤ 1500 then
      ethSend (countFrame s p h) p (ipHead v6 + 8 + data.length) (.ethernet p i (ifVlan (ifaceRec s p i)) mac frEcho
        (natBe (if v6 then 16 else 4) (ifaceIp s p i v6) ++ natBe (if v6 then 16 else 4) ip ++ data))
    else ethDiscard (countFrame s p h) p) := congrArg Host.Outcome.next hf.taken

theorem icmpEchoRequest_answered {v6 : Bool} {data : List Byte} (h0 : ifaceIp s p i v6 ≠ 0) (hd : data.length ≤ 1500) :
    exec (.icmpEchoRequest p i h v6 mac ip (ifaceIp s p i v6) data) s =
      .next (ethSend (countFrame s p h) p (ipHead v6 + 8 + data.length) (.ethernet p i (ifVlan (ifaceRec s p i)) mac frEcho
        (natBe (if v6 then 16 else 4) (ifaceIp s p i v6) ++ natBe (if v6 then 16 else 4) ip ++ data))) := by
  rw [icmpEchoRequest_next hf, if_pos (by simp [h0, hd])]

theorem gatewayResolutionReply_next {v6 : Bool} : exec (.gatewayResolutionReply p i h v6 n mac) s = .next (
    if n = ifaceGw s p i v6 && ifaceGw s p i v6 ≠ 0 then
      updPort (countFrame s p h) p fun x => { x with gateways := smSet x.gateways (2 * i + b2n v6) mac }
    else ethDiscard (countFrame s p h) p) := congrArg Host.Outcome.next hf.taken

theorem gatewayResolutionReply_taken {v6 : Bool} (h0 : ifaceGw s p i v6 ≠ 0) :
    exec (.gatewayResolutionReply p i h v6 (ifaceGw s p i v6) mac) s = .next (updPort (countFrame s p h) p fun x =>
      { x with gateways := smSet x.gateways (2 * i + b2n v6) mac }) := by
  rw [gatewayResolutionReply_next hf, if_pos (by simp [h0])]
end

/-! Requests for the gateways (R372). -/

/-- The ARP request for the IPv4 gateway of an interface's record, where one is set. -/
def askGw4 (s : State) (p i : Nat) (r : List Byte) : State :=
  if ifGw4 r ≠ 0 then ethSend s p 28 (.ethernet p i (ifVlan r) 0xFFFFFFFFFFFF frArpAsk
    (natBe 6 (ifaceMac p i) ++ natBe 4 (ifIp4 r) ++ natBe 4 (ifGw4 r))) else s

/-- The neighbour solicitation for the IPv6 gateway of an interface's record, where one is set. -/
def askGw6 (s : State) (p i : Nat) (r : List Byte) : State :=
  if ifGw6 r ≠ 0 then ethSend s p 72 (.ethernet p i (ifVlan r) (0x3333FF000000 + ifGw6 r % 2 ^ 24) frSolicit
    (natBe 16 (ifIp6 r) ++ natBe 16 (ifGw6 r) ++ natBe 6 (ifaceMac p i))) else s

theorem gatewayResolve_next (hi : IfaceWorks s p i) :
    let r := ifaceRec s p i
    exec (.gatewayResolve p i) s = .next (askGw6 (askGw4 s p i r) p i r) :=
  congrArg Host.Outcome.next hi.taken

theorem gatewayResolve_facts (hi : IfaceWorks s p i) :
    let r := ifaceRec s p i
    let own := natBe 6 (ifaceMac p i)
    ∃ u, exec (.gatewayResolve p i) s = .next u ∧ u.out = s.out
      ++ (if ifGw4 r ≠ 0 then [.ethernet p i (ifVlan r) 0xFFFFFFFFFFFF frArpAsk
        (own ++ natBe 4 (ifIp4 r) ++ natBe 4 (ifGw4 r))] else [])
      ++ (if ifGw6 r ≠ 0 then [.ethernet p i (ifVlan r) (0x3333FF000000 + ifGw6 r % 2 ^ 24) frSolicit
        (natBe 16 (ifIp6 r) ++ natBe 16 (ifGw6 r) ++ own)] else []) ∧
      (portOf u p).ctr.framesTx = (portOf s p).ctr.framesTx + b2n (decide (ifGw4 r ≠ 0)) + b2n (decide (ifGw6 r ≠ 0)) ∧
      PortsOnly s u := by
  intro r own
  obtain ⟨hout4, htx4, hports4⟩ := ethSend_if (s := s) (p := p) (c := ifGw4 r ≠ 0) 28
    (.ethernet p i (ifVlan r) 0xFFFFFFFFFFFF frArpAsk (own ++ natBe 4 (ifIp4 r) ++ natBe 4 (ifGw4 r)))
  obtain ⟨hout6, htx6, hports6⟩ := ethSend_if (s := askGw4 s p i r) (p := p) (c := ifGw6 r ≠ 0) 72
    (.ethernet p i (ifVlan r) (0x3333FF000000 + ifGw6 r % 2 ^ 24) frSolicit
      (natBe 16 (ifIp6 r) ++ natBe 16 (ifGw6 r) ++ own))
  exact ⟨_, gatewayResolve_next hi, hout6.trans (congrArg (· ++ _) hout4), htx6.trans (congrArg (· + _) htx4),
    hports4.trans hports6⟩

/-! Datagrams in (R372, R373). -/

/-- A datagram accepted takes its interface's next number; what was kept under that number goes. -/
def numberDatagram (s : State) (p i : Nat) : State :=
  let n := smGetD (portOf s p).datagrams i 0
  updPort s p fun x => { x with
    datagrams := smSet x.datagrams i (n + 1)
    forwarded := x.forwarded.filter fun e => !(e.1 = i && e.2.1 = n % 65536) }

/-- A datagram's segments wait for the mesh. -/
def forwardDatagram (s : State) (p i n : Nat) (g : Datagram) : State :=
  updPort s p fun x => { x with
    toMesh := x.toMesh ++ ingressSegments s p i (n % 65536) g
    forwarded := x.forwarded ++ [(i, n % 65536, false)] }

theorem ingressSegments_congr {t : State} {n : Nat} {g : Datagram} (htb : t.time.tb = s.time.tb)
    (hdev : t.fabric.devId = s.fabric.devId) (hdict : t.dict = s.dict) (htag : (portOf t p).ingressTag = (portOf s p).ingressTag)
    (hto : (portOf t p).ingress = (portOf s p).ingress) : ingressSegments t p i n g = ingressSegments s p i n g := by
  have hid : egressId t p = egressId s p := by simp only [egressId, cfg, dnum, hdict]
  rw [ingressSegments, ingressSegments, htb, hdev, htag, hto, hid]

section
variable {h : EthHead} {g : Datagram}

theorem datagramOk_countFrame : datagramOk (countFrame s p h) p i g = datagramOk s p i g := by
  have hport : (portOf (countFrame s p h) p).udpPort = (portOf s p).udpPort := by rw [countFrame, portOf_updPortCtr]
  rw [datagramOk, datagramOk, hport]
  rfl

theorem portOf_numberDatagram : ∃ l c, c.ingressDrops = (portOf s p).ctr.ingressDrops ∧
    portOf (numberDatagram (countFrame s p h) p i) p = { portOf s p with
      datagrams := smSet (portOf s p).datagrams i (smGetD (portOf s p).datagrams i 0 + 1), forwarded := l, ctr := c } := by
  rw [numberDatagram, portOf_updPort_same, countFrame, portOf_updPortCtr]
  refine ⟨_, _, ?_, rfl⟩
  rfl

variable (hf : FrameIn s p i h)
include hf

theorem udpDatagramRx_refused (hd : datagramOk s p i g = false) :
    exec (.udpDatagramRx p i h g) s = .next (ethDiscard (countFrame s p h) p) :=
  congrArg Host.Outcome.next (hf.taken.trans (if_pos (by simp [datagramOk_countFrame, hd])))

/-- An accepted datagram is forwarded to the tile that takes ingress, dropped where none does. -/
theorem udpDatagramRx_numbered (hd : datagramOk s p i g = true) :
    let u := numberDatagram (countFrame s p h) p i
    exec (.udpDatagramRx p i h g) s = .next (if (portOf s p).ingress = 0x7FFFF then ingressDrop u p
      else forwardDatagram u p i (smGetD (portOf s p).datagrams i 0) g) := by
  obtain ⟨l, c, -, hu⟩ := portOf_numberDatagram (s := s) (p := p) (i := i) (h := h)
  have hto : (portOf (numberDatagram (countFrame s p h) p i) p).ingress = (portOf s p).ingress := by rw [hu]
  have hn : smGetD (portOf (countFrame s p h) p).datagrams i 0 = smGetD (portOf s p).datagrams i 0 := by
    rw [countFrame, portOf_updPortCtr]
  rw [← hto, ← hn]
  exact congrArg Host.Outcome.next (hf.taken.trans (if_neg (by simp [datagramOk_countFrame, hd])))

theorem udpDatagramRx_forwarded (hd : datagramOk s p i g = true) (ht : (portOf s p).ingress ≠ 0x7FFFF) :
    ∃ u, exec (.udpDatagramRx p i h g) s = .next u ∧ (portOf u p).toMesh = (portOf s p).toMesh ++
        ingressSegments s p i (smGetD (portOf s p).datagrams i 0 % 65536) g ∧
      smGetD (portOf u p).datagrams i 0 = smGetD (portOf s p).datagrams i 0 + 1 ∧ u.out = s.out := by
  obtain ⟨l, c, -, hu⟩ := portOf_numberDatagram (s := s) (p := p) (i := i) (h := h)
  have hsegs : ∀ n, ingressSegments (numberDatagram (countFrame s p h) p i) p i n g = ingressSegments s p i n g :=
    fun n => ingressSegments_congr rfl rfl rfl (by rw [hu]) (by rw [hu])
  refine ⟨_, (udpDatagramRx_numbered hf hd).trans (congrArg Host.Outcome.next (if_neg ht)), ?_⟩
  rw [forwardDatagram, portOf_updPort_same, hsegs, hu]
  exact ⟨rfl, by simp [smGetD], rfl⟩

theorem udpDatagramRx_dropped (hd : datagramOk s p i g = true) (ht : (portOf s p).ingress = 0x7FFFF) :
    ∃ u, exec (.udpDatagramRx p i h g) s = .next u ∧ (portOf u p).toMesh = (portOf s p).toMesh ∧
      (portOf u p).ctr.ingressDrops = ((portOf s p).ctr.ingressDrops + 1) % 2 ^ 32 ∧ u.out = s.out := by
  obtain ⟨l, c, hc, hu⟩ := portOf_numberDatagram (s := s) (p := p) (i := i) (h := h)
  refine ⟨_, (udpDatagramRx_numbered hf hd).trans (congrArg Host.Outcome.next (if_pos ht)), ?_⟩
  rw [ingressDrop, portOf_updPortCtr, hu, ← hc]
  exact ⟨rfl, rfl, rfl⟩
end

/-! Messages at an Ethernet port (R374). -/

section
variable (hr : rimRuns s = true) (hp : p < 32)
include hr hp

/-- The first message at the port is taken from its queue, and handled by its kind. -/
theorem egressSegment_next {k : Packet} {rest : List Packet} (hk : (portOf s p).egress = k :: rest) :
    let u := updPort s p fun x => { x with egress := rest }
    exec (.egressSegment p) s = .next (if k.kind = 1 then egressMessage u p k else if k.kind = 6 then ingressNak u p k
      else if nakKind k.kind then egressNak u p k 6 else countDiscard u (regionOfTile (injTile u p 0))) := by
  refine (next_neg (by simp [hr, hp])).trans (congrArg Host.Outcome.next ?_)
  rw [hk]

theorem egressReassemblyTimeout_next {n : Nat} (hn : n < (portOf s p).partials.length) :
    exec (.egressReassemblyTimeout p n) s =
      .next (updPortCtr (updPort s p fun x => { x with partials := x.partials.eraseIdx n }) p fun c =>
        { c with egressDrops := (c.egressDrops + 1) % 2 ^ 32 }) :=
  congrArg Host.Outcome.next (if_pos (by simp [hr, hp, hn]))
end

/-- Settles O52: a frame by whether its interface accepts it, each other clause by its command's lemma. -/
theorem ethernetInterfaces : Obligations.EthernetInterfaces := by
  intro s p i mac ip n h g data k rest runs up vlan r own seen got
  have hworks : runs → IfaceWorks s p i := fun ⟨hr, hp, hu⟩ => ⟨hr, hp, hu⟩
  have hin : up → FrameIn s p i h := fun ⟨hr, hg⟩ => ⟨hworks hr, hg⟩
  refine ⟨fun hu h0 => ?_, fun hu hn => ?_, fun hu h0 => ?_, fun hu h0 hd => ?_,
    fun hu h0 hd => icmpEchoRequest_answered (v6 := true) (hin hu) h0 hd, fun hu hd => ?_,
    fun hr => congrArg Host.Outcome.next (hworks hr).taken, fun hr => gatewayResolve_facts (hworks hr), fun bytes x => ?_,
    fun hu h0 => gatewayResolutionReply_taken (v6 := false) (hin hu) h0,
    fun hu h0 => gatewayResolutionReply_taken (v6 := true) (hin hu) h0, fun hu => udpDatagramRx_refused (hin hu),
    fun hu => udpDatagramRx_forwarded (hin hu), fun hu => udpDatagramRx_dropped (hin hu),
    fun hr hg => frames_refused (hworks hr) hg mac ip n data g, ethGood_iff, fun hr hp hk h1 => ?_, fun hr hp hk h6 => ?_,
    fun hr hp hn => egressReassemblyTimeout_next hr hp hn⟩
  · rw [arpRequest_next (hin hu), if_pos (by simpa [r] using h0)]
    rfl
  · rw [arpRequest_next (hin hu), if_neg (by simp [r, hn])]
    rfl
  · rw [neighbourSolicitation_next (hin hu), if_pos (by simpa [r] using h0)]
    rfl
  · exact icmpEchoRequest_answered (v6 := false) (hin hu) h0 hd
  · rw [icmpEchoRequest_next (hin hu), if_neg (by simp [hd])]
    rfl
  · rw [portOf_ethSend]
    exact ⟨rfl, rfl⟩
  · rw [egressSegment_next hr hp hk, if_pos h1]
  · rw [egressSegment_next hr hp hk, if_neg (by simp [h6]), if_pos h6]

end Sys2Proof.Proofs
end

section
/-! PROOFS. Commands of the model slots, the end of a load and the copies of bundles in flash (R383, R384, R458). -/

namespace Sys2Proof.Proofs

open Sys2Proof.Machine Sys2Proof.Laws

variable {s : State} {m : Nat} {g : Bundle} {image : Option Bundle} {peers : List PeerReport}

/-! A command written to 0x2700 + m.02 (R384, R409). -/

/-- `writeReq_volatile` for a write that also carries what the slot's source holds and what the peers report. -/
theorem onWrite_volatile {q : Req} {i sub v : Nat} (h : NewWrite s q i sub v) (hr : isRws i sub = false) :
    onWrite s q 2 i sub (fun s => writeNumber s q.src i sub v image peers) =
      acked (writeVolatile s q.src i sub v image peers).1 q 2 i sub (writeVolatile s q.src i sub v image peers).2 := by
  obtain ⟨hnew, hok⟩ := h
  have hnum : writeNumber s q.src i sub v image peers = writeVolatile s q.src i sub v image peers := by
    rw [writeNumber, hok, if_neg (by decide), hr]
    rfl
  rw [onWrite_new hnew, hnum]

section
variable {q : Req} {u : State} {n : Nat} (hm : m < 8)
include hm

theorem isRws_slotCommand : isRws (0x2700 + m) 2 = false := by
  have hall : ∀ m < 8, isRws (0x2700 + m) 2 = false := by decide
  exact hall m hm

theorem writeVolatile_slotCommand (s : State) (src v : Nat) (image : Option Bundle) (peers : List PeerReport) :
    writeVolatile s src (0x2700 + m) 2 v image peers = slotCommand s m v image peers := by
  unfold writeVolatile
  split
  case h_18 =>
    rw [if_neg (by omega), if_neg (by omega), if_neg (by omega), if_neg (by omega), if_pos (by omega),
      Nat.add_sub_cancel_left]
  all_goals omega

/-- A slot's command is answered with what its table gives (R384). -/
theorem onWrite_slotCommand {v : Nat} (hw : NewWrite s q (0x2700 + m) 2 v) (h : slotCommand s m v image peers = (u, n)) :
    onWrite s q 2 (member 0x2700 8 m) 2 (fun s => writeNumber s q.src (member 0x2700 8 m) 2 v image peers) =
      acked u q 2 (0x2700 + m) 2 n := by
  rw [member, if_pos hm, onWrite_volatile hw (isRws_slotCommand hm), writeVolatile_slotCommand hm, h]

theorem slotLoad_next (hw : NewWrite s q (0x2700 + m) 2 1) (h : slotCommand s m 1 image [] = (u, n)) :
    exec (.slotLoad q m image) s = .next (acked u q 2 (0x2700 + m) 2 n) :=
  congrArg Host.Outcome.next (onWrite_slotCommand hm hw h)

theorem slotServe_next (hw : NewWrite s q (0x2700 + m) 2 2) (h : slotCommand s m 2 none peers = (u, n)) :
    exec (.slotServe q m peers) s = .next (acked u q 2 (0x2700 + m) 2 n) :=
  congrArg Host.Outcome.next (onWrite_slotCommand hm hw h)

theorem slotStop_next (hw : NewWrite s q (0x2700 + m) 2 3) (h : slotCommand s m 3 none [] = (u, n)) :
    exec (.slotStop q m) s = .next (acked u q 2 (0x2700 + m) 2 n) :=
  congrArg Host.Outcome.next (onWrite_slotCommand hm hw h)

theorem slotUnload_next (hw : NewWrite s q (0x2700 + m) 2 4) (h : slotCommand s m 4 none [] = (u, n)) :
    exec (.slotUnload q m) s = .next (acked u q 2 (0x2700 + m) 2 n) :=
  congrArg Host.Outcome.next (onWrite_slotCommand hm hw h)
end

/-! What each command does in each state of its slot (R384, R400). -/

theorem slotCommand_unavailable (v : Nat) (hc : slotCommands s = false) :
    slotCommand s m v image peers = (s, stState) := if_pos (by simp [hc])

section
variable (hc : slotCommands s = true) (hr : s.steward.running = true)
include hc hr

theorem slotCommand_load : slotCommand s m 1 image peers =
    if (modelSlot s m).st = 0 then (startLoad s m image, stOk) else (s, stState) := if_neg (by simp [hc, hr])

theorem slotCommand_serve : slotCommand s m 2 image peers =
    if mayServe s m peers then (serveSlot s m, stOk) else (s, stState) := if_neg (by simp [hc, hr])

theorem slotCommand_stop : slotCommand s m 3 image peers =
    if (modelSlot s m).st = 3 then (stopSlot s m, stOk) else (s, stState) := if_neg (by simp [hc, hr])

theorem slotCommand_unload : slotCommand s m 4 image peers =
    if (modelSlot s m).st = 2 || (modelSlot s m).st = 4 then (unloadSlot s m, stOk) else (s, stState) :=
  if_neg (by simp [hc, hr])
end

/-! The end of a load (R383, R400, R451). -/

/-- A load whose regions are bound and whose image is at hand (R383). -/
structure LoadBound (s : State) (m : Nat) (g : Bundle) : Prop where
  commands : slotCommands s = true
  steward : s.steward.running = true
  loading : (modelSlot s m).st = 1
  bound : (modelSlot s m).bindEpoch ≠ 0
  bundle : (modelSlot s m).bundle = some g
  source : (modelSlot s m).loadSrc ≠ none ∨ (modelSlot s m).arrived = true

/-- What the end of such a load does: steps 4 and 5 of R383, then the serve of an autoload (R451). -/
theorem slotLoadDone_next (h : LoadBound s m g) (readOk : Bool) : exec (.slotLoadDone m readOk peers) s =
    .next (if !readOk || !g.extents.all (extentGood g) then failLoad s m 5 0
      else if (modelSlot s m).autoServe && mayServe (finishLoad s m g) m peers then serveSlot (finishLoad s m g) m
      else finishLoad s m g) := by
  obtain ⟨hc, hr, hst, hb, hg, hsrc⟩ := h
  have hsource : ((modelSlot s m).loadSrc.isNone && !(modelSlot s m).arrived) = false := by
    obtain hl | ha := hsrc
    · simp [hl]
    · simp [ha]
  refine (next_neg (by simp [hc, hr, hst, hb, hsource])).trans (congrArg Host.Outcome.next ?_)
  rw [hg]

theorem slotLoadDone_loaded (h : LoadBound s m g) (hx : g.extents.all (extentGood g) = true)
    (ha : (modelSlot s m).autoServe = false) : exec (.slotLoadDone m true peers) s = .next (finishLoad s m g) :=
  (slotLoadDone_next h true).trans ((next_neg (by simp [hx])).trans (next_neg (by simp [ha])))

theorem slotLoadDone_autoload (h : LoadBound s m g) (hx : g.extents.all (extentGood g) = true)
    (ha : (modelSlot s m).autoServe = true) : exec (.slotLoadDone m true peers) s =
      .next (if mayServe (finishLoad s m g) m peers then serveSlot (finishLoad s m g) m else finishLoad s m g) := by
  refine (slotLoadDone_next h true).trans ((next_neg (by simp [hx])).trans ?_)
  rw [ha, Bool.true_and]

theorem slotLoadDone_failed {readOk : Bool} (h : LoadBound s m g)
    (hx : readOk = false ∨ g.extents.all (extentGood g) = false) :
    exec (.slotLoadDone m readOk peers) s = .next (failLoad s m 5 0) := by
  have hfails : (!readOk || !g.extents.all (extentGood g)) = true := by
    obtain rfl | hx := hx
    · rfl
    · simp [hx]
  exact (slotLoadDone_next h readOk).trans (congrArg Host.Outcome.next (if_pos hfails))

theorem modelSlot_finishLoad : (modelSlot (finishLoad s m g) m).st = 2 := by
  rw [finishLoad, modelSlot_updModel_same]

/-- A slot whose load fails keeps the failure's status and nothing else. -/
theorem modelSlot_failLoad (code detail : Nat) :
    modelSlot (failLoad s m code detail) m = { code := code, detail := detail } := modelSlot_updModel_same _ _ _

/-! Copies of bundles in flash (R458). -/

/-- What a copy keeps: the bundle at its offset, unless that is signed and fails its check (R458). -/
def copyKept (s : State) (f : Nat) (window : List (Nat × Bundle)) : Option Bundle :=
  (window.find? fun e => e.1 = s.boot.copyOff.getD f 0).bind fun e =>
    if bit (bhFlags e.2.header) 0 && !signatureGood s e.2 then none else some e.2

section
variable {f off : Nat} {window : List (Nat × Bundle)} (hf : f < 2)
include hf

theorem isRws_bundleCopy : isRws (0x2360 + f) 2 = false := by
  have hall : ∀ f < 2, isRws (0x2360 + f) 2 = false := by decide
  exact hall f hf

theorem writeVolatile_bundleCopy (s : State) (src v : Nat) (image : Option Bundle) (peers : List PeerReport) :
    writeVolatile s src (0x2360 + f) 2 v image peers = startCopy s f v := by
  unfold writeVolatile
  split
  case h_18 => rw [if_neg (by omega), if_pos (by omega), Nat.add_sub_cancel_left]
  all_goals omega

theorem bundleFlashCopy_started {q : Req} (hw : NewWrite s q (0x2360 + f) 2 off) (h1 : s.boot.copyState[f]? ≠ some 1) :
    exec (.bundleFlashCopy q f off) s = .next (acked { s with boot := { s.boot with
      flashBundle := s.boot.flashBundle.set f none, copyState := s.boot.copyState.set f 1
      copyOff := s.boot.copyOff.set f off } } q 2 (0x2360 + f) 2 stOk) := by
  have hidle : s.boot.copyState.getD f 0 ≠ 1 := by
    simpa [List.getD_eq_getElem?_getD, Option.getD_eq_iff] using h1
  refine congrArg Host.Outcome.next ?_
  rw [member, if_pos hf, writeReq_volatile hw (isRws_bundleCopy hf), writeVolatile_bundleCopy hf, startCopy, if_neg hidle]
  rfl

/-- A copy under way ends with the bundle it keeps, idle, or with none, failed (0x2360 + f.03). -/
theorem bundleFlashCopyDone_next (he : eyepieceRuns s = true) (h1 : s.boot.copyState[f]? = some 1) :
    exec (.bundleFlashCopyDone f window) s = .next { s with boot := { s.boot with
      flashBundle := s.boot.flashBundle.set f (copyKept s f window)
      copyState := s.boot.copyState.set f (if (copyKept s f window).isSome then 0 else 2) } } := by
  have hcopying : s.boot.copyState.getD f 0 = 1 := by rw [List.getD_eq_getElem?_getD, h1, Option.getD_some]
  refine (next_neg (by simp [he, hf, hcopying, -List.getD_eq_getElem?_getD])).trans (congrArg Host.Outcome.next ?_)
  unfold copyKept
  cases window.find? fun e => e.1 = s.boot.copyOff.getD f 0 <;> rfl

theorem bundleFlashCopyDone_kept (he : eyepieceRuns s = true) (h1 : s.boot.copyState[f]? = some 1) {n : Nat}
    (hfound : (window.find? fun e => e.1 = s.boot.copyOff.getD f 0) = some (n, g))
    (hsig : bit (bhFlags g.header) 0 = true → signatureGood s g = true) :
    exec (.bundleFlashCopyDone f window) s = .next { s with boot := { s.boot with
      flashBundle := s.boot.flashBundle.set f (some g), copyState := s.boot.copyState.set f 0 } } := by
  have hkept : copyKept s f window = some g := by
    rw [copyKept, hfound, Option.bind_some, if_neg (by simpa using hsig)]
  rw [bundleFlashCopyDone_next hf he h1, hkept]
  rfl

theorem bundleFlashCopyDone_failed (he : eyepieceRuns s = true) (h1 : s.boot.copyState[f]? = some 1) {n : Nat}
    (hlost : (window.find? fun e => e.1 = s.boot.copyOff.getD f 0) = none ∨
      ((window.find? fun e => e.1 = s.boot.copyOff.getD f 0) = some (n, g) ∧ bit (bhFlags g.header) 0 = true ∧
        signatureGood s g = false)) :
    exec (.bundleFlashCopyDone f window) s = .next { s with boot := { s.boot with
      flashBundle := s.boot.flashBundle.set f none, copyState := s.boot.copyState.set f 2 } } := by
  have hkept : copyKept s f window = none := by
    obtain hnone | ⟨hfound, hsigned, hbad⟩ := hlost
    · rw [copyKept, hnone, Option.bind_none]
    · rw [copyKept, hfound, Option.bind_some, if_pos (by simp [hsigned, hbad])]
  rw [bundleFlashCopyDone_next hf he h1, hkept]
  rfl
end

/-- Settles O54: each command by its slot's state, the end of a load by its read and its extents, a copy by what it keeps. -/
theorem modelSlotCommands : Obligations.ModelSlotCommands := by
  intro s m f off q image g window peers i x on loads copying found
  have hbound : loads → LoadBound s m g := fun ⟨hc, hr, hst, hb, hg, hsrc⟩ => ⟨hc, hr, hst, hb, hg, hsrc⟩
  exact ⟨fun ⟨hm, hw, hc, hr⟩ h0 => slotLoad_next hm hw ((slotCommand_load hc hr).trans (if_pos h0)),
    fun ⟨hm, hw, hc, hr⟩ h0 => slotLoad_next hm hw ((slotCommand_load hc hr).trans (if_neg h0)),
    fun ⟨hm, hw, hc, hr⟩ hs => slotServe_next hm hw ((slotCommand_serve hc hr).trans (if_pos hs)),
    fun ⟨hm, hw, hc, hr⟩ hs => slotServe_next hm hw ((slotCommand_serve hc hr).trans (if_neg (by simp [hs]))),
    fun ⟨hm, hw, hc, hr⟩ h3 => slotStop_next hm hw ((slotCommand_stop hc hr).trans (if_pos h3)),
    fun ⟨hm, hw, hc, hr⟩ h => slotUnload_next hm hw ((slotCommand_unload hc hr).trans (if_pos (by simpa using h))),
    fun ⟨hm, hw, hc, hr⟩ h3 => slotStop_next hm hw ((slotCommand_stop hc hr).trans (if_neg h3)),
    fun ⟨hm, hw, hc, hr⟩ h2 h4 =>
      slotUnload_next hm hw ((slotCommand_unload hc hr).trans (if_neg (by simpa using ⟨h2, h4⟩))),
    fun hm hc => ⟨fun hw => slotLoad_next hm hw (slotCommand_unavailable 1 hc),
      fun hw => slotServe_next hm hw (slotCommand_unavailable 2 hc),
      fun hw => slotStop_next hm hw (slotCommand_unavailable 3 hc),
      fun hw => slotUnload_next hm hw (slotCommand_unavailable 4 hc)⟩,
    fun hl => slotLoadDone_loaded (hbound hl), fun hl => slotLoadDone_autoload (hbound hl),
    fun hl => slotLoadDone_failed (hbound hl) (.inl rfl), fun hl hx => slotLoadDone_failed (hbound hl) (.inr hx),
    ⟨modelSlot_finishLoad, congrArg ModelSlot.st (modelSlot_failLoad 5 0),
      congrArg ModelSlot.code (modelSlot_failLoad 5 0)⟩,
    fun hf hw h1 _ => bundleFlashCopy_started hf hw h1,
    fun ⟨hf, he, h1⟩ => bundleFlashCopyDone_kept hf he h1, fun ⟨hf, he, h1⟩ => bundleFlashCopyDone_failed hf he h1⟩

end Sys2Proof.Proofs
end

section
/-! PROOFS. Requests of the object dictionary: retries, reads, writes and sessions (R404, R407 to R409, R412, R414 to R417). -/

namespace Sys2Proof.Proofs

open Sys2Proof.Machine Sys2Proof.Laws

variable {s : State} {q : Req} {i sub : Nat}

/-! What is done with a request before its content (R404, R408, R412, R414). -/

theorem garbled_datagram (hsrc : q.src = 3 ∨ q.src = 4) (hm : q.env.magic ≠ 0x4F44) : garbled s q =
    some { s with dict := { s.dict with malformed := (s.dict.malformed + 1) % 2 ^ 32 } } := by
  have hcan : ¬((q.src = 1 || q.src = 2) && q.env.damaged) = true := by
    obtain h | h := hsrc
    · simp [h]
    · simp [h]
  exact (if_neg hcan).trans (if_pos (by simp [hsrc, hm]))

theorem garbled_frame (hsrc : q.src = 1 ∨ q.src = 2) (hd : q.env.damaged = true) :
    garbled s q = some (canError s (q.src - 1)) := if_pos (by simp [hsrc, hd])

section
variable {cmd : Nat} {act : State → State × Reply}

theorem onRequest_unreachable (hr : reachable s q = false) : onRequest s q cmd i sub act = s := if_pos (by simp [hr])

variable (hr : reachable s q = true)
include hr

theorem onRequest_garbled {u : State} (hg : garbled s q = some u) : onRequest s q cmd i sub act = u := by
  rw [onRequest, if_neg (by simp [hr]), hg]

variable (hg : garbled s q = none)
include hg

theorem onRequest_retry {r : Response} (hk : keptResponse s q = some r) : onRequest s q cmd i sub act =
    emit { s with dict := { s.dict with retries := (s.dict.retries + 1) % 2 ^ 32 } } (.response r) := by
  rw [onRequest, if_neg (by simp [hr]), hg, hk]

variable (hk : keptResponse s q = none)
include hk

theorem onRequest_busy (h0 : q.src ≠ 0) (ha : mostOutstanding q.src ≤ q.env.ahead) :
    onRequest s q cmd i sub act = acked s q cmd i sub stBusy := by
  rw [onRequest, if_neg (by simp [hr]), hg, hk]
  exact if_pos (by simp [h0, ha])

/-- A request within its client's limit is applied, unless its command code is reserved. -/
theorem onRequest_inLimit (ha : q.src = 0 ∨ q.env.ahead < mostOutstanding q.src) : onRequest s q cmd i sub act =
    let a := act { s with store := { s.store with broken := q.env.flashFails } }
    (q.env.reserved.filter fun c => c % 128 = 0 || c % 128 > 7).elim (answer a.1 q cmd i sub a.2)
      fun c => acked s q (c % 128) i sub stReserved := by
  have hfree : ¬(q.src ≠ 0 && q.env.ahead ≥ mostOutstanding q.src) = true := by
    obtain h0 | hlt := ha
    · simp [h0]
    · simp [hlt]
  rw [onRequest, if_neg (by simp [hr]), hg, hk]
  refine (if_neg hfree).trans ?_
  cases q.env.reserved.filter fun c => c % 128 = 0 || c % 128 > 7
  case none => rfl
  case some => rfl

theorem onRequest_reserved (ha : q.src = 0 ∨ q.env.ahead < mostOutstanding q.src) {c : Nat}
    (hc : q.env.reserved = some c) (hres : c % 128 = 0 ∨ 7 < c % 128) :
    onRequest s q cmd i sub act = acked s q (c % 128) i sub stReserved := by
  have hkeep : (q.env.reserved.filter fun c => c % 128 = 0 || c % 128 > 7) = some c := by
    rw [hc, Option.filter_some_pos (by simpa using hres)]
  rw [onRequest_inLimit hr hg hk ha, hkeep]
  rfl
end

/-- A new request is applied to the state as it stands and answered (R408, R414). -/
theorem onRequest_new (h : NewRequest s q) (cmd i sub : Nat) (act : State → State × Reply) :
    onRequest s q cmd i sub act = answer (act s).1 q cmd i sub (act s).2 := by
  obtain ⟨hr, hg, hk, ha, hc, hf⟩ := h
  have hstore : { s with store := { s.store with broken := q.env.flashFails } } = s := by rw [hf]
  rw [onRequest_inLimit hr hg hk ha, hc, hstore]
  rfl

/-! READ and WRITE (R408, R409). -/

section
variable {d : ObjDef} (h : NewRequest s q)
include h

theorem read_next : exec (.read q i sub) s = .next (answer s q 1 i sub (objReply s q.src i sub)) :=
  congrArg Host.Outcome.next (onRequest_new h 1 i sub _)

theorem read_number (hd : objDef i sub = some d) (hl : isLong d = false) (ha : d.acc ≠ .wo) :
    exec (.read q i sub) s = .next (answer s q 1 i sub
      { status := stOk, typ := d.typ, data := natLe (typeBytes d.typ) (objNum s q.src i sub) }) := by
  rw [read_next h, objReply, hd]
  dsimp only
  rw [if_neg (by simp [hl]), if_neg ha]

theorem read_noObject (hd : objDef i sub = none) :
    exec (.read q i sub) s = .next (answer s q 1 i sub { status := stNoObject }) := by
  rw [read_next h, objReply, hd]

variable {typ : Nat} {b : List Byte} (hd : objDef i sub = some d)
include hd

theorem write_next : exec (.write q i sub typ b) s =
    let a := if writable d.acc && mayWrite s q.src && (isLong d || typ ≠ d.typ || b.length ≠ typeBytes d.typ) then
        refuse s stType
      else writeNumber s q.src i sub (leNat b) none []
    .next (acked a.1 q 2 i sub a.2) := by
  refine congrArg Host.Outcome.next ((onWrite_new h 2 i sub _).trans ?_)
  rw [hd]

theorem write_typed (hl : isLong d = false) (ht : typ = d.typ) (hb : b.length = typeBytes d.typ) :
    exec (.write q i sub typ b) s = .next (acked (writeNumber s q.src i sub (leNat b) none []).1 q 2 i sub
      (writeNumber s q.src i sub (leNat b) none []).2) := by
  rw [write_next h hd, if_neg (by simp [hl, ht, hb])]

theorem write_mistyped (hw : writable d.acc = true) (hm : mayWrite s q.src = true)
    (ht : typ ≠ d.typ ∨ b.length ≠ typeBytes d.typ) :
    exec (.write q i sub typ b) s = .next (acked s q 2 i sub stType) := by
  have htype : (isLong d || typ ≠ d.typ || b.length ≠ typeBytes d.typ) = true := by
    obtain ht | ht := ht
    · simp [ht]
    · simp [ht]
  rw [write_next h hd, if_pos (by rw [hw, hm, htype]; rfl)]
  rfl
end

/-! DREAD (R415). -/

/-- A client's copy of an object latched anew. -/
def latchCopy (s : State) (src client k : Nat) (b : List Byte) : State :=
  let u := dropCopy s src client k
  { u with dict := { u.dict with copies := u.dict.copies ++ [(src, client, k, b)] } }

/-- A DREAD at offset 0 latches a copy of what the object holds, and reads from its start. -/
theorem dreadAct_start {d : ObjDef} {src client len : Nat} (hd : objDef i sub = some d) (hl : isLong d = true)
    (ha : d.acc ≠ .wo) (hb : (objBytes s src i sub).length ≤ 2 ^ 20) : dreadAct s src client i sub 0 len =
      (latchCopy s src client (objKey i sub) (objBytes s src i sub),
        { status := stOk, typ := d.typ, offset := 0
          fin := decide ((objBytes s src i sub).length ≤ min len (dreadMax src))
          data := slice (objBytes s src i sub) 0 (min len (dreadMax src)) }) := by
  rw [dreadAct, hd]
  dsimp only
  rw [if_neg (by simp [hl]), if_neg ha, if_pos rfl, if_pos rfl, if_pos hb, Nat.zero_add]
  rfl

/-! Write sessions (R416). -/

/-- The session that a request's client holds on an object. -/
structure OwnSession (s : State) (q : Req) (k : Nat) (x : Session) : Prop where
  entry : smGet s.dict.sessions k = some x
  src : x.src = q.src
  client : x.client = q.client

theorem OwnSession.notHeldByOther {k : Nat} {x : Session} (h : OwnSession s q k x) :
    heldByOther s q.src q.client k = false := by
  rw [heldByOther, h.entry]
  simp [h.src, h.client]

/-- A session of an object that is not streamed ends without any other effect. -/
theorem dropSession_staged (hs : streamed i sub = false) : dropSession s i sub = setSession s (objKey i sub) none :=
  if_neg (by simp [hs])

section
variable {src client total : Nat} (hc : checkLong s src i sub = stOk)
include hc

theorem openSession_held (hh : heldByOther s src client (objKey i sub) = true) :
    openSession s src client i sub total = (s, stBusy) := by
  rw [openSession, if_neg (not_not.2 hc), if_pos hh]
  rfl

theorem openSession_staged (hh : heldByOther s src client (objKey i sub) = false) (hs : streamed i sub = false)
    (hn : total ≤ 2 ^ 20) (h1 : i ≠ 0x1011) (h3 : i < 0x3000 ∨ 0x3020 ≤ i) :
    openSession s src client i sub total = (setSession s (objKey i sub)
      (some { src := src, client := client, total := total, data := [], next := 0 }), stOk) := by
  have hport : ¬(0x3000 ≤ i ∧ i < 0x3020) := by omega
  have hsize : ¬(total > 2 ^ 20 || (i = 0x1011 && total ≠ 128) || (0x3000 ≤ i && i < 0x3020 && total ≠ 512)) = true := by
    simp [h1]
    omega
  rw [openSession, if_neg (not_not.2 hc), if_neg (by simp [hh]), if_neg (by simp [hs]), if_neg hsize]
  rfl
end

section
variable {x : Session} (hx : OwnSession s q (objKey i sub) x)
include hx

/-- A DCOMMIT that its source may no longer make ends the session (R416, R417). -/
theorem commitSession_access {crc : Nat} (hc : checkLong s q.src i sub = stAccess) :
    commitSession s q.src q.client i sub crc = (dropSession s i sub, stAccess) := by
  rw [commitSession, hc, if_pos (by decide)]
  exact if_pos (by simp [hx.entry, hx.notHeldByOther])

variable (hc : checkLong s q.src i sub = stOk) (hs : streamed i sub = false)
include hc hs

theorem writeSession_staged {off : Nat} {b : List Byte} (hb : off + b.length ≤ x.total) :
    writeSession s q.src q.client i sub off b = (setSession s (objKey i sub) (some (putSession x off b)), stOk, 0) := by
  rw [writeSession, if_neg (not_not.2 hc), hx.entry]
  dsimp only
  rw [if_neg (by simp [hx.notHeldByOther]), if_neg (by omega), if_neg (by simp [hs])]

theorem commitSession_whole {crc : Nat} (hn : x.data.length = x.total) : commitSession s q.src q.client i sub crc =
    if crc32 (sessionBytes x) ≠ crc then (s, stCrc)
    else writeBytes (setSession s (objKey i sub) none) q.src i sub (sessionBytes x) := by
  rw [commitSession, if_neg (not_not.2 hc), hx.entry]
  dsimp only
  rw [if_neg (by simp [hx.notHeldByOther]), if_neg (by simp [hs]), if_neg (not_not.2 hn)]
  rfl

theorem abortSession_staged :
    abortSession s q.src q.client i sub = (setSession s (objKey i sub) none, stOk) := by
  rw [abortSession, if_neg (not_not.2 hc), if_neg (by simp [hx.entry]), if_neg (by simp [hx.notHeldByOther]),
    dropSession_staged hs]
  rfl
end

section
variable (h : NewRequest s q)
include h

theorem dread_next {off len : Nat} {u : State} {x : Reply} (ha : dreadAct s q.src q.client i sub off len = (u, x)) :
    exec (.dread q i sub off len) s = .next (answer u q 3 i sub x) := by
  refine congrArg Host.Outcome.next ((onRequest_new h 3 i sub _).trans ?_)
  rw [ha]

theorem dopen_next {total n : Nat} {u : State} (ha : openSession s q.src q.client i sub total = (u, n)) :
    exec (.dopen q i sub total) s = .next (acked u q 4 i sub n) := by
  refine congrArg Host.Outcome.next ((onWrite_new h 4 i sub _).trans ?_)
  rw [ha]

theorem dwrite_next {off n m : Nat} {b : List Byte} {u : State}
    (ha : writeSession s q.src q.client i sub off b = (u, n, m)) :
    exec (.dwrite q i sub off b) s = .next (answer u q 5 i sub { status := n, offset := m }) := by
  refine congrArg Host.Outcome.next ((onRequest_new h 5 i sub _).trans ?_)
  rw [ha]

theorem dcommit_next {crc n : Nat} {u : State} (ha : commitSession s q.src q.client i sub crc = (u, n)) :
    exec (.dcommit q i sub crc) s = .next (acked u q 6 i sub n) := by
  refine congrArg Host.Outcome.next ((onWrite_new h 6 i sub _).trans ?_)
  rw [ha]

theorem dabort_next {n : Nat} {u : State} (ha : abortSession s q.src q.client i sub = (u, n)) :
    exec (.dabort q i sub) s = .next (acked u q 7 i sub n) := by
  refine congrArg Host.Outcome.next ((onWrite_new h 7 i sub _).trans ?_)
  rw [ha]
end

theorem sessionTimeout_staged (he : eyepieceRuns s = true) (hx : (smGet s.dict.sessions (objKey i sub)).isSome = true)
    (hs : streamed i sub = false) :
    exec (.sessionTimeout i sub) s = .next (setSession s (objKey i sub) none) :=
  congrArg Host.Outcome.next ((if_pos (by simp [he, hx])).trans (dropSession_staged hs))

/-- Settles O55: a command by what its request meets, then each by the rule of the operation that it carries. -/
theorem dictionaryRequests : Obligations.DictionaryRequests := by
  intro s q i sub typ n off crc client src cmd b d r x c k live latched opened mine asks heard fresh
  have hreq : asks → ∃ act, exec c s = .next (onRequest s q cmd i sub act) := by
    rintro (⟨rfl, rfl⟩ | ⟨rfl, rfl⟩ | ⟨rfl, rfl⟩ | ⟨rfl, rfl⟩ | ⟨rfl, rfl⟩ | ⟨rfl, rfl⟩ | ⟨rfl, rfl⟩)
    all_goals exact ⟨_, rfl⟩
  have hown : mine → OwnSession s q k x := fun ⟨he, hs, hc⟩ => ⟨he, hs, hc⟩
  refine ⟨fun ⟨ha, hr, hg⟩ hk => ?_, fun u ha hr hg => ?_, garbled_datagram, garbled_frame,
    fun ⟨⟨ha, hr, hg⟩, hk⟩ h0 hmost => ?_, fun x ⟨⟨ha, hr, hg⟩, hk⟩ hmost hc hres => ?_, fun ha hr => ?_,
    read_number, read_noObject, fun h hd hl => write_typed h hd hl, fun h hd hw hm _ => write_mistyped h hd hw hm,
    fun h hd hl ha hb => dread_next h (dreadAct_start hd hl ha hb),
    fun h hc hh hs hn h1 h3 => dopen_next h (openSession_staged hc hh hs hn h1 h3),
    fun h hc hh => dopen_next h (openSession_held hc hh),
    fun h hc hx hs hb => dwrite_next h (writeSession_staged (hown hx) hc hs hb),
    fun h hc hx hs hn he => dcommit_next h ((commitSession_whole (hown hx) hc hs hn).trans (if_neg (not_not.2 he))),
    fun h hc hx hs hn he => dcommit_next h ((commitSession_whole (hown hx) hc hs hn).trans (if_pos he)),
    fun h hc hx => dcommit_next h (commitSession_access (hown hx) hc),
    fun h hc hx hs => dabort_next h (abortSession_staged (hown hx) hc hs), sessionTimeout_staged, rfl⟩
  all_goals obtain ⟨act, e⟩ := hreq ha
  · exact e.trans (congrArg Host.Outcome.next (onRequest_retry hr hg hk))
  · exact e.trans (congrArg Host.Outcome.next (onRequest_garbled hr hg))
  · exact e.trans (congrArg Host.Outcome.next (onRequest_busy hr hg hk h0 hmost))
  · exact e.trans (congrArg Host.Outcome.next (onRequest_reserved hr hg hk hmost hc hres))
  · exact e.trans (congrArg Host.Outcome.next (onRequest_unreachable hr))

end Sys2Proof.Proofs
end

section
/-! PROOFS. What the dictionary keeps per source: selections and the copies that DREAD latches (R407, R415). -/

namespace Sys2Proof.Proofs

open Sys2Proof.Machine Sys2Proof.Laws

variable {s : State} {q : Req} {i sub : Nat}

/-! Selections (R407). -/

/-- The objects kept per dictionary source. -/
abbrev KeptPerSource (i sub : Nat) : Prop := (i = 0x1031 ∧ sub = 1) ∨ (i = 0x6000 ∧ sub = 3) ∨ (i = 0x6100 ∧ sub = 0x10)

theorem selection_setSelection_same (src v : Nat) : selection (setSelection s src i sub v) src i sub = v := by
  simp [selection, setSelection, smGetD]

/-- A source of R282 keeps what it selected, of every object, when another one selects. -/
theorem selection_setSelection_other {src other : Nat} (hs : src < 8) (ho : other < 8) (hne : other ≠ src)
    (v j n : Nat) : selection (setSelection s src i sub v) other j n = selection s other j n := by
  have hkey : objKey j n * 8 + other ≠ objKey i sub * 8 + src := by omega
  simp [selection, setSelection, smGetD, hkey]

section
variable (h : KeptPerSource i sub)
include h

theorem objNum_selection (src : Nat) : objNum s src i sub = selection s src i sub := by
  obtain ⟨rfl, rfl⟩ | ⟨rfl, rfl⟩ | ⟨rfl, rfl⟩ := h
  all_goals rfl

theorem isRws_selection : isRws i sub = false := by
  obtain ⟨rfl, rfl⟩ | ⟨rfl, rfl⟩ | ⟨rfl, rfl⟩ := h
  all_goals decide

theorem isLong_selection {d : ObjDef} (hd : objDef i sub = some d) : isLong d = false := by
  have hall : (objDef i sub).all (fun d => !isLong d) = true := by
    obtain ⟨rfl, rfl⟩ | ⟨rfl, rfl⟩ | ⟨rfl, rfl⟩ := h
    all_goals decide
  simpa [hd] using hall

theorem writeVolatile_selection (src v : Nat) :
    writeVolatile s src i sub v none [] = (setSelection s src i sub v, stOk) := by
  obtain ⟨rfl, rfl⟩ | ⟨rfl, rfl⟩ | ⟨rfl, rfl⟩ := h
  all_goals rfl

theorem write_selection {b : List Byte} {d : ObjDef} (hd : objDef i sub = some d) (hb : b.length = typeBytes d.typ)
    (hw : NewWrite s q i sub (leNat b)) : exec (.write q i sub d.typ b) s =
      .next (acked (setSelection s q.src i sub (leNat b)) q 2 i sub stOk) := by
  obtain ⟨hnew, hok⟩ := hw
  have hnum : writeNumber s q.src i sub (leNat b) none [] = (setSelection s q.src i sub (leNat b), stOk) := by
    rw [writeNumber, hok, if_neg (by decide), isRws_selection h, if_neg Bool.false_ne_true, writeVolatile_selection h]
  rw [write_typed hnew hd (isLong_selection h hd) rfl hb, hnum]
end

/-! Latched copies (R415). -/

section
variable {src client k : Nat}

theorem copyOf_congr {u : State} (h : u.dict.copies = s.dict.copies) : copyOf u src client k = copyOf s src client k := by
  rw [copyOf, copyOf, h]

theorem copyOf_answer (cmd : Nat) (x : Reply) : copyOf (answer s q cmd i sub x) src client k = copyOf s src client k := by
  unfold answer
  split
  · rfl
  · rfl

/-- No frame or datagram that is no request touches a copy. -/
theorem copyOf_garbled {u : State} (h : garbled s q = some u) : copyOf u src client k = copyOf s src client k := by
  unfold garbled at h
  split at h
  · cases h
    exact copyOf_congr rfl
  · split at h
    · cases h
      rfl
    · cases h

/-- A request keeps a copy that its act keeps. -/
theorem copyOf_onRequest {cmd : Nat} {act : State → State × Reply}
    (hact : ∀ u, copyOf (act u).1 src client k = copyOf u src client k) :
    copyOf (onRequest s q cmd i sub act) src client k = copyOf s src client k := by
  unfold onRequest
  split
  · rfl
  · split
    next hg => exact copyOf_garbled hg
    next =>
      split
      next => rfl
      next =>
        split
        · exact copyOf_answer _ _
        · split
          next => exact copyOf_answer _ _
          next => exact (copyOf_answer _ _).trans (hact _)

variable {owner holder key : Nat} (hne : src ≠ owner)
include hne

theorem copyOf_dropCopy : copyOf (dropCopy s owner holder key) src client k = copyOf s src client k := by
  have hpass (e : Nat × Nat × Nat × List Byte) : (!(e.1 = owner && e.2.1 = holder && e.2.2.1 = key) &&
      (e.1 = src && e.2.1 = client && e.2.2.1 = k)) = (e.1 = src && e.2.1 = client && e.2.2.1 = k) := by
    by_cases he : e.1 = src
    · simp [he, hne]
    · simp [he]
  simp only [copyOf, dropCopy, List.find?_filter, Bool.decide_and, Bool.decide_eq_true, hpass]

theorem copyOf_latchCopy (b : List Byte) :
    copyOf (latchCopy s owner holder key b) src client k = copyOf s src client k := by
  have hlast : [(owner, holder, key, b)].find? (fun e => e.1 = src && e.2.1 = client && e.2.2.1 = k) = none := by
    simp [hne.symm]
  refine Eq.trans ?_ (copyOf_dropCopy (holder := holder) (key := key) hne)
  simp only [copyOf, latchCopy, List.find?_append, hlast, Option.or_none]

theorem copyOf_dreadAct (off len : Nat) :
    copyOf (dreadAct s owner holder i sub off len).1 src client k = copyOf s src client k := by
  unfold dreadAct
  split
  next => rfl
  next d _ =>
    dsimp only
    split
    · rfl
    · split
      · rfl
      · dsimp only
        split
        · split
          · exact copyOf_latchCopy hne _
          · exact copyOf_dropCopy hne
        · rfl
end

/-- Settles O56: a selection's key holds its source, and a DREAD drops and latches copies of its own source only. -/
theorem selectionsPerSource : Obligations.SelectionsPerSource := by
  intro s q i sub src client k off len b d kept w
  refine ⟨fun hk hd hb hw => ⟨write_selection hk hd hb hw, selection_setSelection_same _ _, fun hq hs hne j n =>
      selection_setSelection_other (by omega) (by omega) hne _ j n⟩,
    fun hk => objNum_selection hk src, fun hne => ⟨_, rfl, copyOf_onRequest fun u => copyOf_dreadAct hne off len⟩⟩

end Sys2Proof.Proofs
end

section
/-! PROOFS. What every command keeps of fuses, queue and output, that each has a next state, and the reset state's invariant
(R452, R453). -/

namespace Sys2Proof.Proofs

open Sys2Proof.Machine Sys2Proof.Laws

/-- Settles O3: at reset memory and the maps are empty, and no image key slot is revoked. -/
theorem resetMeetsInvariant : Obligations.ResetMeetsInvariant where
  mem := rfl
  regions := rfl
  tiles := rfl
  keys := by decide

/-- Settles O5: the fuses are part of what every command keeps. -/
theorem fusesOnlyBurn : Obligations.FusesOnlyBurn := by
  intro c s t hnext
  obtain ⟨hcounter, himage, -, hbundle, hkeys⟩ := (exec_keeps c s t hnext).fuses
  exact ⟨hcounter, himage, hbundle, hkeys⟩

/-- Settles O6: queue and output are part of what every command keeps. -/
theorem commandsLeaveQueueAndOutput : Obligations.CommandsLeaveQueueAndOutput := by
  intro c s t hnext
  have hkeeps : Keeps s t := exec_keeps c s t hnext
  exact ⟨hkeeps.queue, hkeeps.out⟩

/-- Settles O7: the meaning of every command is a next state, whatever case it takes within. -/
theorem everyCommandHasNextState : Obligations.EveryCommandHasNextState := by
  intro c s
  cases c
  all_goals exact ⟨_, rfl⟩

end Sys2Proof.Proofs
end

section
/-! PROOFS. Values committed whole, and firmware updates (R416, R442, R459, R460). -/

namespace Sys2Proof.Proofs

open Sys2Proof.Machine Sys2Proof.Laws

variable {s : State} {q : Req} {u : State} {m : Nat}

/-- A new request may write the whole value of a STRING or DOMAIN object, on which no other client holds a session (R409, R416). -/
abbrev WholeValue (s : State) (q : Req) (i sub : Nat) : Prop :=
  NewRequest s q ∧ checkLong s q.src i sub = stOk ∧ heldByOther s q.src q.client (objKey i sub) = false

theorem commitReq_next {i sub : Nat} {b : List Byte} (h : WholeValue s q i sub) (hb : b.length ≤ 2 ^ 20)
    (hw : writeBytes (setSession s (objKey i sub) none) q.src i sub b = (u, m)) :
    commitReq s q i sub b = acked u q 6 i sub m := by
  obtain ⟨hnew, hcheck, hfree⟩ := h
  have hwhole : commitWhole s q.src q.client i sub b = (u, m) := by
    rw [commitWhole, if_neg (not_not.2 hcheck), if_neg (by simp [hfree]), if_neg (by omega), hw]
  rw [commitReq, onWrite_new hnew, hwhole]

/-! Commands written to 0x2320.01 (R459). -/

/-- The update has no owner yet, or this source. -/
abbrev OwnsUpdate (s : State) (src : Nat) : Prop := s.boot.owner = none ∨ s.boot.owner = some src

/-- The owner passes the test with which `updateCommand` and `writeChunk` begin. -/
theorem owner_notForeign {src : Nat} (ho : OwnsUpdate s src) :
    ¬(match s.boot.owner with | some o => decide (o ≠ src) | none => false) = true := by
  obtain h | h := ho
  · simp [h]
  · simp [h]

theorem writeReq_update {n : Nat} (h : NewWrite s q 0x2320 1 n) (hc : updateCommand s q.src n = (u, m)) :
    writeReq s q 0x2320 1 n = acked u q 2 0x2320 1 m := by
  have hv : writeVolatile s q.src 0x2320 1 n none [] = (u, m) := hc
  rw [writeReq_volatile h (by decide), hv]

theorem setUpdate_boot (n reason : Nat) : (setUpdate s n reason).boot =
    { s.boot with update := n, owner := if n = upIdle then none else s.boot.owner } := logEvent_boot _ _ _ _ _

theorem setUpdate_mem (n reason : Nat) : (setUpdate s n reason).mem = s.mem := logEvent_mem _ _ _ _ _

theorem setUpdate_tiles (n reason : Nat) : (setUpdate s n reason).tiles = s.tiles := logEvent_tiles _ _ _ _ _

/-- The state of an update that its owner has begun: the target erased, the write offset at its start. -/
def beginUpdate (s : State) (src : Nat) : State :=
  let u := setUpdate (eraseImage s (updateTarget s)) upErasing 0
  { u with boot := { u.boot with owner := some src, target := updateTarget s, writeOff := 0 } }

theorem beginUpdate_boot (src : Nat) : (beginUpdate s src).boot = { (eraseImage s (updateTarget s)).boot with
    update := 1, owner := some src, writeOff := 0, target := updateTarget s } := by
  unfold beginUpdate
  dsimp only
  rw [setUpdate_boot]
  rfl

theorem updateCommand_foreign {src cmd o : Nat} (ho : s.boot.owner = some o) (hne : o ≠ src) :
    updateCommand s src cmd = (s, stBusy) := by
  have hforeign : (match s.boot.owner with | some o => decide (o ≠ src) | none => false) = true := by simp [ho, hne]
  exact if_pos hforeign

section
variable {src : Nat} (ho : OwnsUpdate s src)
include ho

theorem updateCommand_begin (hu : s.boot.update = 0 ∨ s.boot.update = 5) :
    updateCommand s src 1 = (beginUpdate s src, stOk) :=
  (if_neg (owner_notForeign ho)).trans (if_pos (by simpa [upIdle, upFailed] using hu))

theorem updateCommand_begin_refused (h0 : s.boot.update ≠ 0) (h5 : s.boot.update ≠ 5) :
    updateCommand s src 1 = (s, stState) :=
  (if_neg (owner_notForeign ho)).trans (if_neg (by simp [upIdle, upFailed, h0, h5]))

theorem updateCommand_fetch (hu : s.boot.update = 2)
    (hn : s.boot.writeOff + dnum s 0x2320 5 0 ≤ partitionBytes) :
    updateCommand s src 6 = (putTarget { s with free := s.free + 1 } ((List.range (dnum s 0x2320 5 0)).map fun i =>
      Config.companionByte s.free (dnum s 0x2320 4 0 + i)), stOk) :=
  (if_neg (owner_notForeign ho)).trans
    ((if_neg (by simp [upReceiving, hu])).trans (if_neg (Nat.not_lt.2 hn)))

theorem updateCommand_verify (hu : s.boot.update = 2) :
    updateCommand s src 2 = (setUpdate s upVerifying 0, stOk) :=
  (if_neg (owner_notForeign ho)).trans (if_pos (by simp [upReceiving, hu]))

theorem updateCommand_activate (hu : s.boot.update = 4) :
    updateCommand s src 3 = (setUpdate { s with boot := { s.boot with
      oldPreferred := s.boot.preferred, preferred := updateTarget s, trial := 1 } } upActivated 0, stOk) :=
  (if_neg (owner_notForeign ho)).trans (if_pos (by simp [upVerified, hu]))

/-- A commit's effect: the counter raised to the image's security version, the raise logged, the trial over (R453, R460). -/
theorem updateCommand_commit (hu : s.boot.update = 0) (ht : s.boot.trial = 3)
    (hb : s.boot.booted = s.boot.preferred + 1) :
    ∃ v, updateCommand s src 4 = (v, stOk) ∧
      v.boot = { s.boot with counter := max s.boot.counter (min 128 s.boot.secVersion), trial := 0 } := by
  refine ⟨_, (if_neg (owner_notForeign ho)).trans (if_pos (by simp [upIdle, hu, ht, hb])), ?_⟩
  split
  · exact logEvent_boot _ _ _ _ _
  · rfl

theorem updateCommand_cancel (hu : s.boot.update = 2 ∨ s.boot.update = 4 ∨ s.boot.update = 5) :
    updateCommand s src 5 = (setUpdate s upIdle 0, stOk) := by
  have hlisted : [upReceiving, upVerified, upFailed, upActivated].contains s.boot.update = true := by
    obtain h | h | h := hu
    all_goals simp [upReceiving, upVerified, upFailed, upActivated, h]
  have h6 : s.boot.update ≠ upActivated := by rw [upActivated]; omega
  refine (if_neg (owner_notForeign ho)).trans ((if_pos hlisted).trans ?_)
  rw [if_neg h6]
  rfl

theorem updateCommand_cancel_activated (hu : s.boot.update = 6) :
    updateCommand s src 5 = (setUpdate { s with boot := { s.boot with
      preferred := s.boot.oldPreferred, trial := 0 } } upIdle 0, stOk) := by
  refine (if_neg (owner_notForeign ho)).trans
    ((if_pos (by simp [upReceiving, upVerified, upFailed, upActivated, hu])).trans ?_)
  rw [if_pos (by rw [upActivated, hu])]
  rfl
end

/-! Bytes into the target's partition (R459). -/

/-- The bytes of the image partition that an update of `s` writes, as `v` holds them. -/
def targetBytes (s v : State) : SMap Byte := (if updateTarget s = 0 then v.boot.imageA else v.boot.imageB).bytes

section
variable (bs : List Byte)

theorem putTarget_writeOff : (putTarget s bs).boot.writeOff = s.boot.writeOff + bs.length := by
  unfold putTarget
  by_cases h : updateTarget s = 0
  · simp only [if_pos h]
  · simp only [if_neg h]

theorem putTarget_update : (putTarget s bs).boot.update = s.boot.update := by
  unfold putTarget
  by_cases h : updateTarget s = 0
  · simp only [if_pos h]
  · simp only [if_neg h]

theorem putTarget_targetBytes : targetBytes s (putTarget s bs) =
    bs.zipIdx.foldl (fun m e => smSet m (s.boot.writeOff + e.2) e.1) (targetBytes s s) := by
  unfold putTarget targetBytes
  by_cases h : updateTarget s = 0
  · simp only [if_pos h]
  · simp only [if_neg h]

variable {bs} {src : Nat}

theorem writeChunk_taken (ho : OwnsUpdate s src) (hu : s.boot.update = 2)
    (hn : s.boot.writeOff + bs.length ≤ partitionBytes) : writeChunk s src bs = (putTarget s bs, stOk) :=
  (if_neg (owner_notForeign ho)).trans
    ((if_neg (not_not.2 hu)).trans (if_neg (Nat.not_lt.2 hn)))
end

theorem updateEraseDone_next (he : eyepieceRuns s = true) (hu : s.boot.update = 1) :
    exec .updateEraseDone s = .next (setUpdate s upReceiving 0) :=
  congrArg Host.Outcome.next (if_pos (by simp [he, hu, upErasing]))

/-- A verification ends with the image's reason recorded, and with it VERIFIED or FAILED (R442, R459). -/
theorem updateVerifyDone_next {fails : List Nat} (he : eyepieceRuns s = true) (hu : s.boot.update = 3) :
    exec (.updateVerifyDone fails) s =
      let why := imageReason s (updateTarget s) fails
      let checked := { s with boot := { s.boot with verifyReason := why } }
      .next (if why = 0 then logEvent { checked with boot := { checked.boot with update := 4 } } 0x080A 0 4 0
        else logEvent { checked with boot := { checked.boot with update := 5 } } 0x080A 2 5 why) := by
  refine congrArg Host.Outcome.next ((if_pos (by simp [he, hu, upVerifying])).trans ?_)
  dsimp only
  by_cases hwhy : imageReason s (updateTarget s) fails = 0
  · rw [hwhy]
    rfl
  · rw [if_neg hwhy, if_neg hwhy]
    rfl

theorem imageChunkWrite_taken {chunk : List Byte} (h : WholeValue s q 0x2320 3) (hb : chunk.length ≤ 2 ^ 20)
    (ho : OwnsUpdate s q.src) (hu : s.boot.update = 2) (hn : s.boot.writeOff + chunk.length ≤ partitionBytes) :
    exec (.imageChunkWrite q chunk) s =
      .next (acked (putTarget (setSession s (objKey 0x2320 3) none) chunk) q 6 0x2320 3 stOk) :=
  congrArg Host.Outcome.next (commitReq_next h hb (writeChunk_taken (s := setSession s _ none) ho hu hn))

/-- Settles O59: each command of 0x2320.01 by its case, a chunk and the ends of erasing and verifying by their lemmas. -/
theorem firmwareUpdates : Obligations.FirmwareUpdates := by
  intro s q chunk fails b asks n idle why checked part ok
  have hasked {c : Nat} {v : State} (h : asks c) (hc : OwnsUpdate s q.src → updateCommand s q.src c = (v, stOk)) :
      (.next (writeReq s q 0x2320 1 c) : Res) = .next (ok v) := congrArg _ (writeReq_update h.1 (hc h.2))
  refine ⟨fun h hu => ⟨_, hasked h fun ho => updateCommand_begin ho hu, beginUpdate_boot _, setUpdate_mem _ _,
      setUpdate_tiles _ _⟩,
    fun h h0 h5 => congrArg _ (writeReq_update h.1 (updateCommand_begin_refused h.2 h0 h5)),
    fun o h ho hne => congrArg _ (writeReq_update h (updateCommand_foreign ho hne)), updateEraseDone_next,
    fun h hc hh hb ho hu hn => ⟨_, imageChunkWrite_taken ⟨h, hc, hh⟩ hb ho hu hn, putTarget_writeOff chunk,
      putTarget_targetBytes chunk, (putTarget_update chunk).trans hu, rfl⟩,
    fun h hu hn => hasked h fun ho => updateCommand_fetch ho hu hn,
    fun h hu => hasked h fun ho => updateCommand_verify ho hu, updateVerifyDone_next,
    fun h hu => ⟨_, hasked h fun ho => updateCommand_activate ho hu, ?_⟩, fun h hu ht hb => ?_,
    fun h hu => hasked h fun ho => updateCommand_cancel ho hu,
    fun h hu => hasked h fun ho => updateCommand_cancel_activated ho hu⟩
  · rw [setUpdate_boot, setUpdate_mem]
    exact ⟨rfl, rfl, rfl, rfl, rfl⟩
  · obtain ⟨v, hv, hboot⟩ := updateCommand_commit h.2 hu ht hb
    exact ⟨v, hasked h fun _ => hv, by rw [hboot], by rw [hboot], by rw [hboot]⟩

end Sys2Proof.Proofs
end

section
/-! PROOFS. Key slots, attestation and the debug unlock (R453 to R457). -/

namespace Sys2Proof.Proofs

open Sys2Proof.Machine Sys2Proof.Laws

variable {s : State} {q : Req} {k : Nat}

/-! Image key slots (R453). -/

theorem writeReq_revokeImage {u : State} {m : Nat} (h : NewWrite s q 0x2310 3 k) (hk : revokeImage s k = (u, m)) :
    writeReq s q 0x2310 3 k = acked u q 2 0x2310 3 m := by
  have hv : writeVolatile s q.src 0x2310 3 k none [] = (u, m) := hk
  rw [writeReq_volatile h (by decide), hv]

theorem revokeImageKey_revoked (h : NewWrite s q 0x2310 3 k) (hrun : s.boot.booted = 0 ∨ s.boot.keySlot ≠ k)
    (hk : s.boot.imgRevoked.getLsbD k = false)
    (hleft : ∃ n, n < 4 ∧ n ≠ k ∧ s.boot.imgRevoked.getLsbD n = false) :
    exec (.revokeImageKey q k) s = .next (acked (logEvent { s with
      boot := { s.boot with imgRevoked := s.boot.imgRevoked ||| BitVec.twoPow 4 k } } 0x0808 1 0 k) q 2 0x2310 3 stOk) := by
  obtain ⟨n, hn, hne, hfree⟩ := hleft
  have hother : ¬((List.range 4).filter fun n => !s.boot.imgRevoked.getLsbD n) = [k] := fun honly => by
    have hmem : n ∈ (List.range 4).filter fun n => !s.boot.imgRevoked.getLsbD n := by simpa [hn] using hfree
    rw [honly] at hmem
    exact hne (List.mem_singleton.1 hmem)
  have hidle : ¬(s.boot.booted ≠ 0 && s.boot.keySlot = k) = true := by
    obtain h0 | hs := hrun
    · simp [h0]
    · simp [hs]
  exact congrArg Host.Outcome.next (writeReq_revokeImage h
    ((if_neg hidle).trans ((if_neg hother).trans (if_neg (by simp [hk])))))

theorem revokeImageKey_running (h : NewWrite s q 0x2310 3 k) (hb : s.boot.booted ≠ 0) (hs : s.boot.keySlot = k) :
    exec (.revokeImageKey q k) s = .next (acked s q 2 0x2310 3 stState) :=
  congrArg Host.Outcome.next (writeReq_revokeImage h (if_pos (by simp [hb, hs])))

/-! Bundle key slots (R457). -/

section
variable (hk : k < 8)
include hk

theorem isRws_bundleKey : isRws (0x2350 + k) 4 = false := by
  have hall : ∀ k < 8, isRws (0x2350 + k) 4 = false := by decide
  exact hall k hk

theorem writeVolatile_bundleKey (s : State) (src v : Nat) (image : Option Bundle) (peers : List PeerReport) :
    writeVolatile s src (0x2350 + k) 4 v image peers = revokeKey s k := by
  unfold writeVolatile
  split
  case h_18 => rw [if_pos (by omega), Nat.add_sub_cancel_left]
  all_goals omega

theorem writeBytes_bundleKey (s : State) (src : Nat) (b : List Byte) :
    writeBytes s src (0x2350 + k) 2 b = programKey s k b := by
  unfold writeBytes
  split
  case h_7 => rw [if_pos (by omega), Nat.add_sub_cancel_left]
  all_goals omega

theorem programBundleKey_next {hash : List Byte} {u : State} {m : Nat} (h : WholeValue s q (0x2350 + k) 2)
    (hl : hash.length = 48) (hp : programKey (setSession s (objKey (0x2350 + k) 2) none) k hash = (u, m)) :
    exec (.programBundleKey q k hash) s = .next (acked u q 6 (0x2350 + k) 2 m) := by
  refine congrArg Host.Outcome.next ?_
  rw [member, if_pos hk, commitReq_next h (by omega) ((writeBytes_bundleKey hk _ _ _).trans hp)]

theorem revokeBundleKey_next {u : State} {m : Nat} (h : NewWrite s q (0x2350 + k) 4 1) (hr : revokeKey s k = (u, m)) :
    exec (.revokeBundleKey q k) s = .next (acked u q 2 (0x2350 + k) 4 m) := by
  refine congrArg Host.Outcome.next ?_
  rw [member, if_pos hk, writeReq_volatile h (isRws_bundleKey hk), writeVolatile_bundleKey hk, hr]
end

theorem programKey_locked (hash : List Byte) (hp : s.boot.perms.getLsbD 3 = false) :
    programKey s k hash = (s, stLocked) := if_pos (by rw [hp]; rfl)

theorem revokeKey_locked (hp : s.boot.perms.getLsbD 3 = false) : revokeKey s k = (s, stLocked) := if_pos (by rw [hp]; rfl)

section
variable (hp : s.boot.perms.getLsbD 3 = true)
include hp

theorem revokeKey_revoked (hk : s.boot.bdlRevoked.getLsbD k = false) : revokeKey s k = (logEvent { s with boot := { s.boot with
    bdlRevoked := s.boot.bdlRevoked ||| BitVec.twoPow 8 k } } 0x0808 1 1 k, stOk) :=
  (if_neg (by simp [hp])).trans (if_neg (by simp [hk]))

variable {hash : List Byte} (hl : hash.length = 48)
include hl

theorem programKey_empty (hk : s.boot.bundleKeys[k]? = some none) : programKey s k hash =
    ({ s with boot := { s.boot with bundleKeys := s.boot.bundleKeys.set k (some hash) } }, stOk) :=
  (if_neg (by simp [hp])).trans ((if_neg (not_not.2 hl)).trans
    (if_neg (by rw [List.getD_eq_getElem?_getD, hk]; decide)))

theorem programKey_programmed {old : List Byte} (hk : s.boot.bundleKeys[k]? = some (some old)) :
    programKey s k hash = (s, stState) :=
  (if_neg (by simp [hp])).trans ((if_neg (not_not.2 hl)).trans
    (if_pos (by rw [List.getD_eq_getElem?_getD, hk]; rfl)))
end

/-- A bundle signed by a revoked key slot fails its check (R457). -/
theorem signatureGood_revoked {g : Bundle} {x : BundleSig} (hx : g.signature = some x)
    (hr : s.boot.bdlRevoked.getLsbD (fld x.header 4 1) = true) : signatureGood s g = false := by
  unfold signatureGood
  rw [hx]
  simp [hr]

/-! Attestation (R454). -/

theorem attestationNonce_next {nonce : List Byte} (h : WholeValue s q 0x2330 1) (ha : s.boot.attest ≠ 1)
    (hl : nonce.length = 32) : exec (.attestationNonce q nonce) s =
      let u := setSession s (objKey 0x2330 1) none
      .next (acked { u with boot := { s.boot with attest := 1, nonce := nonce } } q 6 0x2330 1 stOk) :=
  congrArg Host.Outcome.next (commitReq_next h (by omega) ((if_neg ha).trans (if_neg (not_not.2 hl))))

theorem attestationReady_next (he : eyepieceRuns s = true) (ha : s.boot.attest = 1) :
    exec .attestationReady s = .next { s with boot := { s.boot with
      attest := 2
      attestReport := attestBody s ++ padTo 16608 (Config.identitySign Config.identitySeed (attestBody s)) } } :=
  congrArg Host.Outcome.next (if_pos (by simp [he, ha]))

/-! The debug unlock (R455). -/

theorem debugToken_next {token : List Byte} (h : WholeValue s q 0x2340 2) (hl : token.length ≤ 2 ^ 20) :
    ∃ u, exec (.debugToken q token) s = .next (acked u q 6 0x2340 2 (if tokenGood s token then stOk else stRange)) ∧
      u.boot = { s.boot with
        challenge := freshBytes s.free 32
        perms := if tokenGood s token then BitVec.ofNat 32 (fld token 0xC 4) else s.boot.perms } ∧ u.mem = s.mem :=
  ⟨_, congrArg Host.Outcome.next (commitReq_next h hl rfl), logEvent_boot _ _ _ _ _, logEvent_mem _ _ _ _ _⟩

theorem debugUnlockEnd_next (h : NewWrite s q 0x2340 4 1) (hp : s.boot.perms ≠ 0) :
    exec (.debugUnlockEnd q) s =
      .next (acked (logEvent { s with boot := { s.boot with perms := 0 } } 0x0807 1 s.boot.perms.toNat 0) q 2 0x2340 4 stOk) := by
  have hv : writeVolatile s q.src 0x2340 4 1 none [] = accept (endUnlock s) := rfl
  refine congrArg Host.Outcome.next ?_
  rw [writeReq_volatile h (by decide), hv, endUnlock, if_neg hp]
  rfl

/-- Settles O60: each command by its lemma, a bundle key slot by the permission and by what it holds. -/
theorem fusesAttestationAndDebug : Obligations.FusesAttestationAndDebug := by
  intro s q k hash nonce token b whole key closed
  refine ⟨revokeImageKey_revoked, revokeImageKey_running,
    fun hk h hp hl he => programBundleKey_next hk h hl (programKey_empty (s := setSession s _ none) hp hl he),
    fun _ hk h hp hl ho => programBundleKey_next hk h hl (programKey_programmed (s := setSession s _ none) hp hl ho),
    fun hk h hp hl => programBundleKey_next hk h hl (programKey_locked hash hp),
    fun hk h hp hr => revokeBundleKey_next hk h (revokeKey_revoked hp hr),
    fun hk h hp => revokeBundleKey_next hk h (revokeKey_locked hp), fun _ _ => signatureGood_revoked,
    attestationNonce_next, attestationReady_next, fun h hl => ?_, debugUnlockEnd_next⟩
  obtain ⟨u, hu, hboot, hmem⟩ := debugToken_next h hl
  exact ⟨u, hu, by rw [hboot], by rw [hboot], hmem⟩

end Sys2Proof.Proofs
end
